-- ==== Sys2Proof/Word.lean ====
section
/-! DEFINITION. Word types and the plainest helpers on them (R2, R93, R95): the widths the manual names, and little-endian
bytes. Everything a test could show wrong about an instruction stands in Sys2Proof/Machine/. -/

namespace Sys2Proof

/-- A byte of memory. -/
abbrev Byte := BitVec 8

/-- One lane of a vector register, R11. -/
abbrev Lane32 := BitVec 32

/-- A scalar register, an instruction word or an address, R26, R55. -/
abbrev Word := BitVec 64

/-- A finite map with a default: a list of key and value pairs, keys strictly rising, no value equal to the default
(Machine/Map.lean gives its operations). -/
abbrev SMap (V : Type) := List (Nat × V)

/-- The lanes of a group, R11. -/
def laneList : List Nat := List.range 32

/-- Bit `n` of a word, false above its width. -/
def bit {w : Nat} (x : BitVec w) (n : Nat) : Bool := x.getLsbD n

/-- Bits `[hi:lo]` of a natural number. -/
def natBits (x lo len : Nat) : Nat := x / 2 ^ lo % 2 ^ len

/-- The `n` little-endian bytes of `x`, R2. -/
def bytesOfNat (n x : Nat) : List Byte := (List.range n).map fun k => BitVec.ofNat 8 (x / 256 ^ k)

/-- The number whose little-endian bytes are given, R2. -/
def natOfBytes : List Byte → Nat
  | [] => 0
  | b :: bs => b.toNat + 256 * natOfBytes bs

end Sys2Proof
end

