-- ==== Sys2Proof/Config.lean ====
section
/-! DEFINITION. What the manual leaves open as free values (opaque constants without a body: nothing can be proved of them),
and the fixed figures of the JX-T880-768 that the meanings use. -/

namespace Sys2Proof.Config

/-- A free natural number for each value of the counter `State.freeCtr` (log 9). -/
opaque freeNat : Nat → Nat

/-- A free byte for each value of the counter `State.freeCtr` and an offset (log 9): bytes that the manual calls undefined. -/
opaque freeByte : Nat → Nat → Byte

/-- A free 32-bit value for each value of the counter and an index (log 9). -/
opaque freeLane : Nat → Nat → Lane32

/-- A free 64-bit value for each value of the counter and an index (log 9). -/
opaque freeWord : Nat → Nat → Word

/-- Which of the results within the bound of R129 the transcendental unit delivers: a function of the opcode, the input, FTZ
and FTZI alone, as R129 says (log 8). -/
opaque transPick : BitVec 8 → Lane32 → Bool → Bool → Nat

/-- Physical addresses below this are device memory, 768 GiB (R294). -/
def deviceMemTop : Nat := 0xC000000000

/-- Physical addresses from here up are the host window (R294). -/
def hostWindow : Nat := 0x8000000000000

/-- Compute dies, clusters, cores a cluster, group slots a core (R8, R15, R17). -/
def dies : Nat := 8
def clusters : Nat := 16
def coresPerCluster : Nat := 128
def slotsPerCore : Nat := 32

/-- Vector registers of a core's register file (R15). -/
def vregsPerCore : Nat := 1024

/-- Scratchpad bytes, accumulator banks and barrier records of a core (R15). -/
def scratchPerCore : Nat := 262144
def banksPerCore : Nat := 32
def recordsPerCore : Nat := 64

/-- Steps after which a ready arm goes before handler arms in the default order: R199 bounds its wait and gives no figure (log 4). -/
def issueBound : Nat := 64

/-- Active groups of a core (R192). -/
def activeMax : Nat := 8

/-- Bytes of the A and B FIFOs (R401). -/
def fifoABytes : Nat := 131072
def fifoBBytes : Nat := 65536

/-- Bytes of the buffer for eager payloads, which the driver sizes (R372): any size. -/
opaque eagerBuffer : Nat

/-- Where the save engine places the image of a virtual core within a save area, in units of 768 KiB, and the sectors an image fills
(R455 leaves both to it, log 11). -/
opaque imageSlot : Nat → Nat
opaque imageSects : Nat → Nat

/-- The estimated core energy of one issue, in the unit of the allowances (R480 names none, log 16). -/
opaque energy : Nat → Nat

/-- The flits that a transmission over a scale-up plane takes (R486, R487 name no size, log 9). -/
opaque flits : Nat → Nat

/-- The DRAM row of an address within a memory chiplet, and the bank of that row, R495; the manual gives no layout (log 12). -/
opaque dramRow : Nat → Nat
opaque dramBank : Nat → Nat

/-- Publisher and subscriber entries of a core (R15), and subscribers of a region (R382). -/
def subEntries : Nat := 64
def regionSubs : Nat := 16

/-- Hook capacities (R372) and check-table records of a chiplet (R303). -/
def postedMax : Nat := 65536
def unexpectedMax : Nat := 32768
def checkRecords : Nat := 65536

/-- Ways of a memory-side cache (R296). -/
def homeWays : Nat := 16

/-- Words of an instruction cache of 32 KiB (R15). -/
def icacheWords : Nat := 4096

/-- Lines of an L1 (R241) and sectors of a dirty list (R274). -/
def l1Lines : Nat := 256
def dirtyList : Nat := 4096

/-- Contexts that a die tags at a time (R274). -/
def dieTags : Nat := 64

/-- Ways of a die's TLB, entries of its walk cache, concurrent walks, outstanding missed pages (R237). -/
def l2TlbWays : Nat := 8
def walkCacheEntries : Nat := 512
def walkers : Nat := 32
def missedPages : Nat := 2048

/-- Update-only lines of an L1 (R242), TLB entries of a core and of a die (R237). -/
def updateLines : Nat := 32
def l1TlbEntries : Nat := 128
def l2TlbEntries : Nat := 8192

end Sys2Proof.Config
end

