-- ==== Sys2Proof/Syntax.lean ====
section
/-! DEFINITION. The instructions and machine events as data: one constructor of `Instr` per row of spec/opcode_table.json.
Instructions carry the fields of their format (R72-R83) with every code already turned into a constructor; events carry what
the event concerns. -/

namespace Sys2Proof

/-- The guard of an instruction: PN and PS, R61, R62. -/
structure Guard where
  pn : Bool
  ps : BitVec 3
  deriving DecidableEq, Repr, Inhabited

/-- Type codes 0-14 of the TY field, R67. -/
inductive Ty where
  | b32 | i32 | n32 | i64 | n64 | f32 | f16x2 | bf16x2 | i16x2 | n16x2 | i8x4 | n8x4 | e4m3x4 | e5m2x4 | b64
  deriving DecidableEq, Repr, Inhabited

/-- Rounding codes 0-6 of the RM field; code 6 takes the mode from FMT.RM, R68. -/
inductive Rm where
  | rne | rtz | rdn | rup | rna | sr | fmt
  deriving DecidableEq, Repr, Inhabited

/-- A source of the V format: a vector register, a scalar, or the small integer `k - 32`, R65. -/
inductive Src where
  | v (r : BitVec 8)
  | s (r : BitVec 6)
  | imm (k : BitVec 6)
  deriving DecidableEq, Repr, Inhabited

/-- Scope codes 0-10 and 15 (no scope), R69. -/
inductive Scope where
  | lane | quad | group | gang | team | core | cluster | device | domain | host | system | none
  deriving DecidableEq, Repr, Inhabited

/-- Order codes 0-4, R69. -/
inductive Order where
  | rlx | acq | rel | ar | sc
  deriving DecidableEq, Repr, Inhabited

/-- Size codes 0-5, R70. -/
inductive Size where
  | b8 | b16 | b32 | b64 | x4 | x8
  deriving DecidableEq, Repr, Inhabited

/-- Atomic operations 0-13, R71. -/
inductive Aop where
  | add | min | max | and | or | xor | exch | cas | inc | dec | faddF32 | faddBf16x2 | fmin | fmax
  deriving DecidableEq, Repr, Inhabited

/-- Condition kinds 0-2 of the B format, R78. -/
inductive Ck where
  | always | nonzero | zero
  deriving DecidableEq, Repr, Inhabited

/-- Completion targets 0-3, R81, R340. -/
inductive Ct where
  | none | bar | cnt | cont
  deriving DecidableEq, Repr, Inhabited

/-- V format, R72. -/
structure VF where
  g : Guard
  d : BitVec 8
  a : Src
  b : Src
  c : Src
  ty : Ty
  rm : Rm
  sat : Bool
  na : Bool
  nb : Bool
  xa : Bool
  xb : Bool
  sub : BitVec 5
  deriving DecidableEq, Repr, Inhabited

/-- movi: V format with IMM32, R73. -/
structure MoviF where
  g : Guard
  d : BitVec 8
  imm : BitVec 32
  deriving DecidableEq, Repr, Inhabited

/-- S format, R74. -/
structure SF where
  g : Guard
  d : BitVec 6
  a : BitVec 6
  immf : Bool
  b : BitVec 6
  w64 : Bool
  imm : BitVec 32
  deriving DecidableEq, Repr, Inhabited

/-- M format, R76. -/
structure MF where
  g : Guard
  t : BitVec 8
  base : BitVec 6
  off : BitVec 8
  sc : Scope
  ord : Order
  sz : Size
  disp : BitVec 20
  deriving DecidableEq, Repr, Inhabited

/-- A format, R77. -/
structure AF where
  g : Guard
  t : BitVec 8
  base : BitVec 6
  off : BitVec 8
  sc : Scope
  ord : Order
  sz : Size
  aop : Aop
  opnd : BitVec 8
  cmp : BitVec 8
  deriving DecidableEq, Repr, Inhabited

/-- B format, R78. -/
structure BF where
  g : Guard
  disp : BitVec 28
  cs : BitVec 6
  ck : Ck
  deriving DecidableEq, Repr, Inhabited

/-- P format, R79. -/
structure PF where
  g : Guard
  tdisp : BitVec 20
  rdisp : BitVec 20
  deriving DecidableEq, Repr, Inhabited

/-- T format, R80. -/
structure TF where
  g : Guard
  v : BitVec 8
  s1 : BitVec 6
  s2 : BitVec 6
  s3 : BitVec 6
  bank : BitVec 5
  nb : BitVec 6
  sub : BitVec 4
  deriving DecidableEq, Repr, Inhabited

/-- X format, R81. -/
structure XF where
  g : Guard
  s1 : BitVec 6
  s2 : BitVec 6
  v : BitVec 8
  cq : BitVec 2
  ct : Ct
  bar : BitVec 6
  sc : Scope
  imm : BitVec 17
  deriving DecidableEq, Repr, Inhabited

/-- Q format with a queue register q0-q7, R82. -/
structure QF where
  g : Guard
  v : BitVec 8
  s : BitVec 6
  qr : BitVec 3
  pd : BitVec 3
  deriving DecidableEq, Repr, Inhabited

/-- Y format, R83. -/
structure YF where
  g : Guard
  d : BitVec 6
  a : BitVec 6
  b : BitVec 6
  sc : Scope
  sub : BitVec 4
  imm : BitVec 16
  deriving DecidableEq, Repr, Inhabited

/-- A write-back of a sector with its byte mask, R272, R300: `die` is the sender. -/
structure WriteBack where
  die : Nat
  sect : Nat
  mask : BitVec 64
  data : List Byte
  pois : Bool
  deriving DecidableEq, Repr, Inhabited

/-- A device-scope atomic at its home, R301. -/
structure AtomReq where
  die : Nat
  pa : Nat
  wide : Bool
  aop : Aop
  opnd : BitVec 64
  cmp : BitVec 64
  deriving DecidableEq, Repr, Inhabited

/-- What a remote access does: KIND of the ingress fault log, R319. -/
inductive RemoteKind where
  | read | write | rmw
  deriving DecidableEq, Repr, Inhabited

/-- One lane's remote access arriving from device `sdev`, R318, with the poison of its data (R495, R500) and the source unit that the
log names, R319. -/
structure RemoteReq where
  sdev : Nat
  kind : RemoteKind
  va : BitVec 64
  len : Nat
  data : List Byte
  pois : Bool
  aop : Aop
  cmp : BitVec 64
  scluster : Nat
  score : Nat
  sslot : Nat
  deriving DecidableEq, Repr, Inhabited

/-- The answer of a peer to one replay, R317, R319: the lowest refused lane with its cause (REMOTE_PERM or REMOTE_XLATE), or
each lane's loaded or old bytes with their poison, R500. -/
structure RemoteAns where
  refusedLane : Option Nat
  perm : Bool
  vals : List (Nat × List Byte × Bool)
  deriving DecidableEq, Repr, Inhabited

/-- What the destination's hook answered to a message, R371, R375. -/
inductive PeerReply where
  | accepted | pulling | refused | noBinding | linkDown
  deriving DecidableEq, Repr, Inhabited

/-- A byte with its poison mark, R376, R500. -/
abbrev MarkedByte := Byte × Bool

/-- A message at the target's hook, R371: `eager` carries its payload, a rendezvous message only its header. `self` marks a
message looped back from this device, with the sender's send identifier. -/
structure Message where
  sdev : Nat
  tag : BitVec 32
  len : Nat
  eager : Bool
  payload : List MarkedByte
  self : Option Nat
  deriving DecidableEq, Repr, Inhabited

/-- How a rendezvous pull ended, R375, R376: the bytes pulled from a peer, a source fault, or the plane going down; `pulled` tells
the sender's hook that a peer has pulled the first `n` bytes. -/
inductive PullReply where
  | data (bytes : List MarkedByte)
  | pulled (n : Nat)
  | sourceFault
  | linkDown
  deriving DecidableEq, Repr, Inhabited

/-- What the other ranks of a collective brought, R389-R392: for each rank its code bytes (OP, RED, TYPE), COUNT and input
bytes; a failure at some rank; a lost link. -/
structure CollPeers where
  ranks : List (Nat × (Nat × Nat × Nat × Nat) × List MarkedByte)
  peerFault : Bool
  linkDown : Bool
  deriving DecidableEq, Repr, Inhabited

/-- A new place for one virtual core of a resumed context, R456: physical core numbers (128 x cluster + core) and the first
physical group slot used there. -/
structure Placement where
  fromCore : Nat
  toCore : Nat
  deriving DecidableEq, Repr, Inhabited

/-- A host access through CXL.mem, R323. -/
structure HostReq where
  write : Bool
  pa : Nat
  len : Nat
  data : List Byte
  deriving DecidableEq, Repr, Inhabited

/-- What an error detector reports, R458, R459. `control` marks an error in control state (R460). -/
structure ErrorReport where
  cls : Nat
  unit : Nat
  addr : BitVec 64
  syn : BitVec 16
  ctx : Nat
  control : Bool
  deriving DecidableEq, Repr, Inhabited

/-- One constructor for each row of spec/opcode_table.json, in its order. -/
inductive Instr where
  /-- IADD, R135: Per-lane integer add, wrapping or saturating. -/
  | iadd (f : VF)
  /-- ISUB, R135: Per-lane integer subtract. -/
  | isub (f : VF)
  /-- IMUL, R135: Per-lane integer multiply, low part. -/
  | imul (f : VF)
  /-- IMULHI, R135: Per-lane integer multiply, high part. -/
  | imulhi (f : VF)
  /-- IMAD, R135: Per-lane integer multiply-add. -/
  | imad (f : VF)
  /-- IMIN, R135: Per-lane integer minimum. -/
  | imin (f : VF)
  /-- IMAX, R135: Per-lane integer maximum. -/
  | imax (f : VF)
  /-- IABS, R135: Per-lane integer absolute value. -/
  | iabs (f : VF)
  /-- AND, R136: Bitwise AND of two sources. -/
  | vand (f : VF)
  /-- OR, R136: Bitwise OR of two sources. -/
  | vor (f : VF)
  /-- XOR, R136: Bitwise exclusive OR of two sources. -/
  | vxor (f : VF)
  /-- BLUT, R137: Bitwise three-input lookup-table function. -/
  | blut (f : VF)
  /-- SHL, R138: Per-element logical shift left. -/
  | shl (f : VF)
  /-- SHR, R138: Per-element logical shift right. -/
  | shr (f : VF)
  /-- SAR, R138: Per-element arithmetic shift right. -/
  | sar (f : VF)
  /-- FUNNEL, R139: Funnel shift of a 64-bit concatenation. -/
  | funnel (f : VF)
  /-- POPC, R140: Population count. -/
  | popc (f : VF)
  /-- CLZ, R140: Count leading zeros. -/
  | clz (f : VF)
  /-- BREV, R140: Bit reversal. -/
  | brev (f : VF)
  /-- BFE, R140: Bitfield extract. -/
  | bfe (f : VF)
  /-- BFI, R140: Bitfield insert. -/
  | bfi (f : VF)
  /-- ICMP, R142: Integer compare into a predicate. -/
  | icmp (f : VF)
  /-- SEL, R143: Select between two sources by predicate. -/
  | sel (f : VF)
  /-- MOV, R144: Copy a source into a vector register. -/
  | mov (f : VF)
  /-- MOVI, R144: Write a 32-bit immediate into a vector register. -/
  | movi (f : MoviF)
  /-- ISHADD, R145: Shift-and-add for scaled indices. -/
  | ishadd (f : VF)
  /-- BYTESEL, R141: Build each result byte from eight source bytes under control bytes. -/
  | bytesel (f : VF)
  /-- FADD, R146: Floating-point add, rounded once. -/
  | fadd (f : VF)
  /-- FSUB, R146: Floating-point subtract. -/
  | fsub (f : VF)
  /-- FMUL, R146: Floating-point multiply. -/
  | fmul (f : VF)
  /-- FMA, R146: Fused multiply-add with a single rounding. -/
  | fma (f : VF)
  /-- FMIN, R147: Floating-point minimum without rounding. -/
  | fmin (f : VF)
  /-- FMAX, R147: Floating-point maximum without rounding. -/
  | fmax (f : VF)
  /-- FCMP, R148: Floating-point compare into a predicate. -/
  | fcmp (f : VF)
  /-- FCLASS, R149: Write the class mask of a floating-point encoding. -/
  | fclass (f : VF)
  /-- FRCP, R150: Reciprocal on the transcendental unit. -/
  | frcp (f : VF)
  /-- FRSQ, R150: Reciprocal square root. -/
  | frsq (f : VF)
  /-- FSQRT, R150: Square root. -/
  | fsqrt (f : VF)
  /-- FEXP2, R150: Base-2 exponential. -/
  | fexp2 (f : VF)
  /-- FLOG2, R150: Base-2 logarithm. -/
  | flog2 (f : VF)
  /-- FRRED, R151: Reduce radians to turns in [-0.5, 0.5]. -/
  | frred (f : VF)
  /-- FSIN, R151: Sine of an angle given in turns. -/
  | fsin (f : VF)
  /-- FCOS, R151: Cosine of an angle given in turns. -/
  | fcos (f : VF)
  /-- CVT, R152: Convert elements between types. -/
  | cvt (f : VF)
  /-- FDOT2, R153: Two-element dot product plus an FP32 addend. -/
  | fdot2 (f : VF)
  /-- LCDEC, R154: Decode and scale LC2 coordinates. -/
  | lcdec (f : VF)
  /-- FSCALE, R155: Multiply by a power of two. -/
  | fscale (f : VF)
  /-- QSWAP, R156: Exchange values within a quad. -/
  | qswap (f : VF)
  /-- QBCAST, R156: Broadcast one lane's value within each quad. -/
  | qbcast (f : VF)
  /-- LXCH, R157: Lane exchange by index, rotation, xor or octet. -/
  | lxch (f : VF)
  /-- GRED, R158: Reduction over the arm's contributing lanes. -/
  | gred (f : VF)
  /-- GSCAN, R158: Prefix scan over the arm's contributing lanes. -/
  | gscan (f : VF)
  /-- RAND, R159: Step each lane's xorshift state and write it. -/
  | rand (f : VF)
  /-- SADD, R160: Scalar add. -/
  | sadd (f : SF)
  /-- SSUB, R160: Scalar subtract. -/
  | ssub (f : SF)
  /-- SMUL, R160: Scalar multiply. -/
  | smul (f : SF)
  /-- SAND, R160: Scalar bitwise AND. -/
  | sand (f : SF)
  /-- SOR, R160: Scalar bitwise OR. -/
  | sor (f : SF)
  /-- SXOR, R160: Scalar bitwise exclusive OR. -/
  | sxor (f : SF)
  /-- SSHL, R160: Scalar shift left. -/
  | sshl (f : SF)
  /-- SSHR, R160: Scalar logical shift right. -/
  | sshr (f : SF)
  /-- SSAR, R160: Scalar arithmetic shift right. -/
  | ssar (f : SF)
  /-- SCMP, R161: Scalar compare into a flag word. -/
  | scmp (f : SF)
  /-- SMOVI, R160: Write a sign-extended immediate into a scalar. -/
  | smovi (f : SF)
  /-- VRD, R162: Read one lane of a vector register into a scalar. -/
  | vrd (f : VF)
  /-- VWR, R162: Write one lane of a vector register. -/
  | vwr (f : VF)
  /-- MFS, R163: Read a state register. -/
  | mfs (f : SF)
  /-- MTS, R163: Write a state register that has no behaviour of its own. -/
  | mts (f : SF)
  /-- MTS_SEED, R109: Write SEED and reseed every lane of the group. -/
  | mtsSeed (f : SF)
  /-- FMTSET, R164: Replace selected FMT fields. -/
  | fmtset (f : SF)
  /-- BRA, R185: Conditional or unconditional branch to a clause. -/
  | bra (f : BF)
  /-- BRP, R187: Predicated branch that may diverge the arm and push a frame. -/
  | brp (f : PF)
  /-- JMP, R186: Jump to a computed address. -/
  | jmp (f : SF)
  /-- CALL, R185: Branch and write the link into s63. -/
  | call (f : BF)
  /-- RET, R185: Return to the address in s63. -/
  | ret (f : BF)
  /-- BWAIT, R188: Governs a timed reconvergence arrival and writes its outcome. -/
  | bwait (f : SF)
  /-- VOTE, R189: Vote over the arm's contributing lanes. -/
  | vote (f : VF)
  /-- EXIT, R190: Remove the active lanes from the arm. -/
  | exitG (f : BF)
  /-- YIELD, R190: Mark the boundary after the clause as a yield point. -/
  | yield (f : BF)
  /-- NOP, R190: Do nothing. -/
  | nop (f : BF)
  /-- LOOP, R185: Decrement a counter and branch while it is nonzero. -/
  | loop (f : BF)
  /-- BAR, R209: Arrive at a team barrier and wait for its completion. -/
  | bar (f : SF)
  /-- BARARR, R209: Arrive at a team barrier and return the generation. -/
  | bararr (f : SF)
  /-- BARWAIT, R209: Wait for a barrier generation to pass. -/
  | barwait (f : SF)
  /-- BAREXP, R207: Add expected bytes to PEND, or clear poison. -/
  | barexp (f : SF)
  /-- PBAR, R210: Arrive at the panel barrier after draining subscription updates. -/
  | pbar (f : SF)
  /-- TCALL, R211: Divide the team into strands by a team table. -/
  | tcall (f : SF)
  /-- TRET, R215: Return from a strand and rejoin the parent level. -/
  | tret (f : SF)
  /-- TVOTE, R216: Vote over every lane of the current team. -/
  | tvote (f : VF)
  /-- FORK, R217: Create a brood of child groups. -/
  | fork (f : SF)
  /-- JOIN, R219: Wait until the join counter is zero. -/
  | join (f : SF)
  /-- SKGIVE, R222: Return top skein chunks to the skein. -/
  | skgive (f : SF)
  /-- SKTAKE, R221: Queue a request for skein chunks. -/
  | sktake (f : SF)
  /-- GANGSET, R225: Write the group's gang list. -/
  | gangset (f : SF)
  /-- LD, R248: Per-lane load from global memory. -/
  | ld (f : MF)
  /-- ST, R248: Per-lane store to global memory. -/
  | st (f : MF)
  /-- LDS, R248: Load from the local scratchpad. -/
  | lds (f : MF)
  /-- STS, R248: Store to the local scratchpad. -/
  | sts (f : MF)
  /-- LDC, R248: Load through the cluster window. -/
  | ldc (f : MF)
  /-- STC, R248: Store through the cluster window. -/
  | stc (f : MF)
  /-- SLD, R248: Scalar load from global memory. -/
  | sld (f : MF)
  /-- SST, R248: Scalar store to global memory. -/
  | sst (f : MF)
  /-- PREF, R250: Prefetch lines into the L1 or L2. -/
  | pref (f : MF)
  /-- CWB, R285: Write back a range of cached data. -/
  | cwb (f : MF)
  /-- CINV, R285: Invalidate clean cached bytes of a range. -/
  | cinv (f : MF)
  /-- CWBI, R285: Write back and then invalidate a range. -/
  | cwbi (f : MF)
  /-- ATOM, R281: Atomic read-modify-write on global memory. -/
  | atom (f : AF)
  /-- RED, R281: Atomic reduction on global memory without an old value. -/
  | red (f : AF)
  /-- ATOMS, R251: Atomic operation through the cluster window. -/
  | atoms (f : AF)
  /-- FENCE, R283: Perform the release or acquire actions of a scope. -/
  | fence (f : MF)
  /-- RLD, R317: Load from a peer device's exported memory. -/
  | rld (f : MF)
  /-- RST, R317: Store to a peer device's exported memory. -/
  | rst (f : MF)
  /-- RATOM, R317: Atomic operation on a peer device's memory. -/
  | ratom (f : AF)
  /-- CPY, R359: Enqueue a copy described by a scratchpad descriptor. -/
  | cpy (f : XF)
  /-- CPYM, R344: Enqueue a multicast copy to several cores. -/
  | cpym (f : XF)
  /-- PATADV, R350: Grant more pattern copies to queue 3. -/
  | patadv (f : XF)
  /-- PATQ, R360: Read a copy queue's status, counts or fault address. -/
  | patq (f : XF)
  /-- QFENCE, R357: Enqueue a stitch that orders named queues. -/
  | qfence (f : XF)
  /-- GATH, R359: Enqueue a gather of table rows. -/
  | gath (f : XF)
  /-- QPUSH, R355: Push a word and payload into a queue register. -/
  | qpush (f : QF)
  /-- QPOP, R355: Pop a queue entry, waiting while the queue is empty. -/
  | qpop (f : QF)
  /-- QTRY, R355: Pop a queue entry if one is present. -/
  | qtry (f : QF)
  /-- CPYRES, R343: Restart or skip the faulted entry of a stopped queue. -/
  | cpyres (f : XF)
  /-- MSEND, R381: Release and hand a send to the hook. -/
  | msend (f : XF)
  /-- MPOST, R381: Post a receive as a hook event. -/
  | mpost (f : XF)
  /-- MCANCEL, R381: Cancel an unmatched posted receive. -/
  | mcancel (f : XF)
  /-- MPROBE, R381: Probe the unexpected queue for a matching message. -/
  | mprobe (f : XF)
  /-- SUBON, R382: Subscribe a local region to a publisher region. -/
  | subon (f : XF)
  /-- SUBOFF, R386: Remove a subscription. -/
  | suboff (f : XF)
  /-- SUBFLUSH, R385: Wait until pending subscription updates are applied. -/
  | subflush (f : XF)
  /-- XSHFL, R388: Exchange a register with a partner group. -/
  | xshfl (f : XF)
  /-- COLL, R391: Issue a collective on a communicator. -/
  | coll (f : XF)
  /-- ACCALLOC, R417: Latched allocation of accumulator banks. -/
  | accalloc (f : TF)
  /-- ACCFREE, R417: Latched freeing of accumulator banks. -/
  | accfree (f : TF)
  /-- ACCZERO, R418: Zero accumulator banks. -/
  | acczero (f : TF)
  /-- MMA, R419: Latched matrix multiply-accumulate of a gang. -/
  | mma (f : TF)
  /-- ACCLD, R418: Load a bank into 32 vector registers. -/
  | accld (f : TF)
  /-- ACCST, R418: Store 32 vector registers into a bank. -/
  | accst (f : TF)
  /-- FIFODROP, R420: Remove the oldest entries of the A or B FIFO. -/
  | fifodrop (f : TF)
  /-- FIFOSTAT, R421: Read the FIFO and tile status word. -/
  | fifostat (f : TF)
  /-- TRAP, R442: Raise a software trap. -/
  | trapSw (f : YF)
  /-- ERET, R443: Return from a handler to user level. -/
  | eret (f : YF)
  /-- PMARK, R452: Pre-emption point with a liveness entry. -/
  | pmark (f : YF)
  /-- SYSRD, R445: Read a privileged register. -/
  | sysrd (f : YF)
  /-- SYSWR, R445: Write a privileged register that has no behaviour of its own. -/
  | syswr (f : YF)
  /-- SYSWR_ROUTE, R311: Write a routing register, draining the pair before it switches. -/
  | syswrRoute (f : YF)
  /-- SYSWR_HVEC, R504: Change the handler address of the issuing group's launch. -/
  | syswrHvec (f : YF)
  /-- SYSWR_INJCTL, R461: Write an injection control register and disarm it. -/
  | syswrInjctl (f : YF)
  /-- XINV_PAGE, R450: Invalidate translations of one page. -/
  | xinvPage (f : YF)
  /-- XINV_RANGE, R450: Invalidate translations of a range. -/
  | xinvRange (f : YF)
  /-- XINV_CTX, R450: Invalidate every translation of the context. -/
  | xinvCtx (f : YF)
  /-- ERRINJ, R461: Arm an error injection. -/
  | errinj (f : YF)
  /-- BRK, R442: Raise a breakpoint trap. -/
  | brk (f : YF)
  /-- GKILL, R444: End a group or its whole team with KILLED. -/
  | gkill (f : YF)
  /-- CLAUSE_ENTRY, R170: An arm fetches, checks and waits at a clause header. -/
  | clauseEntry
  /-- BWAIT_TIMEOUT, R182: A timed arrival expires and its frame dissolves. -/
  | bwaitTimeout (g a : Nat)
  /-- LOAD_REPLY_COMMIT, R172: A load reply is committed to registers in issue order. -/
  | loadReplyCommit (g a : Nat)
  /-- STORE_ACK, R171: An execution point acknowledges a store, lowering the arm's count. -/
  | storeAck (g a : Nat)
  /-- GROUP_ADMISSION, R193: The head of the pending set enters the active set. -/
  | groupAdmission (core : Nat)
  /-- SWAP_OUT, R194: A chosen group is swapped out at a boundary. -/
  | swapOut (g : Nat)
  /-- FAIRNESS_SWAP, R196: A group's clause count reaches 256 with another group waiting. -/
  | fairnessSwap (g : Nat)
  /-- SKEIN_DEADLOCK_DETECT, R223: Every skein user is stuck and the head request traps. -/
  | skeinDeadlockDetect (t : Nat)
  /-- PENDING_TRAP_DELIVERY, R436: A trap held while the other arm ran a handler is delivered. -/
  | pendingTrapDelivery (g : Nat)
  /-- PAGE_WALK_COMPLETE, R237: A walk ends and the waiting probes repeat. -/
  | pageWalkComplete (die ctx page : Nat)
  /-- L2_WRITE_BACK, R272: A slice writes back a dirty software-managed sector. -/
  | l2WriteBack (die sect : Nat)
  /-- L2_RECALL, R271: A slice answers its home's recall or invalidation. -/
  | l2Recall (die sect : Nat) (toShared : Bool)
  /-- HOME_READ_SHARED, R298: The home serves a shared read of a coherent sector. -/
  | homeReadShared (req sect : Nat)
  /-- HOME_READ_FOR_OWNERSHIP, R298: The home grants ownership of a coherent sector. -/
  | homeReadForOwnership (req sect : Nat)
  /-- HOME_WRITE_BACK_MERGE, R300: The home merges the masked bytes of a write-back. -/
  | homeWriteBackMerge (b : WriteBack)
  /-- HOME_ATOMIC, R301: The home's atomic units perform an atomic. -/
  | homeAtomic (r : AtomReq)
  /-- CHECK_PHASE, R304: A home checks a checked access against open records. -/
  | checkPhase (g a : Nat)
  /-- CHECK_COMMIT, R304: The homes perform held checked accesses. -/
  | checkCommit (g a : Nat)
  /-- CHECK_ABORT, R304: The homes discard a conflicting checked access. -/
  | checkAbort (g a : Nat)
  /-- CHECK_CLOSE, R305: A home closes a group's check records. -/
  | checkClose (g : Nat)
  /-- REMOTE_INGRESS, R318: A remote access is translated and performed at the target. -/
  | remoteIngress (r : RemoteReq)
  /-- REMOTE_ANSWER, R317: Answers to a remote replay arrive and are committed. -/
  | remoteAnswer (g a : Nat) (r : RemoteAns)
  /-- REMOTE_TIMEOUT, R320: A remote replay gets no answer within the timeout. -/
  | remoteTimeout (g a : Nat)
  /-- COLOUR_FAIL, R309: A colour fails and the pair falls back to a surviving route. -/
  | colourFail (i j : Nat) (planeB : Bool)
  /-- COLOUR_RECOVER, R309: A failed colour works again. -/
  | colourRecover (i j : Nat) (planeB : Bool)
  /-- ROUTE_DRAIN_COMPLETE, R311: A drained pair switches to its new route. -/
  | routeDrainComplete (i j : Nat)
  /-- FLIT_CRC_REPLAY, R307: A flit that fails its CRC is replayed. -/
  | flitCrcReplay (i j : Nat)
  /-- ROUTE_LOSS_DETECT, R312: An end detects that a pair has no route. -/
  | routeLossDetect (die port : Nat) (dieEnd : Bool)
  /-- DIE_FENCE, R312: A die without a route for 16 us fences itself. -/
  | dieFence (die : Nat)
  /-- DIE_LOST_DECLARE, R312: A home declares a die lost at 20 us, and the other homes clean up. -/
  | dieLostDeclare (die : Nat)
  /-- CHIPLET_ROUTE_LOSS, R490: A chiplet without a route to port 24 or 25 ends every context. -/
  | chipletRouteLoss (chip : Nat)
  /-- COPY_ENTRY_START, R336: An engine starts a queue entry, reserving FIFO space. -/
  | copyEntryStart (t q : Nat)
  /-- COPY_BATCH_DELIVERY, R340: A batch of written bytes is acknowledged. `n` elements at most (of a multicast: 4096 x the destination
  core + the elements); `peer` holds the bytes that come from a peer source. -/
  | copyBatchDelivery (t q n : Nat) (peer : List MarkedByte)
  /-- COPY_ENTRY_COMPLETE, R340: A copy or gather entry completes and signals its target. -/
  | copyEntryComplete (t q : Nat)
  /-- COPY_ENTRY_FAULT, R341: A copy entry faults and its queue stops. `peer` is the reason a peer gave, 6 or 7 (R360); of a
  multicast, 16 x (1 + the destination core) names the destination that faults. -/
  | copyEntryFault (t q peer : Nat)
  /-- PATTERN_ROW_STEP, R348: The engine processes a pattern row while E < G. -/
  | patternRowStep (t : Nat)
  /-- HELD_COMPLETION_POST, R354: A held completion is posted when queue space frees. -/
  | heldCompletionPost (t q : Nat)
  /-- HOOK_SEND, R374: The sender's hook reads the payload and transmits a message. -/
  | hookSend (o : PeerReply)
  /-- HOOK_HEADER_ARRIVAL, R373: The target hook performs an arriving header. -/
  | hookHeaderArrival (m : Message)
  /-- RENDEZVOUS_PULL_COMPLETE, R375: A rendezvous pull ends and both sides complete. -/
  | rendezvousPullComplete (id : Nat) (o : PullReply)
  /-- MESSAGE_RETRY, R375: A refused message is retried every 2 us. -/
  | messageRetry (dest : Nat) (o : PeerReply)
  /-- SUB_UPDATE_FORWARD, R384: The publisher forwards a batched sector update. -/
  | subUpdateForward (core : Nat)
  /-- SUB_UPDATE_APPLY, R384: A subscriber applies an update. -/
  | subUpdateApply (sub : Nat)
  /-- XSHFL_TIMEOUT, R387: An unpaired xshfl times out. -/
  | xshflTimeout (g : Nat)
  /-- COLL_COMPLETE, R392: A collective completes and signals its completion. -/
  | collComplete (ctx comm : Nat) (r : CollPeers)
  /-- MMA_BAND, R412: The matrix unit performs one band into its bank. -/
  | mmaBand (t : Nat)
  /-- PREEMPT_REQUEST, R452: The command processor requests pre-emption on named dies. -/
  | preemptRequest (part dies : Nat)
  /-- PREEMPT_DEADLINE, R452: PDEADL expires and running arms stop at the next boundary. -/
  | preemptDeadline (ctx : Nat)
  /-- HANDLER_PREEMPT_LIMIT, R452: A handler still running 100 us after the request ends its group. -/
  | handlerPreemptLimit (g : Nat)
  /-- SAVE_SEQUENCE, R454: The save engine saves a halted context. -/
  | saveSequence (ctx : Nat)
  /-- CONTEXT_RESUME, R456: A saved context is placed, remapped and restored. -/
  | contextResume (ctx : Nat) (m : List Placement)
  /-- QTAIL, R467: Host doorbell write of a launch queue's tail. -/
  | qtail (die q : Nat) (v : BitVec 64)
  /-- QUEUE_PRIORITY_AGING, R467: A waiting queue rises one priority level per millisecond. -/
  | queuePriorityAging (die q : Nat)
  /-- LAUNCH_START, R470: The command processor takes and checks a startable record. -/
  | launchStart (die : Nat)
  /-- TEAM_PLACEMENT, R477: A distributor places a team or panel on cores. -/
  | teamPlacement (launch : Nat) (cores : List Nat)
  /-- WORK_STEAL, R478: A dry distributor takes half of a sibling's remainder. -/
  | workSteal (launch cluster : Nat)
  /-- LAUNCH_COMPLETE, R471: A launch completes, performs its out-edges and writes its record. -/
  | launchComplete (launch : Nat)
  /-- ABORT, R505: Host write that aborts a launch. -/
  | abortLaunch (addr : BitVec 64)
  /-- WARM_RESET, R491: Warm reset ends every context. -/
  | warmReset
  /-- COLD_RESET, R492: Cold reset also invalidates caches and retrains links. -/
  | coldReset
  /-- POWCAP, R483: Host write of the module power cap. -/
  | powcap (v : BitVec 64)
  /-- HOST_CXL_ACCESS, R323: A host access through CXL.mem is performed at the home. -/
  | hostCxlAccess (r : HostReq)
  /-- BUDGET_PERIOD, R480: An enforcer's budget period ends and held requests go on. -/
  | budgetPeriod (kind unit part : Nat)
  /-- KEY_EXHAUST, R488: A plane's counter nears wrap without a new key. -/
  | keyExhaust (port : Nat) (bulk : Bool)
  /-- KEY_INSTALL, R487: A new key takes effect at an agreed flit boundary. -/
  | keyInstall (port : Nat) (bulk : Bool)
  /-- KEY_TIMEOUT, R488: KEYTMO expires and the plane goes down. -/
  | keyTimeout (port : Nat) (bulk : Bool)
  /-- CORRECTED_ERROR, R458: A corrected error is logged and counted. -/
  | correctedError (e : ErrorReport)
  /-- UNCORRECTED_ERROR, R460: An uncorrected error poisons data or ends groups. -/
  | uncorrectedError (e : ErrorReport)
  /-- SCRUB_PASS, R495: A chiplet scrubs its DRAM once in 24 hours. -/
  | scrubPass (chip : Nat)
  /-- THERMAL_THROTTLE, R498: A die at 105 C has its energy allowance halved. -/
  | thermalThrottle (die : Nat)
  /-- THERMAL_RECOVER, R498: A throttled die back at 95 C regains its allowance. -/
  | thermalRecover (die : Nat)
  /-- THERMAL_SHUTDOWN, R498: A sensor at 120 C ends every context. -/
  | thermalShutdown
  /-- ILLEGAL_OP, R90: A word with a reserved or unassigned opcode reaches the head of its arm and traps ILLEGAL_OP at decode step 2. -/
  | illegalOp (w : BitVec 64)
  /-- SCALE_UP_PORT_LOSS, R489: A scale-up port goes down through loss of its link route, failing or moving its traffic. -/
  | scaleUpPortLoss (port : Nat)
  deriving DecidableEq, Repr

end Sys2Proof
end

