-- ==== Sys2Proof/WellFormed.lean ====
section
/-! DEFINITION. Which instructions the encoding admits: the checks of decode step 4 (R63-R84 and each instruction's
description) that depend on the instruction alone. Checks that also look at the state (a barrier index against the team's
records, an H-RW register at user level, an S register outside a service context) are part of the meanings. -/

namespace Sys2Proof

/-- PS = 0 with PN = 1 is illegal, R62. -/
def Guard.wf (g : Guard) : Bool := !(g.pn && g.ps == 0)

/-- PS = PN = 0, as group-collective instructions require, R203. -/
def Guard.none (g : Guard) : Bool := !g.pn && g.ps == 0

/-- An unused source: field 0 with flag 0, R134. -/
def Src.unused (s : Src) : Bool := s == .v 0

def Src.isV : Src → Bool
  | .v _ => true
  | _ => false

def Src.isImm : Src → Bool
  | .imm _ => true
  | _ => false

/-- A source naming a predicate: C[7:3] = 0 and flag 0, R143, R189. -/
def Src.isPred : Src → Bool
  | .v r => r.toNat < 8
  | _ => false

/-- A vector source of a 64-bit type is an even pair, R64. -/
def Src.even : Src → Bool
  | .v r => r.toNat % 2 == 0
  | _ => true

def Ty.is64 : Ty → Bool
  | .i64 | .n64 | .b64 => true
  | _ => false

def Ty.signed : Ty → Bool
  | .i32 | .i64 | .i16x2 | .i8x4 => true
  | _ => false

def Ty.isFloat : Ty → Bool
  | .f32 | .f16x2 | .bf16x2 | .e4m3x4 | .e5m2x4 => true
  | _ => false

/-- Elements per lane, R95, R152. -/
def Ty.elems : Ty → Nat
  | .f16x2 | .bf16x2 | .i16x2 | .n16x2 => 2
  | .i8x4 | .n8x4 | .e4m3x4 | .e5m2x4 => 4
  | _ => 1

/-- Element width in bits, R95. -/
def Ty.width : Ty → Nat
  | .i64 | .n64 | .b64 => 64
  | .f16x2 | .bf16x2 | .i16x2 | .n16x2 => 16
  | .i8x4 | .n8x4 | .e4m3x4 | .e5m2x4 => 8
  | _ => 32

/-- The type of a code, R67; cvt holds its source type in SUB[3:0], R152. -/
def Ty.ofCode : Nat → Option Ty
  | 0 => some .b32 | 1 => some .i32 | 2 => some .n32 | 3 => some .i64 | 4 => some .n64 | 5 => some .f32
  | 6 => some .f16x2 | 7 => some .bf16x2 | 8 => some .i16x2 | 9 => some .n16x2 | 10 => some .i8x4 | 11 => some .n8x4
  | 12 => some .e4m3x4 | 13 => some .e5m2x4 | 14 => some .b64 | _ => none

def Ty.isInt (t : Ty) : Bool := [Ty.i32, .n32, .i64, .n64, .i16x2, .n16x2, .i8x4, .n8x4].contains t
def Ty.isB (t : Ty) : Bool := t == .b32 || t == .b64
def Ty.isWideInt (t : Ty) : Bool := [Ty.i32, .n32, .i64, .n64].contains t
def Ty.isFp (t : Ty) : Bool := [Ty.f32, .f16x2, .bf16x2].contains t

namespace VF

def noSign (f : VF) : Bool := !f.na && !f.nb && !f.xa && !f.xb
def noMods (f : VF) : Bool := !f.sat && f.noSign
def plainEnd (f : VF) : Bool := f.rm == .rne && f.sub == 0
/-- Modifiers on signed types only, R135. -/
def signMods (f : VF) : Bool := f.ty.signed || f.noSign
def dEven (f : VF) : Bool := !f.ty.is64 || f.d.toNat % 2 == 0
def aEven (f : VF) : Bool := !f.ty.is64 || f.a.even
def bEven (f : VF) : Bool := !f.ty.is64 || f.b.even
def cEven (f : VF) : Bool := !f.ty.is64 || f.c.even
def dPred (f : VF) : Bool := f.d.toNat < 8

/-- Two-source integer arithmetic, R135. -/
def wfArith (f : VF) (sat mods : Bool) : Bool :=
  f.g.wf && f.ty.isInt && f.plainEnd && f.c.unused && f.dEven && f.aEven && f.bEven && (sat || !f.sat) &&
    (if mods then f.signMods else f.noSign)

def wfImad (f : VF) : Bool :=
  f.g.wf && f.ty.isInt && f.plainEnd && f.dEven && f.aEven && f.bEven && f.cEven && f.signMods

def wfIabs (f : VF) : Bool :=
  f.g.wf && f.ty.isInt && f.ty.signed && f.plainEnd && f.b.unused && f.c.unused && f.dEven && f.aEven && f.noSign

/-- and, or, xor, R136. -/
def wfLogic (f : VF) : Bool :=
  f.g.wf && f.ty.isB && f.plainEnd && f.c.unused && f.dEven && f.aEven && f.bEven && f.noMods

/-- blut: TT occupies NB, XA, XB and SUB, R137. -/
def wfBlut (f : VF) : Bool :=
  f.g.wf && f.ty.isB && f.rm == .rne && f.dEven && f.aEven && f.bEven && f.cEven && !f.sat && !f.na

/-- Shifts: B is read as n32, R138. -/
def wfShift (f : VF) (tys : List Ty) : Bool :=
  f.g.wf && tys.contains f.ty && f.plainEnd && f.c.unused && f.dEven && f.aEven && f.noMods

def wfFunnel (f : VF) : Bool := f.g.wf && f.ty == .b32 && f.rm == .rne && f.sub.toNat < 2 && f.noMods

def wfUnaryB (f : VF) : Bool :=
  f.g.wf && f.ty.isB && f.plainEnd && f.b.unused && f.c.unused && f.dEven && f.aEven && f.noMods

def wfBfe (f : VF) : Bool := f.g.wf && f.ty.isWideInt && f.plainEnd && f.dEven && f.aEven && f.noMods
def wfBfi (f : VF) : Bool := f.g.wf && f.ty.isB && f.plainEnd && f.dEven && f.aEven && f.cEven && f.noMods

def wfIcmp (f : VF) : Bool :=
  f.g.wf && f.ty.isWideInt && f.rm == .rne && f.dPred && f.sub.toNat < 6 && f.c.unused && f.aEven && f.bEven && !f.sat &&
    f.signMods

def wfSel (f : VF) : Bool :=
  f.g.wf && f.ty.isB && f.plainEnd && f.c.isPred && f.dEven && f.aEven && f.bEven && f.noMods

def wfIshadd (f : VF) : Bool :=
  f.g.wf && f.ty.isWideInt && f.rm == .rne && f.c.unused && f.dEven && f.aEven && f.bEven && !f.sat && !f.xa && !f.xb

def wfBytesel (f : VF) : Bool := f.g.wf && f.ty == .b32 && f.plainEnd && f.noMods

/-- fadd, fsub, fmul, and fma with C, R146. -/
def wfFp (f : VF) (useC rm : Bool) : Bool :=
  f.g.wf && f.ty.isFp && f.sub == 0 && (rm || f.rm == .rne) && (useC || f.c.unused) && !f.sat

def wfFcmp (f : VF) : Bool :=
  f.g.wf && f.ty == .f32 && f.rm == .rne && f.dPred && f.sub.toNat < 8 && f.c.unused && !f.sat

def wfFclass (f : VF) : Bool := f.g.wf && f.ty.isFp && f.plainEnd && f.b.unused && f.c.unused && f.noMods

/-- The transcendental unit's instructions, R150. -/
def wfTrans (f : VF) : Bool :=
  f.g.wf && f.ty == .f32 && f.plainEnd && f.b.unused && f.c.unused && !f.sat && !f.nb && !f.xb

/-- cvt, R152: the four cases of element counts. Where TY or the source type is 64 bits wide, a vector source is an even register (R64,
R134); under a 64-bit TY a source of type n32 is one that is stated to be read as n32, so it may be any register (DEDUCED, log 29). -/
def wfCvt (f : VF) : Bool :=
  match Ty.ofCode (f.sub.toNat % 16) with
  | none => false
  | some sty =>
    let hi := decide (16 ≤ f.sub.toNat)
    let nd := f.ty.elems
    let ns := sty.elems
    f.g.wf && !f.ty.isB && !sty.isB && f.noSign && f.c.unused && f.dEven && (f.a.even || !(sty.is64 || (f.ty.is64 && sty != .n32))) &&
      (if f.ty.isFloat || sty.isFloat then !f.sat else f.rm == .rne) &&
      (if nd == ns then f.b.unused && !hi
       else if nd == 2 * ns then !f.b.isImm && (!sty.is64 || f.b.even) && !hi
       else if nd == 4 * ns then !f.b.isImm && (!sty.is64 || f.b.even)
       else match f.b with
         | .imm k => decide (32 ≤ k.toNat) && decide ((k.toNat - 32) * nd < ns) && !hi
         | _ => false)

def wfFdot2 (f : VF) : Bool :=
  f.g.wf && (f.ty == .f16x2 || f.ty == .bf16x2) && f.sub == 0 && !f.sat && !f.xa && !f.xb

def wfLcdec (f : VF) : Bool :=
  f.g.wf && f.ty.isFp && f.c.unused && f.noMods && f.sub.toNat < 16 && (f.ty == .f32 || f.sub.toNat % 8 < 4)

def wfFscale (f : VF) : Bool :=
  f.g.wf && f.ty.isFp && f.sub == 0 && f.c.unused && !f.sat && !f.nb && !f.xb

def wfQuad (f : VF) (lo : Nat) : Bool :=
  f.g.wf && f.ty.isB && f.rm == .rne && f.a.isV && f.b.unused && f.c.unused && f.dEven && f.aEven && f.noMods &&
    decide (lo ≤ f.sub.toNat) && f.sub.toNat < 4

def wfLxch (f : VF) : Bool :=
  f.g.wf && f.ty.isB && f.rm == .rne && f.a.isV && f.c.unused && f.dEven && f.aEven && f.noMods && f.sub.toNat < 4

/-- gred and gscan, R158. -/
def wfReduce (f : VF) (scan : Bool) : Bool :=
  let op := f.sub.toNat % 8
  f.g.wf && f.b.unused && f.c.unused && f.noSign && f.dEven && f.aEven && decide (op < 6) && f.sub.toNat / 8 % 2 == 0 &&
    (scan || f.sub.toNat < 16) &&
    (if op < 3 then f.ty.isWideInt || f.ty == .f32 else f.ty.isB) &&
    (f.rm == .rne || (op == 0 && f.ty == .f32)) && (!f.sat || (op == 0 && f.ty.isWideInt))

def wfRand (f : VF) : Bool :=
  f.g.wf && f.ty == .b32 && f.plainEnd && f.a.unused && f.b.unused && f.c.unused && f.noMods

def wfVrd (f : VF) : Bool :=
  f.g.wf && f.ty.isB && f.plainEnd && f.d.toNat < 64 && f.a.isV && f.aEven && !f.b.isV && f.c.unused && f.noMods

def wfVwr (f : VF) : Bool :=
  f.g.wf && f.ty.isB && f.plainEnd && f.dEven && !f.a.isV && !f.b.isV && f.c.unused && f.noMods

def wfVote (f : VF) : Bool :=
  f.g.wf && f.ty == .b32 && f.rm == .rne && f.noMods && f.a.isPred && f.b.unused && f.c.unused &&
    (if f.sub.toNat < 3 then f.dPred else f.sub.toNat == 3 || f.sub.toNat == 7)

def wfTvote (f : VF) : Bool :=
  f.g.none && f.ty == .b32 && f.rm == .rne && f.noMods && f.a.isPred && f.b.unused && f.c.unused &&
    (if f.sub.toNat < 3 then f.dPred else f.sub.toNat == 3)

end VF

namespace SF

/-- IMMF chooses IMM32 or B, and the other is zero, R74. -/
def second (f : SF) : Bool := if f.immf then f.b == 0 else f.imm == 0

def wfScalar (f : SF) : Bool := f.g.wf && f.second
def wfSmovi (f : SF) : Bool := f.g.wf && f.immf && f.a == 0 && f.b == 0
def num (f : SF) : Nat := f.imm.toNat % 256
def vreg (f : SF) : Nat := f.imm.toNat / 256 % 256

/-- mfs, R163. -/
def wfMfs (f : SF) : Bool :=
  f.g.wf && f.immf && !f.w64 && f.b == 0 && f.a == 0 && decide (f.imm.toNat < 65536) && decide (f.num ≤ 0x15) &&
    (if f.num == 0 then f.d == 0 else f.vreg == 0)

/-- mts of FMT and of the H-RW trap registers, R163. -/
def wfMts (f : SF) : Bool :=
  f.g.wf && f.immf && !f.w64 && f.b == 0 && f.d == 0 &&
    (f.imm == 0x0C || f.imm == 0x11 || f.imm == 0x12 || f.imm == 0x13 || f.imm == 0x14)

def wfMtsSeed (f : SF) : Bool := f.g.wf && f.immf && !f.w64 && f.b == 0 && f.d == 0 && f.imm == 0x0D

def wfFmtset (f : SF) : Bool :=
  f.g.wf && f.a == 0 && !f.w64 && decide (1 ≤ f.d.toNat) && f.d.toNat < 32 && f.second

def wfJmp (f : SF) : Bool := f.g.wf && f.d == 0 && !f.w64 && f.second
def wfBwait (f : SF) : Bool := f.g.none && decide (32 ≤ f.d.toNat) && f.a == 0 && !f.w64 && f.second

/-- The shape of bar, barwait, pbar, tcall, tret and join, R204. -/
def wfTeam (f : SF) (coll useD useA : Bool) (lim : Nat) : Bool :=
  (if coll then f.g.none else f.g.wf) && (useD || f.d == 0) && (useA || f.a == 0) && f.immf && f.b == 0 && !f.w64 &&
    decide (f.imm.toNat ≤ lim)

def wfBarexp (f : SF) : Bool :=
  f.g.wf && !f.w64 && f.a.toNat < 2 && f.second && (f.a == 0 || (f.immf && f.imm == 0))

def wfFork (f : SF) : Bool :=
  f.g.wf && !f.w64 && f.immf && decide (1 ≤ f.d.toNat) && f.d.toNat < 32 && decide (2 ≤ f.a.toNat) &&
    decide (f.a.toNat ≤ 32) && f.b.toNat < 2

def wfSkein (f : SF) : Bool :=
  f.g.none && !f.w64 && f.d == 0 && f.a == 0 && f.second && (!f.immf || (decide (1 ≤ f.imm.toNat) && decide (f.imm.toNat ≤ 128)))

def wfGangset (f : SF) : Bool :=
  f.g.none && !f.w64 && f.d == 0 && f.b == 0 && (if f.immf then f.a == 0 else f.imm == 0)

end SF

namespace BF

def wfBranch (f : BF) : Bool := f.g.wf && (f.ck != .always || f.cs == 0)
def wfRet (f : BF) : Bool := f.wfBranch && f.disp == 0
def wfLoop (f : BF) : Bool := f.g.wf && f.ck == .nonzero
def wfBare (f : BF) : Bool := f.g.wf && f.disp == 0 && f.cs == 0 && f.ck == .always

end BF

/-- Registers a size names: alignment of the first, R64, R70. -/
def Size.align : Size → Nat
  | .b64 => 2 | .x4 => 4 | .x8 => 8 | _ => 1

/-- Bytes of a size, R70. -/
def Size.bytes : Size → Nat
  | .b8 => 1 | .b16 => 2 | .b32 => 4 | .b64 => 8 | .x4 => 16 | .x8 => 32

/-- Scope code, R69. -/
def Scope.code : Scope → Nat
  | .lane => 0 | .quad => 1 | .group => 2 | .gang => 3 | .team => 4 | .core => 5 | .cluster => 6 | .device => 7
  | .domain => 8 | .host => 9 | .system => 10 | .none => 15

def Scope.wide (s : Scope) : Bool := decide (8 ≤ s.code) && s != .none

namespace MF

def isScoped (f : MF) : Bool := f.sc != .none
def ordWf (f : MF) (allowed : List Order) : Bool := if f.isScoped then allowed.contains f.ord else f.ord == .rlx
def sizeWf (f : MF) : Bool := !f.isScoped || (f.sz != .x4 && f.sz != .x8)

/-- ld, lds, ldc (load), st, sts, stc, R246. -/
def wfAccess (f : MF) (load : Bool) : Bool :=
  f.g.wf && f.ordWf (if load then [.rlx, .acq, .sc] else [.rlx, .rel, .sc]) && f.sizeWf && f.t.toNat % f.sz.align == 0

def wfScalar (f : MF) (load : Bool) : Bool :=
  f.g.wf && f.ordWf (if load then [.rlx, .acq, .sc] else [.rlx, .rel, .sc]) && f.t.toNat < 64 && f.off == 0xFF &&
    f.sz != .x4 && f.sz != .x8

def wfPref (f : MF) : Bool := f.g.wf && f.t.toNat < 2 && f.sz == .b8 && f.sc == .none && f.ord == .rlx

/-- cwb, cinv, cwbi, R284. -/
def wfRange (f : MF) : Bool :=
  f.g.wf && f.t.toNat < 64 && f.off == 0xFF && f.ord == .rlx && f.sz == .b8 && f.sc != .none && decide (6 ≤ f.sc.code)

def wfFence (f : MF) : Bool :=
  f.g.wf && f.sc != .none && f.ord != .rlx && f.t == 0 && f.base == 0 && f.sz == .b8 && f.disp == 0 && f.off == 0xFF

/-- rld, rst, R315. -/
def wfRemote (f : MF) (load : Bool) : Bool :=
  f.g.wf && (f.sc == .none || f.sc.wide) && f.ordWf (if load then [.rlx, .acq, .sc] else [.rlx, .rel, .sc]) && f.sizeWf &&
    f.t.toNat % f.sz.align == 0 && f.off.toNat % 2 == 0

end MF

namespace AF

def regOk (f : AF) (r : BitVec 8) : Bool := f.sz == .b32 || r.toNat % 2 == 0

/-- The limits that atom, red, atoms and ratom share, R251, R280. -/
def wfCommon (f : AF) : Bool :=
  f.g.wf && f.sc != .none && (f.sz == .b32 || f.sz == .b64) && (f.aop == .cas || f.cmp == 0) && f.regOk f.opnd &&
    f.regOk f.cmp && (f.t == 0xFF || f.regOk f.t)

def wfRed (f : AF) : Bool :=
  f.wfCommon && f.t == 0xFF && (f.ord == .rlx || f.ord == .rel) && f.aop != .exch && f.aop != .cas

def wfRatom (f : AF) : Bool := f.wfCommon && f.sc.wide && f.off.toNat % 2 == 0

end AF

namespace XF

def blank (f : XF) (s1 s2 v cq imm : Bool) : Bool :=
  f.g.wf && (s1 || f.s1 == 0) && (s2 || f.s2 == 0) && (if v then f.v != 0xFF else f.v == 0xFF) && (cq || f.cq == 0) &&
    (imm || f.imm == 0)

def barOk (f : XF) : Bool := f.ct == .bar || f.bar == 0
def noTarget (f : XF) : Bool := f.ct == .none && f.bar == 0
def scopeFrom (f : XF) (lo : Nat) : Bool := f.sc == .none || decide (lo ≤ f.sc.code)

def wfCpy (f : XF) : Bool := f.blank true false false true (f.ct == .cont) && f.barOk && f.scopeFrom 6
def wfCpym (f : XF) : Bool := f.blank true true true true false && f.barOk && f.ct != .cont && f.sc == .none
def wfPatadv (f : XF) : Bool :=
  f.blank false (f.imm == 0) false false true && f.noTarget && f.sc == .none && decide (f.imm.toNat < 65536)
def wfPatq (f : XF) : Bool :=
  f.blank true false false (decide (f.imm.toNat < 4)) true && f.noTarget && f.sc == .none && decide (f.imm.toNat < 8)
def wfQfence (f : XF) : Bool :=
  f.blank false false false (decide (f.imm.toNat < 32)) true && f.noTarget && f.sc == .none && decide (f.imm.toNat < 64)
def wfGath (f : XF) : Bool := f.blank true false false false (f.ct == .cont) && f.barOk && f.scopeFrom 6
def wfCpyres (f : XF) : Bool :=
  f.blank false false false (decide (f.imm.toNat < 2)) true && f.noTarget && f.sc == .none && decide (f.imm.toNat < 4)
def wfMsend (f : XF) : Bool := f.blank true false false false false && f.noTarget && f.scopeFrom 7
def wfMpost (f : XF) : Bool := f.blank true false false false false && f.noTarget && f.sc == .none
def wfMcancel (f : XF) : Bool := f.blank true true false false false && f.noTarget && f.sc == .none
def wfMprobe (f : XF) : Bool :=
  f.blank true true false false true && f.noTarget && f.sc == .none && decide (f.imm.toNat < 64) && f.imm.toNat % 2 == 0
def wfSubon (f : XF) : Bool :=
  f.blank true true false false true && f.noTarget && f.sc == .none && decide (1 ≤ f.imm.toNat) && decide (f.imm.toNat ≤ 1024)
def wfSuboff (f : XF) : Bool := f.blank true false false false false && f.noTarget && f.sc == .none
def wfSubflush (f : XF) : Bool := f.blank false false false false false && f.noTarget && f.sc == .none
def wfXshfl (f : XF) : Bool := f.blank false true true false true && f.noTarget && f.sc == .none
def wfColl (f : XF) : Bool :=
  f.blank true false false false (f.ct == .cont) && f.bar == 0 && f.ct != .bar && f.scopeFrom 7

end XF

namespace TF

def blank (f : TF) (v s1 s2 bank nb : Bool) : Bool :=
  (v || f.v == 0xFF) && (s1 || f.s1 == 0) && (s2 || f.s2 == 0) && f.s3 == 0 && (bank || f.bank == 0) && (nb || f.nb == 0)

def count (f : TF) : Bool := decide (1 ≤ f.nb.toNat) && decide (f.bank.toNat + f.nb.toNat ≤ 32)
def vOk (f : TF) : Bool := f.v.toNat % 8 == 0 && decide (f.v.toNat ≤ 224)

def wfAccalloc (f : TF) : Bool := f.g.none && f.blank false true false false true && f.count && f.sub == 0
def wfAccfree (f : TF) : Bool := f.g.none && f.blank false false false true true && f.count && f.sub == 0
def wfAcczero (f : TF) : Bool := f.g.wf && f.blank false false false true true && f.count && f.sub == 0
def wfMma (f : TF) : Bool := f.g.none && f.blank false true true true false && f.sub.toNat < 2
def wfAccmove (f : TF) : Bool := f.g.wf && f.blank true false false true false && f.vOk && f.sub == 0
def wfFifodrop (f : TF) : Bool := f.g.wf && f.blank false true false false true && f.count && f.sub.toNat < 2
def wfFifostat (f : TF) : Bool := f.g.wf && f.blank false true false false false && f.sub == 0

end TF

/-- The privileged register numbers that R447 assigns. -/
def privAssigned (n : Nat) : Bool :=
  decide (n ≤ 0x000B) || (decide (0x0010 ≤ n) && decide (n ≤ 0x0017)) || n == 0x0020 ||
    (decide (0x0028 ≤ n) && decide (n ≤ 0x002F)) || (decide (0x0100 ≤ n) && decide (n ≤ 0x0303)) ||
    (decide (0x0380 ≤ n) && decide (n ≤ 0x0383)) || (decide (0x0390 ≤ n) && decide (n ≤ 0x03AF)) ||
    (decide (0x4000 ≤ n) && decide (n < 0x4400) && decide ((n - 0x4000) / 32 < 26) && decide ((n - 0x4000) % 32 < 26) &&
      (n - 0x4000) / 32 != (n - 0x4000) % 32)

/-- The privileged registers that are read-only to every writer, R447. -/
def privReadOnly (n : Nat) : Bool :=
  [0x0000, 0x0001, 0x0002, 0x0005, 0x0009, 0x000A, 0x000B, 0x0381, 0x0382, 0x0383].contains n

/-- ROUTE, HVEC and INJCTL have rows of their own in the opcode table. -/
def privRoute (n : Nat) : Bool := decide (0x4000 ≤ n)
def privHvec (n : Nat) : Bool := n == 0x0004
def privInjctl (n : Nat) : Bool := decide (0x0390 ≤ n) && decide (n ≤ 0x039F)

namespace YF

def blank (f : YF) (d a b sub imm : Bool) : Bool :=
  f.g.wf && f.sc == .lane && (d || f.d == 0) && (a || f.a == 0) && (b || f.b == 0) && (sub || f.sub == 0) && (imm || f.imm == 0)

def wfImm (f : YF) (lim : Nat) : Bool := f.blank false false false false true && decide (f.imm.toNat ≤ lim)
def wfEret (f : YF) : Bool := f.g.none && f.blank false false false false false
def wfSysrd (f : YF) : Bool := f.blank true false false false true && privAssigned f.imm.toNat
def wfWrite (f : YF) : Bool :=
  f.blank false true false false true && privAssigned f.imm.toNat && !privReadOnly f.imm.toNat
def wfSyswr (f : YF) : Bool :=
  f.wfWrite && !privRoute f.imm.toNat && !privHvec f.imm.toNat && !privInjctl f.imm.toNat
def wfXinv (f : YF) (form : Nat) : Bool :=
  f.blank false (decide (form < 2)) (form == 1) true false && f.sub.toNat % 4 == form &&
    decide (f.sub.toNat < (if form == 2 then 4 else 8))
def wfGkill (f : YF) : Bool := f.blank true true false true false && decide (f.sub.toNat < 2)

end YF

/-- The opcodes R85 assigns. -/
def opcAssigned (o : Nat) : Bool :=
  decide (o ≤ 0x1A) || (decide (0x20 ≤ o) && decide (o ≤ 0x39)) || (decide (0x40 ≤ o) && decide (o ≤ 0x5A)) ||
    (decide (0x60 ≤ o) && decide (o ≤ 0x6C)) || (decide (0x70 ≤ o) && decide (o ≤ 0x7B)) ||
    (decide (0x80 ≤ o) && decide (o ≤ 0x83)) || (decide (0x90 ≤ o) && decide (o ≤ 0x92)) ||
    (decide (0xA0 ≤ o) && decide (o ≤ 0xA9)) || (decide (0xB0 ≤ o) && decide (o ≤ 0xB8)) ||
    (decide (0xC0 ≤ o) && decide (o ≤ 0xC7)) || (decide (0xD0 ≤ o) && decide (o ≤ 0xD8))

/-- The privileged opcodes, R86. -/
def opcPrivileged (o : Nat) : Bool := [0xD1, 0xD3, 0xD4, 0xD5, 0xD6, 0xD8].contains o

/-- The bits [63:56] of a word, R61. -/
def opcOf (w : BitVec 64) : Nat := w.toNat / 2 ^ 56

/-- An instruction that some word encodes: decode step 4 passes on it. Events have no word, and this is false of them. -/
def Instr.wf : Instr → Bool
  | .iadd f => f.wfArith true true
  | .isub f => f.wfArith true true
  | .imul f => f.wfArith true true
  | .imulhi f => f.wfArith false false
  | .imad f => f.wfImad
  | .imin f => f.wfArith false true
  | .imax f => f.wfArith false true
  | .iabs f => f.wfIabs
  | .vand f => f.wfLogic
  | .vor f => f.wfLogic
  | .vxor f => f.wfLogic
  | .blut f => f.wfBlut
  | .shl f => f.wfShift [.b32, .b64, .n16x2, .n8x4]
  | .shr f => f.wfShift [.b32, .b64, .n16x2, .n8x4]
  | .sar f => f.wfShift [.i32, .i64, .i16x2, .i8x4]
  | .funnel f => f.wfFunnel
  | .popc f => f.wfUnaryB
  | .clz f => f.wfUnaryB
  | .brev f => f.wfUnaryB
  | .bfe f => f.wfBfe
  | .bfi f => f.wfBfi
  | .icmp f => f.wfIcmp
  | .sel f => f.wfSel
  | .mov f => f.wfUnaryB
  | .movi f => f.g.wf
  | .ishadd f => f.wfIshadd
  | .bytesel f => f.wfBytesel
  | .fadd f => f.wfFp false true
  | .fsub f => f.wfFp false true
  | .fmul f => f.wfFp false true
  | .fma f => f.wfFp true true
  | .fmin f => f.wfFp false false
  | .fmax f => f.wfFp false false
  | .fcmp f => f.wfFcmp
  | .fclass f => f.wfFclass
  | .frcp f => f.wfTrans
  | .frsq f => f.wfTrans
  | .fsqrt f => f.wfTrans
  | .fexp2 f => f.wfTrans
  | .flog2 f => f.wfTrans
  | .frred f => f.wfTrans
  | .fsin f => f.wfTrans
  | .fcos f => f.wfTrans
  | .cvt f => f.wfCvt
  | .fdot2 f => f.wfFdot2
  | .lcdec f => f.wfLcdec
  | .fscale f => f.wfFscale
  | .qswap f => f.wfQuad 1
  | .qbcast f => f.wfQuad 0
  | .lxch f => f.wfLxch
  | .gred f => f.wfReduce false
  | .gscan f => f.wfReduce true
  | .rand f => f.wfRand
  | .sadd f => f.wfScalar
  | .ssub f => f.wfScalar
  | .smul f => f.wfScalar
  | .sand f => f.wfScalar
  | .sor f => f.wfScalar
  | .sxor f => f.wfScalar
  | .sshl f => f.wfScalar
  | .sshr f => f.wfScalar
  | .ssar f => f.wfScalar
  | .scmp f => f.wfScalar
  | .smovi f => f.wfSmovi
  | .vrd f => f.wfVrd
  | .vwr f => f.wfVwr
  | .mfs f => f.wfMfs
  | .mts f => f.wfMts
  | .mtsSeed f => f.wfMtsSeed
  | .fmtset f => f.wfFmtset
  | .bra f => f.wfBranch
  | .brp f => f.g.wf
  | .jmp f => f.wfJmp
  | .call f => f.wfBranch
  | .ret f => f.wfRet
  | .bwait f => f.wfBwait
  | .vote f => f.wfVote
  | .exitG f => f.wfBare
  | .yield f => f.wfBare
  | .nop f => f.wfBare
  | .loop f => f.wfLoop
  | .bar f => f.wfTeam true false false 63
  | .bararr f => f.wfTeam true true false 63
  | .barwait f => f.wfTeam false false true 63
  | .barexp f => f.wfBarexp
  | .pbar f => f.wfTeam true false false 0
  | .tcall f => f.wfTeam true false true 0
  | .tret f => f.wfTeam true false false 128
  | .tvote f => f.wfTvote
  | .fork f => f.wfFork
  | .join f => f.wfTeam false false false 0
  | .skgive f => f.wfSkein
  | .sktake f => f.wfSkein
  | .gangset f => f.wfGangset
  | .ld f => f.wfAccess true
  | .st f => f.wfAccess false
  | .lds f => f.wfAccess true
  | .sts f => f.wfAccess false
  | .ldc f => f.wfAccess true
  | .stc f => f.wfAccess false
  | .sld f => f.wfScalar true
  | .sst f => f.wfScalar false
  | .pref f => f.wfPref
  | .cwb f => f.wfRange
  | .cinv f => f.wfRange
  | .cwbi f => f.wfRange
  | .atom f => f.wfCommon
  | .red f => f.wfRed
  | .atoms f => f.wfCommon
  | .fence f => f.wfFence
  | .rld f => f.wfRemote true
  | .rst f => f.wfRemote false
  | .ratom f => f.wfRatom
  | .cpy f => f.wfCpy
  | .cpym f => f.wfCpym
  | .patadv f => f.wfPatadv
  | .patq f => f.wfPatq
  | .qfence f => f.wfQfence
  | .gath f => f.wfGath
  | .qpush f => f.g.wf && f.pd == 0
  | .qpop f => f.g.wf && f.pd == 0
  | .qtry f => f.g.wf
  | .cpyres f => f.wfCpyres
  | .msend f => f.wfMsend
  | .mpost f => f.wfMpost
  | .mcancel f => f.wfMcancel
  | .mprobe f => f.wfMprobe
  | .subon f => f.wfSubon
  | .suboff f => f.wfSuboff
  | .subflush f => f.wfSubflush
  | .xshfl f => f.wfXshfl
  | .coll f => f.wfColl
  | .accalloc f => f.wfAccalloc
  | .accfree f => f.wfAccfree
  | .acczero f => f.wfAcczero
  | .mma f => f.wfMma
  | .accld f => f.wfAccmove
  | .accst f => f.wfAccmove
  | .fifodrop f => f.wfFifodrop
  | .fifostat f => f.wfFifostat
  | .trapSw f => f.wfImm 65535
  | .eret f => f.wfEret
  | .pmark f => f.wfImm 65535
  | .sysrd f => f.wfSysrd
  | .syswr f => f.wfSyswr
  | .syswrRoute f => f.wfWrite && privRoute f.imm.toNat
  | .syswrHvec f => f.wfWrite && privHvec f.imm.toNat
  | .syswrInjctl f => f.wfWrite && privInjctl f.imm.toNat
  | .xinvPage f => f.wfXinv 0
  | .xinvRange f => f.wfXinv 1
  | .xinvCtx f => f.wfXinv 2
  | .errinj f => f.wfImm 15
  | .brk f => f.wfImm 65535
  | .gkill f => f.wfGkill
  | .clauseEntry => false
  | .bwaitTimeout _ _ => false
  | .loadReplyCommit _ _ => false
  | .storeAck _ _ => false
  | .groupAdmission _ => false
  | .swapOut _ => false
  | .fairnessSwap _ => false
  | .skeinDeadlockDetect _ => false
  | .pendingTrapDelivery _ => false
  | .pageWalkComplete _ _ _ => false
  | .l2WriteBack _ _ => false
  | .l2Recall _ _ _ => false
  | .homeReadShared _ _ => false
  | .homeReadForOwnership _ _ => false
  | .homeWriteBackMerge _ => false
  | .homeAtomic _ => false
  | .checkPhase _ _ => false
  | .checkCommit _ _ => false
  | .checkAbort _ _ => false
  | .checkClose _ => false
  | .remoteIngress _ => false
  | .remoteAnswer _ _ _ => false
  | .remoteTimeout _ _ => false
  | .colourFail _ _ _ => false
  | .colourRecover _ _ _ => false
  | .routeDrainComplete _ _ => false
  | .flitCrcReplay _ _ => false
  | .routeLossDetect _ _ _ => false
  | .dieFence _ => false
  | .dieLostDeclare _ => false
  | .chipletRouteLoss _ => false
  | .copyEntryStart _ _ => false
  | .copyBatchDelivery _ _ _ _ => false
  | .copyEntryComplete _ _ => false
  | .copyEntryFault _ _ _ => false
  | .patternRowStep _ => false
  | .heldCompletionPost _ _ => false
  | .hookSend _ => false
  | .hookHeaderArrival _ => false
  | .rendezvousPullComplete _ _ => false
  | .messageRetry _ _ => false
  | .subUpdateForward _ => false
  | .subUpdateApply _ => false
  | .xshflTimeout _ => false
  | .collComplete _ _ _ => false
  | .mmaBand _ => false
  | .preemptRequest _ _ => false
  | .preemptDeadline _ => false
  | .handlerPreemptLimit _ => false
  | .saveSequence _ => false
  | .contextResume _ _ => false
  | .qtail _ _ _ => false
  | .queuePriorityAging _ _ => false
  | .launchStart _ => false
  | .teamPlacement _ _ => false
  | .workSteal _ _ => false
  | .launchComplete _ => false
  | .abortLaunch _ => false
  | .warmReset => false
  | .coldReset => false
  | .powcap _ => false
  | .hostCxlAccess _ => false
  | .budgetPeriod _ _ _ => false
  | .keyExhaust _ _ => false
  | .keyInstall _ _ => false
  | .keyTimeout _ _ => false
  | .correctedError _ => false
  | .uncorrectedError _ => false
  | .scrubPass _ => false
  | .thermalThrottle _ => false
  | .thermalRecover _ => false
  | .thermalShutdown => false
  | .illegalOp w => !opcAssigned (opcOf w)
  | .scaleUpPortLoss _ => false

end Sys2Proof
end

