-- ==== Sys2Proof/Decode.lean ====
section
/-! DEFINITION. Decoding and encoding of instruction words (R61-R86). Decoding is total: it answers an instruction, or the
rejection of decode step 4 by name. Unassigned opcodes decode to `illegalOp`, whose meaning is the trap of decode step 2. -/

namespace Sys2Proof

/-- Why a word is not an instruction: some field holds an illegal code or a nonzero MBZ bit, decode step 4, R87, R90. -/
inductive Reject where
  | illegalField (opc : Nat)
  deriving DecidableEq, Repr

/-- Fields packed from bit 0 upwards: each is a width and a value. -/
def pack : List (Nat × Nat) → Nat
  | [] => 0
  | (w, v) :: rest => v % 2 ^ w + 2 ^ w * pack rest

/-- The values of fields of the given widths, from bit 0 upwards. -/
def unpack : List Nat → Nat → List Nat
  | [], _ => []
  | w :: rest, n => n % 2 ^ w :: unpack rest (n / 2 ^ w)

def boolCode (b : Bool) : Nat := if b then 1 else 0

/-- TY codes, R67. -/
def Ty.code : Ty → Nat
  | .b32 => 0 | .i32 => 1 | .n32 => 2 | .i64 => 3 | .n64 => 4 | .f32 => 5 | .f16x2 => 6 | .bf16x2 => 7 | .i16x2 => 8
  | .n16x2 => 9 | .i8x4 => 10 | .n8x4 => 11 | .e4m3x4 => 12 | .e5m2x4 => 13 | .b64 => 14

/-- RM codes, R68. -/
def Rm.code : Rm → Nat
  | .rne => 0 | .rtz => 1 | .rdn => 2 | .rup => 3 | .rna => 4 | .sr => 5 | .fmt => 6
def Rm.ofCode : Nat → Option Rm
  | 0 => some .rne | 1 => some .rtz | 2 => some .rdn | 3 => some .rup | 4 => some .rna | 5 => some .sr | 6 => some .fmt
  | _ => none

/-- SC codes, R69. -/
def Scope.ofCode : Nat → Option Scope
  | 0 => some .lane | 1 => some .quad | 2 => some .group | 3 => some .gang | 4 => some .team | 5 => some .core
  | 6 => some .cluster | 7 => some .device | 8 => some .domain | 9 => some .host | 10 => some .system | 15 => some .none
  | _ => Option.none

/-- ORD codes, R69. -/
def Order.code : Order → Nat
  | .rlx => 0 | .acq => 1 | .rel => 2 | .ar => 3 | .sc => 4
def Order.ofCode : Nat → Option Order
  | 0 => some .rlx | 1 => some .acq | 2 => some .rel | 3 => some .ar | 4 => some .sc | _ => none

/-- SZ codes, R70. -/
def Size.code : Size → Nat
  | .b8 => 0 | .b16 => 1 | .b32 => 2 | .b64 => 3 | .x4 => 4 | .x8 => 5
def Size.ofCode : Nat → Option Size
  | 0 => some .b8 | 1 => some .b16 | 2 => some .b32 | 3 => some .b64 | 4 => some .x4 | 5 => some .x8 | _ => none

/-- AOP codes, R71. -/
def Aop.code : Aop → Nat
  | .add => 0 | .min => 1 | .max => 2 | .and => 3 | .or => 4 | .xor => 5 | .exch => 6 | .cas => 7 | .inc => 8 | .dec => 9
  | .faddF32 => 10 | .faddBf16x2 => 11 | .fmin => 12 | .fmax => 13
def Aop.ofCode : Nat → Option Aop
  | 0 => some .add | 1 => some .min | 2 => some .max | 3 => some .and | 4 => some .or | 5 => some .xor | 6 => some .exch
  | 7 => some .cas | 8 => some .inc | 9 => some .dec | 10 => some .faddF32 | 11 => some .faddBf16x2 | 12 => some .fmin
  | 13 => some .fmax | _ => none

/-- CK codes, R78. -/
def Ck.code : Ck → Nat
  | .always => 0 | .nonzero => 1 | .zero => 2
def Ck.ofCode : Nat → Option Ck
  | 0 => some .always | 1 => some .nonzero | 2 => some .zero | _ => none

/-- CT codes, R81. -/
def Ct.code : Ct → Nat
  | .none => 0 | .bar => 1 | .cnt => 2 | .cont => 3
def Ct.ofCode : Nat → Option Ct
  | 0 => some .none | 1 => some .bar | 2 => some .cnt | 3 => some .cont | _ => Option.none

/-- The scalar flag of a V-format source, R65. -/
def Src.flag : Src → Nat
  | .v _ => 0 | _ => 1

/-- The field of a V-format source, R65. -/
def Src.field : Src → Nat
  | .v r => r.toNat
  | .s r => r.toNat
  | .imm k => 64 + k.toNat

/-- A V-format source from its flag and field, R65. -/
def Src.ofField (flag field : Nat) : Option Src :=
  if flag == 0 then some (.v (BitVec.ofNat 8 field))
  else if field < 64 then some (.s (BitVec.ofNat 6 field))
  else if field < 128 then some (.imm (BitVec.ofNat 6 (field - 64)))
  else none

/-- PS, PN and OPC, the top fields of every format, R61. -/
def encTop (opc : Nat) (g : Guard) : List (Nat × Nat) := [(3, g.ps.toNat), (1, boolCode g.pn), (8, opc)]

def decTop (ps pn : Nat) : Guard := ⟨pn == 1, BitVec.ofNat 3 ps⟩

/-- The fields of V format from bit 0 upwards, R72. -/
def layV : List Nat := [5, 1, 1, 1, 1, 1, 3, 1, 1, 1, 4, 8, 8, 8, 8, 3, 1, 8]

def encV (opc : Nat) (f : VF) : Word :=
  BitVec.ofNat 64 (pack ([(5, f.sub.toNat), (1, boolCode f.xb), (1, boolCode f.xa), (1, boolCode f.nb), (1, boolCode f.na), (1, boolCode f.sat), (3, f.rm.code), (1, f.c.flag), (1, f.b.flag), (1, f.a.flag), (4, f.ty.code), (8, f.c.field), (8, f.b.field), (8, f.a.field), (8, f.d.toNat)] ++ encTop opc f.g))

def decV (w : Word) : Option VF :=
  match unpack layV w.toNat with
  | [sub, xb, xa, nb, na, sat, rm, sc, sb, sa, ty, c, b, a, d, ps, pn, _] =>
    match Rm.ofCode rm, Ty.ofCode ty, Src.ofField sc c, Src.ofField sb b, Src.ofField sa a with
    | some rm', some ty', some c', some b', some a' =>
      some { g := decTop ps pn, sub := BitVec.ofNat 5 sub, xb := xb == 1, xa := xa == 1, nb := nb == 1, na := na == 1, sat := sat == 1, rm := rm', ty := ty', c := c', b := b', a := a', d := BitVec.ofNat 8 d }
    | _, _, _, _, _ => none
  | _ => none

/-- The fields of movi in the V format from bit 0 upwards, R73. -/
def layMovi : List Nat := [12, 32, 8, 3, 1, 8]

def encMovi (opc : Nat) (f : MoviF) : Word :=
  BitVec.ofNat 64 (pack ([(12, 0), (32, f.imm.toNat), (8, f.d.toNat)] ++ encTop opc f.g))

def decMovi (w : Word) : Option MoviF :=
  match unpack layMovi w.toNat with
  | [z, imm, d, ps, pn, _] =>
    if z != 0 then none else
    some { g := decTop ps pn, imm := BitVec.ofNat 32 imm, d := BitVec.ofNat 8 d }
  | _ => none

/-- The fields of S format from bit 0 upwards, R74. -/
def layS : List Nat := [32, 1, 6, 1, 6, 6, 3, 1, 8]

def encS (opc : Nat) (f : SF) : Word :=
  BitVec.ofNat 64 (pack ([(32, f.imm.toNat), (1, boolCode f.w64), (6, f.b.toNat), (1, boolCode f.immf), (6, f.a.toNat), (6, f.d.toNat)] ++ encTop opc f.g))

def decS (w : Word) : Option SF :=
  match unpack layS w.toNat with
  | [imm, w64, b, immf, a, d, ps, pn, _] =>
    some { g := decTop ps pn, imm := BitVec.ofNat 32 imm, w64 := w64 == 1, b := BitVec.ofNat 6 b, immf := immf == 1, a := BitVec.ofNat 6 a, d := BitVec.ofNat 6 d }
  | _ => none

/-- The fields of M format from bit 0 upwards, R76. -/
def layM : List Nat := [20, 3, 3, 4, 8, 6, 8, 3, 1, 8]

def encM (opc : Nat) (f : MF) : Word :=
  BitVec.ofNat 64 (pack ([(20, f.disp.toNat), (3, f.sz.code), (3, f.ord.code), (4, f.sc.code), (8, f.off.toNat), (6, f.base.toNat), (8, f.t.toNat)] ++ encTop opc f.g))

def decM (w : Word) : Option MF :=
  match unpack layM w.toNat with
  | [disp, sz, ord, sc, off, base, t, ps, pn, _] =>
    match Size.ofCode sz, Order.ofCode ord, Scope.ofCode sc with
    | some sz', some ord', some sc' =>
      some { g := decTop ps pn, disp := BitVec.ofNat 20 disp, sz := sz', ord := ord', sc := sc', off := BitVec.ofNat 8 off, base := BitVec.ofNat 6 base, t := BitVec.ofNat 8 t }
    | _, _, _ => none
  | _ => none

/-- The fields of A format from bit 0 upwards, R77. -/
def layA : List Nat := [8, 8, 4, 3, 3, 4, 8, 6, 8, 3, 1, 8]

def encA (opc : Nat) (f : AF) : Word :=
  BitVec.ofNat 64 (pack ([(8, f.cmp.toNat), (8, f.opnd.toNat), (4, f.aop.code), (3, f.sz.code), (3, f.ord.code), (4, f.sc.code), (8, f.off.toNat), (6, f.base.toNat), (8, f.t.toNat)] ++ encTop opc f.g))

def decA (w : Word) : Option AF :=
  match unpack layA w.toNat with
  | [cmp, opnd, aop, sz, ord, sc, off, base, t, ps, pn, _] =>
    match Aop.ofCode aop, Size.ofCode sz, Order.ofCode ord, Scope.ofCode sc with
    | some aop', some sz', some ord', some sc' =>
      some { g := decTop ps pn, cmp := BitVec.ofNat 8 cmp, opnd := BitVec.ofNat 8 opnd, aop := aop', sz := sz', ord := ord', sc := sc', off := BitVec.ofNat 8 off, base := BitVec.ofNat 6 base, t := BitVec.ofNat 8 t }
    | _, _, _, _ => none
  | _ => none

/-- The fields of B format from bit 0 upwards, R78. -/
def layB : List Nat := [16, 2, 6, 28, 3, 1, 8]

def encB (opc : Nat) (f : BF) : Word :=
  BitVec.ofNat 64 (pack ([(16, 0), (2, f.ck.code), (6, f.cs.toNat), (28, f.disp.toNat)] ++ encTop opc f.g))

def decB (w : Word) : Option BF :=
  match unpack layB w.toNat with
  | [z, ck, cs, disp, ps, pn, _] =>
    if z != 0 then none else
    match Ck.ofCode ck with
    | some ck' =>
      some { g := decTop ps pn, ck := ck', cs := BitVec.ofNat 6 cs, disp := BitVec.ofNat 28 disp }
    | _ => none
  | _ => none

/-- The fields of P format from bit 0 upwards, R79. -/
def layP : List Nat := [12, 20, 20, 3, 1, 8]

def encP (opc : Nat) (f : PF) : Word :=
  BitVec.ofNat 64 (pack ([(12, 0), (20, f.rdisp.toNat), (20, f.tdisp.toNat)] ++ encTop opc f.g))

def decP (w : Word) : Option PF :=
  match unpack layP w.toNat with
  | [z, rdisp, tdisp, ps, pn, _] =>
    if z != 0 then none else
    some { g := decTop ps pn, rdisp := BitVec.ofNat 20 rdisp, tdisp := BitVec.ofNat 20 tdisp }
  | _ => none

/-- The fields of T format from bit 0 upwards, R80. -/
def layT : List Nat := [11, 4, 6, 5, 6, 6, 6, 8, 3, 1, 8]

def encT (opc : Nat) (f : TF) : Word :=
  BitVec.ofNat 64 (pack ([(11, 0), (4, f.sub.toNat), (6, f.nb.toNat), (5, f.bank.toNat), (6, f.s3.toNat), (6, f.s2.toNat), (6, f.s1.toNat), (8, f.v.toNat)] ++ encTop opc f.g))

def decT (w : Word) : Option TF :=
  match unpack layT w.toNat with
  | [z, sub, nb, bank, s3, s2, s1, v, ps, pn, _] =>
    if z != 0 then none else
    some { g := decTop ps pn, sub := BitVec.ofNat 4 sub, nb := BitVec.ofNat 6 nb, bank := BitVec.ofNat 5 bank, s3 := BitVec.ofNat 6 s3, s2 := BitVec.ofNat 6 s2, s1 := BitVec.ofNat 6 s1, v := BitVec.ofNat 8 v }
  | _ => none

/-- The fields of X format from bit 0 upwards, R81. -/
def layX : List Nat := [17, 4, 6, 3, 2, 8, 6, 6, 3, 1, 8]

def encX (opc : Nat) (f : XF) : Word :=
  BitVec.ofNat 64 (pack ([(17, f.imm.toNat), (4, f.sc.code), (6, f.bar.toNat), (3, f.ct.code), (2, f.cq.toNat), (8, f.v.toNat), (6, f.s2.toNat), (6, f.s1.toNat)] ++ encTop opc f.g))

def decX (w : Word) : Option XF :=
  match unpack layX w.toNat with
  | [imm, sc, bar, ct, cq, v, s2, s1, ps, pn, _] =>
    match Scope.ofCode sc, Ct.ofCode ct with
    | some sc', some ct' =>
      some { g := decTop ps pn, imm := BitVec.ofNat 17 imm, sc := sc', bar := BitVec.ofNat 6 bar, ct := ct', cq := BitVec.ofNat 2 cq, v := BitVec.ofNat 8 v, s2 := BitVec.ofNat 6 s2, s1 := BitVec.ofNat 6 s1 }
    | _, _ => none
  | _ => none

/-- The fields of Q format from bit 0 upwards, R82. -/
def layQ : List Nat := [31, 3, 3, 1, 6, 8, 3, 1, 8]

def encQ (opc : Nat) (f : QF) : Word :=
  BitVec.ofNat 64 (pack ([(31, 0), (3, f.pd.toNat), (3, f.qr.toNat), (1, 0), (6, f.s.toNat), (8, f.v.toNat)] ++ encTop opc f.g))

def decQ (w : Word) : Option QF :=
  match unpack layQ w.toNat with
  | [z, pd, qr, z2, s, v, ps, pn, _] =>
    if z != 0 || z2 != 0 then none else
    some { g := decTop ps pn, pd := BitVec.ofNat 3 pd, qr := BitVec.ofNat 3 qr, s := BitVec.ofNat 6 s, v := BitVec.ofNat 8 v }
  | _ => none

/-- The fields of Y format from bit 0 upwards, R83. -/
def layY : List Nat := [16, 10, 4, 4, 6, 6, 6, 3, 1, 8]

def encY (opc : Nat) (f : YF) : Word :=
  BitVec.ofNat 64 (pack ([(16, f.imm.toNat), (10, 0), (4, f.sub.toNat), (4, f.sc.code), (6, f.b.toNat), (6, f.a.toNat), (6, f.d.toNat)] ++ encTop opc f.g))

def decY (w : Word) : Option YF :=
  match unpack layY w.toNat with
  | [imm, z, sub, sc, b, a, d, ps, pn, _] =>
    if z != 0 then none else
    match Scope.ofCode sc with
    | some sc' =>
      some { g := decTop ps pn, imm := BitVec.ofNat 16 imm, sub := BitVec.ofNat 4 sub, sc := sc', b := BitVec.ofNat 6 b, a := BitVec.ofNat 6 a, d := BitVec.ofNat 6 d }
    | _ => none
  | _ => none

/-- The instruction of each opcode of V format, R84, R85. -/
def opV : Nat → Option (VF → Instr)
  | 0x00 => some .iadd
  | 0x01 => some .isub
  | 0x02 => some .imul
  | 0x03 => some .imulhi
  | 0x04 => some .imad
  | 0x05 => some .imin
  | 0x06 => some .imax
  | 0x07 => some .iabs
  | 0x08 => some .vand
  | 0x09 => some .vor
  | 0x0A => some .vxor
  | 0x0B => some .blut
  | 0x0C => some .shl
  | 0x0D => some .shr
  | 0x0E => some .sar
  | 0x0F => some .funnel
  | 0x10 => some .popc
  | 0x11 => some .clz
  | 0x12 => some .brev
  | 0x13 => some .bfe
  | 0x14 => some .bfi
  | 0x15 => some .icmp
  | 0x16 => some .sel
  | 0x17 => some .mov
  | 0x19 => some .ishadd
  | 0x1A => some .bytesel
  | 0x20 => some .fadd
  | 0x21 => some .fsub
  | 0x22 => some .fmul
  | 0x23 => some .fma
  | 0x24 => some .fmin
  | 0x25 => some .fmax
  | 0x26 => some .fcmp
  | 0x27 => some .fclass
  | 0x28 => some .frcp
  | 0x29 => some .frsq
  | 0x2A => some .fsqrt
  | 0x2B => some .fexp2
  | 0x2C => some .flog2
  | 0x2D => some .frred
  | 0x2E => some .fsin
  | 0x2F => some .fcos
  | 0x30 => some .cvt
  | 0x31 => some .fdot2
  | 0x32 => some .lcdec
  | 0x33 => some .fscale
  | 0x34 => some .qswap
  | 0x35 => some .qbcast
  | 0x36 => some .lxch
  | 0x37 => some .gred
  | 0x38 => some .gscan
  | 0x39 => some .rand
  | 0x4B => some .vrd
  | 0x4C => some .vwr
  | 0x56 => some .vote
  | 0x67 => some .tvote
  | _ => none

/-- The instruction of each opcode of movi in the V format, R84, R85. -/
def opMovi : Nat → Option (MoviF → Instr)
  | 0x18 => some .movi
  | _ => none

/-- The instruction of each opcode of S format, R84, R85. -/
def opS : Nat → Option (SF → Instr)
  | 0x40 => some .sadd
  | 0x41 => some .ssub
  | 0x42 => some .smul
  | 0x43 => some .sand
  | 0x44 => some .sor
  | 0x45 => some .sxor
  | 0x46 => some .sshl
  | 0x47 => some .sshr
  | 0x48 => some .ssar
  | 0x49 => some .scmp
  | 0x4A => some .smovi
  | 0x4D => some .mfs
  | 0x4E => some (fun f => if f.imm == 0x0D then .mtsSeed f else .mts f)
  | 0x4F => some .fmtset
  | 0x52 => some .jmp
  | 0x55 => some .bwait
  | 0x60 => some .bar
  | 0x61 => some .bararr
  | 0x62 => some .barwait
  | 0x63 => some .barexp
  | 0x64 => some .pbar
  | 0x65 => some .tcall
  | 0x66 => some .tret
  | 0x68 => some .fork
  | 0x69 => some .join
  | 0x6A => some .skgive
  | 0x6B => some .sktake
  | 0x6C => some .gangset
  | _ => none

/-- The instruction of each opcode of B format, R84, R85. -/
def opB : Nat → Option (BF → Instr)
  | 0x50 => some .bra
  | 0x53 => some .call
  | 0x54 => some .ret
  | 0x57 => some .exitG
  | 0x58 => some .yield
  | 0x59 => some .nop
  | 0x5A => some .loop
  | _ => none

/-- The instruction of each opcode of P format, R84, R85. -/
def opP : Nat → Option (PF → Instr)
  | 0x51 => some .brp
  | _ => none

/-- The instruction of each opcode of M format, R84, R85. -/
def opM : Nat → Option (MF → Instr)
  | 0x70 => some .ld
  | 0x71 => some .st
  | 0x72 => some .lds
  | 0x73 => some .sts
  | 0x74 => some .ldc
  | 0x75 => some .stc
  | 0x76 => some .sld
  | 0x77 => some .sst
  | 0x78 => some .pref
  | 0x79 => some .cwb
  | 0x7A => some .cinv
  | 0x7B => some .cwbi
  | 0x83 => some .fence
  | 0x90 => some .rld
  | 0x91 => some .rst
  | _ => none

/-- The instruction of each opcode of A format, R84, R85. -/
def opA : Nat → Option (AF → Instr)
  | 0x80 => some .atom
  | 0x81 => some .red
  | 0x82 => some .atoms
  | 0x92 => some .ratom
  | _ => none

/-- The instruction of each opcode of X format, R84, R85. -/
def opX : Nat → Option (XF → Instr)
  | 0xA0 => some .cpy
  | 0xA1 => some .cpym
  | 0xA2 => some .patadv
  | 0xA3 => some .patq
  | 0xA4 => some .qfence
  | 0xA5 => some .gath
  | 0xA9 => some .cpyres
  | 0xB0 => some .msend
  | 0xB1 => some .mpost
  | 0xB2 => some .mcancel
  | 0xB3 => some .mprobe
  | 0xB4 => some .subon
  | 0xB5 => some .suboff
  | 0xB6 => some .subflush
  | 0xB7 => some .xshfl
  | 0xB8 => some .coll
  | _ => none

/-- The instruction of each opcode of Q format, R84, R85. -/
def opQ : Nat → Option (QF → Instr)
  | 0xA6 => some .qpush
  | 0xA7 => some .qpop
  | 0xA8 => some .qtry
  | _ => none

/-- The instruction of each opcode of T format, R84, R85. -/
def opT : Nat → Option (TF → Instr)
  | 0xC0 => some .accalloc
  | 0xC1 => some .accfree
  | 0xC2 => some .acczero
  | 0xC3 => some .mma
  | 0xC4 => some .accld
  | 0xC5 => some .accst
  | 0xC6 => some .fifodrop
  | 0xC7 => some .fifostat
  | _ => none

/-- The instruction of each opcode of Y format, R84, R85. -/
def opY : Nat → Option (YF → Instr)
  | 0xD0 => some .trapSw
  | 0xD1 => some .eret
  | 0xD2 => some .pmark
  | 0xD3 => some .sysrd
  | 0xD4 => some (fun f => if privRoute f.imm.toNat then .syswrRoute f else if privHvec f.imm.toNat then .syswrHvec f else if privInjctl f.imm.toNat then .syswrInjctl f else .syswr f)
  | 0xD5 => some (fun f => if f.sub.toNat % 4 == 0 then .xinvPage f else if f.sub.toNat % 4 == 1 then .xinvRange f else .xinvCtx f)
  | 0xD6 => some .errinj
  | 0xD7 => some .brk
  | 0xD8 => some .gkill
  | _ => none

/-- The instruction that the fields of a word spell, before the checks of the instruction itself. -/
def decodeFields (w : Word) : Option Instr :=
  let o := opcOf w
  if !opcAssigned o then some (.illegalOp w)
  else if (opV o).isSome then (opV o).bind fun k => (decV w).map k
  else if (opMovi o).isSome then (opMovi o).bind fun k => (decMovi w).map k
  else if (opS o).isSome then (opS o).bind fun k => (decS w).map k
  else if (opB o).isSome then (opB o).bind fun k => (decB w).map k
  else if (opP o).isSome then (opP o).bind fun k => (decP w).map k
  else if (opM o).isSome then (opM o).bind fun k => (decM w).map k
  else if (opA o).isSome then (opA o).bind fun k => (decA w).map k
  else if (opX o).isSome then (opX o).bind fun k => (decX w).map k
  else if (opQ o).isSome then (opQ o).bind fun k => (decQ w).map k
  else if (opT o).isSome then (opT o).bind fun k => (decT w).map k
  else if (opY o).isSome then (opY o).bind fun k => (decY w).map k
  else none

/-- Decode steps 2 and 4 for one word, R87: total, and rejecting by name. -/
def decodeWord (w : Word) : Except Reject Instr :=
  match decodeFields w with
  | some i => if i.wf then .ok i else .error (.illegalField (opcOf w))
  | none => .error (.illegalField (opcOf w))

/-- The word of a well-formed instruction; a machine event has no word, and the encoder answers 0 for it. -/
def encode : Instr → Word
  | .iadd f => encV 0x00 f
  | .isub f => encV 0x01 f
  | .imul f => encV 0x02 f
  | .imulhi f => encV 0x03 f
  | .imad f => encV 0x04 f
  | .imin f => encV 0x05 f
  | .imax f => encV 0x06 f
  | .iabs f => encV 0x07 f
  | .vand f => encV 0x08 f
  | .vor f => encV 0x09 f
  | .vxor f => encV 0x0A f
  | .blut f => encV 0x0B f
  | .shl f => encV 0x0C f
  | .shr f => encV 0x0D f
  | .sar f => encV 0x0E f
  | .funnel f => encV 0x0F f
  | .popc f => encV 0x10 f
  | .clz f => encV 0x11 f
  | .brev f => encV 0x12 f
  | .bfe f => encV 0x13 f
  | .bfi f => encV 0x14 f
  | .icmp f => encV 0x15 f
  | .sel f => encV 0x16 f
  | .mov f => encV 0x17 f
  | .movi f => encMovi 0x18 f
  | .ishadd f => encV 0x19 f
  | .bytesel f => encV 0x1A f
  | .fadd f => encV 0x20 f
  | .fsub f => encV 0x21 f
  | .fmul f => encV 0x22 f
  | .fma f => encV 0x23 f
  | .fmin f => encV 0x24 f
  | .fmax f => encV 0x25 f
  | .fcmp f => encV 0x26 f
  | .fclass f => encV 0x27 f
  | .frcp f => encV 0x28 f
  | .frsq f => encV 0x29 f
  | .fsqrt f => encV 0x2A f
  | .fexp2 f => encV 0x2B f
  | .flog2 f => encV 0x2C f
  | .frred f => encV 0x2D f
  | .fsin f => encV 0x2E f
  | .fcos f => encV 0x2F f
  | .cvt f => encV 0x30 f
  | .fdot2 f => encV 0x31 f
  | .lcdec f => encV 0x32 f
  | .fscale f => encV 0x33 f
  | .qswap f => encV 0x34 f
  | .qbcast f => encV 0x35 f
  | .lxch f => encV 0x36 f
  | .gred f => encV 0x37 f
  | .gscan f => encV 0x38 f
  | .rand f => encV 0x39 f
  | .sadd f => encS 0x40 f
  | .ssub f => encS 0x41 f
  | .smul f => encS 0x42 f
  | .sand f => encS 0x43 f
  | .sor f => encS 0x44 f
  | .sxor f => encS 0x45 f
  | .sshl f => encS 0x46 f
  | .sshr f => encS 0x47 f
  | .ssar f => encS 0x48 f
  | .scmp f => encS 0x49 f
  | .smovi f => encS 0x4A f
  | .vrd f => encV 0x4B f
  | .vwr f => encV 0x4C f
  | .mfs f => encS 0x4D f
  | .mts f => encS 0x4E f
  | .mtsSeed f => encS 0x4E f
  | .fmtset f => encS 0x4F f
  | .bra f => encB 0x50 f
  | .brp f => encP 0x51 f
  | .jmp f => encS 0x52 f
  | .call f => encB 0x53 f
  | .ret f => encB 0x54 f
  | .bwait f => encS 0x55 f
  | .vote f => encV 0x56 f
  | .exitG f => encB 0x57 f
  | .yield f => encB 0x58 f
  | .nop f => encB 0x59 f
  | .loop f => encB 0x5A f
  | .bar f => encS 0x60 f
  | .bararr f => encS 0x61 f
  | .barwait f => encS 0x62 f
  | .barexp f => encS 0x63 f
  | .pbar f => encS 0x64 f
  | .tcall f => encS 0x65 f
  | .tret f => encS 0x66 f
  | .tvote f => encV 0x67 f
  | .fork f => encS 0x68 f
  | .join f => encS 0x69 f
  | .skgive f => encS 0x6A f
  | .sktake f => encS 0x6B f
  | .gangset f => encS 0x6C f
  | .ld f => encM 0x70 f
  | .st f => encM 0x71 f
  | .lds f => encM 0x72 f
  | .sts f => encM 0x73 f
  | .ldc f => encM 0x74 f
  | .stc f => encM 0x75 f
  | .sld f => encM 0x76 f
  | .sst f => encM 0x77 f
  | .pref f => encM 0x78 f
  | .cwb f => encM 0x79 f
  | .cinv f => encM 0x7A f
  | .cwbi f => encM 0x7B f
  | .atom f => encA 0x80 f
  | .red f => encA 0x81 f
  | .atoms f => encA 0x82 f
  | .fence f => encM 0x83 f
  | .rld f => encM 0x90 f
  | .rst f => encM 0x91 f
  | .ratom f => encA 0x92 f
  | .cpy f => encX 0xA0 f
  | .cpym f => encX 0xA1 f
  | .patadv f => encX 0xA2 f
  | .patq f => encX 0xA3 f
  | .qfence f => encX 0xA4 f
  | .gath f => encX 0xA5 f
  | .qpush f => encQ 0xA6 f
  | .qpop f => encQ 0xA7 f
  | .qtry f => encQ 0xA8 f
  | .cpyres f => encX 0xA9 f
  | .msend f => encX 0xB0 f
  | .mpost f => encX 0xB1 f
  | .mcancel f => encX 0xB2 f
  | .mprobe f => encX 0xB3 f
  | .subon f => encX 0xB4 f
  | .suboff f => encX 0xB5 f
  | .subflush f => encX 0xB6 f
  | .xshfl f => encX 0xB7 f
  | .coll f => encX 0xB8 f
  | .accalloc f => encT 0xC0 f
  | .accfree f => encT 0xC1 f
  | .acczero f => encT 0xC2 f
  | .mma f => encT 0xC3 f
  | .accld f => encT 0xC4 f
  | .accst f => encT 0xC5 f
  | .fifodrop f => encT 0xC6 f
  | .fifostat f => encT 0xC7 f
  | .trapSw f => encY 0xD0 f
  | .eret f => encY 0xD1 f
  | .pmark f => encY 0xD2 f
  | .sysrd f => encY 0xD3 f
  | .syswr f => encY 0xD4 f
  | .syswrRoute f => encY 0xD4 f
  | .syswrHvec f => encY 0xD4 f
  | .syswrInjctl f => encY 0xD4 f
  | .xinvPage f => encY 0xD5 f
  | .xinvRange f => encY 0xD5 f
  | .xinvCtx f => encY 0xD5 f
  | .errinj f => encY 0xD6 f
  | .brk f => encY 0xD7 f
  | .gkill f => encY 0xD8 f
  | .illegalOp w => w
  | .clauseEntry => 0
  | .bwaitTimeout _ _ => 0
  | .loadReplyCommit _ _ => 0
  | .storeAck _ _ => 0
  | .groupAdmission _ => 0
  | .swapOut _ => 0
  | .fairnessSwap _ => 0
  | .skeinDeadlockDetect _ => 0
  | .pendingTrapDelivery _ => 0
  | .pageWalkComplete _ _ _ => 0
  | .l2WriteBack _ _ => 0
  | .l2Recall _ _ _ => 0
  | .homeReadShared _ _ => 0
  | .homeReadForOwnership _ _ => 0
  | .homeWriteBackMerge _ => 0
  | .homeAtomic _ => 0
  | .checkPhase _ _ => 0
  | .checkCommit _ _ => 0
  | .checkAbort _ _ => 0
  | .checkClose _ => 0
  | .remoteIngress _ => 0
  | .remoteAnswer _ _ _ => 0
  | .remoteTimeout _ _ => 0
  | .colourFail _ _ _ => 0
  | .colourRecover _ _ _ => 0
  | .routeDrainComplete _ _ => 0
  | .flitCrcReplay _ _ => 0
  | .routeLossDetect _ _ _ => 0
  | .dieFence _ => 0
  | .dieLostDeclare _ => 0
  | .chipletRouteLoss _ => 0
  | .copyEntryStart _ _ => 0
  | .copyBatchDelivery _ _ _ _ => 0
  | .copyEntryComplete _ _ => 0
  | .copyEntryFault _ _ _ => 0
  | .patternRowStep _ => 0
  | .heldCompletionPost _ _ => 0
  | .hookSend _ => 0
  | .hookHeaderArrival _ => 0
  | .rendezvousPullComplete _ _ => 0
  | .messageRetry _ _ => 0
  | .subUpdateForward _ => 0
  | .subUpdateApply _ => 0
  | .xshflTimeout _ => 0
  | .collComplete _ _ _ => 0
  | .mmaBand _ => 0
  | .preemptRequest _ _ => 0
  | .preemptDeadline _ => 0
  | .handlerPreemptLimit _ => 0
  | .saveSequence _ => 0
  | .contextResume _ _ => 0
  | .qtail _ _ _ => 0
  | .queuePriorityAging _ _ => 0
  | .launchStart _ => 0
  | .teamPlacement _ _ => 0
  | .workSteal _ _ => 0
  | .launchComplete _ => 0
  | .abortLaunch _ => 0
  | .warmReset => 0
  | .coldReset => 0
  | .powcap _ => 0
  | .hostCxlAccess _ => 0
  | .budgetPeriod _ _ _ => 0
  | .keyExhaust _ _ => 0
  | .keyInstall _ _ => 0
  | .keyTimeout _ _ => 0
  | .correctedError _ => 0
  | .uncorrectedError _ => 0
  | .scrubPass _ => 0
  | .thermalThrottle _ => 0
  | .thermalRecover _ => 0
  | .thermalShutdown => 0
  | .scaleUpPortLoss _ => 0

/-- The bytes of a word as memory holds them, R2. -/
def wordBytes (w : Word) : List Byte := bytesOfNat 8 w.toNat

/-- The decoder over bytes: an instruction is the eight little-endian bytes of its word, R55. -/
def decodeBytes : List Byte → Except Reject (Instr × List Byte)
  | b0 :: b1 :: b2 :: b3 :: b4 :: b5 :: b6 :: b7 :: rest =>
    match decodeWord (BitVec.ofNat 64 (natOfBytes [b0, b1, b2, b3, b4, b5, b6, b7])) with
    | .ok i => .ok (i, rest)
    | .error e => .error e
  | _ => .error (.illegalField 0)

/-- What the decoder reads from the instruction whose bits are `w`, numbered as spec/opcode_table.json numbers them. -/
def decodeTableWord (_nbits w : Nat) : Option Instr :=
  match decodeBytes (wordBytes (BitVec.ofNat 64 w)) with
  | .ok (i, _) => some i
  | .error _ => none

end Sys2Proof
end

