-- ==== Sys2Proof/Machine/Groups.lean ====
section
/-! DEFINITION. The state of groups, arms, frames, team levels and teams (R167-R226, R435) as plain data. -/

namespace Sys2Proof.Machine

/-- Trap and fault causes: the 64 codes of R439. -/
abbrev Cause := BitVec 6

/-- What a trap records: the cause, the address it reports and its information word, R435. -/
structure TrapInfo where
  cause : Cause := 0
  ad : Word := 0
  x : Word := 0
  deriving DecidableEq, Repr, Inhabited

/-- One register write that a reply will commit: vector registers by lane, or a scalar; with poison, R172, R500. -/
inductive RegW where
  | v (r : Nat) (mask : BitVec 32) (vals : List Lane32) (pois : BitVec 32)
  | s (r : Nat) (val : Word) (pois : Bool)
  deriving DecidableEq, Repr

/-- A fetched clause with the index of its next instruction, R59, R170. -/
structure Clause where
  hdr : Word
  head : Word
  words : List Word
  idx : Nat
  deriving DecidableEq, Repr

/-- The shadow of the user state, R435. -/
structure Shadow where
  fmt : BitVec 32 := 0
  s56 : List Word := List.replicate 8 0
  pois : BitVec 8 := 0
  top : Option Nat := none
  hdr : Word := 0
  /-- the clause as fetched: eret goes on in it without a new fetch, R443 -/
  clause : Option Clause := none
  /-- what bwait writes in the clause, R182-R184 -/
  bw : Bool := true
  /-- a yield in the clause had an active lane, R195 -/
  yielded : Bool := false
  deriving DecidableEq, Repr

/-- A translation request that a parked probe waits for, R237. -/
structure WalkKey where
  die : Nat
  ctx : Nat
  page : Nat
  deriving DecidableEq, Repr

/-- A translated access: the physical address and the attributes that decide where it is performed. -/
structure Tr where
  pa : Nat
  coh : Bool
  chk : Bool
  smode : Nat
  /-- SLICE of the leaf, R268 -/
  sl : Nat
  deriving DecidableEq, Repr

/-- What an arm is parked for, R57, R93, R192, R452. A parked arm performs its instruction again, or goes on inside it, when
the reason is satisfied; `Sched.ready` gives each reason's condition. -/
inductive Park where
  /-- the wait fields of the clause's header, R57 -/
  | header
  /-- brp waiting for the arm's loads, R174 -/
  | brpLoads
  /-- a timed arrival at the frame in this position, R182 -/
  | timed (frame : Nat)
  /-- a probe or a fetch waiting for page walks, R237 -/
  | walk (ks : List WalkKey)
  /-- a checked access between its phases, R304: its lanes with their addresses and translations -/
  | check (trs : List (Nat × Word × Tr))
  /-- a remote replay waiting for its answer, R317: its lanes and addresses, and whether it has been sent or still waits for its plane,
  R488 -/
  | remote (lanes : List (Nat × Word)) (sent : Bool)
  /-- bar after its arrival, R209: the record and the generation it arrived in -/
  | bar (b : Nat) (gen : BitVec 32)
  /-- bar or bararr issued twice in one generation, R209; which of them it is, since R223 names only bar -/
  | barDup (b : Nat) (gen : BitVec 32) (arr : Bool)
  /-- barwait on a generation, R209 -/
  | barWait (b : Nat) (gen : BitVec 32)
  /-- pbar before and after the team's arrival was sent: the panel generation waited for, R210 -/
  | pbar (gen : Nat)
  /-- tcall waiting for the team's other groups, with its table address, R211 -/
  | tcall (addr : Word)
  /-- tret at the rejoin, R215 -/
  | tret
  /-- tvote waiting for the team's other groups: source predicate, R216 -/
  | tvote (p : Nat) (mode : Nat) (d : Nat)
  /-- fork.wait for slots, registers and records, R217 -/
  | forkWait (n base : Nat)
  /-- join, R219 -/
  | join
  /-- sktake queued for chunks, R221 -/
  | sktake (n : Nat)
  /-- qpop on an empty queue register, R355 -/
  | qpop (q : Nat)
  /-- a wait for mailbox space, R355 -/
  | space
  /-- a wait for space in a queue or a list, with the descriptor that was read before it and, of a cpym, its destination cores and its
  record's offset, R344, R359, R380, R381 -/
  | queue (d : List Byte) (cores : List Nat) (off : Nat)
  /-- a continuation wait of cpy, gath or coll, R340, R392 -/
  | cont (tok : Nat)
  /-- the rendezvous latch of mma, accalloc or accfree, R408 -/
  | latch
  /-- the allocation queue of accalloc, R417 -/
  | accQueue (n : Nat)
  /-- accfree waiting for earlier tile operations on its banks, R417 -/
  | accFree
  /-- fifodrop waiting for the mma operations released before it, R420: their sequence numbers lie below this one -/
  | fifoDrop (seq : Nat)
  /-- xshfl waiting for its partner, R387: SReg(S2), the register exchanged and the active lanes -/
  | xshfl (partner : Word) (v : Nat) (mask : BitVec 32)
  /-- msend, mcancel, mprobe, subflush, suboff answered by the hook or the drain they wait for, R381, R385, R386 -/
  | subDrain (sub : Option Nat)
  /-- xinv of pages `lo` to `hi - 1` waiting for accesses and copy pages under the old entries, R450 step 2, or for the xinv
  instructions that arrived before it; the step in which it arrived -/
  | xinv (lo hi arrived : Nat)
  /-- gkill waiting for the ended groups' stores and tile operations, R444: the groups it ended -/
  | gkill (targets : List Nat)
  /-- a pending trap waits for the other arm to leave handler level, R435 -/
  | trapWait
  /-- stopped for pre-emption, R452: at pmark entry `some n`, or at any other point -/
  | stopped (live : Option Nat)
  deriving DecidableEq, Repr

/-- One arm slot, R167, with its trap state and shadow, R435. -/
structure Arm where
  live : Bool := false
  pc : Word := 0
  mask : BitVec 32 := 0
  fmt : BitVec 32 := 0
  /-- s32-s63 -/
  scal : List Word := List.replicate 32 0
  spois : BitVec 32 := 0
  clause : Option Clause := none
  /-- address of the transfer that brought the arm to its pc; 0 when it fell through, R185 -/
  xfer : Word := 0
  top : Option Nat := none
  /-- outstanding loads, oldest first, R171, R172 -/
  loads : List (List RegW) := []
  stores : Nat := 0
  park : Option Park := none
  /-- handler level, R433 -/
  handler : Bool := false
  trapc : Cause := 0
  trappc : Word := 0
  trapad : Word := 0
  trapx : Word := 0
  shadow : Shadow := {}
  /-- the remote done mask, R317, R443 -/
  done : BitVec 32 := 0
  /-- a trap taken and pending while the other arm is at handler level, R435 -/
  pend : Bool := false
  /-- walks that ended in a fault for the waiting probe: page, level, poisoned table, R232, R237 -/
  walkFaults : List (Nat × Nat × Bool) := []
  /-- outcome of the check phase of a parked checked access, R304: passed, or the MM_RACE trap it will raise -/
  chk : Option (Option TrapInfo) := none
  /-- what the check phase has read for a checked load, R304 -/
  chkVals : List RegW := []
  /-- the answers to the waiting remote replay that have come so far, by lane, R317 -/
  answers : List (Nat × List Byte × Bool) := []
  /-- the sectors that homes hold in B for the arm's instruction, and the step in which it first asked, R298 -/
  asks : Option (Nat × List Nat) := none
  /-- STEP armed by eret, R443, R449 -/
  step : Bool := false
  /-- a yield in the arm's clause, or in the one it has just left, had an active lane, or it has entered a clause with YH = 1, R195 -/
  yielded : Bool := false
  lastIssue : Nat := 0
  /-- what bwait writes in the clause entered, R182-R184 -/
  bw : Bool := true
  /-- address of the frame that the arm was read back from with poisoned data: its clause entry traps UE_DATA, R178 -/
  ue : Option Word := none
  deriving DecidableEq, Repr

/-- A side waiting untimed at a frame: the counts that the merged arm takes over, R180. -/
structure WaitSide where
  mask : BitVec 32
  loads : List (List RegW)
  stores : Nat
  /-- the side waits at handler level, R436 -/
  handler : Bool
  deriving DecidableEq, Repr

/-- A frame of the reconvergence stack, R177, with the order of its push (R181), the sides that wait at it, where its bytes lie
in the spill region (as the push translated it, R178), and whether they have been written there. -/
structure Frame where
  raddr : Word
  expect : BitVec 32
  arrived : BitVec 32
  sfmt : BitVec 32
  spmask : BitVec 32
  sppc : Word
  /-- address of the brp, the transfer that a spilled side arrives by -/
  spxfer : Word
  parent : Option Nat
  dissolved : Bool
  sscl : List Word
  sspois : BitVec 32
  sphandler : Bool
  seq : Nat
  waiting : List WaitSide
  tr : Tr
  out : Bool := false
  deriving DecidableEq, Repr

/-- The place of a group, R192. -/
inductive Place where
  | active | pending | waiting
  deriving DecidableEq, Repr

/-- A group, R11, R167, R192. Its key in `State.groups` is its physical place: (128 x cluster + core) x 32 + slot. -/
structure Group where
  live : Bool := false
  ctx : Nat := 0
  launch : Nat := 0
  tid : Nat := 0
  lid : Nat := 0
  /-- virtual identifiers, R19 -/
  vcluster : Nat := 0
  vcore : Nat := 0
  vslot : Nat := 0
  teamLanes : BitVec 32 := 0
  helpers : BitVec 32 := 0
  exited : BitVec 32 := 0
  base : Nat := 16
  chunks : Nat := 0
  vregs : SMap (List Lane32) := []
  vpois : SMap (BitVec 32) := []
  /-- p1-p7 by number; p0 is not stored -/
  preds : SMap (BitVec 32) := []
  ppois : SMap (BitVec 32) := []
  /-- s0-s31 -/
  scal : List Word := List.replicate 32 0
  spois : BitVec 32 := 0
  seed : BitVec 32 := 0
  xs : List (BitVec 32) := List.replicate 32 0
  gang : BitVec 32 := 0
  arm0 : Arm := {}
  arm1 : Arm := {}
  frames : SMap (Option Frame) := []
  spill : Word := 0
  /-- replies still to come of loads whose arm has ended while the group goes on, oldest first, R172, R179 -/
  orphans : List (List RegW) := []
  /-- the values that the group has written into skein chunks, R220 -/
  skeinVals : SMap Bool := []
  copies : Nat := 0
  tiles : Nat := 0
  copyFlag : Option (Nat × Word × Nat) := none
  /-- the copy count has fallen since a header last waited on it: that header's wait is an acquire, R366 -/
  copyObs : Bool := false
  tileFlag : Option TrapInfo := none
  joins : Nat := 0
  /-- the identity of the group that forked it, R219, and its own -/
  forker : Option Nat := none
  uid : Nat := 0
  place : Place := .waiting
  begun : Nat := 0
  since : Nat := 0
  chkHomes : BitVec 16 := 0
  /-- the word issued at the rendezvous latch, R408, and the slot of a member that ended meanwhile, R410 -/
  latch : Option Word := none
  abort : Option Nat := none
  /-- the cause that ended the group, with its trap state, R437 -/
  cause : Option TrapInfo := none
  deriving DecidableEq, Repr

/-- A barrier record, R205. -/
structure BarRec where
  arr : Nat := 0
  arrset : BitVec 32 := 0
  gen : BitVec 32 := 0
  pend : Int := 0
  psn : Bool := false
  pcause : Cause := 0
  /-- an engine delivery was counted in this generation, and in the last one: its completion is an engine's, R226, R366 -/
  eng : Bool := false
  lastEng : Bool := false
  deriving DecidableEq, Repr

/-- What a team level is, R202. -/
inductive LevelKind where
  | root
  | strand (callee : Nat)
  | brood (forker : Nat)
  deriving DecidableEq, Repr

/-- The team-mask stack entry of a level that has made a team-call, R214; groups stand by identity. -/
structure CallEntry where
  resume : Word
  strands : List Nat
  returned : List Nat
  /-- the FMT and GANG each group held at the tcall -/
  saved : List (Nat × BitVec 32 × BitVec 32)
  deriving DecidableEq, Repr

/-- A team level, R202. -/
structure Level where
  live : Bool := false
  kind : LevelKind := .root
  depth : Nat := 0
  parent : Nat := 0
  recs : List BarRec := []
  call : Option CallEntry := none
  deriving DecidableEq, Repr

/-- An accumulator bank, R405. Elements that no instruction has written are undefined: they read as free values of the
allocation's number `gen` (log 9). Element (i, n) has key 32 i + n. -/
structure Bank where
  alloc : Bool := false
  abase : Nat := 0
  owner : Nat := 63
  psn : BitVec 32 := 0
  data : SMap (Option Lane32) := []
  gen : Nat := 0
  deriving DecidableEq, Repr

/-- An entry of a FIFO, R401-R403: format tag, size, bytes so far, rows (A) or columns (B) that are poisoned, and the copy that
fills it. -/
structure FifoEntry where
  tag : Nat
  size : Nat
  data : SMap Byte
  written : Nat
  pois : BitVec 32
  copy : Nat
  /-- which of the copy's entries this is -/
  part : Nat
  deriving DecidableEq, Repr

/-- A released matrix operation, R419: its gang (identities in band order), FMT, banks, scale tiles with the poison of A rows
(key 32 x band + row) and of B, next band, and the popped B entry; `seq` is its place in the order of issue, R422. -/
structure MmaOp where
  seq : Nat
  members : List Nat
  fmt : BitVec 32
  bank : Nat
  zero : Bool
  scaleA : List Byte
  scaleB : List Byte
  poisA : List Bool
  poisB : Bool
  band : Nat
  b : Option FifoEntry
  deriving DecidableEq, Repr

/-- What an operation on banks other than mma does, R417, R418. -/
inductive AccKind where
  | ld | st | zero | free
  deriving DecidableEq, Repr

/-- An issued accld, accst, acczero or accfree that waits for earlier operations on its banks, R417, R422: the issuing group,
the lanes, the first register (accld), the rows' elements (accst, key 32 x lane + column) and their poison, or the gang
that frees. -/
structure AccOp where
  seq : Nat
  kind : AccKind
  uid : Nat
  bank : Nat
  n : Nat
  mask : BitVec 32
  reg : Nat
  data : SMap (Option Lane32)
  pois : BitVec 32
  members : List Nat
  deriving DecidableEq, Repr

/-- A queued accalloc, R417: the gang, the count, and the scalar that receives the base. -/
structure AccReq where
  members : List Nat
  n : Nat
  dest : Nat
  deriving DecidableEq, Repr

end Sys2Proof.Machine
end

