-- ==== Sys2Proof/Machine/MemState.lean ====
section
/-! DEFINITION. The state of caches, translation structures, homes and the race-check table (R230-R306) as plain data. -/

namespace Sys2Proof.Machine

/-- A sector of 64 bytes held in an L1, R241, with the poison of its data. -/
structure L1Sect where
  data : List Byte
  pois : Bool
  deriving DecidableEq, Repr

/-- An update-only line, R242: line number (PA / 256), context, COH of its page, the L2 slice at which it merges (R268), operation,
element size, operands. -/
structure UpdLine where
  line : Nat
  ctx : Nat
  coh : Bool
  sl : Nat
  aop : Aop
  wide : Bool
  elems : SMap (Option Nat)
  deriving DecidableEq, Repr

/-- A TLB entry, R237: context (or partition when G = 1), first 16 KiB page, size by table level, leaf, address of the leaf. -/
structure TlbEntry where
  ctx : Nat
  part : Option Nat
  page : Nat
  level : Nat
  pte : Word
  pteAddr : Nat
  deriving DecidableEq, Repr

/-- Sector state of a coherent L2 line, CST, R270. -/
inductive Cst where
  | i | s | o
  deriving DecidableEq, Repr

/-- A sector of an L2 line, R270, with the context tag of its dirty bytes, R274. -/
structure L2Sect where
  cst : Cst := .i
  val : BitVec 64 := 0
  drt : BitVec 64 := 0
  psn : Bool := false
  tag : Nat := 0
  data : List Byte := List.replicate 64 0
  deriving DecidableEq, Repr

/-- A line of a die's L2, R270, with the slice that holds it, R268. -/
structure L2Line where
  coh : Bool
  ctx : Nat
  slice : Nat
  sects : List L2Sect
  deriving DecidableEq, Repr

/-- Directory state of a sector at its home: DST, R297. -/
inductive Dst where
  | i | s | o | b
  deriving DecidableEq, Repr

/-- DST and SHR of a sector at its home, R297. While DST is B, SHR holds the dies that have not answered and a requester's own copy, and
`was` is the state that those copies have. -/
structure DirEntry where
  dst : Dst := .i
  shr : BitVec 10 := 0
  was : Dst := .i
  deriving DecidableEq, Repr

/-- The state that a sector's copies have, R297. -/
def DirEntry.st (e : DirEntry) : Dst := if e.dst == .b then e.was else e.dst

/-- The entry when only the copies of `shr` are left, as read copies, R297; a sector in B stays there while one is left. -/
def DirEntry.keep (e : DirEntry) (shr : BitVec 10) : DirEntry :=
  if shr == 0 then {} else if e.dst == .b then { e with shr := shr, was := .s } else { dst := .s, shr := shr }

/-- A record of the race-check table, R303: SECT in local address bits (R295); the tentative bits (TENT) of the access of either
arm stand beside the committed ones. -/
structure CheckRec where
  sect : Nat
  wmask : BitVec 64
  rmask : BitVec 64
  /-- bytes that the uncommitted access of the arm in slot 0 writes and reads, and of that in slot 1 -/
  twmask : BitVec 64
  trmask : BitVec 64
  twmask1 : BitVec 64
  trmask1 : BitVec 64
  ctx : Nat
  die : Nat
  cluster : Nat
  core : Nat
  slot : Nat
  /-- the physical die it was opened from, R312 -/
  pdie : Nat
  deriving DecidableEq, Repr

namespace CheckRec

/-- Bytes that uncommitted accesses write and read, TENT, R303. -/
def tw (r : CheckRec) : BitVec 64 := r.twmask ||| r.twmask1
def tr (r : CheckRec) : BitVec 64 := r.trmask ||| r.trmask1

/-- No access of the group is left in the record. -/
def empty (r : CheckRec) : Bool := r.wmask == 0 && r.rmask == 0 && r.tw == 0 && r.tr == 0

/-- The access of an arm joins with TENT = 1, R304. -/
def tent (r : CheckRec) (slot : Nat) (w x : BitVec 64) : CheckRec :=
  if slot = 0 then { r with twmask := r.twmask ||| w, trmask := r.trmask ||| x }
  else { r with twmask1 := r.twmask1 ||| w, trmask1 := r.trmask1 ||| x }

/-- The new TENT bits of an arm's access are discarded, R304. -/
def discard (r : CheckRec) (slot : Nat) : CheckRec :=
  if slot = 0 then { r with twmask := 0, trmask := 0 } else { r with twmask1 := 0, trmask1 := 0 }

/-- TENT of an arm's access is cleared at its commit, R304. -/
def commit (r : CheckRec) (slot : Nat) : CheckRec :=
  let w := if slot = 0 then r.twmask else r.twmask1
  let x := if slot = 0 then r.trmask else r.trmask1
  { r.discard slot with wmask := r.wmask ||| w, rmask := r.rmask ||| x }

end CheckRec

/-- An entry of an error log, R459. -/
structure LogEntry where
  addr : Word
  syn : BitVec 16
  ctx : Nat
  kind : Nat
  deriving DecidableEq, Repr

/-- The error log of a unit: up to 8 entries, newest first, and the count of corrected errors, R458, R459. -/
structure ErrLog where
  entries : List LogEntry := []
  count : Nat := 0
  deriving DecidableEq, Repr

/-- An entry of a die's walk cache, R237: a context, a level of a table above the leaves, the page bits from that level up, and
the table that the entry there names. -/
structure WalkEntry where
  ctx : Nat
  level : Nat
  idx : Nat
  next : Nat
  deriving DecidableEq, Repr

/-- A core: L1, update-only lines, L1 TLB, instruction cache, CYCLE, PREQ, R15, R20, R241, R447. -/
structure CoreSt where
  l1 : SMap (Option L1Sect) := []
  upd : List UpdLine := []
  tlb : List TlbEntry := []
  icache : SMap (Option Word) := []
  /-- words of the instruction cache whose error was not corrected, R493 -/
  icPois : SMap Bool := []
  cycle : Word := 0
  deriving DecidableEq, Repr

/-- A compute die: L2, L2 TLB, outstanding walks, fencing and loss, energy allowance, pre-emption requests by partition. -/
structure DieSt where
  l2 : SMap (Option L2Line) := []
  tlb : List TlbEntry := []
  walks : List (Nat × Nat) := []
  wcache : List WalkEntry := []
  /-- the slices' lists of dirty software-managed sectors, oldest first, R274: key 32 x context + slice -/
  lists : SMap (List Nat) := []
  fenced : Bool := false
  lost : Bool := false
  throttled : Bool := false
  /-- a cluster of it cannot present 128 cores, R496 -/
  harvested : Bool := false
  /-- the launch queue that its command processor took last, R467 -/
  lastq : Nat := 63
  deriving DecidableEq, Repr

/-- A routing register, R308, with the MODE and RELAY that a drain will switch to (R311). -/
structure Route where
  mode : Nat := 0
  relay : Nat := 0
  eff : Nat := 0
  aup : Bool := true
  bup : Bool := true
  evt : Bool := false
  err : Bool := false
  busy : Bool := false
  deriving DecidableEq, Repr

/-- The device-wide privileged registers of R447 and the error logs by class and unit (R458): key 2^24 x class + unit. -/
structure DevRegs where
  /-- EXPB0-255: 0xFFFF where not listed -/
  expb : SMap Nat := []
  flogbase : Nat := 0
  flogIdx : Nat := 0
  flogCount : Nat := 0
  flogOver : Nat := 0
  keytmo : Nat := 10
  elsel : BitVec 32 := 0
  injctl : SMap Word := []
  injadr : SMap Word := []
  logs : SMap ErrLog := []
  deriving DecidableEq, Repr

/-- One lane of a replay sent to a peer, R317: its address, its data or operand with the poison, and its compare operand. -/
structure RemoteLane where
  lane : Nat
  va : Word
  data : List Byte
  pois : Bool
  cmp : Word
  deriving DecidableEq, Repr

/-- What the device sends out, in order: events to the management controller and the host, answers to peers. -/
inductive DevEvent where
  | route (i j : Nat)
  | ingressFault (idx : Nat)
  | remoteAnswer (sdev : Nat) (refused : Option Nat) (data : List Byte) (pois : Bool)
  /-- a replay of rld, rst or ratom, sent to a device, R317 -/
  | remoteReplay (dev : Nat) (i : Instr) (lanes : List RemoteLane)
  /-- an MSI-X message of a vector, with the address and the data of its table entry, R483, R485 -/
  | msix (vector : Nat) (addr : Word) (data : BitVec 32)
  /-- a message's header and, for an eager message, its payload, sent to a device, R371, R374 -/
  | message (dev : Nat) (tag : BitVec 32) (len : Nat) (payload : List MarkedByte)
  /-- the answer of this device's hook to a message of device `sdev`: accepted, refused, no binding, R371, R375 -/
  | messageAnswer (sdev : Nat) (tag : BitVec 32) (reply : PeerReply)
  /-- a pull asked of device `sdev`, R375 -/
  | pull (sdev : Nat) (tag : BitVec 32) (len : Nat)
  /-- bytes that a copy engine asks of a peer's exported space, R333, R338 -/
  | peerRead (peer : Nat) (va : Word) (len : Nat)
  /-- bytes that a copy engine writes to a peer's exported space, R333, R338 -/
  | peerWrite (peer : Nat) (va : Word) (data : List MarkedByte)
  /-- this rank's part in a collective, R391 -/
  | collective (comm : Nat) (input : List MarkedByte)
  /-- the answer to a host read through CXL.mem, with its poison, or of BAR0, R323, R483 -/
  | hostData (pa : Nat) (data : List Byte) (pois : Bool)
  deriving DecidableEq, Repr

end Sys2Proof.Machine
end

