-- ==== Sys2Proof/Machine/XferState.lean ====
section
/-! DEFINITION. The state of copy queues, patterns, queue registers, the hook, subscriptions and collectives (R330-R395) as plain
data. -/

namespace Sys2Proof.Machine

/-- An entry of a queue register, R353: the word, its payload, and the poison they carry (R500); `dst` is the tensor base that
MSG_TRUNC reports for a receive completion, R370. -/
structure QEntry where
  word : Word
  pay : List Lane32
  wpois : Bool := false
  ppois : BitVec 32 := 0
  dst : Word := 0
  deriving DecidableEq, Repr

/-- Who issued an engine entry: the group's identity, the arm slot, and the continuation's address, R340. -/
structure Issuer where
  uid : Nat
  slot : Nat
  cont : Word
  xfer : Word
  deriving DecidableEq, Repr

/-- A destination of a multicast copy, R344: virtual core, team, elements written, whether it faulted and gets no more, how many of its FIFO entries are
reserved, and whether a source fault has counted as a fault of it. -/
structure McDest where
  core : Nat
  tid : Nat
  pos : Nat
  failed : Bool
  reserved : Nat
  hit : Bool := false
  deriving DecidableEq, Repr

/-- What a queue entry is: a copy, a multicast copy, a gather or a stitch, R330, R344, R351, R357. -/
inductive EntryKind where
  | copy
  /-- the destinations, the offset of the completion record, and the elements read so far, each with its poison -/
  | multi (dests : List McDest) (recOff : Nat) (buf : List (Nat × Bool))
  | gather
  | stitch (mask : Nat)
  deriving DecidableEq, Repr

/-- An unperformed entry of a copy or gather queue. `id` rises with every enqueue of the device, so it says which entries are
older (R357); `pos` counts the elements (of a gather, the bytes) written; `bytes` the bytes delivered; `resv` the entries of a
FIFO reserved so far (R336). -/
structure CopyEntry where
  id : Nat
  kind : EntryKind
  desc : List Byte
  ct : Ct
  bar : Nat
  lid : Nat
  sc : Nat
  by_ : Option Issuer
  started : Bool := false
  pos : Nat := 0
  bytes : Nat := 0
  resv : Nat := 0
  /-- the index list of a started gather with the poison of its words, R352 -/
  idx : List (Nat × Bool) := []
  deriving DecidableEq, Repr

/-- The fault record of a queue, R360: failing address, destination side, reason. -/
structure FaultRec where
  ad : Word
  dst : Bool
  reason : Nat
  deriving DecidableEq, Repr

/-- A copy or gather queue of a root team, R330, with the xorshift state of R501 and the translations of the global source and
destination pages that its head entry is copying, R339. -/
structure CopyQueue where
  entries : List CopyEntry := []
  stop : Option FaultRec := none
  xs : BitVec 32 := 0
  srcPg : List TlbEntry := []
  dstPg : List TlbEntry := []
  deriving DecidableEq, Repr

/-- The pattern state of a team, R346: row index, granted and executed counts, LOOP counters by row. -/
structure PatState where
  index : Nat := 0
  granted : Nat := 0
  executed : Nat := 0
  ctrs : SMap Nat := []
  deriving DecidableEq, Repr

/-- A collective command that waits in q2, R354. -/
structure CollCmd where
  id : Nat
  desc : List Byte
  ct : Ct
  by_ : Issuer
  deriving DecidableEq, Repr

/-- A communicator, R389: the context's rank, the number of ranks, and the reduction tree as a list in postfix order: a rank
pushes its input, a unit of k inputs combines the last k. -/
structure Comm where
  live : Bool := false
  ctx : Nat := 0
  rank : Nat := 0
  n : Nat := 0
  tree : List (Sum Nat Nat) := []
  /-- the devices with which this rank's part of the tree exchanges its traffic, R393; a port that carried the collective in progress has
  gone down, R489 -/
  devs : List Nat := []
  lost : Bool := false
  deriving DecidableEq, Repr

/-- A send in the hook's send queue, R374, R381. `refused` while the target had no room (R375); `open` while a rendezvous
message waits for its pull. -/
structure SendCmd where
  id : Nat
  ctx : Nat
  tid : Nat
  desc : List Byte
  /-- number of the destination device, R371 -/
  dev : Nat
  refused : Bool := false
  waiting : Bool := false
  deriving DecidableEq, Repr

/-- A posted receive, R372, R378, with its descriptor. -/
structure Posted where
  ctx : Nat
  tid : Nat
  desc : List Byte
  deriving DecidableEq, Repr

/-- An unexpected message, R373. -/
structure Unexp where
  ctx : Nat
  msg : Message
  deriving DecidableEq, Repr

/-- A rendezvous pull under way, R375. -/
structure Pull where
  id : Nat
  recv : Posted
  msg : Message
  deriving DecidableEq, Repr

/-- The hook, R371-R375: its send queue, the posted-receive list, the unexpected queue, the pulls under way, and the matched eager
messages whose delivery waits (R368, R395). -/
structure HookSt where
  sends : List SendCmd := []
  posted : List Posted := []
  unexpected : List Unexp := []
  pulls : List Pull := []
  waiting : List Pull := []
  deriving DecidableEq, Repr

/-- One forwarded update: offset in the region, bytes, poison, R384. -/
structure Update where
  off : Nat
  bytes : List Byte
  pois : Bool
  deriving DecidableEq, Repr

/-- A subscription, R382-R386: the two regions, updates batched at the publisher, and updates on their way. -/
structure Subscr where
  live : Bool := false
  sub : Nat := 0
  soff : Nat := 0
  pub : Nat := 0
  poff : Nat := 0
  len : Nat := 0
  batch : List Update := []
  sent : List Update := []
  deriving DecidableEq, Repr

end Sys2Proof.Machine
end

