-- ==== Sys2Proof/Machine/HostState.lean ====
section
/-! DEFINITION. The state of launch queues, launches, ports, budgets and reset (R467-R498) as plain data. -/

namespace Sys2Proof.Machine

/-- The fields of a launch record, R469. -/
structure LRec where
  entry : Word := 0
  lanes : Nat := 0
  base : Nat := 0
  skein : Nat := 0
  scratch : Nat := 0
  acc : Nat := 0
  bars : Nat := 0
  panel : Nat := 0
  aff : Nat := 0
  part : Nat := 0
  svc : Bool := false
  serial : Bool := false
  ctx : Nat := 0
  xext : Nat := 0
  yext : Nat := 0
  zext : Nat := 0
  patbase : Word := 0
  patrows : Nat := 0
  seed : BitVec 32 := 0
  hvec : Word := 0
  spill : Word := 0
  spillkb : Nat := 0
  livetab : Word := 0
  oute : Word := 0
  nout : Nat := 0
  livecnt : Nat := 0
  compl : Word := 0
  msix : Nat := 0
  deriving DecidableEq, Repr

/-- The first group of a launch that a cause ended, R471: the trap, TRAPPC, the group's place and virtual identifiers, and the
team's linear index. -/
structure FirstEnd where
  trap : TrapInfo
  pc : Word
  gid : Nat
  vcluster : Nat
  vcore : Nat
  vslot : Nat
  lin : Nat
  deriving DecidableEq, Repr

/-- A launch, R469, R471, R477, R504: `chunks` holds the unplaced linear indices of each cluster as ranges; `dies` the dies on
which it placed a team; `lost` that a group of it lay on a lost die; the translations kept for its life (R469). -/
structure Launch where
  live : Bool := false
  ctx : Nat := 0
  hvec : Word := 0
  nend : Nat := 0
  first : Option FirstEnd := none
  lrec : LRec := {}
  /-- physical address of the record, and the command processor's die and queue -/
  addr : Nat := 0
  queue : Nat := 0
  chunks : SMap (List (Nat × Nat)) := []
  dies : BitVec 8 := 0
  /-- physical dies that AFF names, R479 -/
  named : List Nat := []
  error : Bool := false
  lost : Bool := false
  aborted : Bool := false
  complPa : Nat := 0
  outePa : List Nat := []
  consPa : List Nat := []
  /-- the pattern's rows as checked at launch, and T, R349 -/
  rows : List (List Byte) := []
  /-- values that ended groups of the launch wrote into skein chunks, R220 -/
  skeinVals : SMap Bool := []
  patT : Nat := 0
  deriving DecidableEq, Repr

/-- A launch queue, R467: its ring (physical address and slots), priority, aged priority, head and tail, the launch started last
(for SERIAL), records marked by ABORT. -/
structure LQueue where
  base : Nat := 0
  slots : Nat := 0
  prio : Nat := 0
  /-- levels risen while its head record waited, R467 -/
  aged : Nat := 0
  head : Nat := 0
  tail : Nat := 0
  last : Option Nat := none
  marked : List Nat := []
  deriving DecidableEq, Repr

/-- A region of an in-edge that the consumer's command processor invalidates before the first team, R475: the record's physical
address, the context, BASE and LEN. -/
structure EdgeInval where
  cons : Nat
  ctx : Nat
  base : Nat
  len : Nat
  deriving DecidableEq, Repr

/-- A plane of a scale-up port, R486-R488: up, the number of keys installed so far, the flit counter under the key, and whether it is used
up. -/
structure Plane where
  down : Bool := false
  keys : Nat := 0
  ctr : BitVec 48 := 0
  /-- flits that wait for the next key, R488 -/
  owed : Nat := 0
  exhausted : Bool := false
  deriving DecidableEq, Repr

/-- Flits go out over a plane, R487, R488: past the last usable value of the counter they wait for the next key. -/
def Plane.send (p : Plane) (n : Nat) : Plane :=
  let t := p.ctr.toNat + n
  if p.exhausted then { p with owed := p.owed + n }
  else if t < 2 ^ 48 - 1 then { p with ctr := BitVec.ofNat 48 t }
  else { p with ctr := BitVec.allOnes 48, owed := t - (2 ^ 48 - 1), exhausted := true }

/-- A vector of the MSI-X table, R483, as PCIe defines it: message address and data, the mask bit, set at reset, and the pending bit
(log 49). -/
structure MsixVec where
  addr : Word := 0
  data : BitVec 32 := 0
  masked : Bool := true
  pending : Bool := false
  deriving DecidableEq, Repr

/-- The device's own state at its host interface: STATUS, POWCAP, R483, R484, R491, R498. -/
structure HostIf where
  ready : Bool := true
  therm : Bool := false
  harv : Bool := false
  rows : Bool := false
  core : Bool := false
  powcap : Nat := 3200
  /-- STATUS[5:0] as last reported on vector 0 -/
  svc : BitVec 6 := 0
  /-- only a cold reset restores service, R490, R498 -/
  dead : Bool := false
  deriving DecidableEq, Repr

end Sys2Proof.Machine
end

