-- ==== Sys2Proof/Machine/Map.lean ====
section
/-! DEFINITION. Operations on finite maps with a default (`SMap`): a key that is not listed reads as the default, and a write
keeps the canonical form (keys strictly rising, no listed value equal to the default). Memory is one of these maps. -/

namespace Sys2Proof.Machine

/-- The value at key `k`, the default `d` where nothing is listed. -/
def mget {V : Type} (d : V) : SMap V → Nat → V
  | [], _ => d
  | (k', v) :: m, k => if k' = k then v else mget d m k

/-- The map without key `k`. -/
def merase {V : Type} (m : SMap V) (k : Nat) : SMap V := m.filter fun p => p.1 != k

/-- Insert at the place that keeps the keys rising. -/
def minsert {V : Type} (k : Nat) (v : V) : SMap V → SMap V
  | [] => [(k, v)]
  | p :: m => if k < p.1 then (k, v) :: p :: m else p :: minsert k v m

/-- Write: the default value removes the entry. -/
def mset {V : Type} [DecidableEq V] (d : V) (m : SMap V) (k : Nat) (v : V) : SMap V :=
  if v = d then merase m k else minsert k v (merase m k)

/-- The keys rise strictly. -/
def keysRise {V : Type} : SMap V → Bool
  | [] => true
  | [_] => true
  | p :: q :: m => decide (p.1 < q.1) && keysRise (q :: m)

/-- The canonical form: keys strictly rising, no entry equal to the default. -/
def mwf {V : Type} [DecidableEq V] (d : V) (m : SMap V) : Bool := keysRise m && m.all fun p => decide (p.2 ≠ d)

/-- The keys listed, in order. -/
def mkeys {V : Type} (m : SMap V) : List Nat := m.map (·.1)

/-- Change the value at one key. -/
def mmod {V : Type} [DecidableEq V] (d : V) (m : SMap V) (k : Nat) (f : V → V) : SMap V := mset d m k (f (mget d m k))

/-- Write the values `vs` at keys `k`, `k + 1`, … in order. -/
def msetList {V : Type} [DecidableEq V] (d : V) (m : SMap V) (k : Nat) : List V → SMap V
  | [] => m
  | v :: vs => msetList d (mset d m k v) (k + 1) vs

/-- The `n` values at keys `k`, `k + 1`, …. -/
def mgetList {V : Type} (d : V) (m : SMap V) (k n : Nat) : List V := (List.range n).map fun j => mget d m (k + j)

/-- The least natural number that is not a key of the map. -/
def mfresh {V : Type} (m : SMap V) : Nat := m.foldl (fun a p => max a (p.1 + 1)) 0

/-- Write element `n` of a list of words; a list that is too short is filled with zeros. -/
def lput (l : List Word) (n : Nat) (x : Word) : List Word :=
  if n < l.length then l.set n x else l ++ List.replicate (n - l.length) 0 ++ [x]

/-- Set or clear bit `n` of a word. -/
def setBit {w : Nat} (x : BitVec w) (n : Nat) (b : Bool) : BitVec w :=
  if b then x ||| BitVec.ofNat w (2 ^ n) else x &&& ~~~(BitVec.ofNat w (2 ^ n))

/-- The numbers of the bits set in a mask, rising. -/
def maskList {w : Nat} (x : BitVec w) : List Nat := (List.range w).filter fun l => bit x l

/-- A mask from a predicate on bit numbers. -/
def maskOf (p : Nat → Bool) : BitVec 32 :=
  (List.range 32).foldl (fun m l => if p l then m ||| BitVec.ofNat 32 (2 ^ l) else m) 0

/-- The number of bits set. -/
def popcount {w : Nat} (x : BitVec w) : Nat := (maskList x).length

end Sys2Proof.Machine
end

