-- ==== Sys2Proof/Machine/State.lean ====
section
/-! DEFINITION. The whole state of the device as plain data, and the state after a cold reset (R491, R492). -/

namespace Sys2Proof.Machine

/-- A root team, R201. -/
structure Team where
  live : Bool := false
  ctx : Nat := 0
  launch : Nat := 0
  panel : Nat := 0
  /-- physical core (128 x cluster + core) and virtual identifiers, R19 -/
  core : Nat := 0
  vcluster : Nat := 0
  vcore : Nat := 0
  xidx : BitVec 32 := 0
  yidx : BitVec 16 := 0
  zidx : BitVec 16 := 0
  lanes : Nat := 0
  /-- scratchpad: size, bytes, poisoned words, R243 -/
  scratch : Nat := 0
  sp : SMap Byte := []
  spPois : SMap Bool := []
  skeinSize : Nat := 0
  skeinFree : Nat := 0
  /-- queued requests: identity of the group and chunks, oldest first, R221 -/
  skeinQ : List (Nat × Nat) := []
  levels : SMap Level := []
  /-- the tile unit's state of a tile team, R400-R422: budget, banks by team number, allocation queue, FIFOs, operations -/
  accBudget : Nat := 0
  banks : SMap Bank := []
  accQ : List AccReq := []
  fifoA : List FifoEntry := []
  fifoB : List FifoEntry := []
  mmaQ : List MmaOp := []
  accOps : List AccOp := []
  /-- linear index, R477 -/
  lin : Nat := 0
  /-- copy queues 0-3 and the gather queue, R330, and the pattern state, R346 -/
  queues : List CopyQueue := [{}, {}, {}, {}, {}]
  pat : PatState := {}
  /-- queue registers: q0, q1, q3, q5, the mailbox and the commands of q2; completions held for want of space, R353, R354 -/
  q0 : List QEntry := []
  q1 : List QEntry := []
  q3 : List QEntry := []
  q5 : List QEntry := []
  mail : List QEntry := []
  q2 : List CollCmd := []
  /-- collectives that completed while the team was saved, with their status: their signals wait for the resume, R395 -/
  collDone : List (CollCmd × Nat) := []
  held : List (Nat × QEntry) := []
  /-- the next subon or suboff traps SUB_RANGE, R382: the window address of the publisher region of the subscription that was removed -/
  subLost : Option Word := none
  /-- saved by pre-emption: the groups of the image, R454 -/
  saved : Bool := false
  groups : List Group := []
  deriving DecidableEq, Repr

/-- A panel, R210. -/
structure Panel where
  live : Bool := false
  ctx : Nat := 0
  launch : Nat := 0
  teams : List Nat := []
  arrived : List Nat := []
  gen : Nat := 0
  deriving DecidableEq, Repr

/-- A context, R433, R447. -/
structure Ctx where
  live : Bool := false
  part : Nat := 0
  asid : Nat := 0
  ptbase : Nat := 0
  pdeadl : Nat := 1000
  rtmo : Nat := 1000
  hsave : Nat := 0
  dbgctl : BitVec 8 := 0
  /-- the physical die behind each virtual die, plus 1, where the remap table names one, R19 -/
  vdies : SMap Nat := []
  /-- physical dies with a pending pre-emption request, R452 -/
  preq : BitVec 8 := 0
  /-- of these, the dies on which PDEADL has passed, R452 -/
  pdue : BitVec 8 := 0
  /-- the context has been saved and not yet resumed, R454, R456 -/
  away : Bool := false
  savea : Nat := 0
  savesz : Nat := 0
  waddr : List Nat := [0, 0, 0, 0]
  wctl : List (BitVec 8) := [0, 0, 0, 0]
  peers : SMap Word := []
  hooksh : BitVec 32 := 0
  chklost : Word := 0
  service : Bool := false
  deriving DecidableEq, Repr

/-- What moves next, log 4: an arm issues, or a machine event takes place. -/
inductive Item where
  | issue (gid slot : Nat)
  | event (i : Instr)
  deriving DecidableEq, Repr

/-- The machine. -/
structure State where
  /-- the model's own: what moves next, the arm that is executing, the counters of free values and of steps (log 4, 9) -/
  agenda : List Item := []
  cur : Nat × Nat := (0, 0)
  freeCtr : Nat := 0
  tick : Nat := 0
  uids : Nat := 1
  groups : SMap Group := []
  teams : SMap Team := []
  panels : SMap Panel := []
  cores : SMap CoreSt := []
  diesSt : SMap DieSt := []
  /-- device memory at its homes, poisoned sectors, directory by sector, lines that differ from DRAM, R297 -/
  mem : SMap Byte := []
  psn : SMap Bool := []
  dir : SMap DirEntry := []
  dirty : SMap Bool := []
  /-- lines that the memory-side caches hold, least recently filled first, R296: key 32768 x chiplet + set -/
  mlines : SMap (List Nat) := []
  checks : SMap (List CheckRec) := []
  /-- the model's own: sectors of live frames and of held images into which an agent has stored, R177, R455 -/
  hits : SMap Bool := []
  hostMem : SMap Byte := []
  hostLog : ErrLog := {}
  ctxs : SMap Ctx := []
  dev : DevRegs := {}
  /-- routing registers by 32 i + j, R308; ends that have seen the loss of a route, R312: 64 die + 2 port + (1 at the die) -/
  routes : SMap Route := []
  lossSeen : SMap Bool := []
  /-- leaves that walks have installed since an xinv covered them: the old pages of R450 step 3 -/
  leafs : List TlbEntry := []
  /-- the ingress MMU's TLB, R318 -/
  ingressTlb : List TlbEntry := []
  events : List DevEvent := []
  launches : SMap Launch := []
  /-- launch queues by 64 x die + queue, R467 -/
  lqueues : SMap LQueue := []
  /-- regions that consumers are to invalidate, R475 -/
  invals : List EdgeInval := []
  /-- the hook, subscriptions, communicators by 4096 x context + id, R371-R392 -/
  hook : HookSt := {}
  subs : SMap Subscr := []
  comms : SMap Comm := []
  /-- this device's number in the domain, scale-up planes by 2 x port + (1 for the bulk plane), ports of each peer device, R486 -/
  self : Nat := 0
  planes : SMap Plane := []
  portSets : SMap (List Nat) := []
  /-- core quotas by partition (none listed: no quota); allowances (none listed: no limit) and what has been used of them in the
  current period, R480: key 65536 x kind + 16 x unit + partition -/
  quotas : SMap Nat := []
  allow : SMap Nat := []
  used : SMap Nat := []
  /-- cores marked for retirement and spare cores used by each cluster, R496; none at reset (DESIGN CHOICE, log 12: R17 does not say how many
  the cores fused off at manufacture have used) -/
  retiring : List Nat := []
  sparesUsed : SMap Nat := []
  /-- corrected errors of a DRAM row that count towards its copying, and spare rows that a bank has used, R495: keys 16 x row, or bank, +
  chiplet -/
  rowErrs : SMap Nat := []
  spareRows : SMap Nat := []
  /-- the host interface, R483-R485 -/
  host : HostIf := {}
  msix : SMap MsixVec := []
  deriving DecidableEq, Repr

/-- The machine right after a cold reset, R492: no context, no launch, every cache empty, every route at its reset value, every
register at its reset value (log 1, 2, 3). -/
def State.reset : State := {}

/-- The canonical form of memory: addresses strictly rising, no listed byte equal to what an unlisted address reads as, 0 (log 1). -/
def Memory.wf (m : List Host.Cell) : Bool := mwf 0 m

/-- Why a run of the model stops where the manual calls the behaviour undefined. -/
inductive Fault where
  /-- raised where a saved image that another agent has overwritten is loaded (R455 calls the image undefined); safe. -/
  | imageOverwritten
  deriving DecidableEq, Repr

/-- Why an instruction has no meaning in the model. -/
inductive Refusal where
  /-- raised by an arm of `exec` for an instruction that has no meaning yet; safe: the model stops. -/
  | notModelled (mnemonic : String)
  deriving DecidableEq, Repr

end Sys2Proof.Machine
end

