-- ==== Sys2Proof/Machine/Access.lean ====
section
/-! DEFINITION. Named accessors: the executing group and arm, registers, predicates and scalars (R93), masks and guards (R62),
poison marks (R131), and the three ways an instruction ends. -/

namespace Sys2Proof.Machine

def zrow : List Lane32 := List.replicate 32 0

namespace State

def grp (s : State) (gid : Nat) : Group := mget {} s.groups gid
def setGrp (s : State) (gid : Nat) (g : Group) : State := { s with groups := mset {} s.groups gid g }
def team (s : State) (tid : Nat) : Team := mget {} s.teams tid
def setTeam (s : State) (tid : Nat) (t : Team) : State := { s with teams := mset {} s.teams tid t }
def core (s : State) (c : Nat) : CoreSt := mget {} s.cores c
def setCore (s : State) (c : Nat) (x : CoreSt) : State := { s with cores := mset {} s.cores c x }
def die (s : State) (d : Nat) : DieSt := mget {} s.diesSt d
def setDie (s : State) (d : Nat) (x : DieSt) : State := { s with diesSt := mset {} s.diesSt d x }
def ctx (s : State) (c : Nat) : Ctx := mget {} s.ctxs c
def setCtx (s : State) (c : Nat) (x : Ctx) : State := { s with ctxs := mset {} s.ctxs c x }
def launch (s : State) (l : Nat) : Launch := mget {} s.launches l
def setLaunch (s : State) (l : Nat) (x : Launch) : State := { s with launches := mset {} s.launches l x }
def panel (s : State) (p : Nat) : Panel := mget {} s.panels p
def setPanel (s : State) (p : Nat) (x : Panel) : State := { s with panels := mset {} s.panels p x }

end State

/-- Physical core, slot, cluster and die of a group's place. -/
def gidCore (gid : Nat) : Nat := gid / 32
def gidSlot (gid : Nat) : Nat := gid % 32
def coreCluster (c : Nat) : Nat := c / 128
def coreDie (c : Nat) : Nat := c / 256
def gidDie (gid : Nat) : Nat := coreDie (gidCore gid)

namespace Group

def arm (g : Group) (slot : Nat) : Arm := if slot = 0 then g.arm0 else g.arm1
def setArm (g : Group) (slot : Nat) (a : Arm) : Group := if slot = 0 then { g with arm0 := a } else { g with arm1 := a }

/-- Lanes that exist: team lanes and helper lanes, R12, R13. -/
def present (g : Group) : BitVec 32 := g.teamLanes ||| g.helpers

/-- The frame at a position, R176. -/
def frame (g : Group) (f : Nat) : Option Frame := mget none g.frames f
def setFrame (g : Group) (f : Nat) (x : Option Frame) : Group := { g with frames := mset none g.frames f x }

/-- Converged: one live arm and no open frame, R168. -/
def converged (g : Group) : Bool :=
  (g.arm0.live != g.arm1.live) && g.frames.all fun p => match p.2 with | some f => f.dissolved | none => true

/-- The xorshift states of the 32 lanes, R109. -/
def xsRow (g : Group) : List (BitVec 32) := (List.range 32).map fun l => g.xs.getD l 0

/-- The window of mapped registers, R220. -/
def window (g : Group) : Nat := g.base + 8 * g.chunks

/-- A vector register in one lane: absent lanes read zero, R13, R93. -/
def vlane (g : Group) (v l : Nat) : Lane32 := if bit g.present l then (mget zrow g.vregs v).getD l 0 else 0

/-- An even pair in one lane, R64. -/
def vlane64 (g : Group) (v l : Nat) : Word := g.vlane (v + 1) l ++ g.vlane v l

/-- The values that a write to the lanes of a mask adds to those written into skein chunks, R220: registers from B up. -/
def skeinAdd (g : Group) (v : Nat) (mask : BitVec 32) (f : Nat → Lane32) : SMap Bool :=
  if v < g.base then g.skeinVals else (maskList (mask &&& g.present)).foldl (fun m l => mset false m (f l).toNat true) g.skeinVals

/-- Write a vector register in the lanes of a mask; writes to absent lanes do nothing, R93. -/
def setV (g : Group) (v : Nat) (mask : BitVec 32) (f : Nat → Lane32) : Group :=
  let row := (List.range 32).map fun l => if bit (mask &&& g.present) l then f l else (mget zrow g.vregs v).getD l 0
  { g with vregs := mset zrow g.vregs v row, skeinVals := g.skeinAdd v mask f }

/-- Poison marks of a vector register, R131. -/
def vpoison (g : Group) (v : Nat) : BitVec 32 := mget 0 g.vpois v
/-- Writing marks or clears the poison of the lanes written, R131. -/
def markV (g : Group) (v : Nat) (mask pois : BitVec 32) : Group :=
  { g with vpois := mset 0 g.vpois v ((g.vpoison v &&& ~~~mask) ||| (pois &&& mask)) }

/-- A predicate register; p0 reads ones, R93. -/
def pred (g : Group) (p : Nat) : BitVec 32 := if p = 0 then BitVec.allOnes 32 else mget 0 g.preds p

/-- Write a predicate in the lanes of a mask; writes to p0 are ignored, R93. -/
def setPred (g : Group) (p : Nat) (mask val : BitVec 32) : Group :=
  if p = 0 then g else { g with preds := mset 0 g.preds p ((g.pred p &&& ~~~mask) ||| (val &&& mask)) }

def ppoison (g : Group) (p : Nat) : BitVec 32 := if p = 0 then 0 else mget 0 g.ppois p
def markPred (g : Group) (p : Nat) (mask pois : BitVec 32) : Group :=
  if p = 0 then g else { g with ppois := mset 0 g.ppois p ((g.ppoison p &&& ~~~mask) ||| (pois &&& mask)) }

/-- A scalar: s32-s63 are the arm's own copy, R93, R167. -/
def sreg (g : Group) (slot n : Nat) : Word := if n < 32 then g.scal.getD n 0 else (g.arm slot).scal.getD (n - 32) 0

def setS (g : Group) (slot n : Nat) (x : Word) : Group :=
  if n < 32 then { g with scal := lput g.scal n x }
  else g.setArm slot { g.arm slot with scal := lput (g.arm slot).scal (n - 32) x }

def spoison (g : Group) (slot n : Nat) : Bool := if n < 32 then bit g.spois n else bit (g.arm slot).spois (n - 32)

def markS (g : Group) (slot n : Nat) (p : Bool) : Group :=
  if n < 32 then { g with spois := setBit g.spois n p }
  else g.setArm slot { g.arm slot with spois := setBit (g.arm slot).spois (n - 32) p }

/-- Commit one register write of a reply, R172. -/
def commitW (g : Group) (slot : Nat) : RegW → Group
  | .v r mask vals pois => (g.setV r mask fun l => vals.getD l 0).markV r mask pois
  | .s r val p => (g.setS slot r val).markS slot r p

def commitAll (g : Group) (slot : Nat) (ws : List RegW) : Group := ws.foldl (fun g w => g.commitW slot w) g

end Group

/-- A record belongs to a group, R303. -/
def CheckRec.isOf (r : CheckRec) (g : Group) : Bool :=
  r.ctx == g.ctx && r.cluster == g.vcluster && r.core == g.vcore && r.slot == g.vslot

namespace State

/-- The executing group and arm. -/
def gid (s : State) : Nat := s.cur.1
def slot (s : State) : Nat := s.cur.2
def cg (s : State) : Group := s.grp s.gid
def ca (s : State) : Arm := s.cg.arm s.slot
def setG (s : State) (g : Group) : State := s.setGrp s.gid g
def setA (s : State) (a : Arm) : State := s.setG (s.cg.setArm s.slot a)
def modA (s : State) (f : Arm → Arm) : State := s.setA (f s.ca)
def modG (s : State) (f : Group → Group) : State := s.setG (f s.cg)
def ccore (s : State) : Nat := gidCore s.gid
def cdie (s : State) : Nat := gidDie s.gid
def cteam (s : State) : Team := s.team s.cg.tid
def cctx (s : State) : Ctx := s.ctx s.cg.ctx

/-- ArmMask() of R93. -/
def armMask (s : State) : BitVec 32 := s.ca.mask

/-- Guard(l) as a mask, R62. -/
def guardMask (s : State) (g : Guard) : BitVec 32 :=
  if g.pn then ~~~(s.cg.pred g.ps.toNat) else s.cg.pred g.ps.toNat

/-- The active lanes of an instruction, R62. -/
def active (s : State) (g : Guard) : BitVec 32 := s.armMask &&& s.guardMask g

/-- Header of the clause that holds the executing instruction, its instruction count, and the instruction's address. -/
def hdr (s : State) : Word := match s.ca.clause with | some c => c.hdr | none => s.ca.pc
def nwords (s : State) : Nat := match s.ca.clause with | some c => c.words.length | none => 0
def ipc (s : State) : Word := match s.ca.clause with | some c => c.hdr + BitVec.ofNat 64 (8 * (c.idx + 1)) | none => s.ca.pc

def sreg (s : State) (n : Nat) : Word := s.cg.sreg s.slot n
def setS (s : State) (n : Nat) (x : Word) : State := s.modG fun g => (g.setS s.slot n x).markS s.slot n false

/-- An MSI-X message is sent, or stays pending while its vector is masked, R483, R485. -/
def sendMsix (s : State) (v : Nat) : State :=
  let x := mget {} s.msix v
  if x.masked then { s with msix := mset {} s.msix v { x with pending := true } }
  else { s with msix := mset {} s.msix v { x with pending := false }, events := s.events ++ [.msix v x.addr x.data] }

/-- A free natural number, and the state that will give another one next time (log 9). -/
def free (s : State) : Nat := Config.freeNat s.freeCtr
def bump (s : State) : State := { s with freeCtr := s.freeCtr + 1 }

end State

/-- How the effect of a word instruction ends: it retires, the arm stays at it (parked, or moved elsewhere by the effect
itself), it traps with nothing done (R92), or the model stops. -/
inductive Eff where
  | retire (s : State)
  | stay (s : State)
  | trap (t : TrapInfo)
  | fault (f : Fault)

/-- The address of the instruction at the head of an arm, R88. -/
def Arm.ipc (a : Arm) : Word := match a.clause with | some c => c.hdr + BitVec.ofNat 64 (8 * (c.idx + 1)) | none => a.pc

/-- The arm goes on: to the next word of its clause, or to the word after the clause, R55. -/
def Arm.advance (a : Arm) : Arm :=
  let a := { a with park := none, walkFaults := [], chk := none, chkVals := [], asks := none }
  match a.clause with
  | none => a
  | some c =>
    if c.idx + 1 < c.words.length then { a with clause := some { c with idx := c.idx + 1 } }
    else { a with clause := none, xfer := 0, pc := c.hdr + BitVec.ofNat 64 (8 * (c.words.length + 1)) }

/-- The instruction at the head of the executing arm retires. -/
def State.retire (s : State) : State := s.modA Arm.advance

/-- The executing arm moves to `t` by a transfer at its own address, R185. -/
def State.jump (s : State) (t : Word) : State :=
  s.modA fun a => { a with park := none, walkFaults := [], asks := none, clause := none, pc := t, xfer := s.ipc }

/-- Park the executing arm, R93: a group whose every live arm is parked is waiting, R192. -/
def Group.settlePlace (g : Group) : Group :=
  if (!g.arm0.live || g.arm0.park.isSome) && (!g.arm1.live || g.arm1.park.isSome) then { g with place := .waiting } else g

def State.park (s : State) (p : Park) : State :=
  s.modG fun g => (g.setArm s.slot { g.arm s.slot with park := some p, asks := none }).settlePlace

/-- A trap of the table of R439 by code. -/
def trapOf (cause : Nat) (ad : Word := 0) (x : Word := 0) : TrapInfo := ⟨BitVec.ofNat 6 cause, ad, x⟩

end Sys2Proof.Machine
end

