-- ==== Sys2Proof/Machine/Frames.lean ====
section
/-! DEFINITION. The reconvergence stack of a group (R173-R184): merging, waiting, dissolving, loading a spilled side, and what
an exit does to the frames. `psn` says of each frame position whether its frame would be read back with poisoned data. -/

namespace Sys2Proof.Machine

/-- Lanes that have exited leave EXPECT, ARRIVED and SPMASK, R179. -/
def Frame.strip (lanes : BitVec 32) (f : Frame) : Frame :=
  { f with expect := f.expect &&& ~~~lanes, arrived := f.arrived &&& ~~~lanes, spmask := f.spmask &&& ~~~lanes }

/-- A frame read back with poisoned data: the arm traps UE_DATA at its clause entry, and s32-s63 hold poison, R178. -/
def Arm.readBack (a : Arm) (va : Word) (psn : Bool) : Arm :=
  if psn then { a with ue := some va, spois := BitVec.allOnes 32 } else { a with ue := none }

namespace Group

/-- The virtual address of a frame position, R176. -/
def frameVa (g : Group) (pos : Nat) : Word := g.spill + BitVec.ofNat 64 (384 * pos)

/-- The lowest free frame position, R176. -/
def freePos (g : Group) : Option Nat := (List.range 10).find? fun f => (g.frame f).isNone

/-- The order number of the next push, for "most recently pushed", R181. -/
def nextSeq (g : Group) : Nat :=
  g.frames.foldl (fun m p => match p.2 with | some f => max m (f.seq + 1) | none => m) 0

/-- The frame is among the four most recently pushed, which the core keeps on-die, R177. -/
def onDie (g : Group) (f : Frame) : Bool :=
  decide ((g.frames.filter fun p => match p.2 with | some x => decide (f.seq < x.seq) | none => false).length < 4)

/-- A free arm slot. -/
def freeSlot (g : Group) : Option Nat := if !g.arm0.live then some 0 else if !g.arm1.live then some 1 else none

/-- The slot of an arm that waits timed at a frame, R182. -/
def timedSlot (g : Group) (pos : Nat) : Option Nat :=
  if g.arm0.live && g.arm0.park == some (.timed pos) then some 0
  else if g.arm1.live && g.arm1.park == some (.timed pos) then some 1 else none

/-- The frame at `pos` merges into `slot`, R180 item 2: the sum of the counts of the sides that waited and of the arm in the
slot, mask EXPECT, FMT from SFMT, s32-s63 from SSCL, top frame PARENT. `own` says whether the arm in the slot is a side.
DESIGN CHOICE (log 47): a pending scalar reply of a side commits into s32-s63 of the merged arm. -/
def merge (g : Group) (pos slot : Nat) (own : Bool) : Group :=
  match g.frame pos with
  | none => g
  | some f =>
    let a := g.arm slot
    let loads := f.waiting.flatMap (·.loads) ++ if own then a.loads else []
    let stores := f.waiting.foldl (fun n w => n + w.stores) (if own then a.stores else 0)
    let m := { a with live := true, pc := f.raddr, mask := f.expect, fmt := f.sfmt, scal := f.sscl, spois := f.sspois,
                      top := f.parent, loads := loads, stores := stores, park := none, bw := true,
                      clause := if own then a.clause else none, handler := if own then a.handler else f.sphandler,
                      xfer := if own then a.xfer else 0 }
    (g.setArm slot m).setFrame pos none

/-- Free a frame position to which no side refers any longer, R183. -/
def release (g : Group) (pos : Nat) : Group :=
  match g.frame pos with
  | none => g
  | some f =>
    if (f.dissolved || f.expect == 0) && f.spmask == 0 && f.waiting.isEmpty && !(g.arm0.live && g.arm0.top == some pos) &&
        !(g.arm1.live && g.arm1.top == some pos) &&
        !(g.frames.any fun p => match p.2 with | some x => x.parent == some pos | none => false)
    then g.setFrame pos none else g

/-- Every frame position to which no side refers any longer is freed; freeing a child may free its parent, so the positions are gone
through once for each that is taken, R183. -/
def releaseAll (g : Group) : Group := g.frames.foldl (fun g _ => (mkeys g.frames).foldl release g) g

/-- A frame whose lanes have all arrived and at which some side waits merges at once, R180. -/
def mergeReady (g : Group) : Option (Nat × Frame) :=
  g.frames.findSome? fun p => match p.2 with
    | some f => if !f.dissolved && f.expect != 0 && f.arrived &&& f.expect == f.expect &&
        (!f.waiting.isEmpty || (g.timedSlot p.1).isSome) then some (p.1, f) else none
    | none => none

/-- The arm in slot `t` takes slot `k`. -/
def moveArm (g : Group) (t k : Nat) : Group := if t == k then g else (g.setArm k (g.arm t)).setArm t {}

/-- One such merge: into the slot `k` that an exit has freed (R180), else into that of an arm that waits timed, else into a free one.
An arm that waited timed has the header's waits before it, R170. -/
def mergeOne (g : Group) (psn : Nat → Bool) (k : Nat) : Group :=
  match g.mergeReady with
  | none => g
  | some (pos, _) =>
    match g.timedSlot pos, g.freeSlot with
    | some t, _ =>
      let j := if (g.arm k).live then t else k
      let h := (g.moveArm t j).merge pos j true
      h.setArm j { (h.arm j).readBack (g.frameVa pos) (psn pos) with park := some .header }
    | none, some j =>
      let j := if (g.arm k).live then j else k
      let h := g.merge pos j false
      h.setArm j ((h.arm j).readBack (g.frameVa pos) (psn pos))
    | none, none => g

/-- The most recently pushed frame that holds a spilled side, R181. -/
def spilled (g : Group) : Option (Nat × Frame) :=
  g.frames.foldl (fun best p => match p.2 with
    | some f => if f.spmask == 0 then best else
        (match best with
         | some (_, b) => if b.seq < f.seq then some (p.1, f) else best
         | none => some (p.1, f))
    | none => best) none

/-- Load the spilled side of the most recently pushed frame into a freed slot, R181. -/
def loadSpilled (g : Group) (psn : Nat → Bool) : Group :=
  match g.freeSlot, g.spilled with
  | some k, some (pos, f) =>
    let a := { g.arm k with live := true, pc := f.sppc, mask := f.spmask, fmt := f.sfmt, scal := f.sscl, spois := f.sspois,
                            top := some pos, loads := [], stores := 0, park := none, clause := none, xfer := f.spxfer,
                            handler := f.sphandler, bw := true, yielded := false, pend := false, step := false, done := 0 }
    (g.setArm k (a.readBack (g.frameVa pos) (psn pos))).setFrame pos (some { f with spmask := 0, spxfer := 0 })
  | _, _ => g

/-- The merges that are now complete, R180. -/
def mergeAll (g : Group) (psn : Nat → Bool) (k : Nat) : Group := (List.range 10).foldl (fun g _ => g.mergeOne psn k) g

/-- After a slot frees or lanes exit: merges that are now complete, then a spilled side into a free slot, R180, R181. -/
def settle (g : Group) (psn : Nat → Bool) (k : Nat) : Group :=
  ((g.mergeAll psn k).releaseAll.loadSpilled psn).loadSpilled psn

/-- Free an arm slot. -/
def freeArm (g : Group) (slot : Nat) : Group :=
  g.setArm slot { g.arm slot with live := false, park := none, clause := none, loads := [], stores := 0, mask := 0, top := none, asks := none,
                                  pend := false, step := false, handler := false }

/-- Nothing of the group is left to run, R191. -/
def empty (g : Group) : Bool :=
  !g.arm0.live && !g.arm1.live &&
    g.frames.all fun p => match p.2 with | some f => f.spmask == 0 && f.waiting.isEmpty | none => true

/-- The vector writes of a reply: the scalars of an arm that has ended are gone, R172, R179. -/
def lanesOnly (l : List RegW) : List RegW := l.filter fun w => match w with | .v _ _ _ _ => true | .s _ _ _ => false

/-- Lanes leave the arm in `slot`, R179, R190; replies of an arm that ends still commit to its lanes' registers, R172. -/
def stripLanes (g : Group) (slot : Nat) (lanes : BitVec 32) : Group :=
  let g := { g with exited := g.exited ||| lanes, frames := g.frames.map fun (p : Nat × Option Frame) => (p.1, p.2.map (Frame.strip lanes)) }
  let g := g.setArm slot { g.arm slot with mask := (g.arm slot).mask &&& ~~~lanes }
  if (g.arm slot).mask == 0 then
    { g.freeArm slot with orphans := g.orphans ++ ((g.arm slot).loads.map lanesOnly).filter (!·.isEmpty) }
  else g

/-- What an exit does to the arms and frames, R179-R181, R190. -/
def exitLanes (g : Group) (psn : Nat → Bool) (slot : Nat) (lanes : BitVec 32) : Group := (g.stripLanes slot lanes).settle psn slot

/-- The exit of these lanes makes a frame merge, R180. -/
def exitMerges (g : Group) (psn : Nat → Bool) (slot : Nat) (lanes : BitVec 32) : Bool :=
  (g.stripLanes slot lanes).mergeAll psn slot != g.stripLanes slot lanes

/-- Some side of the group beside the arm in `slot` is at handler level: the other arm, or a side that is spilled or waits at a
frame, R436. -/
def handlerElse (g : Group) (slot : Nat) : Bool :=
  ((g.arm (1 - slot)).live && (g.arm (1 - slot)).handler) || g.frames.any fun p => match p.2 with
    | some f => (f.sphandler && f.spmask != 0) || f.waiting.any (·.handler)
    | none => false

/-- A timed arrival expires: the frame dissolves, and the waiting arm pops it and goes on behind the header's waits, R170, R183. -/
def dissolve (g : Group) (slot : Nat) : Group :=
  match (g.arm slot).park with
  | some (.timed pos) =>
    match g.frame pos with
    | some f =>
      let g := g.setFrame pos (some { f with dissolved := true })
      (g.setArm slot { g.arm slot with park := some .header, top := f.parent, bw := false }).releaseAll
    | none => g
  | _ => g

end Group

end Sys2Proof.Machine
end

