-- ==== Sys2Proof/Machine/Home.lean ====
section
/-! DEFINITION. The home memory chiplets and the die L2s (R268-R275, R294-R301, R313, R499): reads, ownership, recalls,
write-backs, merges and atomics. Networks change timing only (log 10). -/

namespace Sys2Proof.Machine

/-- The chiplet that homes a physical address, R295. -/
def homeChip (pa : Nat) : Nat :=
  Nat.xor (natBits pa 8 4) (Nat.xor (natBits pa 12 4) (Nat.xor (natBits pa 16 4) (natBits pa 20 4)))

/-- The address within the chiplet, R295. -/
def homeLocal (pa : Nat) : Nat := pa / 4096 * 256 + pa % 256

/-- The L2 slice of a line under SMODE 00, R268: the hash `h`. -/
def sliceHash (pa : Nat) : Nat := Nat.xor (natBits pa 8 5) (Nat.xor (natBits pa 13 5) (natBits pa 18 5))

/-- The new value of an integer atomic, R251: operations 0-9 on elements of `w` bits. -/
def aopInt (aop : Aop) (w o v c : Nat) : Nat :=
  let sg := fun x : Nat => if x < 2 ^ (w - 1) then (x : Int) else (x : Int) - 2 ^ w
  match aop with
  | .add => (o + v) % 2 ^ w
  | .min => if sg v < sg o then v else o
  | .max => if sg o < sg v then v else o
  | .and => Nat.land o v
  | .or => Nat.lor o v
  | .xor => Nat.xor o v
  | .exch => v
  | .cas => if o = c then v else o
  | .inc => if v ≤ o then 0 else o + 1
  | .dec => if o = 0 || decide (v < o) then v else o - 1
  | _ => o

/-- Byte mask of `n` bytes from offset `o` of a sector. -/
def byteMask (o n : Nat) : BitVec 64 := BitVec.ofNat 64 ((2 ^ n - 1) * 2 ^ o)

/-- Place `bs` at offset `o` of a sector's 64 bytes. -/
def place (o : Nat) (bs : List Byte) : List Byte :=
  (List.range 64).map fun k => if o ≤ k && decide (k < o + bs.length) then bs.getD (k - o) 0 else 0

/-- Overlay the masked bytes of `new` on `old`. -/
def overlay (mask : BitVec 64) (old new : List Byte) : List Byte :=
  (List.range 64).map fun k => if bit mask k then new.getD k 0 else old.getD k 0

/-- PSN after a write of masked bytes, R499. -/
def psnAfter (old : Bool) (mask : BitVec 64) (pois : Bool) : Bool :=
  if pois then true else if mask == BitVec.allOnes 64 then false else old

namespace State

/-- Key of an allowance, R480: kind 1 the bandwidth of a chiplet, 2 the energy of a die. -/
def budgetKey (kind unit part : Nat) : Nat := 65536 * kind + 16 * unit + part

/-- The allowance of a partition at an enforcer, R480: that of a die is lowered in proportion to the power cap, and halved while the
die is throttled, R498. -/
def allowance (s : State) (kind unit part : Nat) : Nat :=
  let a := mget 0 s.allow (budgetKey kind unit part)
  if kind != 2 then a else a * s.host.powcap / (3200 * if (s.die unit).throttled then 2 else 1)

/-- The allowance of a partition at an enforcer is spent in this period, R480. -/
def isSpent (s : State) (kind unit part : Nat) : Bool :=
  let k := budgetKey kind unit part
  mget 0 s.allow k != 0 && decide (s.allowance kind unit part ≤ mget 0 s.used k)

/-- Charge an enforcer's account of a partition, R480; an allowance that nobody has set is not counted. -/
def charge (s : State) (kind unit part n : Nat) : State :=
  let k := budgetKey kind unit part
  if mget 0 s.allow k == 0 then s else { s with used := mset 0 s.used k (mget 0 s.used k + n) }

/-- A sector of a live frame of a group, here or saved, R177, or of the save area of a context whose image is held, R455. -/
def guardedSect (s : State) (sect : Nat) : Bool :=
  let inFrames := fun (g : Group) => g.frames.any fun p => match p.2 with
    | some f => decide (f.tr.pa / 64 ≤ sect) && decide (sect < f.tr.pa / 64 + 6)
    | none => false
  s.groups.any (fun p => inFrames p.2) || s.teams.any (fun p => p.2.groups.any inFrames) ||
    s.ctxs.any fun p => p.2.away && decide (p.2.savea / 64 ≤ sect) && decide (sect < p.2.savea / 64 + 16 * p.2.savesz)

/-- An agent stores into a sector: a store into a live frame or a held image is remembered, R177, R455. -/
def noteStore (s : State) (sect : Nat) : State :=
  if s.guardedSect sect then { s with hits := mset false s.hits sect true } else s

/-- No agent has stored into the sectors since they were last the device's own. -/
def unhit (s : State) (sect n : Nat) : Bool := s.hits.all fun p => !(decide (sect ≤ p.1) && decide (p.1 < sect + n))

/-- The sectors are the device's own again. -/
def clearHits (s : State) (sect n : Nat) : State :=
  { s with hits := s.hits.filter fun p => !(decide (sect ≤ p.1) && decide (p.1 < sect + n)) }

def homeData (s : State) (sect : Nat) : List Byte := mgetList 0 s.mem (sect * 64) 64
def homePsn (s : State) (sect : Nat) : Bool := mget false s.psn sect
def dirEnt (s : State) (sect : Nat) : DirEntry := mget {} s.dir sect
def setDir (s : State) (sect : Nat) (e : DirEntry) : State := { s with dir := mset {} s.dir sect e }

/-- Write the masked bytes of a sector at its home, R300: no other byte changes. -/
def homeWrite (s : State) (sect : Nat) (mask : BitVec 64) (data : List Byte) (pois : Bool) : State :=
  { s with mem := (maskList mask).foldl (fun m k => mset 0 m (sect * 64 + k) (data.getD k 0)) s.mem,
           psn := mset false s.psn sect (psnAfter (s.homePsn sect) mask pois),
           dirty := mset false s.dirty (sect / 4) true }

/-! Routes between dies and chiplets (R308-R312): traffic waits while a die has none. -/

def routeKey (i j : Nat) : Nat := 32 * i + j
def route (s : State) (i j : Nat) : Route := mget {} s.routes (routeKey i j)
def setRoute (s : State) (i j : Nat) (r : Route) : State := { s with routes := mset {} s.routes (routeKey i j) r }

/-- A pair of distinct connected ports, R308. -/
def isPair (i j : Nat) : Bool := i != j && decide (i < 26) && decide (j < 26)

/-- A leg has a route of its own: a working colour; a leg that is itself relayed does not count, R309, R310. -/
def legWorks (s : State) (i j : Nat) : Bool :=
  isPair i j && (s.route i j).eff != 3 && ((s.route i j).aup || (s.route i j).bup)

/-- The pair has some route, R309. -/
def hasRoute (s : State) (i j : Nat) : Bool :=
  let r := s.route i j
  r.aup || r.bup || (r.eff == 3 && s.legWorks i r.relay && s.legWorks r.relay j)

/-- A compute die and a port have no route in one of their two directions, R312, R490. -/
def cutOff (s : State) (die port : Nat) : Bool := !(s.hasRoute die port && s.hasRoute port die)

/-- A pair that is drained, itself or in a leg of its relay: its sender has stopped, R311. -/
def draining (s : State) (i j : Nat) : Bool :=
  let r := s.route i j
  r.busy || (r.eff == 3 && ((s.route i r.relay).busy || (s.route r.relay j).busy))

/-- Traffic between a die and a port waits now: a direction has no route (R312), or is being drained (R311). -/
def cutFrom (s : State) (d port : Nat) : Bool := !s.routes.isEmpty && (s.cutOff d port || s.draining d port || s.draining port d)

/-- A die does not answer a home's recall or invalidation now, R312: it has fenced itself and is not lost yet, or traffic with it waits. -/
def deaf (s : State) (d port : Nat) : Bool := !(s.die d).lost && ((s.die d).fenced || s.cutFrom d port)


/-- The L2 sector of a die, with the KIND of its line. -/
def l2sect (s : State) (d sect : Nat) : Option (Bool × L2Sect) :=
  match mget none (s.die d).l2 (sect / 4) with
  | some l => some (l.coh, l.sects.getD (sect % 4) {})
  | none => none

/-- The list of a context's dirty software-managed sectors in a slice, R274. -/
def listKey (ctx sl : Nat) : Nat := 32 * ctx + sl

/-- The dirty lists of a slice after a sector of a software-managed line changes from `old` to `new`, R274: a sector that becomes dirty
joins the list of its tag, one that is written back or dropped leaves it. -/
def relist (m : SMap (List Nat)) (sl sect : Nat) (old new : L2Sect) : SMap (List Nat) :=
  let a := listKey old.tag sl
  let b := listKey new.tag sl
  if old.drt != 0 && new.drt == 0 then mset [] m a ((mget [] m a).filter (· != sect))
  else if old.drt == 0 && new.drt != 0 then mset [] m b (mget [] m b ++ [sect])
  else m

/-- Change one sector of a die's L2, allocating the line (KIND and CTX of the access) where it is absent, R270; an access with a page
has placed the line before (`l2Place`). -/
def l2put (s : State) (d : Nat) (ctx : Nat) (coh : Bool) (sect : Nat) (x : L2Sect) : State :=
  let ds := s.die d
  let l := match mget none ds.l2 (sect / 4) with
    | some l => l
    | none => ⟨coh, ctx, sliceHash (sect * 64), List.replicate 4 {}⟩
  s.setDie d { ds with l2 := mset none ds.l2 (sect / 4) (some { l with sects := l.sects.set (sect % 4) x }),
                       lists := if l.coh then ds.lists else relist ds.lists l.slice sect (l.sects.getD (sect % 4) {}) x }

/-- The slice that holds a line, or would by SMODE 00, R268. -/
def lineSlice (s : State) (d line : Nat) : Nat :=
  match mget none (s.die d).l2 line with | some l => l.slice | none => sliceHash (line * 256)

/-- Drop a line from a die's L2. -/
def l2drop (s : State) (d line : Nat) : State :=
  let ds := s.die d
  s.setDie d { ds with l2 := mset none ds.l2 line none,
                       lists := (ds.lists.map fun p => (p.1, p.2.filter fun k => k / 4 != line)).filter fun p => !p.2.isEmpty }

/-- The cores of a die that the state lists. -/
def dieCores (s : State) (d : Nat) : List Nat := (mkeys s.cores).filter fun c => coreDie c == d

/-- Elements of an update-only line that lie in a sector: index and operand. -/
def updIn (u : UpdLine) (sect : Nat) : List (Nat × Nat) :=
  let per := if u.wide then 8 else 16
  u.elems.filterMap fun p => match p.2 with
    | some v => if u.line == sect / 4 && p.1 / per == sect % 4 then some (p.1, v) else none
    | none => none

/-- Remove the elements of a sector from the update-only lines of a core; a line without elements is freed. -/
def updStrip (s : State) (c sect : Nat) : State :=
  let cs := s.core c
  let strip := fun (u : UpdLine) =>
    if u.line == sect / 4 then { u with elems := u.elems.filter fun p => p.1 / (if u.wide then 8 else 16) != sect % 4 } else u
  s.setCore c { cs with upd := (cs.upd.map strip).filter fun u => !u.elems.isEmpty }

/-- Apply element operands to the 64 bytes of a sector, R242. -/
def applyElems (aop : Aop) (wide : Bool) (data : List Byte) (es : List (Nat × Nat)) : List Byte :=
  let n := if wide then 8 else 4
  es.foldl (fun data e =>
    let o := e.1 % (64 / n) * n
    let old := natOfBytes ((List.range n).map fun k => data.getD (o + k) 0)
    overlay (byteMask o n) data (place o (bytesOfNat n (aopInt aop (8 * n) old e.2 0)))) data

def elemsMask (wide : Bool) (es : List (Nat × Nat)) : BitVec 64 :=
  let n := if wide then 8 else 4
  es.foldl (fun m e => m ||| byteMask (e.1 % (64 / n) * n) n) 0

/-- The deltas of one core for a sector, applied at the home: what a recall of update-only lines does before a coherent sector
is given up, R275; every other copy of the sector is being given up with it. A poisoned sector takes none (R301). -/
def deltasHome (s : State) (sect : Nat) (c : Nat) : State :=
  let us := (s.core c).upd.filter fun u => !(updIn u sect).isEmpty
  let s := us.foldl (fun s u => if s.homePsn sect then s else
    s.homeWrite sect (elemsMask u.wide (updIn u sect)) (applyElems u.aop u.wide (s.homeData sect) (updIn u sect)) false) s
  if us.isEmpty then s else s.updStrip c sect

/-- A die gives up a coherent sector to its home, R271, R275: its dirty bytes return, update-only lines merge, and the sector
becomes S or I. -/
def l2Recall (s : State) (d sect : Nat) (toShared : Bool) : State :=
  match s.l2sect d sect with
  | some (true, x) =>
    let s := if x.cst == .o && x.drt != 0 then s.homeWrite sect x.drt x.data x.psn else s
    let s := (s.dieCores d).foldl (fun s c => s.deltasHome sect c) s
    let s' := s.l2put d 0 true sect { x with cst := if toShared && x.cst != .i then .s else .i, drt := 0,
                                             data := s.homeData sect, psn := s.homePsn sect }
    s'
  | _ => (s.dieCores d).foldl (fun s c => s.deltasHome sect c) s

/-- The dies of a sharer set: bits 8 and 9 are the collective and the host I/O die, which answer at once. -/
def sharers (e : DirEntry) : List Nat := (maskList e.shr).filter (· < 8)

/-- Recalls and invalidations of a sector's copies before a read, or a write or atomic, at the home, R298. -/
def homeClear (s : State) (sect : Nat) (write : Bool) : State :=
  let e := s.dirEnt sect
  match e.st with
  | .i => s
  | .s => if write then ((sharers e).foldl (fun s d => s.l2Recall d sect false) s).setDir sect {} else s
  | _ =>
    if write then ((sharers e).foldl (fun s d => s.l2Recall d sect false) s).setDir sect {}
    else ((sharers e).foldl (fun s d => s.l2Recall d sect true) s).setDir sect { dst := .s, shr := e.shr }

/-! The memory-side caches (R296, R299): 16 ways of 32,768 sets in each chiplet. A line held by none of them misses and is filled from
DRAM; its bytes are those of `State.mem` either way. -/

/-- The key of the set in which a line lies: its chiplet, and the low bits of its local line number (R295; DESIGN CHOICE, log 10: R297
names a set index and not its bits). -/
def homeSet (line : Nat) : Nat := 32768 * homeChip (256 * line) + line / 16 % 32768

/-- The lines that a line's set holds. -/
def homeWays (s : State) (line : Nat) : List Nat := mget [] s.mlines (homeSet line)

/-- Some die holds a copy of a sector of the line. -/
def hasCopies (s : State) (line : Nat) : Bool := (List.range 4).any fun k => (s.dirEnt (line * 4 + k)).shr != 0

/-- A die that holds a copy of a sector of the line does not answer now. -/
def lineDeaf (s : State) (line : Nat) : Bool :=
  (List.range 4).any fun k => (sharers (s.dirEnt (line * 4 + k))).any fun d => s.deaf d (8 + homeChip (line * 256))

/-- The line is held, or can enter its set without a recall. -/
def homeRoom (s : State) (line : Nat) : Bool :=
  (s.homeWays line).contains line || decide ((s.homeWays line).length < Config.homeWays) || (s.homeWays line).any fun v => !s.hasCopies v

/-- No line of the set can leave it now: the request waits for the dies that hold copies, R299, R312. -/
def homeFull (s : State) (line : Nat) : Bool := !s.homeRoom line && (s.homeWays line).all s.lineDeaf

/-- The home evicts a line from its memory-side cache, R299: every owned sector is recalled and every shared one invalidated, with the
deltas of their update-only lines, and the line is written to DRAM. -/
def homeEvict (s : State) (line : Nat) : State :=
  let s := (List.range 4).foldl (fun s k => s.homeClear (line * 4 + k) true) s
  { s with dirty := mset false s.dirty line false, mlines := mmod [] s.mlines (homeSet line) fun l => l.filter (· != line) }

/-- The line that a full set evicts (DESIGN CHOICE, log 10): the oldest without copies, else the oldest whose copies answer. -/
def homeVictim (s : State) (line : Nat) : Nat :=
  match (s.homeWays line).find? fun v => !s.hasCopies v with
  | some v => v
  | none => ((s.homeWays line).find? fun v => !s.lineDeaf v).getD 0

/-- A request reaches the home of a line: a line that misses is filled, and a full set evicts another line first, R296, R299. -/
def homeLine (s : State) (line : Nat) : State :=
  if (s.homeWays line).contains line then s
  else
    let s := if decide ((s.homeWays line).length < Config.homeWays) then s else s.homeEvict (s.homeVictim line)
    { s with mlines := mmod [] s.mlines (homeSet line) fun l => l ++ [line] }

/-- The home serves a shared read, R298. -/
def homeReadShared (s : State) (req sect : Nat) : State :=
  let s := s.homeLine (sect / 4)
  let e := s.dirEnt sect
  match e.st with
  | .o =>
    if bit e.shr req then s.setDir sect { dst := .o, shr := e.shr }
    else ((sharers e).foldl (fun s d => s.l2Recall d sect true) s).setDir sect { dst := .s, shr := setBit e.shr req true }
  | st => s.setDir sect { dst := .s, shr := setBit (if st == .i then 0 else e.shr) req true }

/-- The home grants ownership, R298. -/
def homeReadOwn (s : State) (req sect : Nat) : State :=
  let s := s.homeLine (sect / 4)
  let e := s.dirEnt sect
  (((sharers e).filter (· != req)).foldl (fun s d => s.l2Recall d sect false) s).setDir sect { dst := .o, shr := setBit 0 req true }

/-- Some core of the die holds deltas for the sector in an update-only line, R242. -/
def hasDeltas (s : State) (d sect : Nat) : Bool := (s.dieCores d).any fun c => (s.core c).upd.any fun u => !(updIn u sect).isEmpty

/-- A die holds a coherent sector O, with the home's bytes where it did not own it, R271. -/
def l2Own (s : State) (d ctx sect : Nat) : State :=
  let x := match s.l2sect d sect with | some (_, x) => x | none => {}
  if x.cst == .o then s
  else
    let s := s.homeReadOwn d sect
    s.l2put d ctx true sect { x with cst := .o, drt := 0, data := s.homeData sect, psn := s.homePsn sect }

/-- One die alone gives up a coherent sector, R271, R275: where update-only lines hold deltas for it, it owns the sector first, so that
no other copy misses them. The directory follows. -/
def giveUp (s : State) (d sect : Nat) (toShared : Bool) : State :=
  let s := if s.hasDeltas d sect then s.l2Own d 0 sect else s
  let s := s.l2Recall d sect toShared
  s.setDir sect ((s.dirEnt sect).keep (setBit (s.dirEnt sect).shr d toShared))

/-- A request that the home itself performs reaches it: a device-scope atomic, an uncached access, a remote access or a write-back of a
software-managed sector, R296, R298, R300. -/
def homeTake (s : State) (sect : Nat) (write : Bool) : State := (s.homeLine (sect / 4)).homeClear sect write

/-- The home merges a write-back, R300: as a remote write first where the sector has copies. -/
def homeMerge (s : State) (sect : Nat) (mask : BitVec 64) (data : List Byte) (pois : Bool) : State :=
  (s.homeTake sect true).homeWrite sect mask data pois

/-- A slice writes back the dirty bytes of a software-managed sector, R272: VAL is left, DRT is cleared. -/
def swWriteBack (s : State) (d sect : Nat) : State :=
  match s.l2sect d sect with
  | some (false, x) =>
    if x.drt == 0 then s
    else (s.l2put d 0 false sect { x with drt := 0 }).homeMerge sect x.drt x.data x.psn
  | _ => s

/-- A software-managed sector without its clean bytes; one that is left without a byte holds no poison, R270. -/
def dirtyOnly (x : L2Sect) : L2Sect := { x with val := x.val &&& x.drt, psn := x.psn && x.drt != 0 }

/-- A die's copy of a software-managed sector goes, whatever it holds; or its clean bytes alone. -/
def swDrop (s : State) (d sect : Nat) : State :=
  match s.l2sect d sect with
  | some (false, _) => s.l2put d 0 false sect {}
  | _ => s

def swClean (s : State) (d sect : Nat) : State :=
  match s.l2sect d sect with
  | some (false, x) => s.l2put d 0 false sect (dirtyOnly x)
  | _ => s

/-- A software-managed line that holds no byte any more is free, R270. -/
def swTidy (s : State) (d line : Nat) : State :=
  match mget none (s.die d).l2 line with
  | some l => if !l.coh && l.sects.all fun x => x.val == 0 && x.drt == 0 then s.l2drop d line else s
  | none => s

/-- Read bytes of a sector through a die's L2, R271, R272: data, poison, and the state with the sector held. R298's table has no row for a
fill of a software-managed sector that has an owner at its home: it recalls the owner to S, as a remote read does (DESIGN CHOICE, log 10). -/
def l2Fill (s : State) (d ctx : Nat) (coh : Bool) (sect : Nat) (need : BitVec 64) : State × List Byte × Bool :=
  let x := match s.l2sect d sect with | some (_, x) => x | none => {}
  if coh then
    if x.cst != .i then (s, x.data, x.psn)
    else
      let s := s.homeReadShared d sect
      let x := { x with cst := .s, drt := 0, data := s.homeData sect, psn := s.homePsn sect }
      (s.l2put d ctx coh sect x, x.data, x.psn)
  else if need &&& x.val == need then (s, x.data, x.psn)
  else
    let s := s.homeTake sect false
    let data := overlay x.drt (s.homeData sect) x.data
    let psn := if s.homePsn sect then true else if x.drt == 0 then false else x.psn
    (s.l2put d ctx coh sect { x with val := BitVec.allOnes 64, data := data, psn := psn }, data, psn)

/-- The sector that a full list of a context in a slice writes back before it takes another, R274: none where the sector is dirty
already. -/
def listFull (s : State) (d ctx sl sect : Nat) : Option Nat :=
  let l := mget [] (s.die d).lists (listKey ctx sl)
  let clean := match s.l2sect d sect with | some (_, x) => x.drt == 0 | none => true
  if clean && decide (Config.dirtyList ≤ l.length) then l.head? else none

/-- Write masked bytes of a sector into a die's L2, R271, R272: a coherent sector is owned first; a software-managed one that becomes
dirty takes the context's tag, and a full list writes back its oldest sector first, R274. -/
def l2Store (s : State) (d ctx : Nat) (coh : Bool) (sect : Nat) (mask : BitVec 64) (data : List Byte) (pois : Bool) : State :=
  let s := if coh then s.l2Own d ctx sect else match s.listFull d ctx (s.lineSlice d (sect / 4)) sect with
    | some old => s.swWriteBack d old
    | none => s
  let x := match s.l2sect d sect with | some (_, x) => x | none => {}
  if coh then
    s.l2put d ctx coh sect { x with drt := x.drt ||| mask, data := overlay mask x.data data, psn := psnAfter x.psn mask pois,
                                    tag := ctx }
  else
    s.l2put d ctx coh sect { x with val := x.val ||| mask, drt := x.drt ||| mask, data := overlay mask x.data data,
                                    psn := psnAfter x.psn mask pois, tag := if x.drt == 0 then ctx else x.tag }

/-- The deltas of one core for a sector, applied to the sector as the die's L2 holds it, R242; a poisoned sector takes none. -/
def deltasL2 (s : State) (c : Nat) (coh : Bool) (sect : Nat) : State :=
  let d := coreDie c
  let us := (s.core c).upd.filter fun u => !(updIn u sect).isEmpty
  us.foldl (fun s u =>
    let s := if coh then s.l2Own d u.ctx sect else s
    let (s, data, psn) := s.l2Fill d u.ctx coh sect (BitVec.allOnes 64)
    let s := s.updStrip c sect
    if psn then s
    else s.l2Store d u.ctx coh sect (elemsMask u.wide (updIn u sect)) (applyElems u.aop u.wide data (updIn u sect)) false) s

/-- A line whose KIND differs from the COH of the access is given up first, R313: a software-managed line takes the deltas of its
update-only lines (R275) and writes back its dirty bytes, a coherent one returns its sectors to the home. -/
def l2Turn (s : State) (d : Nat) (coh : Bool) (line : Nat) : State :=
  match mget none (s.die d).l2 line with
  | none => s
  | some l =>
    if l.coh == coh then s
    else
      let s := (List.range 4).foldl (fun s k =>
        let sect := line * 4 + k
        if l.coh then (if bit (s.dirEnt sect).shr d then s.giveUp d sect false else s)
        else ((s.dieCores d).foldl (fun s c => s.deltasL2 c false sect) s).swWriteBack d sect) s
      s.l2drop d line

/-- A dirty sector of a line moves to the lists of slice `sl`, R269, R274: a full list there writes back its oldest sector first. -/
def moveList (s : State) (d line sl k : Nat) : State :=
  match s.l2sect d (line * 4 + k) with
  | some (false, x) =>
    if x.drt == 0 then s
    else
      let a := listKey x.tag (s.lineSlice d line)
      let b := listKey x.tag sl
      let s := if decide (Config.dirtyList ≤ (mget [] (s.die d).lists b).length) then
          (match mget [] (s.die d).lists b with | old :: _ => s.swWriteBack d old | [] => s) else s
      let l := mmod [] (s.die d).lists a fun l => l.filter (· != line * 4 + k)
      s.setDie d { s.die d with lists := mmod [] l b fun l => l ++ [line * 4 + k] }
  | _ => s

/-- An access reaches slice `sl` with a line, R268: a line that misses is allocated there, with KIND and CTX of the access (R270); one
that the twin holds is taken from it as it stands (R269). -/
def l2Place (s : State) (d ctx : Nat) (coh : Bool) (sl line : Nat) : State :=
  match mget none (s.die d).l2 line with
  | none => s.setDie d { s.die d with l2 := mset none (s.die d).l2 line (some ⟨coh, ctx, sl, List.replicate 4 {}⟩) }
  | some l =>
    if l.slice == sl then s
    else
      let s := (List.range 4).foldl (fun s k => s.moveList d line sl k) s
      s.setDie d { s.die d with l2 := mset none (s.die d).l2 line ((mget none (s.die d).l2 line).map fun l => { l with slice := sl }) }

/-- An access of kind `coh` reaches slice `sl` with a line: the line there is of its kind, R268, R313. -/
def l2Reach (s : State) (d ctx : Nat) (coh : Bool) (sl line : Nat) : State := (s.l2Turn d coh line).l2Place d ctx coh sl line

/-- The deltas of an update-only line of a core for a sector, applied in the die's L2 at the cluster-scope execution point, R242. -/
def mergeSect (s : State) (c : Nat) (u : UpdLine) (sect : Nat) : State :=
  if (updIn u sect).isEmpty then s else (s.l2Reach (coreDie c) u.ctx u.coh u.sl (sect / 4)).deltasL2 c u.coh sect

/-- Merge the update-only lines of a core that `p` selects, oldest first, R242. -/
def mergeUpd (s : State) (c : Nat) (p : UpdLine → Bool) : State :=
  ((s.core c).upd.filter p).foldl (fun s u => (List.range 4).foldl (fun s k => s.mergeSect c u (u.line * 4 + k)) s) s

/-- Merge the update-only lines of one line in every core of a die, R275. -/
def mergeDie (s : State) (d line : Nat) : State :=
  (s.dieCores d).foldl (fun s c => s.mergeUpd c fun u => u.line == line) s

/-- The bytes of a sector that a device-scope acquire could observe, and their poison: the owner's copy, else the home's. -/
def sectView (s : State) (sect : Nat) : List Byte × Bool :=
  let e := s.dirEnt sect
  match e.st, sharers e with
  | .o, d :: _ => (match s.l2sect d sect with
      | some (true, x) => (overlay x.drt (s.homeData sect) x.data, x.psn || s.homePsn sect)
      | _ => (s.homeData sect, s.homePsn sect))
  | _, _ => (s.homeData sect, s.homePsn sect)

/-- The `n` bytes from a physical address as a device-scope acquire could observe them. Walkers read page tables so, R235, and
command processors the records of their queues. -/
def devView (s : State) (pa n : Nat) : List Byte × Bool :=
  let xs := (List.range ((pa % 64 + n + 63) / 64)).map fun k => s.sectView (pa / 64 + k)
  (((xs.flatMap (·.1)).drop (pa % 64)).take n, xs.any (·.2))

/-- A read-modify-write at the home, R301: the old bytes, their poison, and the state after; a poisoned old value writes
nothing. -/
def homeRmw (s : State) (pa n : Nat) (f : Nat → Nat) : State × Nat × Bool :=
  let sect := pa / 64
  let s := s.homeTake sect true
  let old := natOfBytes ((List.range n).map fun k => (s.homeData sect).getD (pa % 64 + k) 0)
  if s.homePsn sect then (s, old, true)
  else (s.homeWrite sect (byteMask (pa % 64) n) (place (pa % 64) (bytesOfNat n (f old))) false, old, false)

/-- A read-modify-write of a sector of a line that a die's L2 holds, or has owned, R278. -/
def l2RmwHeld (s : State) (d ctx : Nat) (coh : Bool) (pa n : Nat) (f : Nat → Nat) : State × Nat × Bool :=
  let sect := pa / 64
  let (s, data, psn) := s.l2Fill d ctx coh sect (byteMask (pa % 64) n)
  let old := natOfBytes ((List.range n).map fun k => data.getD (pa % 64 + k) 0)
  if psn then (s, old, true)
  else (s.l2Store d ctx coh sect (byteMask (pa % 64) n) (place (pa % 64) (bytesOfNat n (f old))) false, old, false)

/-- A read-modify-write in a die's L2, R278, R279: a coherent sector is owned while the slice operates. -/
def l2Rmw (s : State) (d ctx : Nat) (coh : Bool) (sl pa n : Nat) (f : Nat → Nat) : State × Nat × Bool :=
  let s := s.l2Reach d ctx coh sl (pa / 64 / 4)
  (if coh then s.l2Own d ctx (pa / 64) else s).l2RmwHeld d ctx coh pa n f

/-- Write back every dirty software-managed sector of a context's lists in a die's L2: a device-scope release, R274, R276. -/
def writeBackCtx (s : State) (d ctx : Nat) : State :=
  (s.die d).l2.foldl (fun s p => match p.2 with
    | some l => if l.coh then s else (List.range 4).foldl (fun s k =>
        if (l.sects.getD k {}).tag == ctx then s.swWriteBack d (p.1 * 4 + k) else s) s
    | none => s) s

/-- The dies whose copies of a sector a request of die `d` makes the home recall or invalidate, R298. -/
def homeAsked (s : State) (d sect : Nat) (write : Bool) : List Nat :=
  let e := s.dirEnt sect
  if write || e.st == .o then (sharers e).filter (· != d) else []

/-- The home of a sector cannot serve a request of a die (or of the I/O die, at its port) at once, R312: it has no route to the home, a
die whose copy the home recalls or invalidates does not answer, or no line can leave the set of the memory-side cache. -/
def homeCut (s : State) (d sect : Nat) (write : Bool) : Bool :=
  let port := 8 + homeChip (sect * 64)
  s.cutFrom d port || (s.homeAsked d sect write).any (fun x => s.deaf x port) || s.homeFull (sect / 4)

/-- An arm's instruction has asked for the sector before step `n`, and the home holds it in B, R298. -/
def askedBefore (s : State) (n : Option Nat) (sect : Nat) : Bool :=
  let by_ := fun (a : Arm) => a.live && match a.asks with
    | some (t, l) => l.contains sect && (match n with | some m => decide (t < m) | none => true)
    | none => false
  s.groups.any fun p => p.2.live && (by_ p.2.arm0 || by_ p.2.arm1)

/-- The same for a request of an agent that is no arm: one that finds the sector in B waits behind those that hold it there, R298. -/
def homeBusy (s : State) (d sect : Nat) (write : Bool) : Bool := s.homeCut d sect write || s.askedBefore none sect

/-- The partition's allowance at the chiplet of a sector is spent, R480; a pre-emption of the partition on the die, or for a request of no
die on any, is not held by it, R481. -/
def spentAt (s : State) (d part sect : Nat) : Bool :=
  s.isSpent 1 (homeChip (sect * 64)) part &&
    !s.ctxs.any fun p => p.2.live && p.2.part == part && if d < 8 then bit p.2.preq d else p.2.preq != 0

/-- A request of a partition waits for the home of a sector: it cannot be served at once, or the partition's allowance there is spent,
R298, R312, R480. -/
def waitsHome (s : State) (d part sect : Nat) (write : Bool) : Bool := s.homeBusy d sect write || s.spentAt d part sect

/-- What an access of a die to a sector asks of its home, R271, R272, R274, R313: `some true` a write or ownership, `some false` a
read, `none` nothing. -/
def l2Need (s : State) (d ctx : Nat) (coh : Bool) (sl sect : Nat) (need : BitVec 64) (write : Bool) : Option Bool :=
  let other := match mget none (s.die d).l2 (sect / 4) with | some l => l.coh != coh | none => false
  let x := match s.l2sect d sect with | some (_, x) => x | none => {}
  if other then some true
  else if coh then
    if write then (if x.cst == .o then none else some true) else (if x.cst != .i then none else some false)
  else if write then (if (s.listFull d ctx sl sect).isSome then some true else none)
  else if need &&& x.val == need then none else some false

/-- The line of a die that an access of the other kind gives up asks the home for every sector that it writes back or returns, R313. -/
def turnNeeds (s : State) (d : Nat) (coh : Bool) (line : Nat) : List (Nat × Bool) :=
  match mget none (s.die d).l2 line with
  | some l => if l.coh == coh then [] else (List.range 4).filterMap fun k =>
      let x := l.sects.getD k {}
      if x.drt != 0 || s.hasDeltas d (line * 4 + k) then some (line * 4 + k, true) else none
  | none => []

/-- What an access that reaches slice `sl` with a line asks before it is served: the line that it turns (R313), and the oldest sectors of
full lists where it moves from its twin (R269, R274). -/
def reachNeeds (s : State) (d : Nat) (coh : Bool) (sl line : Nat) : List (Nat × Bool) :=
  s.turnNeeds d coh line ++ match mget none (s.die d).l2 line with
    | some l => if l.coh || l.slice == sl then [] else l.sects.filterMap fun x =>
        let full := mget [] (s.die d).lists (listKey x.tag sl)
        if x.drt != 0 && decide (Config.dirtyList ≤ full.length) then full.head?.map fun k => (k, true) else none
    | none => []

/-- The oldest sector of a full list, which a store writes back first, asks its own home, R274, R312. -/
def listNeeds (s : State) (d ctx sl sect : Nat) : List (Nat × Bool) := ((s.listFull d ctx sl sect).map fun k => (k, true)).toList

/-- The update-only lines of a core that `p` selects merge, R242: what that asks of the homes. -/
def mergeNeeds (s : State) (c : Nat) (p : UpdLine → Bool) : List (Nat × Bool) :=
  ((s.core c).upd.filter p).flatMap fun u => s.reachNeeds (coreDie c) u.coh u.sl u.line ++ (List.range 4).flatMap fun k =>
    let sect := u.line * 4 + k
    if (updIn u sect).isEmpty then []
    else ((s.l2Need (coreDie c) u.ctx u.coh u.sl sect (BitVec.allOnes 64) u.coh).map fun w => (sect, w)).toList ++
      (if u.coh then [] else s.listNeeds (coreDie c) u.ctx u.sl sect)

/-- The write-backs on a die of dirty software-managed sectors whose tag `p` selects, as a device-scope release makes them, R276: what they
ask of the homes. -/
def writeBackNeeds (s : State) (d : Nat) (p : Nat → Bool) : List (Nat × Bool) :=
  (s.die d).l2.flatMap fun e => match e.2 with
    | some l => if l.coh then [] else (List.range 4).filterMap fun k =>
        let x := l.sects.getD k {}
        if x.drt != 0 && p x.tag then some (e.1 * 4 + k, true) else none
    | none => []

/-- Some of the requests cannot be served at once. -/
def waitsAny (s : State) (d part : Nat) (l : List (Nat × Bool)) : Bool := l.any fun r => s.waitsHome d part r.1 r.2

/-- The units of the classes of R458: the arrays of the cores (classes 0-5 and 7, by core number), the L2 slices (32 a die), the memory
chiplets (cache, DRAM channel, check table), the hops between two ports of the interposer (32i + j) and the scale-up links (by port). The
manual counts neither a chiplet's DRAM channels nor gives units their numbers (DESIGN CHOICE, log 38). -/
def unitExists (cls unit : Nat) : Bool :=
  if cls ≤ 5 || cls == 7 then decide (unit < 2048)
  else if cls == 6 then decide (unit < 256)
  else if cls ≤ 10 then decide (unit < 16)
  else if cls == 11 then decide (unit / 32 < 26) && decide (unit % 32 < 26) && unit / 32 != unit % 32
  else cls == 12 && decide (unit < 32)

/-- An error log takes an entry, newest first, R458; `corrected` counts it. What names no unit has no log. -/
def logError (s : State) (cls unit : Nat) (e : LogEntry) (corrected : Bool) : State :=
  if !unitExists cls unit then s else
  let k := 2 ^ 24 * cls + unit
  let l := mget {} s.dev.logs k
  let l := { entries := (e :: l.entries).take 8, count := if corrected then min (l.count + 1) (2 ^ 32 - 1) else l.count }
  { s with dev := { s.dev with logs := mset {} s.dev.logs k l } }

/-- An armed injection of the type at this unit and address takes place, R461. -/
def fireInj (s : State) (type cls unit : Nat) (addr : Option Word) : State :=
  let hit := fun n =>
    let w := (mget 0 s.dev.injctl n).toNat
    natBits w 62 1 == 1 && natBits w 56 2 == type && natBits w 52 4 == cls && natBits w 28 24 == unit &&
      (addr.map fun a => mget 0 s.dev.injadr n == a).getD true
  match (List.range 16).find? hit with
  | none => s
  | some n =>
    let w := setBit (setBit (mget 0 s.dev.injctl n) 62 false) 63 true
    { s with dev := { s.dev with injctl := mset 0 s.dev.injctl n w } }

/-- An armed injection of the type waits for this unit and address. -/
def injArmed (s : State) (type cls unit : Nat) (addr : Option Word) : Bool := s.fireInj type cls unit addr != s

/-- A core awaits retirement, R496; a further core raises vector 0 although CORE stands, R497. -/
def markRetire (s : State) (c : Nat) : State :=
  if s.retiring.contains c then s
  else
    let t := { s with retiring := s.retiring ++ [c], host := { s.host with core := true } }
    if s.host.core then t.sendMsix 0 else t

/-- The corrected errors that the arrays of a core have logged, R496: classes 0 to 5. -/
def coreErrors (s : State) (c : Nat) : Nat := (List.range 6).foldl (fun n k => n + (mget {} s.dev.logs (2 ^ 24 * k + c)).count) 0

/-- A corrected error in a DRAM row, R495: at the sixteenth within 24 hours the row is copied to a spare row of its bank, while the bank has
one; ROWS is set where 6 of its 8 are used. Whether the errors fell within 24 hours is a free choice, since the model counts no time, and
which bytes make a row and which rows a bank the manual does not say (log 12). -/
def rowError (s : State) (chip pa : Nat) : State :=
  let r := 16 * Config.dramRow (homeLocal pa) + chip
  let b := 16 * Config.dramBank (homeLocal pa) + chip
  let n := mget 0 s.rowErrs r + 1
  let used := mget 0 s.spareRows b
  if decide (16 ≤ n) && decide (used < 8) && s.free % 2 == 1 then
    let t := { s with rowErrs := mset 0 s.rowErrs r 0, spareRows := mset 0 s.spareRows b (used + 1) }.bump
    if used < 5 then t else if s.host.rows then t.sendMsix 0 else { t with host := { t.host with rows := true } }
  else { s with rowErrs := mset 0 s.rowErrs r n }.bump

/-- What a corrected error brings besides its log entry: a core that has logged more than 64 within 24 hours, which is a free choice too,
is retired (R496), and a DRAM row is spared (R495). -/
def wearError (s : State) (cls unit pa : Nat) : State :=
  if cls ≤ 5 then (if decide (64 < s.coreErrors unit) && s.free % 2 == 1 then s.bump.markRetire unit else s.bump)
  else if cls == 9 then s.rowError unit pa
  else s

/-- A flit passes a hop, and meets an armed injection there, R461: it is replayed, and the hop's log shows it (R307, R459). The flit counter
and the syndrome are free values (log 9). -/
def hopFlit (s : State) (i j : Nat) : State :=
  if s.injArmed 3 11 (routeKey i j) none then
    (s.logError 11 (routeKey i j) ⟨Config.freeWord s.freeCtr 0, BitVec.ofNat 16 s.free, 0xFFFF, 3⟩ true).bump.fireInj 3 11 (routeKey i j) none
  else s

/-- A request of a port and its answer pass the hops of their routes, over the relay of a relayed pair, R309, R310. -/
def hopFlits (s : State) (i j : Nat) : State :=
  let way := fun (s : State) i j => if (s.route i j).eff == 3 then (s.hopFlit i (s.route i j).relay).hopFlit (s.route i j).relay j else s.hopFlit i j
  if s.dev.injctl.isEmpty then s else way (way s i j) j i

/-- The homes account the requests of a port that they serve to the partition, R480: a sector each (log 16). -/
def chargeHomes (s : State) (port part : Nat) (l : List (Nat × Bool)) : State :=
  l.foldl (fun s r => (s.hopFlits port (8 + homeChip (r.1 * 64))).charge 1 (homeChip (r.1 * 64)) part 64) s

/-- Something may hold a request up at a home: a route, an allowance, or a sector in B. Where nothing may, no request need be looked at. -/
def mayWait (s : State) : Bool := !s.routes.isEmpty || !s.allow.isEmpty || !s.dir.isEmpty || !s.mlines.isEmpty

/-- Sectors that an agent outside every die reads or writes at their homes, as requests at the port of the host I/O die. -/
def devNeeds (pa n : Nat) (write : Bool) : List (Nat × Bool) := (List.range ((pa % 64 + n + 63) / 64)).map fun k => (pa / 64 + k, write)

/-! Requests of arms. A home that cannot serve an arm's request at once holds the sector in B from the first recall or invalidation that
it sends, and later requests wait behind it (R298). The requests of walkers, engines and other agents that must wait have not arrived yet
(log 10). -/

/-- A request of the executing arm waits for the home of a sector: the home cannot serve it, the partition's allowance there is spent, or
another has asked for the sector before it, R298, R312, R480. -/
def armWaitsAt (s : State) (r : Nat × Bool) : Bool :=
  s.homeCut s.cdie r.1 r.2 || s.spentAt s.cdie s.cctx.part r.1 || s.askedBefore (s.ca.asks.map (·.1)) r.1

def armWaits (s : State) (l : List (Nat × Bool)) : Bool := l.any s.armWaitsAt

/-- The home has a request that some die's answer holds up: it sends every recall or invalidation, and holds the sector in B; the dies that
answer give up their copies, R298, R312. -/
def homeHold (s : State) (d sect : Nat) (write : Bool) : State :=
  let port := 8 + homeChip (sect * 64)
  let e := s.dirEnt sect
  let asked := s.homeAsked d sect write
  if !asked.any fun x => s.deaf x port then s
  else
    let gone := asked.filter fun x => !s.deaf x port
    let s := gone.foldl (fun s x => s.l2Recall x sect (!write)) s
    s.setDir sect { dst := .b, shr := if write then gone.foldl (fun m x => setBit m x false) e.shr else e.shr, was := e.st }

/-- The executing arm's requests that have reached their homes wait there, R298: they count from the step in which the arm first asked. -/
def waitHomes (s : State) (l : List (Nat × Bool)) : State :=
  let since := s.ca.asks.map (·.1)
  let first := fun (r : Nat × Bool) => !s.askedBefore since r.1
  let mine := l.filter fun r => !s.cutFrom s.cdie (8 + homeChip (r.1 * 64)) && !s.spentAt s.cdie s.cctx.part r.1 &&
    (!first r || (s.homeAsked s.cdie r.1 r.2).any fun x => s.deaf x (8 + homeChip (r.1 * 64)))
  if mine.isEmpty then s
  else
    let had := match s.ca.asks with | some a => a.2 | none => []
    let s' := (mine.filter first).foldl (fun s r => s.homeHold s.cdie r.1 r.2) s
    s'.modA fun a => { a with asks := some (since.getD s.tick, (had ++ mine.map (·.1)).dedup) }

end State

end Sys2Proof.Machine
end

