-- ==== Sys2Proof/Machine/Xlate.lean ====
section
/-! DEFINITION. Address translation (R229-R239): page tables, TLBs, walks, and the permission checks of the probe. -/

namespace Sys2Proof.Machine

/-- Access kinds of the probe with their TRAPX codes, R440. -/
inductive XKind where
  | read | write | rmw | exec | prefetch
  deriving DecidableEq, Repr

def XKind.code : XKind → Nat
  | .read => 0 | .write => 1 | .rmw => 2 | .exec => 3 | .prefetch => 4

/-- TRAPX in the access layout, R440. -/
def accessX (lane : Nat) (k : XKind) (level : Nat) : Word := BitVec.ofNat 64 (lane + 32 * k.code + 256 * level)

/-- 16 KiB pages of an entry's page, by the level of its leaf, R230. -/
def pagesOf (level : Nat) : Nat := 2 ^ (11 * level)

namespace TlbEntry

/-- Bits of the leaf, R231. -/
def v (e : TlbEntry) : Bool := bit e.pte 0
def rd (e : TlbEntry) : Bool := bit e.pte 1
def w (e : TlbEntry) : Bool := bit e.pte 2
def x (e : TlbEntry) : Bool := bit e.pte 3
def u (e : TlbEntry) : Bool := bit e.pte 4
def d (e : TlbEntry) : Bool := bit e.pte 7
def coh (e : TlbEntry) : Bool := bit e.pte 8
def chk (e : TlbEntry) : Bool := bit e.pte 9
def exp (e : TlbEntry) : Bool := bit e.pte 10
def smode (e : TlbEntry) : Nat := natBits e.pte.toNat 12 2
def sliceNo (e : TlbEntry) : Nat := natBits e.pte.toNat 14 5
def pfn (e : TlbEntry) : Nat := natBits e.pte.toNat 20 38

/-- The entry translates this page for this context, R237: tagged with the context, or with the partition when G = 1. -/
def hits (e : TlbEntry) (ctx part page : Nat) : Bool :=
  (match e.part with | some p => p == part | none => e.ctx == ctx) && e.page ≤ page && decide (page < e.page + pagesOf e.level)

/-- Physical address of a virtual address in the entry's page. -/
def pa (e : TlbEntry) (va : Nat) : Nat := e.pfn * 2 ^ 14 + (va - e.page * 2 ^ 14)

end TlbEntry

/-- The host window and the hole between it and device memory, R294. -/
def Tr.host (t : Tr) : Bool := decide (Config.hostWindow ≤ t.pa)
def Tr.hole (t : Tr) : Bool := decide (Config.deviceMemTop ≤ t.pa) && decide (t.pa < Config.hostWindow)
/-- Race-checked: CHK = 1 and not the host window, R294, R302. -/
def Tr.checked (t : Tr) : Bool := t.chk && !t.host && !t.hole
/-- Cached in no L1 and no L2, R241, R268, R294. -/
def Tr.uncached (t : Tr) : Bool := t.smode == 3 || t.chk || t.host || t.hole

/-- Outcome of translating one address. -/
inductive XRes where
  | ok (t : Tr) (e : TlbEntry)
  | miss (page : Nat)
  | fault (cause level : Nat)
  deriving DecidableEq, Repr

/-- The page number of a virtual address. -/
def pageOf (va : Nat) : Nat := va / 2 ^ 14

/-- Permission, in the order of R233; `none` when allowed. -/
def permit (e : TlbEntry) (user : Bool) (k : XKind) : Option Nat :=
  if user && !e.u then some (match k with | .read => 12 | .prefetch => 12 | .write => 13 | .rmw => 13 | .exec => 14)
  else match k with
    | .read => if e.rd then none else some 12
    | .prefetch => if e.rd then none else some 12
    | .write => if e.w then none else some 13
    | .rmw => if !e.rd then some 12 else if !e.w then some 13 else none
    | .exec => if e.x then none else some 14

/-- The TLB entry of an access: the core's L1 TLB, then the die's L2 TLB, R237. -/
def State.tlbFind (s : State) (c ctx page : Nat) : Option TlbEntry :=
  let part := (s.ctx ctx).part
  match (s.core c).tlb.find? fun e => e.hits ctx part page with
  | some e => some e
  | none => (s.die (coreDie c)).tlb.find? fun e => e.hits ctx part page

/-- An xinv that has arrived and is not done: its context, its pages, and the step in which it arrived. -/
structure XinvRun where
  ctx : Nat
  lo : Nat
  hi : Nat
  arrived : Nat
  deriving DecidableEq, Repr

/-- The xinv instructions that have arrived and are not done. -/
def State.xinvs (s : State) : List XinvRun :=
  let one := fun (c : Nat) (a : Arm) => match a.park with | some (.xinv lo hi n) => [⟨c, lo, hi, n⟩] | _ => []
  s.groups.flatMap fun p => if p.2.live then one p.2.ctx p.2.arm0 ++ one p.2.ctx p.2.arm1 else []

/-- The one of them that is being performed: they are performed one at a time in order of arrival, R450. -/
def State.xinvNow (s : State) : List XinvRun := s.xinvs.filter fun x => s.xinvs.all fun y => decide (x.arrived ≤ y.arrived)

/-- An xinv of the context's address space that is being performed covers the page: new probes of it park, R450 step 1. -/
def State.xinvPending (s : State) (ctx page : Nat) : Bool :=
  s.xinvNow.any fun x => (s.ctx x.ctx).asid == (s.ctx ctx).asid && decide (x.lo ≤ page) && decide (page < x.hi)

/-- Translate one global virtual address for a core, R229, R232, R236; `failed` lists walks that ended in a fault. -/
def State.xlate (s : State) (c ctx : Nat) (failed : List (Nat × Nat × Bool)) (va : Word) : XRes :=
  if 2 ^ 58 ≤ va.toNat then .fault 11 7
  else
    let page := pageOf va.toNat
    if s.xinvPending ctx page then .miss page
    else match failed.find? fun f => f.1 == page with
    | some (_, level, pois) => if pois then .fault 51 0 else .fault 11 level
    | none =>
      match s.tlbFind c ctx page with
      | none => .miss page
      | some e => .ok ⟨e.pa va.toNat, e.coh, e.chk, e.smode, e.sliceNo⟩ e

/-- Read a page-table entry as a device-scope acquire could observe it, R235. -/
def State.readPte (s : State) (a : Nat) : Word × Bool :=
  let v := s.devView a 8
  (BitVec.ofNat 64 (natOfBytes v.1), v.2)

/-- How a walk ends, R232: a leaf, a fault at a level, or a poisoned table. -/
inductive WalkRes where
  | leaf (e : TlbEntry)
  | fault (level : Nat)
  | pois
  deriving DecidableEq, Repr

/-- A leaf found at `level` with its alignment rules, R230-R232. -/
def leafOf (ctx part page level : Nat) (pte : Word) (a : Nat) : WalkRes :=
  let pfn := natBits pte.toNat 20 38
  if bit pte 19 || pfn % pagesOf level != 0 then .fault level
  else .leaf ⟨ctx, if bit pte 5 then some part else none, page / pagesOf level * pagesOf level, level, pte, a⟩

/-- A walk: how it ends, the upper-level entries it has read, and the addresses of all the entries it has read. -/
structure Walk where
  res : WalkRes
  upper : List WalkEntry
  reads : List Nat

/-- One walk of the four levels, R230: from `level` downwards through the table at `base`; an upper-level entry that the walk cache
`wc` holds is not read, R237. -/
def State.walk (s : State) (wc : List WalkEntry) (ctx part page : Nat) : Nat → Nat → Walk
  | 0, base =>
    let a := base + 8 * natBits page 0 11
    let (pte, pois) := s.readPte a
    ⟨if pois then .pois else if !bit pte 0 then .fault 0 else leafOf ctx part page 0 pte a, [], [a]⟩
  | level + 1, base =>
    let idx := page / pagesOf (level + 1)
    match wc.find? fun w => w.ctx == ctx && w.level == level + 1 && w.idx == idx with
    | some w => s.walk wc ctx part page level w.next
    | none =>
      let a := base + 8 * natBits page (11 * (level + 1)) 11
      let (pte, pois) := s.readPte a
      if pois then ⟨.pois, [], [a]⟩
      else if !bit pte 0 then ⟨.fault (level + 1), [], [a]⟩
      else if bit pte 11 then ⟨if level + 1 == 3 then .fault 3 else leafOf ctx part page (level + 1) pte a, [], [a]⟩
      else
        let next := natBits pte.toNat 20 38 * 2 ^ 14
        if Config.deviceMemTop ≤ next then ⟨.fault (level + 1), [], [a]⟩
        else
          let w := s.walk wc ctx part page level next
          ⟨w.res, ⟨ctx, level + 1, idx, next⟩ :: w.upper, a :: w.reads⟩

/-- A walk for a page of a context by a die's walkers, from the level-3 table, R230, R237. -/
def State.dieWalk (s : State) (d ctx page : Nat) : Walk :=
  let x := s.ctx ctx
  s.walk (s.die d).wcache ctx x.part page 3 x.ptbase

/-- A walk that uses no walk cache: the ingress MMU's and the command processors'. -/
def State.walkPage (s : State) (ctx page : Nat) : WalkRes :=
  let x := s.ctx ctx
  (s.walk [] ctx x.part page 3 x.ptbase).res

/-- The upper-level entries that a walk has read enter its die's walk cache; beyond 512 the oldest go, R237. -/
def State.wcacheAdd (s : State) (d : Nat) (w : List WalkEntry) : State :=
  let l := (s.die d).wcache ++ w
  s.setDie d { s.die d with wcache := l.drop (l.length - Config.walkCacheEntries) }

/-- What a die's walk asks of the homes of the tables, R235; setting A in the leaf asks for a write, R234. -/
def State.walkNeeds (s : State) (d ctx : Nat) (w : Walk) : List (Nat × Bool) :=
  (w.reads.filterMap fun a => (s.l2Need d ctx true 0 (a / 64) 0 false).map fun x => (a / 64, x)) ++
    match w.res with | .leaf e => if bit e.pte 6 then [] else [(e.pteAddr / 64, true)] | _ => []

/-- A device-scope atomic OR on a page-table entry at its home, R234. -/
def State.orPte (s : State) (e : TlbEntry) (m : Nat) : State := (s.homeRmw e.pteAddr 8 fun o => Nat.lor o m).1

/-- Add an entry to a TLB, dropping the oldest beyond its size (log 22). -/
def tlbAdd (size : Nat) (t : List TlbEntry) (e : TlbEntry) : List TlbEntry :=
  let t := (t.filter fun x => !(x.page == e.page && x.level == e.level && x.ctx == e.ctx && x.part == e.part)) ++ [e]
  t.drop (t.length - size)

def State.l1TlbAdd (s : State) (c : Nat) (e : TlbEntry) : State :=
  s.setCore c { s.core c with tlb := tlbAdd Config.l1TlbEntries (s.core c).tlb e }

/-- The set of an L2 TLB that an entry lies in (R237 gives 8 ways and no index, log 22). -/
def TlbEntry.set (e : TlbEntry) : Nat := e.page / pagesOf e.level % (Config.l2TlbEntries / Config.l2TlbWays)

/-- Add an entry to a die's TLB: beyond the ways of its set the set's oldest goes, R237 (log 22). -/
def l2TlbPut (t : List TlbEntry) (e : TlbEntry) : List TlbEntry :=
  let t := tlbAdd Config.l2TlbEntries t e
  if Config.l2TlbWays < (t.filter fun x => x.set == e.set).length then t.eraseP fun x => x.set == e.set else t

/-- A walk's leaf enters a die's TLB, R237. -/
def State.l2TlbAdd (s : State) (d : Nat) (e : TlbEntry) : State :=
  { s.setDie d { s.die d with tlb := l2TlbPut (s.die d).tlb e } with leafs := if s.leafs.contains e then s.leafs else s.leafs ++ [e] }

/-- A probe that passed installs its entry in the core's L1 TLB, and sets D where a write finds it clear, R234, R237. -/
def State.useEntry (s : State) (c : Nat) (k : XKind) (e : TlbEntry) : State :=
  let s := if (s.core c).tlb.contains e then s else s.l1TlbAdd c e
  if (k == .write || k == .rmw) && !e.d then
    let e' := { e with pte := e.pte ||| BitVec.ofNat 64 128 }
    let s := s.orPte e 128
    let s := s.setCore c { s.core c with tlb := (s.core c).tlb.map fun x => if x == e then e' else x }
    s.setDie (coreDie c) { s.die (coreDie c) with tlb := (s.die (coreDie c)).tlb.map fun x => if x == e then e' else x }
  else s

/-- Ask for walks: pages already being walked are joined, and beyond 2,048 missed pages no page is taken, so that the arm asks again,
R237. -/
def State.askWalks (s : State) (d ctx : Nat) (pages : List Nat) : State :=
  s.setDie d { s.die d with walks := pages.foldl (fun w p =>
    if w.contains (ctx, p) || decide (Config.missedPages ≤ w.length) then w else w ++ [(ctx, p)]) (s.die d).walks }

/-- Park the executing arm for the walks of the given pages, R237. -/
def State.parkWalk (s : State) (pages : List Nat) : State :=
  (s.askWalks s.cdie s.cg.ctx pages).park (.walk (pages.map fun p => ⟨s.cdie, s.cg.ctx, p⟩))

/-- A lane of a probe: lane number and address. -/
abbrev Lane := Nat × Word

/-- The translation part of a probe over all its lanes, in the order of step 6, R87, R89: translation first, then permission,
each for the lowest failing lane; a page that misses in the TLBs parks the arm. -/
inductive Probe where
  | ok (trs : List (Nat × Tr × TlbEntry))
  | walk (pages : List Nat)
  | trap (t : TrapInfo)
  deriving DecidableEq, Repr

def State.probe (s : State) (c ctx : Nat) (user : Bool) (k : XKind) (lanes : List Lane) : Probe :=
  let failed := s.ca.walkFaults
  let rs := lanes.map fun l => (l.1, l.2, s.xlate c ctx failed l.2)
  let missing := rs.filterMap fun r => match r.2.2 with | .miss p => some p | _ => none
  let isErr : Nat × Word × XRes → Bool := fun r => match r.2.2 with | .fault _ _ => true | _ => false
  match missing with
  | _ :: _ => .walk missing.dedup
  | [] =>
    match rs.find? isErr with
    | some (l, va, .fault cause level) => .trap (trapOf cause va (if cause == 51 then BitVec.ofNat 64 l else accessX l k level))
    | some _ => .ok []
    | none =>
      let oks := rs.filterMap fun r => match r.2.2 with | .ok t e => some (r.1, r.2.1, t, e) | _ => none
      match oks.find? fun r => (permit r.2.2.2 user k).isSome with
      | some (l, va, _, e) => .trap (trapOf ((permit e user k).getD 12) va (accessX l k 7))
      | none => .ok (oks.map fun r => (r.1, r.2.2.1, r.2.2.2))

end Sys2Proof.Machine
end

