-- ==== Sys2Proof/Machine/Mem.lean ====
section
/-! DEFINITION. The core's L1 and update-only lines (R241, R242, R282), accesses to global memory in every region (R248, R278,
R279, R294), the scratchpads (R243, R244), and the actions of releases and acquires (R276, R322). -/

namespace Sys2Proof.Machine

namespace State

/-- Free bytes where the manual gives none (log 9). -/
def freeBytes (s : State) (n : Nat) : List Byte := (List.range n).map fun k => Config.freeByte s.freeCtr k

/-- The hole of the physical address space enters each access in the host I/O die's error log, R294. -/
def holeLog (s : State) (pa : Nat) : State :=
  { s with hostLog := { s.hostLog with entries := (⟨BitVec.ofNat 64 pa, 0, 0xFFFF, 1⟩ :: s.hostLog.entries).take 8 } }

/-- The L2 slice that serves an access of a core, by the SMODE of its translation, R268; SMODE 11 names none. -/
def sliceOf (c : Nat) (t : Tr) : Nat :=
  match t.smode with
  | 1 => 16 * (coreCluster c % 2) + sliceHash t.pa % 16
  | 2 => t.sl
  | _ => sliceHash t.pa

/-- A read of the places of a unit that `meets` names meets an armed injection of type 0 to 2, R461: a corrected error is logged, an
uncorrected one is logged and poisons its place, and type 2 poisons without a log; FIRED is set and ARMED cleared. `addr` is the address
that the log shows for a place, R459. The syndrome is a free value. -/
def injectIf (s : State) (cls unit ctx : Nat) (meets : Nat → Bool) (addr : Nat → Word) (mark : Nat → State → State) : State :=
  let w := fun k => (mget 0 s.dev.injctl k).toNat
  let at_ := fun k => (mget 0 s.dev.injadr k).toNat
  let hit := fun k => natBits (w k) 62 1 == 1 && decide (natBits (w k) 56 2 < 3) && natBits (w k) 52 4 == cls &&
    natBits (w k) 28 24 == unit && meets (at_ k)
  match (List.range 16).find? hit with
  | none => s
  | some k =>
    let ty := natBits (w k) 56 2
    let x := setBit (setBit (mget 0 s.dev.injctl k) 62 false) 63 true
    let e : LogEntry := ⟨addr (at_ k), BitVec.ofNat 16 s.free, ctx, ty⟩
    let t := { s with dev := { s.dev with injctl := mset 0 s.dev.injctl k x } }
    let t := if ty == 2 then t else (t.logError cls unit e (ty == 0)).bump
    if ty == 0 then t.wearError cls unit (addr (at_ k)).toNat else mark (at_ k) t

/-- The next read of `n` places at `a` in an array, R461. -/
def injectAt (s : State) (cls unit a n ctx : Nat) (mark : Nat → State → State) : State :=
  s.injectIf cls unit ctx (fun x => decide (a ≤ x) && decide (x < a + n)) (BitVec.ofNat 64) mark

/-- A read at the home meets an injection in the memory-side cache or the DRAM channel of its chiplet, at the address within the chiplet,
R295, R461; the log of a channel shows the physical address, R459. -/
def homeInject (s : State) (pa n ctx : Nat) : State :=
  if s.dev.injctl.isEmpty then s
  else
    let mark := fun (_ : Nat) (s : State) => { s with psn := mset false s.psn (pa / 64) true }
    (s.injectAt 8 (homeChip pa) (homeLocal pa) n ctx mark).injectIf 9 (homeChip pa) ctx
      (fun x => decide (homeLocal pa ≤ x) && decide (x < homeLocal pa + n)) (fun x => BitVec.ofNat 64 (pa + (x - homeLocal pa))) mark

/-- A fetch or a walk of a die reads a sector where it stands: in the die's L2, or at the home, R461. -/
def dieInject (s : State) (d ctx pa n : Nat) (uncached : Bool) : State :=
  if s.dev.injctl.isEmpty then s
  else match (if uncached then none else s.l2sect d (pa / 64)) with
    | some (coh, x) => s.injectAt 6 (32 * d + s.lineSlice d (pa / 256)) pa n ctx fun _ s => s.l2put d ctx coh (pa / 64) { x with psn := true }
    | none => s.homeInject pa n ctx

/-- The page-table entries that a walk reads. -/
def walkInject (s : State) (d ctx : Nat) (w : Walk) : State := w.reads.foldl (fun s a => s.dieInject d ctx a 8 false) s

/-- A read of a team's scratchpad, R461: the unit is its core, and the address the offset in the team's allocation (log 18). -/
def spInject (s : State) (tid off n : Nat) : State :=
  if s.dev.injctl.isEmpty then s
  else s.injectAt 1 (s.team tid).core off n (s.team tid).ctx fun x s =>
    s.setTeam tid { s.team tid with spPois := msetList false (s.team tid).spPois (x / 8 * 8) (List.replicate 8 true) }

/-- A read of global memory meets an injection where its sector is read: the core's L1, the die's L2, or the home, R461. -/
def readInject (s : State) (c ctx : Nat) (t : Tr) (n : Nat) : State :=
  if s.dev.injctl.isEmpty || t.hole || t.host then s
  else
    let d := coreDie c
    let sect := t.pa / 64
    match (if t.uncached then none else mget none (s.core c).l1 sect), (if t.uncached then none else s.l2sect d sect) with
    | some x, _ => s.injectAt 4 c t.pa n ctx fun _ s =>
        s.setCore c { s.core c with l1 := mset none (s.core c).l1 sect (some { x with pois := true }) }
    | none, _ => s.dieInject d ctx t.pa n t.uncached

/-- Invalidate the sector of a physical address in a core's L1. -/
def l1Drop (s : State) (c sect : Nat) : State :=
  s.setCore c { s.core c with l1 := mset none (s.core c).l1 sect none }

/-- Invalidate every clean line of a core's L1, R241. -/
def l1Clear (s : State) (c : Nat) : State := s.setCore c { s.core c with l1 := [] }

/-- A die's L2 holds the bytes `need` of a software-managed sector, and not every byte of it, R272. -/
def hitsPart (s : State) (d sect : Nat) (need : BitVec 64) : Bool :=
  match s.l2sect d sect with
  | some (false, x) => need &&& x.val == need && x.val != BitVec.allOnes 64
  | _ => false

/-- The lines that a core's L1 holds: those with a clean sector and the update-only ones, R241, R242. -/
def l1Held (cs : CoreSt) : List Nat := ((mkeys cs.l1).map (· / 4) ++ cs.upd.map UpdLine.line).dedup

/-- A line is to enter a core's L1, R241: a full L1 evicts some other line (which one is a free value, log 48): a clean one is dropped,
an update-only one merges (R242). -/
def l1Room (s : State) (c line : Nat) : State :=
  let held := l1Held (s.core c)
  if held.contains line || decide (held.length < Config.l1Lines) then s
  else
    let v := held.getD (s.free % held.length) 0
    let s := s.mergeUpd c fun u => u.line == v
    ((List.range 4).foldl (fun s k => s.l1Drop c (v * 4 + k)) s).bump

/-- Read the sector of a physical address through the core's L1 and slice `sl`, R241, R268: update-only lines of the line merge first, R242. Where only the
bytes `need` of the sector are sure to be valid in the die's L2, the read hits there and no L1 line is filled (R272, R273). -/
def l1Read (s : State) (c ctx : Nat) (coh : Bool) (sl sect : Nat) (need : BitVec 64) : State × List Byte × Bool :=
  match mget none (s.core c).l1 sect with
  | some x => (s, x.data, x.pois)
  | none =>
    let s := s.mergeUpd c fun u => u.line == sect / 4
    let s := s.l2Reach (coreDie c) ctx coh sl (sect / 4)
    if s.hitsPart (coreDie c) sect need then s.l2Fill (coreDie c) ctx coh sect need else
    let (s, data, psn) := (s.l1Room c (sect / 4)).l2Fill (coreDie c) ctx coh sect (BitVec.allOnes 64)
    (s.setCore c { s.core c with l1 := mset none (s.core c).l1 sect (some ⟨data, psn⟩) }, data, psn)

/-- Write masked bytes through the L1 to slice `sl` of the die's L2, R241, R268. -/
def l1Write (s : State) (c ctx : Nat) (coh : Bool) (sl sect : Nat) (mask : BitVec 64) (data : List Byte) (pois : Bool) : State :=
  let s := s.mergeUpd c fun u => u.line == sect / 4
  let s := match mget none (s.core c).l1 sect with
    | some x =>
      let x' : L1Sect := ⟨overlay mask x.data data, psnAfter x.pois mask pois⟩
      s.setCore c { s.core c with l1 := mset none (s.core c).l1 sect (some x') }
    | none => s
  (s.l2Reach (coreDie c) ctx coh sl (sect / 4)).l2Store (coreDie c) ctx coh sect mask data pois

/-- Read `n` bytes (within one sector) at a translated address, R248: the state, the bytes and their poison. -/
def gread (s : State) (c ctx : Nat) (t : Tr) (n : Nat) : State × List Byte × Bool :=
  let sect := t.pa / 64
  let cut := fun data : List Byte => (List.range n).map fun k => data.getD (t.pa % 64 + k) 0
  let s := s.readInject c ctx t n
  if t.hole then ((s.holeLog t.pa).bump, s.freeBytes n, true)
  else if t.host then (s, mgetList 0 s.hostMem t.pa n, false)
  else if t.uncached then
    let s := s.homeTake sect false
    (s, cut (s.homeData sect), s.homePsn sect)
  else
    let (s, data, pois) := s.l1Read c ctx t.coh (sliceOf c t) sect (byteMask (t.pa % 64) n)
    (s, cut data, pois)

/-- Put bytes (within one sector) at a translated address, R248: a store of the core, or the core's own write of a frame. -/
def gput (s : State) (c ctx : Nat) (t : Tr) (bs : List Byte) (pois : Bool) : State :=
  let sect := t.pa / 64
  if t.hole then s.holeLog t.pa
  else if t.host then { s with hostMem := msetList 0 s.hostMem t.pa bs }
  else if t.uncached then
    (s.homeTake sect true).homeWrite sect (byteMask (t.pa % 64) bs.length) (place (t.pa % 64) bs) pois
  else s.l1Write c ctx t.coh (sliceOf c t) sect (byteMask (t.pa % 64) bs.length) (place (t.pa % 64) bs) pois

/-- An agent's store of bytes (within one sector) at a translated address, R248. -/
def gwrite (s : State) (c ctx : Nat) (t : Tr) (bs : List Byte) (pois : Bool) : State :=
  (s.noteStore (t.pa / 64)).gput c ctx t bs pois

/-- The sectors that the bytes of one write, by address and poison mark, cover whole with clean data, R499. -/
def wholeSectors (ws : List (Nat × Bool)) : List Nat :=
  ((ws.filter fun w => w.1 % 64 == 0).map fun w => w.1 / 64).dedup.filter fun k =>
    ((List.range 64).all fun j => ws.any fun w => w.1 == 64 * k + j) && !ws.any fun w => w.1 / 64 == k && w.2

/-- A core or an engine has written a whole sector with clean data: the copy that took the write holds no poison, R499. -/
def cleanSector (s : State) (c : Nat) (t : Tr) : State :=
  let sect := t.pa / 64
  if t.hole || t.host then s
  else if t.uncached then { s with psn := mset false s.psn sect false }
  else
    let s := match mget none (s.core c).l1 sect with
      | some x => s.setCore c { s.core c with l1 := mset none (s.core c).l1 sect (some { x with pois := false }) }
      | none => s
    match s.l2sect (coreDie c) sect with
    | some (coh, x) => s.l2put (coreDie c) 0 coh sect { x with psn := false }
    | none => s

/-- A device-scope or wider read-modify-write at the home, R278, R279: on a software-managed page the issuing die first writes
back and drops its copy of the sector (R275 merges its update-only lines); an atomic on a coherent page that finds the line software-managed
gives that line up (R313). -/
def rmwHome (s : State) (c : Nat) (t : Tr) (n : Nat) (f : Nat → Nat) : State × Nat × Bool :=
  let d := coreDie c
  let sect := t.pa / 64
  let s := (s.l1Drop c sect).mergeUpd c fun u => u.line == sect / 4
  let s := if t.uncached then s else s.l2Turn d t.coh (sect / 4)
  let s := if t.coh then s else (((s.mergeDie d (sect / 4)).swWriteBack d sect).swDrop d sect).swTidy d (sect / 4)
  s.homeRmw t.pa n f

/-- One lane of an atomic at the point of R278: `sc` is the scope's code. -/
def grmw (s : State) (c ctx : Nat) (t : Tr) (sc n : Nat) (f : Nat → Nat) : State × Nat × Bool :=
  let d := coreDie c
  let sect := t.pa / 64
  let s := (s.noteStore sect).readInject c ctx t n
  if t.hole then ((s.holeLog t.pa).bump, natOfBytes (s.freeBytes n), true)
  else if t.host then
    let old := natOfBytes (mgetList 0 s.hostMem t.pa n)
    ({ s with hostMem := msetList 0 s.hostMem t.pa (bytesOfNat n (f old)) }, old, false)
  else if 7 ≤ sc || t.uncached then s.rmwHome c t n f
  else if sc == 6 then
    let s := s.mergeUpd c fun u => u.line == sect / 4
    (s.l1Drop c sect).l2Rmw d ctx t.coh (sliceOf c t) t.pa n f
  else
    let (s, data, pois) := s.l1Read c ctx t.coh (sliceOf c t) sect (byteMask (t.pa % 64) n)
    let old := natOfBytes ((List.range n).map fun k => data.getD (t.pa % 64 + k) 0)
    if pois then (s, old, true)
    else (s.l1Write c ctx t.coh (sliceOf c t) sect (byteMask (t.pa % 64) n) (place (t.pa % 64) (bytesOfNat n (f old))) false, old, false)

/-- Combine an operand into an update-only line of the core, R282: a line of another kind merges first, a new line drops clean
copies and, beyond 32 lines, merges the oldest. -/
def redUpdate (s : State) (c ctx : Nat) (t : Tr) (aop : Aop) (wide : Bool) (v : Nat) : State :=
  let s := s.noteStore (t.pa / 64)
  let line := t.pa / 256
  let n := if wide then 8 else 4
  let el := t.pa % 256 / n
  let same := fun (u : UpdLine) => u.line == line && u.aop == aop && u.wide == wide && u.ctx == ctx
  let s := s.mergeUpd c fun u => u.line == line && !same u
  let s := if (s.core c).upd.any same then s else
    let s := if Config.updateLines ≤ (s.core c).upd.length then
        (match (s.core c).upd with | o :: _ => s.mergeUpd c fun u => u == o | [] => s) else s
    let s := ((List.range 4).foldl (fun s k => s.l1Drop c (line * 4 + k)) s).l1Room c line
    s.setCore c { s.core c with upd := (s.core c).upd ++ [⟨line, ctx, t.coh, sliceOf c t, aop, wide, []⟩] }
  let next := fun (u : UpdLine) => match mget none u.elems el with | some o => aopInt aop (8 * n) o v 0 | none => v
  let combine := fun (u : UpdLine) => if same u then { u with elems := mset none u.elems el (some (next u)) } else u
  s.setCore c { s.core c with upd := (s.core c).upd.map combine }

/-- A red of core scope goes into an update-only line, R282. -/
def usesUpdLine (t : Tr) (sc : Nat) (aop : Aop) : Bool :=
  decide (sc ≤ 5) && !t.uncached && [Aop.add, .min, .max, .and, .or, .xor].contains aop

/-- The window's team on physical core `pc` of a panel: its team identity, R244. -/
def panelTeam (s : State) (panel vcore : Nat) : Option Nat :=
  (s.panel panel).teams.find? fun tid => (s.team tid).vcore == vcore

/-- Read bytes of a team's scratchpad, and whether one is poisoned, R243, R500. -/
def spRead (s : State) (tid off n : Nat) : List Byte × Bool :=
  let t := s.team tid
  (mgetList 0 t.sp off n, (List.range n).any fun k => mget false t.spPois (off + k))

/-- The same bytes, each with its mark. -/
def spMarked (s : State) (tid off n : Nat) : List MarkedByte :=
  let t := s.team tid
  (List.range n).map fun k => (mget 0 t.sp (off + k), mget false t.spPois (off + k))

/-- Write bytes of a team's scratchpad: each byte takes the mark of the data, R500. -/
def spWrite (s : State) (tid off : Nat) (bs : List Byte) (pois : Bool) : State :=
  let t := s.team tid
  s.setTeam tid { t with sp := msetList 0 t.sp off bs, spPois := msetList false t.spPois off (bs.map fun _ => pois) }

/-- The part of a write of `n` bytes at `off` that lies in a published region, as an update relative to the region, R383. -/
def subUpdate (x : Subscr) (off : Nat) (bs : List Byte) (pois : Bool) : Option Update :=
  let lo := max off x.poff
  let hi := min (off + bs.length) (x.poff + x.len)
  if lo < hi then some ⟨lo - x.poff, (bs.drop (lo - off)).take (hi - lo), pois⟩ else none

/-- A write into a team's scratchpad by whatever agent: the bytes, and an update for every subscriber of a region that it
touches, R245, R338, R383. -/
def spStore (s : State) (tid off : Nat) (bs : List Byte) (pois : Bool) : State :=
  let s := s.spWrite tid off bs pois
  let one := fun (p : Nat × Subscr) =>
    if p.2.live && p.2.pub == tid then
      (match subUpdate p.2 off bs pois with | some u => (p.1, { p.2 with batch := p.2.batch ++ [u] }) | none => p)
    else p
  { s with subs := s.subs.map one }

/-- One update is applied at its subscriber: a write of the subscriber core that is not forwarded again, R383, R384. -/
def applyUpdate (s : State) (x : Subscr) (u : Update) : State := s.spWrite x.sub (x.soff + u.off) u.bytes u.pois

/-- Apply every pending update of the regions that a core publishes, in order for each subscription, R384, R385. -/
def drainSubs (s : State) (c : Nat) : State :=
  let due := s.subs.filter fun p => p.2.live && (s.team p.2.pub).core == c
  let s := due.foldl (fun s p => (p.2.sent ++ p.2.batch).foldl (fun s u => s.applyUpdate p.2 u) s) s
  let clear := fun (p : Nat × Subscr) =>
    if p.2.live && (s.team p.2.pub).core == c then (p.1, { p.2 with batch := [], sent := [] }) else p
  { s with subs := s.subs.map clear }

/-- The check records of a group at some homes close at a synchronising operation, R305: the bytes of its performed accesses; the tentative bits of an
access that the other arm has not committed stand (R304, log 48). -/
def closeAt (s : State) (gid : Nat) (homes : BitVec 16) : State :=
  let g := s.grp gid
  if g.chkHomes &&& homes == 0 then s else
  let close := fun (r : CheckRec) => if r.isOf g then { r with wmask := 0, rmask := 0 } else r
  let s := (maskList (g.chkHomes &&& homes)).foldl (fun s h =>
    { s with checks := mset [] s.checks h (((mget [] s.checks h).map close).filter fun r => !(r.isOf g && r.empty)) }) s
  s.setGrp gid { s.grp gid with chkHomes := g.chkHomes &&& ~~~homes }

def closeChecks (s : State) (gid : Nat) : State := s.closeAt gid (BitVec.allOnes 16)

/-- The homes that a close of a group reaches now, R305, R312. -/
def closable (s : State) (gid : Nat) : BitVec 16 :=
  (List.range 16).foldl (fun m h => setBit m h (!s.cutFrom (gidDie gid) (8 + h))) 0

/-- A step from `s` to `t` has closed check records at a home that the close does not reach, R305: the operation is not performed yet
(R312). -/
def closesCut (s t : State) : Bool :=
  s.groups.any fun p => (maskList (p.2.chkHomes &&& ~~~(t.grp p.1).chkHomes &&& ~~~s.closable p.1)).length != 0

/-- What the release actions of a scope ask of homes, R276. -/
def relNeeds (s : State) (sc : Nat) : List (Nat × Bool) :=
  (if 6 ≤ sc then s.mergeNeeds s.ccore fun _ => true else []) ++ (if 7 ≤ sc then s.writeBackNeeds s.cdie fun t => t == s.cg.ctx else [])

/-- Sends of the executing group's team that no other device has accepted yet, R322. -/
def sendsOut (s : State) : Bool := s.hook.sends.any fun c => c.tid == s.cg.tid && !c.waiting && c.dev != s.self

/-- The release actions of a scope must wait: for a home (R312, R480), or from domain scope for the target of an earlier peer-bound
transfer (R322). -/
def relWaits (s : State) (sc : Nat) : Bool :=
  s.armWaits (s.relNeeds sc) || (decide (8 ≤ sc) && s.sendsOut)

/-- Meanwhile the requests of its release actions wait at their homes, R298. -/
def relStay (s : State) (sc : Nat) : State := s.waitHomes (s.relNeeds sc)

/-- The release actions of a scope by the executing agent, R276, R322: stores are acknowledged; update-only lines merge from
cluster scope, and pending updates of the regions its core publishes are applied (R385); the context's dirty software-managed sectors
are written back from device scope. Remote accesses and host accesses are performed before their instruction ends; the transfers that
the wider rows wait for hold the instruction (`relWaits`). -/
def releaseAct (s : State) (sc : Nat) : State :=
  let s := s.chargeHomes s.cdie s.cctx.part (s.relNeeds sc)
  let s := (s.modA fun a => { a with stores := 0, asks := none }).closeChecks s.gid
  let s := if 6 ≤ sc then (s.mergeUpd s.ccore fun _ => true).drainSubs s.ccore else s
  if 7 ≤ sc then s.writeBackCtx s.cdie s.cg.ctx else s

/-- The acquire actions of a scope by the executing agent, R276. -/
def acquireAct (s : State) (sc : Nat) : State :=
  let s := s.closeChecks s.gid
  if 6 ≤ sc then s.l1Clear s.ccore else s

end State

end Sys2Proof.Machine

namespace Sys2Proof

/-- Orders that include a release, and orders that include an acquire, R255. -/
def Order.isRel (o : Order) : Bool := [Order.rel, .ar, .sc].contains o
def Order.isAcq (o : Order) : Bool := [Order.acq, .ar, .sc].contains o

end Sys2Proof
end

