-- ==== Sys2Proof/Machine/Spill.lean ====
section
/-! DEFINITION. The spill region of a group (R176-R178): the bytes of its frames, when the core writes them, and what a frame that
is read back from there holds. -/

namespace Sys2Proof.Machine

/-- The bytes of a frame, R177. -/
def Frame.bytes (f : Frame) : List Byte :=
  bytesOfNat 8 f.raddr.toNat ++ bytesOfNat 4 f.expect.toNat ++ bytesOfNat 4 f.arrived.toNat ++ bytesOfNat 4 f.sfmt.toNat ++
    bytesOfNat 4 f.spmask.toNat ++ bytesOfNat 8 f.sppc.toNat ++ bytesOfNat 1 (f.parent.getD 255) ++
    bytesOfNat 1 (if f.dissolved then 1 else 0) ++ List.replicate 94 0 ++
    (List.range 32).flatMap fun i => bytesOfNat 8 (f.sscl.getD i 0).toNat

/-- A frame into which an agent has stored: R177 leaves its effect on the group undefined, so every field is a free value (log 11). -/
def Frame.scramble (f : Frame) (c : Nat) : Frame :=
  let w := fun k => Config.freeWord c k
  let m := fun k => Config.freeLane c k
  let p := (w 2).toNat % 11
  { f with raddr := w 0, sppc := w 1, parent := if p < 10 then some p else none, dissolved := bit (w 3) 0, expect := m 0,
           arrived := m 1, sfmt := m 2, spmask := m 3, sscl := (List.range 32).map fun i => w (8 + i) }

namespace State

/-- The bytes that a fetch, a copy or the save engine reads through a die's L2 without changing it: valid bytes of the die's own
copy, else what a device-scope acquire could observe. -/
def dieView (s : State) (d pa n : Nat) : List Byte × Bool :=
  let (bs, p) := s.devView pa n
  match s.l2sect d (pa / 64) with
  | some (false, x) =>
    ((List.range n).map fun k => if bit x.val (pa % 64 + k) then x.data.getD (pa % 64 + k) 0 else bs.getD k 0,
      if x.val == 0 then p else x.psn || p)
  | _ => (bs, p)

/-- A frame is live and no agent has stored into it, R177. -/
def intact (s : State) (f : Frame) : Bool := s.unhit (f.tr.pa / 64) 6

/-- No agent has stored into a live frame of the group, R177. -/
def framesIntact (s : State) (g : Group) : Bool :=
  g.frames.all fun p => match p.2 with | some f => s.intact f | none => true

/-- Frames of a group into which an agent has stored hold free values from now on, R177; no other group changes. -/
def spoilFrames (s : State) (gid : Nat) : State :=
  let g := s.grp gid
  if s.framesIntact g then s
  else
    let one := fun (p : Nat × Option Frame) => (p.1, p.2.map fun f => if s.intact f then f else f.scramble (s.freeCtr + p.1))
    let t := (List.range 10).foldl (fun s pos => match g.frame pos with
      | some f => s.clearHits (f.tr.pa / 64) 6
      | none => s) s
    { t.setGrp gid { g with frames := g.frames.map one } with freeCtr := s.freeCtr + 10 }

/-- Write part of a frame, from byte `o`, at its place in the spill region: the device's own write, R177, R178. -/
def framePut (s : State) (gid : Nat) (f : Frame) (o n : Nat) : State :=
  s.gput (gidCore gid) (s.grp gid).ctx { f.tr with pa := f.tr.pa + o } ((f.bytes.drop o).take n) false

/-- Write a whole frame, R177; its sectors hold no poison then, R499. -/
def frameOut (s : State) (gid : Nat) (f : Frame) : State :=
  (List.range 6).foldl (fun s k => s.framePut gid f (64 * k) 64) s

/-- The bytes of the group's frames follow in the spill region, R177: a frame that leaves the four most recently pushed is written
out, and one that lies there takes the changes of its masks and of its STATE. -/
def spillOut (s : State) (gid : Nat) (old : Group) : State :=
  (List.range 10).foldl (fun s pos =>
    let g := s.grp gid
    match g.frame pos with
    | none => s
    | some f =>
      if f.out then (if (old.frame pos).map Frame.bytes == some f.bytes then s else s.framePut gid f 8 26)
      else if g.onDie f then s
      else (s.frameOut gid f).setGrp gid (g.setFrame pos (some { f with out := true }))) s

/-- The group's arms and frames change to those of `g`, and the spill region follows. -/
def setFrames (s : State) (gid : Nat) (g : Group) : State := (s.setGrp gid g).spillOut gid (s.grp gid)

/-- The frame at a position lies in the spill region and its bytes there are poisoned, R178. -/
def framePsn (s : State) (gid pos : Nat) : Bool :=
  match (s.grp gid).frame pos with
  | some f => f.out && (f.tr.hole || (!f.tr.host && (List.range 6).any fun k => (s.dieView (gidDie gid) (f.tr.pa + 64 * k) 64).2))
  | none => false

end State

end Sys2Proof.Machine
end

