-- ==== Sys2Proof/Machine/Levels.lean ====
section
/-! DEFINITION. Team levels (R201, R202), barrier records (R205-R208), skein grants (R221), the rejoin of strands (R215), panel
arrivals (R210), and what a group's end does to each of them (R191, R206, R219). -/

namespace Sys2Proof.Machine

/-- The completion check of R206 for one record, given its expected count. -/
def BarRec.check (expected : Nat) (r : BarRec) : BarRec :=
  if r.arr == expected && expected != 0 && r.pend == 0 && !r.psn then
    { r with gen := r.gen + 1, arr := 0, arrset := 0, lastEng := r.eng, eng := false } else r

/-- Withdraw the arrival of a slot, R206. -/
def BarRec.withdraw (slot : Nat) (r : BarRec) : BarRec :=
  if bit r.arrset slot then { r with arrset := setBit r.arrset slot false, arr := r.arr - 1 } else r

/-- PEND can hold the value, R205. -/
def pendFits (x : Int) : Bool := decide (-(2 ^ 35) ≤ x) && decide (x < 2 ^ 35)

/-- A delivery of `n` bytes, R207: an overflow poisons the record, the first cause stays. -/
def BarRec.deliver (n : Nat) (r : BarRec) : BarRec :=
  if pendFits (r.pend - n) then { r with pend := r.pend - n, eng := true }
  else if r.psn then r else { r with psn := true, pcause := 28 }

/-- A faulting copy poisons its record, R208. -/
def BarRec.poison (r : BarRec) : BarRec := if r.psn then r else { r with psn := true, pcause := 29 }

namespace Team

def level (t : Team) (lid : Nat) : Level := mget {} t.levels lid
def setLevel (t : Team) (lid : Nat) (l : Level) : Team := { t with levels := mset {} t.levels lid l }

/-- The ancestors of a level, nearest first, R202. -/
def ancestors (t : Team) : Nat → Nat → List Nat
  | 0, _ => []
  | fuel + 1, lid => if lid == 0 then [] else (t.level lid).parent :: t.ancestors fuel (t.level lid).parent

end Team

/-- A stopped queue of an ended team is emptied, R502. -/
def CopyQueue.atEnd (q : CopyQueue) : CopyQueue := if q.stop.isSome then { q with entries := [], stop := none, srcPg := [], dstPg := [] } else q

/-- Every entry of the team's queues and every row granted to its pattern are discarded. -/
def Team.dropQueues (t : Team) : Team :=
  { t with queues := t.queues.map fun q => { q with entries := [], stop := none, srcPg := [], dstPg := [] }, pat := { t.pat with granted := t.pat.executed } }

/-- Tile operations of the team are outstanding, R191. -/
def Team.tileBusy (t : Team) : Bool := !t.mmaQ.isEmpty || !t.accOps.isEmpty

/-- An ended tile team gives back its FIFOs and banks once its operations have completed, R191, R403, R406. -/
def Team.tileRest (t : Team) : Team :=
  if t.live || t.tileBusy then t else { t with banks := [], fifoA := [], fifoB := [] }

/-- Tile operations of a group are outstanding: a band of a released mma, or an operation on its banks, R191, R423. -/
def Team.tileOut (t : Team) (uid : Nat) : Bool :=
  t.mmaQ.any (fun m => (m.members.drop m.band).contains uid) || t.accOps.any fun o => o.uid == uid

/-- What an ended root team leaves behind: its stopped queues are emptied, queue 3 with the granted rows of its pattern (R502), its queue registers and unmatched receives are
discarded (R368). Started and queued copies go on, and so do tile operations (R191). -/
def Team.atEnd (t : Team) : Team :=
  ({ t with live := false, levels := [], skeinQ := [], queues := t.queues.map CopyQueue.atEnd,
            pat := if (t.queues.getD 3 {}).stop.isSome then { t.pat with granted := t.pat.executed } else t.pat, q0 := [], q1 := [], q3 := [],
            q5 := [], mail := [], held := [], accQ := [] } : Team).tileRest

namespace State

/-- The live groups of a team level, in ascending order of slot (a group's key rises with its slot), R202. -/
def groupsOf (s : State) (tid lid : Nat) : List Nat :=
  (s.groups.filter fun p => p.2.live && p.2.tid == tid && p.2.lid == lid).map (·.1)

/-- The live groups of a root team with its strands and broods. -/
def teamGroups (s : State) (tid : Nat) : List Nat := (s.groups.filter fun p => p.2.live && p.2.tid == tid).map (·.1)

def level (s : State) (tid lid : Nat) : Level := (s.team tid).level lid
def setLevel (s : State) (tid lid : Nat) (l : Level) : State := s.setTeam tid ((s.team tid).setLevel lid l)

/-- Check every record of a level, R206. -/
def checkLevel (s : State) (tid lid : Nat) : State :=
  let l := s.level tid lid
  s.setLevel tid lid { l with recs := l.recs.map (BarRec.check (s.groupsOf tid lid).length) }

/-- Change one barrier record of a level and check it, R206. A record that no longer exists takes nothing, R215, nor does one that never
did: a COPY row's BAR beyond the team's records counts its bytes nowhere, since R349 has no check for it (DESIGN CHOICE, log 53). -/
def modRec (s : State) (tid lid b : Nat) (f : BarRec → BarRec) : State :=
  let l := s.level tid lid
  if b < l.recs.length then
    s.setLevel tid lid { l with recs := l.recs.set b ((f (l.recs.getD b {})).check (s.groupsOf tid lid).length) }
  else s

/-- The place of the live group with an identity. -/
def findUid (s : State) (uid : Nat) : Option Nat := (s.groups.find? fun p => p.2.live && p.2.uid == uid).map (·.1)

/-- The values that groups of a launch have written into skein chunks so far, R220. -/
def skeinPool (s : State) (l : Nat) : List Lane32 :=
  let own := fun (g : Group) => if g.launch == l then g.skeinVals else []
  ((s.launch l).skeinVals ++ s.groups.flatMap (fun p => own p.2) ++ s.teams.flatMap (fun p => p.2.groups.flatMap own)).map
    fun p => BitVec.ofNat 32 p.1

/-- Map `n` new chunks above a group's window, R221: in each lane a chunk holds zero or a value that a group of the launch wrote
into the skein earlier, R220; which one is free (log 9). -/
def mapChunks (s : State) (gid n : Nat) : State :=
  let g := s.grp gid
  let pool := s.skeinPool g.launch
  let old := fun k l => (0 :: pool).getD (Config.freeNat (s.freeCtr + 32 * k + l) % (pool.length + 1)) 0
  let rows := (List.range (8 * n)).map fun k => (k, (List.range 32).map fun l => old k l)
  let g := rows.foldl (fun (g : Group) r => { g with vregs := mset (List.replicate 32 0) g.vregs (g.window + r.1) r.2,
                                                     vpois := mset 0 g.vpois (g.window + r.1) 0 }) g
  { s.setGrp gid { g with chunks := g.chunks + n } with freeCtr := s.freeCtr + 256 * n + 1 }

/-- Grant queued requests from the head while the free chunks suffice, R221. -/
def skeinGrant (s : State) (tid : Nat) : Nat → State
  | 0 => s
  | fuel + 1 =>
    let t := s.team tid
    match t.skeinQ with
    | (uid, n) :: rest =>
      if n ≤ t.skeinFree then
        let s := s.setTeam tid { t with skeinFree := t.skeinFree - n, skeinQ := rest }
        match s.findUid uid with
        | some gid => (s.mapChunks gid n).skeinGrant tid fuel
        | none => s.skeinGrant tid fuel
      else s
    | [] => s

/-- The lowest-numbered run of `n` free banks within the budget, R406. -/
def bankRun (t : Team) (n : Nat) : Option Nat :=
  (List.range (t.accBudget + 1 - n)).find? fun b => (List.range n).all fun j => !(mget {} t.banks (b + j)).alloc

/-- A member of a gang whose accalloc is granted: its scalar takes the base and its arm goes on, R410, R417. -/
def accAnswer (s : State) (dest base uid : Nat) : State :=
  match s.findUid uid with
  | none => s
  | some gid =>
    let g := s.grp gid
    let slot := if g.arm0.live then 0 else 1
    let g := (g.setS slot dest (BitVec.ofNat 64 base)).markS slot dest false
    s.setGrp gid (g.setArm slot (g.arm slot).advance)

/-- Grant the allocation queue from its head while a run of free banks exists, R406, R417: bank base + j goes to member j mod g,
to nobody where that member has ended (R410). -/
def accGrant (s : State) (tid : Nat) : Nat → State
  | 0 => s
  | fuel + 1 =>
    let t := s.team tid
    match t.accQ with
    | [] => s
    | q :: rest =>
      match bankRun t q.n with
      | none => s
      | some base =>
        let owner := fun j => ((s.findUid (q.members.getD (j % q.members.length) 0)).map fun g => (s.grp g).vslot).getD 63
        let banks := (List.range q.n).foldl (fun m j => mset {} m (base + j)
          ({ alloc := true, abase := base, owner := owner j, psn := 0, data := [], gen := s.freeCtr + j } : Bank)) t.banks
        let s := { s.setTeam tid { t with accQ := rest, banks := banks } with freeCtr := s.freeCtr + q.n }
        (q.members.foldl (fun s u => s.accAnswer q.dest base u) s).accGrant tid fuel

/-- Return chunks to the skein and grant what that allows, R222. -/
def skeinReturn (s : State) (tid n : Nat) : State :=
  let t := s.team tid
  (s.setTeam tid { t with skeinFree := t.skeinFree + n }).skeinGrant tid (t.skeinQ.length + 1)

/-- Every strand of a team-call is done, R215: each of its groups has returned or ended. -/
def strandsDone (s : State) (tid : Nat) (e : CallEntry) : Bool :=
  e.strands.all fun lid => (s.level tid lid).call.isNone && (s.groupsOf tid lid).all fun g => e.returned.contains (s.grp g).uid

/-- Free the levels of a finished team-call. -/
def dropLevels (s : State) (tid : Nat) (lids : List Nat) : State :=
  lids.foldl (fun s lid => s.setLevel tid lid {}) s

/-- The parent level resumes with the groups that returned, R215. -/
def resumeParent (s : State) (tid lid : Nat) (e : CallEntry) : State :=
  let back := e.returned.filterMap s.findUid
  let one := fun (s : State) gid =>
    let g := s.grp gid
    let sv := (e.saved.find? fun x => x.1 == g.uid).map (·.2)
    let slot := if g.arm0.live then 0 else 1
    let a := g.arm slot
    let a := { a with park := none, walkFaults := [], asks := none, clause := none, pc := e.resume, xfer := a.ipc,
                      fmt := (sv.map (·.1)).getD a.fmt }
    s.setGrp gid { g.setArm slot a with lid := lid, gang := (sv.map (·.2)).getD g.gang }
  let s := back.foldl one s
  let s := s.dropLevels tid e.strands
  let l := s.level tid lid
  (s.setLevel tid lid { l with call := none }).checkLevel tid lid

/-- A panel completes when every team of it that still has a live group has arrived, R210. -/
def panelCheck (s : State) (p : Nat) : State :=
  let x := s.panel p
  let waiting := x.teams.filter fun t => (s.team t).live && !x.arrived.contains t
  if waiting.isEmpty && !x.arrived.isEmpty then s.setPanel p { x with gen := x.gen + 1, arrived := [] } else s

/-- A level whose last group has ended, R215, R219: a brood frees its records; a strand may end its parent level; the root
level's end is the team's. -/
def levelEmptied (s : State) (tid : Nat) : Nat → Nat → State
  | 0, _ => s
  | fuel + 1, lid =>
    if !(s.groupsOf tid lid).isEmpty then s else
    let l := s.level tid lid
    match l.kind with
    | .root => s
    | .brood _ => if l.call.isNone then s.setLevel tid lid {} else s
    | .strand _ =>
      if l.call.isSome then s else
      match (s.level tid l.parent).call with
      | some e =>
        if s.strandsDone tid e && (e.strands.all fun x => (s.groupsOf tid x).isEmpty && (s.level tid x).call.isNone) then
          let s := s.dropLevels tid e.strands
          let p := s.level tid l.parent
          (s.setLevel tid l.parent { p with call := none }).levelEmptied tid fuel l.parent
        else s
      | none => s

/-- The panel ends with its last team: its subscriptions end, R386, and its scratchpads go back, R243. -/
def panelEnd (s : State) (p : Nat) : State :=
  let teams := (s.panel p).teams
  let subs := s.subs.filter fun (x : Nat × Subscr) => !teams.contains x.2.sub
  { s.setPanel p { s.panel p with live := false } with subs := subs }

/-- The team ends with its last group: it counts as arrived at the panel, R191, R210. The scratchpads of a panel stay until its
last team ends, R243. A root team lives while any group of it, a brood child among them, does (DESIGN CHOICE, log 54). -/
def teamEnd (s : State) (tid : Nat) : State :=
  if !(s.teamGroups tid).isEmpty then s else
  let t := s.team tid
  let s := s.setTeam tid t.atEnd
  let s := { s with hook := { s.hook with posted := s.hook.posted.filter fun r => r.tid != tid } }
  let p := s.panel t.panel
  let s := (s.setPanel t.panel { p with arrived := p.arrived.filter (· != tid) }).panelCheck t.panel
  if (s.panel t.panel).teams.any fun x => (s.team x).live then s else s.panelEnd t.panel

end State

end Sys2Proof.Machine
end

