-- ==== Sys2Proof/Machine/Ops.lean ====
section
/-! DEFINITION. The end of a group (R191, R437), taking a trap (R435-R438) and returning from one (R443): shared operations of
every instruction and event. -/

namespace Sys2Proof.Machine

namespace State

/-- Record the end of a group in its launch: the count of groups ended by a cause and the first cause, R437, R471. -/
def noteEnd (s : State) (gid : Nat) (t : TrapInfo) (pc : Word) : State :=
  let g := s.grp gid
  let l := s.launch g.launch
  let fe : FirstEnd := ⟨t, pc, gid, g.vcluster, g.vcore, g.vslot, (s.team g.tid).lin⟩
  s.setLaunch g.launch { l with nend := l.nend + 1, first := if l.first.isSome then l.first else some fe,
                                error := l.error || !(t.cause.toNat == 59 || t.cause.toNat == 60),
                                lost := l.lost || t.cause.toNat == 60 }

/-- Banks owned by a slot lose their owner, R406; waiting members of its gangs learn that it ended, R410. -/
def tileEnd (s : State) (gid : Nat) : State :=
  let g := s.grp gid
  let slot := g.vslot
  let t := s.team g.tid
  let s := s.setTeam g.tid { t with banks := t.banks.map fun (p : Nat × Bank) =>
    (p.1, if p.2.owner == slot then { p.2 with owner := 63 } else p.2) }
  (s.teamGroups g.tid).foldl (fun s m =>
    let x := s.grp m
    if x.latch.isSome && bit x.gang slot then s.setGrp m { x with abort := some slot } else s) s

/-- The values that a group wrote into skein chunks stay known to its launch, R220. -/
def keepSkein (s : State) (g : Group) : State :=
  if g.skeinVals.isEmpty then s
  else
    let l := s.launch g.launch
    s.setLaunch g.launch { l with skeinVals := g.skeinVals.foldl (fun m p => mset false m p.1 true) l.skeinVals }

/-- Every check record of an ended group goes, with what is tentative in it, R305. -/
def dropChecks (s : State) (gid : Nat) : State :=
  let g := s.grp gid
  { s with checks := (s.checks.map fun (p : Nat × List CheckRec) => (p.1, p.2.filter fun r => !r.isOf g)).filter fun p => !p.2.isEmpty }

/-- A group ends, R191: its arms stop, its arrivals are withdrawn, its fork parent's join counter falls, and the levels and the team
that it leaves empty end with it; its chunks and frame positions are freed once its tile operations have completed; a queued accalloc
without a surviving member leaves its queue (R410, R444). -/
def endGroup (s : State) (gid : Nat) (cause : Option (TrapInfo × Word)) : State :=
  let g := s.grp gid
  if !g.live then s else
  let s := match cause with | some (t, pc) => s.noteEnd gid t pc | none => s
  let s := (s.dropChecks gid).keepSkein g
  let tid := g.tid
  let slot := g.vslot
  let rest := !(s.team tid).tileOut g.uid
  let s := s.setGrp gid { g with live := false, arm0 := {}, arm1 := {}, frames := if rest then [] else g.frames,
                                 chunks := if rest then 0 else g.chunks, orphans := [], skeinVals := [], latch := none, abort := none,
                                 copyFlag := none, tileFlag := none, chkHomes := 0, place := .waiting,
                                 cause := cause.map (·.1) }
  let s := (g.lid :: (s.team tid).ancestors 9 g.lid).foldl (fun s lid =>
    let l := s.level tid lid
    (s.setLevel tid lid { l with recs := l.recs.map (BarRec.withdraw slot) }).checkLevel tid lid) s
  let s := match g.forker.bind s.findUid with
    | some f => let x := s.grp f; s.setGrp f { x with joins := x.joins - 1 }
    | none => s
  let t := s.team tid
  let s := s.setTeam tid { t with skeinQ := t.skeinQ.filter fun q => q.1 != g.uid,
                                  accQ := t.accQ.filter fun q => q.members.any fun u => (s.findUid u).isSome }
  let s := s.accGrant tid (t.accQ.length + 1)
  let s := s.skeinReturn tid (if rest then g.chunks else 0)
  let s := s.tileEnd gid
  let s := s.levelEmptied tid 10 g.lid
  s.teamEnd tid

/-- A group ends at once, whatever its arms are doing, R437. The manual names no instruction for such an end, so TRAPPC of its
completion record is a free value (log 9). -/
def endAsync (s : State) (gid : Nat) (t : TrapInfo) : State := (s.endGroup gid (some (t, Config.freeWord s.freeCtr 0))).bump

/-- Groups that a list names end together with one cause. -/
def endGroups (s : State) (gids : List Nat) (t : TrapInfo) : State := gids.foldl (fun s gid => s.endAsync gid t) s

/-- Groups of a saved team end, R437, R454: the team's groups stand as groups of no core meanwhile, and those left are saved again, as
are the entries of an ended team's queues (R361). -/
def endSaved (s : State) (tid : Nat) (t : TrapInfo) (p : Group → Bool) : State :=
  let x := s.team tid
  let ghosts := (List.range x.groups.length).map fun k => 32 * 65536 + k
  let s := s.setTeam tid { x with saved := false, groups := [] }
  let s := (x.groups.zip ghosts).foldl (fun s (q : Group × Nat) => s.setGrp q.2 q.1) s
  let s := s.endGroups (ghosts.filter fun k => p (s.grp k)) t
  let some_ := ghosts.any fun k => (s.grp k).live
  let left := if some_ then (ghosts.filter fun k => (s.grp k).uid != 0).map s.grp else []
  let busy := (s.team tid).queues.any fun q => !q.entries.isEmpty
  let s := s.setTeam tid { s.team tid with saved := some_ || busy, groups := left }
  ghosts.foldl (fun s k => s.setGrp k {}) s

/-- The causes that run no handler, R437. -/
def endsGroups (c : Cause) : Bool := [50, 52, 53, 59, 60, 63].contains c.toNat

/-- The handler address of a group's launch, R504. -/
def hvec (s : State) (gid : Nat) : Word := (s.launch (s.grp gid).launch).hvec

/-- The arm enters its handler, R435: the shadow keeps FMT, s56-s63, the top frame and the clause. -/
def enterHandler (a : Arm) (hvec : Word) : Arm :=
  { a with shadow := { fmt := a.fmt, s56 := a.scal.drop 24, pois := BitVec.ofNat 8 (a.spois.toNat / 2 ^ 24), top := a.top,
                       hdr := match a.clause with | some c => c.hdr | none => a.pc, clause := a.clause, bw := a.bw,
                       yielded := a.yielded && a.clause.isSome },
           fmt := 0, handler := true, pc := hvec, xfer := 0, clause := none, park := none, pend := false, step := false,
           walkFaults := [], chkVals := [], asks := none, bw := true, ue := none, yielded := a.yielded && a.clause.isNone }

/-- Taking a trap, R435, R437, R438: an arm at handler level ends its group with DOUBLE; an ending cause, or a launch without a
handler, ends the group; a trap met while another side of the group is at handler level stays pending (R436). -/
def takeTrapAt (s : State) (gid slot : Nat) (t : TrapInfo) (pc : Word) : State :=
  let g := s.grp gid
  let a := g.arm slot
  if a.handler then
    s.endGroup gid (some (trapOf 53 0 (BitVec.ofNat 64 (t.cause.toNat + 256 * a.trapc.toNat)), pc))
  else if endsGroups t.cause || s.hvec gid == 0 then s.endGroup gid (some (t, pc))
  else
    let a := { a with trapc := t.cause, trappc := pc, trapad := t.ad, trapx := t.x, walkFaults := [], asks := none, ue := none }
    if g.handlerElse slot then
      s.setGrp gid ((g.setArm slot { a with park := some .trapWait, pend := true }).settlePlace)
    else s.setGrp gid (g.setArm slot (enterHandler a (s.hvec gid)))

/-- A trap of the executing instruction, with TRAPPC under R88. -/
def takeTrap (s : State) (t : TrapInfo) : State := s.takeTrapAt s.gid s.slot t s.ipc

/-- The causes after which the done mask survives eret, R443. -/
def keepsDone (c : Cause) : Bool := [20, 21, 22, 23, 61].contains c.toNat

/-- Return from a handler to user level, R443: the shadow returns; the arm goes on inside the shadow's clause where TRAPPC names
one of its instruction words, and enters the clause at TRAPPC otherwise. -/
def eretArm (a : Arm) (step : Bool) (ipc : Word) : Arm :=
  let a' := { a with fmt := a.shadow.fmt, scal := a.scal.take 24 ++ a.shadow.s56,
                     spois := BitVec.ofNat 32 (a.spois.toNat % 2 ^ 24 + 2 ^ 24 * a.shadow.pois.toNat),
                     done := if keepsDone a.trapc then BitVec.ofNat 32 a.trapx.toNat else 0,
                     handler := false, step := step, walkFaults := [], asks := none, park := none, bw := a.shadow.bw }
  let t := a.trappc
  match a.shadow.clause with
  | some c =>
    let k := (t - c.hdr).toNat
    if k % 8 == 0 && decide (8 ≤ k) && decide (k ≤ 8 * c.words.length) then { a' with clause := some { c with idx := k / 8 - 1 }, yielded := a.yielded || a.shadow.yielded }
    else { a' with clause := none, pc := t, xfer := ipc }
  | none => { a' with clause := none, pc := t, xfer := ipc }

/-- A pending trap of an arm is delivered: the arm enters its handler, or, where the launch has none by now, the group ends with
the cause, R435, R438, R504. -/
def deliverArm (s : State) (gid slot : Nat) : State :=
  let a := (s.grp gid).arm slot
  if s.hvec gid == 0 then s.endGroup gid (some (⟨a.trapc, a.trapad, a.trapx⟩, a.trappc))
  else s.setGrp gid ((s.grp gid).setArm slot (enterHandler a (s.hvec gid)))

/-- A trap that waited until no other side of its group is at handler level is delivered, R435, R436. -/
def deliverPending (s : State) (gid : Nat) : State :=
  let g := s.grp gid
  let due := fun slot => (g.arm slot).live && (g.arm slot).pend && !g.handlerElse slot
  if !g.live then s
  else if due 0 then s.deliverArm gid 0
  else if due 1 then s.deliverArm gid 1
  else s

/-- How a meaning ends, R92: on a trap nothing of the effect has taken place. -/
def conclude (s : State) : Eff → Host.Outcome State Fault Refusal
  | .retire t => .next t.retire
  | .stay t => .next t
  | .trap t => .next (s.takeTrap t)
  | .fault f => .fault f

end State

end Sys2Proof.Machine
end

