-- ==== Sys2Proof/Machine/Operands.lean ====
section
/-! DEFINITION. Operand forms: the checks every instruction passes before its effect (decode step 5, R64, R87; poisoned reads,
R131, R500; the act-once rule, R62), and the sources and modifiers of the V format (R65, R66). -/

namespace Sys2Proof.Machine

/-- A register read that must not meet poison, R500. -/
inductive Rd where
  | v (r n : Nat) (mask : BitVec 32)
  | s (r : Nat)
  | p (r : Nat) (mask : BitVec 32)
  deriving DecidableEq, Repr

/-- UE_DATA with its TRAPX, R439. -/
def ueReg (lane reg kind : Nat) : TrapInfo := trapOf 51 0 (BitVec.ofNat 64 (lane + 256 * reg + 65536 * kind))

/-- The lowest lane of a mask. -/
def lowest (m : BitVec 32) : Nat := ((maskList m).head?).getD 0

namespace State

/-- The trap of a poisoned read, if there is one. -/
def rdTrap (s : State) : Rd → Option TrapInfo
  | .v r n mask => (List.range n).findSome? fun k =>
      let m := s.cg.vpoison (r + k) &&& mask
      if m == 0 then none else some (ueReg (lowest m) (r + k) 0)
  | .s r => if s.cg.spoison s.slot r then some (ueReg 0 r 1) else none
  | .p r mask => let m := s.cg.ppoison r &&& mask; if m == 0 then none else some (ueReg (lowest m) r 2)

def rdTraps (s : State) (rs : List Rd) : Option TrapInfo := rs.findSome? s.rdTrap

/-- REG_UNMAPPED, decode step 5: the registers named, as first number and count, against the mapped window, R64, R220. -/
def winTrap (s : State) (regs : List (Nat × Nat)) : Option TrapInfo :=
  regs.findSome? fun r => if s.cg.window < r.1 + r.2 then some (trapOf 6 0 (BitVec.ofNat 64 (max r.1 s.cg.window))) else none

/-- The checks before an instruction's effect: the guard's poison; the no-op rule for instructions that act once for the arm
(R62); the mapped window; poisoned reads. R500 gives UE_DATA no place among the steps of R87: the guard, which decides whether anything
happens, is tested before step 5, every other read before step 6 and before what R89 raises after it; a scalar source traps although a
per-lane instruction has no active lane (DESIGN CHOICE, log 50). -/
def guarded (s : State) (g : Guard) (once : Bool) (regs : List (Nat × Nat)) (reads : BitVec 32 → List Rd)
    (k : BitVec 32 → Eff) : Eff :=
  match s.rdTrap (.p g.ps.toNat s.armMask) with
  | some t => .trap t
  | none =>
    let act := s.active g
    if once && act == 0 then .retire s
    else match s.winTrap regs with
      | some t => .trap t
      | none => match s.rdTraps (reads act) with
        | some t => .trap t
        | none => k act

/-- DIVERGED_SCALAR, R75: a write to s0-s31 while the group is diverged. -/
def divergedScalar (s : State) (d : Nat) : Option TrapInfo :=
  if d < 32 && !s.cg.converged then some (trapOf 7 0 (BitVec.ofNat 64 d)) else none

/-- Team lanes of a mask: helper lanes drop out, R13. -/
def teamOnly (s : State) (m : BitVec 32) : BitVec 32 := m &&& s.cg.teamLanes

end State

end Sys2Proof.Machine

namespace Sys2Proof

/-- The registers a V-format source names: first and count. -/
def Src.regs (wide : Bool) : Src → List (Nat × Nat)
  | .v r => [(r.toNat, if wide then 2 else 1)]
  | _ => []

/-- The reads of a V-format source that must not meet poison. -/
def Src.reads (wide : Bool) (mask : BitVec 32) : Src → List Machine.Rd
  | .v r => [.v r.toNat (if wide then 2 else 1) mask]
  | .s r => [.s r.toNat]
  | .imm _ => []

end Sys2Proof

namespace Sys2Proof.Machine

/-- The value of a small integer, -32 to 31, R65. -/
def immVal (k : BitVec 6) : Int := (k.toNat : Int) - 32

/-- A small integer under an integer or bit type of element width `e` with `n` elements: the low e bits in every element, R65;
for one element of 32 or 64 bits it is the sign-extended value. -/
def immInt (k : BitVec 6) (e n : Nat) : Nat :=
  let x := (BitVec.ofInt e (immVal k)).toNat
  (List.range n).foldl (fun acc j => acc + x * 2 ^ (e * j)) 0

/-- A V-format source as raw bits in one lane, read as 32 bits, R65: `imm` gives the bits of a small integer. -/
def State.src32 (s : State) (imm : BitVec 6 → Lane32) (l : Nat) : Src → Lane32
  | .v r => s.cg.vlane r.toNat l
  | .s r => BitVec.ofNat 32 (s.sreg r.toNat).toNat
  | .imm k => imm k

/-- A V-format source of a 64-bit type in one lane, R64, R65. -/
def State.src64 (s : State) (l : Nat) : Src → Word
  | .v r => s.cg.vlane64 r.toNat l
  | .s r => s.sreg r.toNat
  | .imm k => BitVec.ofInt 64 (immVal k)

end Sys2Proof.Machine
end

