-- ==== Sys2Proof/Machine/Float.lean ====
section
/-! DEFINITION. Numbers (R97-R121): the floating-point formats bit by bit, exact values, RoundTo with its exceptions, stochastic
rounding, sums, products, orders, conversions and the lattice codebook. -/

namespace Sys2Proof.Machine

/-- A floating-point format, R97: exponent bits, fraction bits, bias. -/
structure FFmt where
  eb : Nat
  fb : Nat
  bias : Nat
  deriving DecidableEq, Repr

def fmtF32 : FFmt := ⟨8, 23, 127⟩
def fmtF16 : FFmt := ⟨5, 10, 15⟩
def fmtBf16 : FFmt := ⟨8, 7, 127⟩
def fmtE4m3 : FFmt := ⟨4, 3, 7⟩
def fmtE5m2 : FFmt := ⟨5, 2, 15⟩

namespace FFmt

/-- The weight of the sign bit. -/
def signBit (f : FFmt) : Nat := 2 ^ (f.eb + f.fb)
/-- E4M3 has no infinity, R98. -/
def noInf (f : FFmt) : Bool := f == fmtE4m3
/-- The exponent of the smallest normal. -/
def emin (f : FFmt) : Int := 1 - (f.bias : Int)
def infBits (f : FFmt) : Nat := (2 ^ f.eb - 1) * 2 ^ f.fb
/-- The canonical NaN, R99. -/
def canonNan (f : FFmt) : Nat := if f.noInf then 0x7F else f.infBits + 2 ^ (f.fb - 1)
/-- The largest finite magnitude. -/
def maxBits (f : FFmt) : Nat := if f.noInf then 0x7E else f.infBits - 1
def signed (f : FFmt) (neg : Bool) (mag : Nat) : Nat := if neg then f.signBit + mag else mag

end FFmt

/-- An exact value: NaN (signalling or quiet), infinity, or (-1)^neg x m x 2^e. -/
inductive Fp where
  | nan (sig : Bool)
  | inf (neg : Bool)
  | fin (neg : Bool) (m : Nat) (e : Int)
  deriving DecidableEq, Repr

/-- A subnormal encoding read as zero under FTZI, R104. -/
def flushIn (f : FFmt) (ftzi : Bool) (x : Nat) : Nat :=
  if ftzi && x % f.signBit < 2 ^ f.fb then x / f.signBit % 2 * f.signBit else x

/-- The value of an encoding, R98, R99, with subnormals read as zero under FTZI (R104). -/
def unpackF (f : FFmt) (ftzi : Bool) (x : Nat) : Fp :=
  let neg := x / f.signBit % 2 == 1
  let ex := x / 2 ^ f.fb % 2 ^ f.eb
  let fr := x % 2 ^ f.fb
  if ex == 0 then .fin neg (if ftzi then 0 else fr) (f.emin - f.fb)
  else if f.noInf then
    if ex == 15 && fr == 7 then .nan false else .fin neg (2 ^ f.fb + fr) (f.emin - f.fb + (ex - 1 : Nat))
  else if ex == 2 ^ f.eb - 1 then
    if fr == 0 then .inf neg else .nan (decide (fr < 2 ^ (f.fb - 1)))
  else .fin neg (2 ^ f.fb + fr) (f.emin - f.fb + (ex - 1 : Nat))

/-- Exception flags in FEN order, R102: 1 invalid, 2 divide, 4 overflow, 8 underflow, 16 inexact. -/
abbrev FFlags := Nat

/-- One xorshift step, R109. -/
def xorshift (x : BitVec 32) : BitVec 32 :=
  let x := x ^^^ (x <<< 13)
  let x := x ^^^ (x >>> 17)
  x ^^^ (x <<< 5)

/-- Rounding a magnitude to a multiple of 2^q, R106, R108: the multiple and whether it is inexact. `x` is the stepped xorshift
state that SR compares with. -/
def roundMag (mode : Nat) (neg : Bool) (m : Nat) (e q : Int) (x : Nat) : Nat × Bool :=
  if q ≤ e then (m * 2 ^ (e - q).toNat, false)
  else
    let d := (q - e).toNat
    let a := m / 2 ^ d
    let r := m % 2 ^ d
    if r == 0 then (a, false)
    else
      let up := match mode with
        | 0 => decide (2 ^ d < 2 * r) || (2 * r == 2 ^ d && a % 2 == 1)
        | 1 => false
        | 2 => neg
        | 3 => !neg
        | 4 => decide (2 ^ d ≤ 2 * r)
        | _ => decide (x < r * 2 ^ 32 / 2 ^ d)
      (if up then a + 1 else a, true)

/-- Overflow gives an infinity in this mode, R107. -/
def overInf (mode : Nat) (neg : Bool) : Bool :=
  match mode with
  | 1 => false
  | 2 => neg
  | 3 => !neg
  | _ => true

/-- A result that R107 gives as an infinity: ±max under SATF, the canonical NaN where the format has no infinity. -/
def infResult (f : FFmt) (satf neg : Bool) : Nat :=
  if satf then f.signed neg f.maxBits else if f.noInf then f.canonNan else f.signed neg f.infBits

/-- The exact result, rounded to the format's precision with an unbounded exponent range, stays below the smallest normal,
R103. -/
def isTiny (f : FFmt) (mode : Nat) (neg : Bool) (m : Nat) (e : Int) (x : Nat) : Bool :=
  let k : Int := (Nat.log2 m : Int) + e
  if f.emin ≤ k then false
  else if k + 1 < f.emin then true
  else decide ((roundMag mode neg m e (k - f.fb) x).1 < 2 ^ (f.fb + 1))

/-- RoundTo of R93 without the step of the xorshift state: the encoding and the flags, R103, R106-R108. -/
def roundTo (f : FFmt) (mode : Nat) (ftz satf : Bool) (x : Nat) : Fp → Nat × FFlags
  | .nan sig => (f.canonNan, if sig then 1 else 0)
  | .inf neg =>
    if f.noInf then (if satf then (f.signed neg f.maxBits, 17) else (f.canonNan, 1)) else (f.signed neg f.infBits, 0)
  | .fin neg m e =>
    if m == 0 then (f.signed neg 0, 0)
    else
      let k : Int := (Nat.log2 m : Int) + e
      let q := max k f.emin - f.fb
      let (a, inx) := roundMag mode neg m e q x
      let bits := (q - (f.emin - f.fb)).toNat * 2 ^ f.fb + a
      if f.maxBits < bits then
        (if overInf mode neg then infResult f satf neg else f.signed neg f.maxBits, 20)
      else if isTiny f mode neg m e x then
        if ftz then (f.signed neg 0, 24) else (f.signed neg bits, if inx then 24 else 0)
      else (f.signed neg bits, if inx then 16 else 0)

/-- The FMT fields that RoundTo applies, R122. -/
structure FCtl where
  mode : Nat
  ftz : Bool
  ftzi : Bool
  satf : Bool
  fen : Nat
  deriving DecidableEq, Repr

/-- RoundTo with the xorshift state of the lane, R110: every value rounded under SR steps it once. -/
def FCtl.round (c : FCtl) (f : FFmt) (v : Fp) (xs : BitVec 32) : Nat × FFlags × BitVec 32 :=
  let xs' := if c.mode == 5 then xorshift xs else xs
  let (b, fl) := roundTo f c.mode c.ftz c.satf xs'.toNat v
  (b, fl, xs')

/-- Or of two flag sets. -/
def orFl (a b : FFlags) : FFlags := a ||| b

namespace Fp

def isNan : Fp → Bool
  | .nan _ => true
  | _ => false
def isSig : Fp → Bool
  | .nan s => s
  | _ => false
def isInf (neg : Bool) : Fp → Bool
  | .inf n => n == neg
  | _ => false
def neg? : Fp → Bool
  | .nan _ => false
  | .inf n => n
  | .fin n _ _ => n
def isZero : Fp → Bool
  | .fin _ m _ => m == 0
  | _ => false
/-- Sign flip; a NaN stays. -/
def flip : Fp → Fp
  | .nan s => .nan s
  | .inf n => .inf (!n)
  | .fin n m e => .fin (!n) m e
/-- Times a power of two. -/
def scale (k : Int) : Fp → Fp
  | .fin n m e => .fin n m (e + k)
  | v => v
/-- The value as an integer multiple of 2^e0, for a finite value with exponent at least e0. -/
def units (e0 : Int) : Fp → Int
  | .fin n m e => let u : Int := (m * 2 ^ (e - e0).toNat : Nat); if n then -u else u
  | _ => 0
def expo : Fp → Int
  | .fin _ _ e => e
  | _ => 0
/-- The exact integer as a value. -/
def ofInt (n : Int) : Fp := .fin (decide (n < 0)) n.natAbs 0

end Fp

/-- The exact product, R101, R102, R147. -/
def mulFp (a b : Fp) : Fp × FFlags :=
  let sig := if a.isSig || b.isSig then 1 else 0
  match a, b with
  | .nan _, _ => (.nan false, sig)
  | _, .nan _ => (.nan false, sig)
  | .inf n, y => if y.isZero then (.nan false, 1) else (.inf (n != y.neg?), 0)
  | x, .inf n => if x.isZero then (.nan false, 1) else (.inf (n != x.neg?), 0)
  | .fin n m e, .fin n' m' e' => (.fin (n != n') (m * m') (e + e'), 0)

/-- The exact sum of any number of values, R100-R102; `rdn` for the sign of a zero. -/
def sumFp (rdn : Bool) (ts : List Fp) : Fp × FFlags :=
  let sig := if ts.any Fp.isSig then 1 else 0
  if ts.any Fp.isNan then (.nan false, sig)
  else if ts.any (Fp.isInf false) && ts.any (Fp.isInf true) then (.nan false, 1)
  else if ts.any (Fp.isInf false) then (.inf false, 0)
  else if ts.any (Fp.isInf true) then (.inf true, 0)
  else
    let nz := ts.filter fun t => !t.isZero
    match nz with
    | [] =>
      if ts.isEmpty then (.fin false 0 0, 0)
      else if ts.all Fp.neg? then (.fin true 0 0, 0)
      else if ts.all fun t => !t.neg? then (.fin false 0 0, 0)
      else (.fin rdn 0 0, 0)
    | t :: rest =>
      let e0 := rest.foldl (fun e u => min e u.expo) t.expo
      let total := nz.foldl (fun (acc : Int) u => acc + u.units e0) 0
      if total == 0 then (.fin rdn 0 0, 0) else (.fin (decide (total < 0)) total.natAbs e0, 0)

/-- Abs then negate on the sign bit, R66. -/
def signMod (f : FFmt) (xa na : Bool) (x : Nat) : Nat :=
  let m := x % f.signBit
  let n := x / f.signBit % 2 == 1
  f.signed ((n && !xa) != na) m

/-- The order of encodings of numbers: sign and magnitude; both zeros have key 0. -/
def orderKey (f : FFmt) (x : Nat) : Int :=
  if x / f.signBit % 2 == 1 then -((x % f.signBit : Nat) : Int) else ((x % f.signBit : Nat) : Int)

/-- fmin and fmax of two encodings, R147: the chosen encoding after FTZI, with the flush of FTZ, and the flags. -/
def pickFp (f : FFmt) (mx ftzi ftz : Bool) (a b : Nat) : Nat × FFlags :=
  let a := flushIn f ftzi a
  let b := flushIn f ftzi b
  let va := unpackF f false a
  let vb := unpackF f false b
  let fl := if va.isSig || vb.isSig then 1 else 0
  let below := fun x => if x / f.signBit % 2 == 1 then orderKey f x * 2 - 1 else orderKey f x * 2
  let r :=
    if va.isNan then (if vb.isNan then f.canonNan else b)
    else if vb.isNan then a
    else if mx then (if below a < below b then b else a)
    else (if below b < below a then b else a)
  (flushIn f ftz r, fl)

/-- fcmp, R148: the condition by code. -/
def cmpFp (f : FFmt) (ftzi : Bool) (cond : Nat) (a b : Nat) : Bool × FFlags :=
  let va := unpackF f ftzi a
  let vb := unpackF f ftzi b
  let un := va.isNan || vb.isNan
  let x := orderKey f (flushIn f ftzi a)
  let y := orderKey f (flushIn f ftzi b)
  let r := match cond with
    | 0 => !un && x == y
    | 1 => un || x != y
    | 2 => !un && decide (x < y)
    | 3 => !un && decide (x ≤ y)
    | 4 => !un && decide (y < x)
    | 5 => !un && decide (y ≤ x)
    | 6 => un
    | _ => !un
  (r, if va.isSig || vb.isSig then 1 else 0)

/-- The class bit of an encoding, R149. -/
def classFp (f : FFmt) (x : Nat) : Nat :=
  let neg := x / f.signBit % 2 == 1
  match unpackF f false x with
  | .nan sig => if sig then 0 else 1
  | .inf _ => if neg then 2 else 9
  | .fin _ m _ =>
    if m == 0 then (if neg then 5 else 6)
    else if x % f.signBit < 2 ^ f.fb then (if neg then 4 else 7)
    else if neg then 3 else 8

/-- A conversion to an integer between `lo` and `hi`, R119. -/
def toIntFp (mode : Nat) (lo hi : Int) (x : Nat) : Fp → Int × FFlags
  | .nan _ => (0, 1)
  | .inf neg => (if neg then lo else hi, 17)
  | .fin neg m e =>
    let (a, inx) := roundMag mode neg m e 0 x
    let n : Int := if neg then -(a : Int) else a
    if n < lo then (lo, 17) else if hi < n then (hi, 17) else (n, if inx then 16 else 0)

/-- The coordinate `k` of a codeword, in quarters, R114. -/
def lc2Coord (cw k : Nat) : Int :=
  let g := fun j => cw / 2 ^ (1 + j) % 2
  let sign := if k < 7 then g k else (g 0 + g 1 + g 2 + g 3 + g 4 + g 5 + g 6) % 2
  let mag : Int := 4 * (cw / 2 ^ (8 + k) % 2 : Nat) + 2
  (if sign == 1 then -mag else mag) + (if cw % 2 == 1 then 1 else -1)

/-- A scaled coordinate, c x 2^(e - 127), R112, R154: NaN under the scale 0xFF. -/
def lc2Value (cw k e : Nat) : Fp :=
  if e == 255 then .nan false else (Fp.ofInt (lc2Coord cw k)).scale ((e : Int) - 129)

/-- The element format of a type, R67. -/
def fmtOf : Ty → FFmt
  | .f16x2 => fmtF16
  | .bf16x2 => fmtBf16
  | .e4m3x4 => fmtE4m3
  | .e5m2x4 => fmtE5m2
  | _ => fmtF32

/-- Element `k` of width `w` of a register value, R95. -/
def elemAt (w k x : Nat) : Nat := x / 2 ^ (w * k) % 2 ^ w

/-- Elements packed from element 0 up, R95. -/
def packElems (w : Nat) : List Nat → Nat
  | [] => 0
  | x :: xs => x % 2 ^ w + 2 ^ w * packElems w xs

/-- A w-bit pattern as a signed number. -/
def toSigned (w x : Nat) : Int := if 2 ^ (w - 1) ≤ x % 2 ^ w then (x % 2 ^ w : Nat) - (2 ^ w : Nat) else (x % 2 ^ w : Nat)

/-- The w low bits of an integer. -/
def lowBits (w : Nat) (x : Int) : Nat := (x % (2 ^ w : Nat)).toNat

/-- The bits of a small integer read under a type, R65. -/
def immBits (ty : Ty) (k : BitVec 6) : Nat :=
  if ty.isFloat then
    let b := (roundTo (fmtOf ty) 0 false false 0 (Fp.ofInt (immVal k))).1
    packElems ty.width (List.replicate ty.elems b)
  else immInt k ty.width ty.elems

/-- A V-format source read under a type in one lane, as raw bits, R64, R65. -/
def State.raw (s : State) (ty : Ty) (l : Nat) (x : Src) : Nat :=
  if ty.is64 then (s.src64 l x).toNat else (s.src32 (fun k => BitVec.ofNat 32 (immBits ty k)) l x).toNat

end Sys2Proof.Machine
end

