-- ==== Sys2Proof/Machine/Flags.lean ====
section
/-! DEFINITION. Flag computations and the exception control of arithmetic: the FMT fields an instruction rounds under (R68,
R122, R123), the exceptions that trap (R105), the scalar compare word (R161), and the operations of atomics (R251). -/

namespace Sys2Proof.Machine

/-- The FMT fields of the executing arm, R122, with a rounding mode. -/
def State.fctl (s : State) (mode : Nat) : FCtl :=
  let f := s.ca.fmt
  { mode := mode, ftz := bit f 16, ftzi := bit f 17, satf := bit f 15, fen := f.toNat / 2 ^ 18 % 32 }

/-- FMT.RM. -/
def fmtRm (f : BitVec 32) : Nat := f.toNat / 2 ^ 12 % 8

/-- The mode an instruction rounds by; FMT_BAD when code 6 meets an unusable FMT.RM, R68, R123. -/
def State.roundMode (s : State) (rm : Rm) : Except TrapInfo Nat :=
  if rm == .fmt then
    (if 6 ≤ fmtRm s.ca.fmt then .error (trapOf 43 0 (BitVec.ofNat 64 s.ca.fmt.toNat)) else .ok (fmtRm s.ca.fmt))
  else .ok rm.code

/-- FP_EXC with its TRAPX, R105, R439. -/
def fpExc (lane : Nat) (fl : FFlags) : TrapInfo := trapOf 57 0 (BitVec.ofNat 64 (lane + 32 * fl))

/-- Run a lane function over the active lanes in order (R105, R110): the lowest lane that raises an enabled exception traps, and
otherwise every lane has its value and its xorshift state. -/
def fpLanes (fen : Nat) (fn : Nat → BitVec 32 → Nat × FFlags × BitVec 32) :
    List Nat → List (BitVec 32) → List (Nat × Nat) → Except TrapInfo (List (Nat × Nat) × List (BitVec 32))
  | [], xs, acc => .ok (acc, xs)
  | l :: ls, xs, acc =>
    let (v, fl, x) := fn l (xs.getD l 0)
    if fl &&& fen != 0 then .error (fpExc l fl) else fpLanes fen fn ls (xs.set l x) (acc ++ [(l, v)])

/-- The flag word of scmp at width `w`, R161. -/
def scmpWord (w a b : Nat) : Nat :=
  let sa := toSigned w a
  let sb := toSigned w b
  (if a == b then 1 else 0) + (if sa < sb then 2 else 0) + (if a < b then 4 else 0) + (if sb < sa then 8 else 0) +
    (if b < a then 16 else 0)

/-- A floating-point addition of an atomic: RNE, no FMT, R251. -/
def atomAdd (f : FFmt) (o v : Nat) : Nat :=
  (roundTo f 0 false false 0 (sumFp false [unpackF f false o, unpackF f false v]).1).1

/-- The new value of an atomic operation, R251: old value `o`, operand `v`, compare `c`. -/
def aopNew (aop : Aop) (wide : Bool) (o v c : Nat) : Nat :=
  match aop with
  | .faddF32 => atomAdd fmtF32 o v
  | .faddBf16x2 => packElems 16 ((List.range 2).map fun k => atomAdd fmtBf16 (elemAt 16 k o) (elemAt 16 k v))
  | .fmin => (pickFp fmtF32 false false false o v).1
  | .fmax => (pickFp fmtF32 true false false o v).1
  | _ => aopInt aop (if wide then 64 else 32) o v c

end Sys2Proof.Machine
end

