-- ==== Sys2Proof/Machine/MemInstr.lean ====
section
/-! DEFINITION. Loads, stores, prefetches, range operations, atomics and fences (R246-R251, R280-R286, R302-R304, R449): each
instruction's probe, and the performance that its checked form shares. -/

namespace Sys2Proof.Machine

/-- Registers a size names, R70. -/
def sizeRegs (z : Size) : Nat := match z with | .b64 => 2 | .x4 => 4 | .x8 => 8 | _ => 1

/-- The address of a lane, R247. -/
def State.ea (s : State) (base : BitVec 6) (off : BitVec 8) (disp : Int) (l : Nat) : Word :=
  let o : Int := if off == 0xFF then 0 else (s.cg.vlane off.toNat l).toInt
  s.sreg base.toNat + BitVec.ofInt 64 (o + disp)

/-- Addresses of the lanes of a mask. -/
def State.eas (s : State) (base : BitVec 6) (off : BitVec 8) (disp : Int) (m : BitVec 32) : List Lane :=
  (maskList m).map fun l => (l, s.ea base off disp l)

/-- ALIGN, the first check of the probe, R240. -/
def alignTrap (k : XKind) (n : Nat) (lanes : List Lane) : Option TrapInfo :=
  (lanes.find? fun l => l.2.toNat % n != 0).map fun l => trapOf 15 l.2 (accessX l.1 k 7)

/-- WATCH, the last check of step 6 at user level, R449. -/
def State.watchTrap (s : State) (k : XKind) (n : Nat) (lanes : List Lane) : Option TrapInfo :=
  if s.ca.handler then none else
  let c := s.cctx
  lanes.findSome? fun l => (List.range 4).findSome? fun w =>
    let ctl := (c.wctl.getD w 0).toNat
    let lo := c.waddr.getD w 0
    let kind := match ctl % 4 with | 1 => k != .read | 2 => k != .write | 3 => true | _ => false
    if kind && decide (lo < l.2.toNat + n) && decide (l.2.toNat < lo + 2 ^ (ctl / 4)) then
      some (trapOf 54 l.2 (accessX l.1 k 7 + BitVec.ofNat 64 (65536 * w))) else none

/-- Setting D in an entry that the probe uses (R234) asks the home of the page table. -/
def bitsNeeds (k : XKind) (es : List TlbEntry) : List (Nat × Bool) :=
  if k == .write || k == .rmw then (es.filter fun e => !e.d).map fun e => (e.pteAddr / 64, true) else []

/-- The probe of a global access: alignment, translation, permission, watch; then the entries are used (R234, R237). -/
def State.gprobe (s : State) (k : XKind) (n : Nat) (lanes : List Lane) (f : State → List (Nat × Word × Tr) → Eff) : Eff :=
  match alignTrap k n lanes with
  | some t => .trap t
  | none =>
    match s.probe s.ccore s.cg.ctx (!s.ca.handler) k lanes with
    | .trap t => .trap t
    | .walk pages => .stay (s.parkWalk pages)
    | .ok trs =>
      match s.watchTrap k n lanes with
      | some t => .trap t
      | none =>
        let bits := bitsNeeds k (trs.map fun r => r.2.2)
        if s.armWaits bits then .stay (s.waitHomes bits) else
        f (trs.foldl (fun s r => s.useEntry s.ccore k r.2.2) s) (trs.map fun r => (r.1, ((lanes.find? fun l => l.1 == r.1).map (·.2)).getD 0, r.2.1))

/-- Bytes of one lane of a global access, how it uses them, and its scope's code. -/
def accessOf : Instr → Nat × XKind × Nat
  | .ld f => (f.sz.bytes, .read, f.sc.code)
  | .sld f => (f.sz.bytes, .read, f.sc.code)
  | .st f => (f.sz.bytes, .write, f.sc.code)
  | .sst f => (f.sz.bytes, .write, f.sc.code)
  | .atom f => (f.sz.bytes, .rmw, f.sc.code)
  | .red f => (f.sz.bytes, .rmw, f.sc.code)
  | _ => (0, .read, 15)

/-- The scope of the release actions that a global access performs first, R249, R277, R281. -/
def releases : Instr → Option Nat
  | .ld f => if f.ord == .sc then some f.sc.code else none
  | .sld f => if f.ord == .sc then some f.sc.code else none
  | .st f => if f.ord.isRel then some f.sc.code else none
  | .sst f => if f.ord.isRel then some f.sc.code else none
  | .atom f => if f.ord.isRel then some f.sc.code else none
  | .red f => if f.ord.isRel then some f.sc.code else none
  | _ => none

/-- A red of core scope goes into an update-only line of the L1, R282. -/
def updates (i : Instr) (t : Tr) : Bool := match i with | .red f => State.usesUpdLine t f.sc.code f.aop | _ => false

/-- What one lane of a global access asks of the home of its sector, R241, R242, R271, R272, R278: nothing where the L1 or the L2 serves
it. -/
def State.laneNeeds (s : State) (i : Instr) (t : Tr) : List (Nat × Bool) :=
  let (n, k, sc) := accessOf i
  let sect := t.pa / 64
  let cached := (mget none (s.core s.ccore).l1 sect).isSome
  let ask := fun w => s.turnNeeds s.cdie t.coh (sect / 4) ++
    ((s.l2Need s.cdie s.cg.ctx t.coh (State.sliceOf s.ccore t) sect (byteMask (t.pa % 64) n) w).map fun w => (sect, w)).toList ++
    (if w && !t.coh then s.listNeeds s.cdie s.cg.ctx (State.sliceOf s.ccore t) sect else [])
  let merge := s.mergeNeeds s.ccore fun u => u.line == sect / 4
  if t.host || t.hole || updates i t then []
  else if t.uncached || (k == .rmw && decide (7 ≤ sc) && sc != 15) then [(sect, k != .read)]
  else match k with
    | .read => if cached then [] else merge ++ ask false
    | .rmw => merge ++ (if cached && decide (sc ≤ 5) then [] else ask false) ++ ask true
    | _ => merge ++ ask true

/-- What a global access asks of homes. -/
def State.memNeeds (s : State) (i : Instr) (trs : List (Nat × Tr)) : List (Nat × Bool) := trs.flatMap fun r => s.laneNeeds i r.2

/-- What the merges ask that make room in the L1 for the access: an update-only line that a red replaces or that the 33rd displaces
(R242, R282), and what a full L1 evicts (R241), which may be any line (log 48). -/
def State.roomNeeds (s : State) (i : Instr) (trs : List (Nat × Tr)) : List (Nat × Bool) :=
  let upds := trs.filter fun r => updates i r.2
  let fills := if (accessOf i).2.1 == .write then [] else trs.filter fun r => !r.2.uncached
  let cs := s.core s.ccore
  if (!upds.isEmpty && decide (Config.updateLines < cs.upd.length + upds.length)) ||
      (!fills.isEmpty && decide (Config.l1Lines < (State.l1Held cs).length + fills.length)) then s.mergeNeeds s.ccore fun _ => true
  else s.mergeNeeds s.ccore fun u => upds.any fun r => r.2.pa / 256 == u.line

/-- All that an access and the release before it ask of homes. -/
def State.allNeeds (s : State) (i : Instr) (trs : List (Nat × Tr)) : List (Nat × Bool) :=
  s.memNeeds i trs ++ s.roomNeeds i trs ++ match releases i with | some sc => s.relNeeds sc | none => []

/-- The access waits, R312, R480: a home that it needs cannot serve it now, its die has no route to the host I/O die that serves the
rest of the address space, or the release before it must wait. -/
def State.blocked (s : State) (i : Instr) (trs : List (Nat × Tr)) : Bool :=
  s.armWaits (s.allNeeds i trs) || (trs.any fun r => r.2.host || r.2.hole) && s.cutFrom s.cdie 25 ||
    match releases i with | some sc => s.relWaits sc | none => false

/-- Register words of the bytes of one lane. -/
def laneWords (bs : List Byte) (n : Nat) : List Lane32 :=
  (List.range n).map fun k => BitVec.ofNat 32 (natOfBytes ((List.range 4).map fun j => bs.getD (4 * k + j) 0))

/-- The register writes of a load: one vector register for each word of the size. -/
def loadWrites (t : Nat) (regs : Nat) (rs : List (Nat × List Byte × Bool)) : List RegW :=
  let mask := rs.foldl (fun m r => setBit m r.1 true) (0 : BitVec 32)
  let pois := rs.foldl (fun m r => setBit m r.1 r.2.2) (0 : BitVec 32)
  let val := fun k l => match rs.find? fun r => r.1 == l with | some r => (laneWords r.2.1 regs).getD k 0 | none => 0
  (List.range regs).map fun k => RegW.v (t + k) mask ((List.range 32).map fun l => val k l) pois

/-- A load is outstanding: its writes commit in issue order, R172. -/
def State.pushLoad (s : State) (ws : List RegW) : State := s.modA fun a => { a with loads := a.loads ++ [ws] }
def State.pushStore (s : State) : State := s.modA fun a => { a with stores := a.stores + 1 }
def State.commitNow (s : State) (ws : List RegW) : State := s.modG fun g => g.commitAll s.slot ws

/-- What a load of order sc does before it reads: the release of its scope (R277); from cluster scope it then reads no older copy of its
core's L1, so that it takes its place in the single order of R257. -/
def State.beforeLoad (s : State) (f : MF) : State :=
  if f.ord == .sc then
    let s := s.releaseAct f.sc.code
    if 6 ≤ f.sc.code then s.l1Clear s.ccore else s
  else s

/-- Read every lane of a load, R248. -/
def State.readLanes (s : State) (trs : List (Nat × Tr)) (n : Nat) : State × List (Nat × List Byte × Bool) :=
  trs.foldl (fun acc r =>
    let (s, bs, p) := acc.1.gread acc.1.ccore acc.1.cg.ctx r.2 n
    (s, acc.2 ++ [(r.1, bs, p)])) (s, [])

/-- The bytes of a store's data registers in one lane, and whether any holds poison: one poisoned register of several marks all of the
lane's bytes (DESIGN CHOICE, log 18). -/
def State.dataOf (s : State) (t regs n l : Nat) : List Byte × Bool :=
  (((List.range regs).flatMap fun k => bytesOfNat 4 (s.cg.vlane (t + k) l).toNat).take n,
    (List.range regs).any fun k => bit (s.cg.vpoison (t + k)) l)

/-- Write every lane of a store in ascending order, R248, R260. A sector that the lanes together cover with clean data has been
written whole, R499. -/
def State.writeLanes (s : State) (ws : List (Tr × List Byte × Bool)) : State :=
  let s := ws.foldl (fun s w => s.gwrite s.ccore s.cg.ctx w.1 w.2.1 w.2.2) s
  let bytes := ws.flatMap fun w => (List.range w.2.1.length).map fun k => (w.1.pa + k, w.2.2)
  let whole := State.wholeSectors bytes
  (ws.filter fun w => whole.contains (w.1.pa / 64)).foldl (fun s w => s.cleanSector s.ccore w.1) s

/-- What may happen to a software-managed sector between two lanes of an instruction, R272, R273, R281: die `d` writes the sector back, or
evicts its line (`evict`). -/
def State.sectorEvent (s : State) (d sect : Nat) (evict : Bool) : State :=
  if !evict then s.swWriteBack d sect
  else ((List.range 4).foldl (fun s k => (s.swWriteBack d (sect / 4 * 4 + k)).swDrop d (sect / 4 * 4 + k)) (s.mergeDie d (sect / 4))).swTidy d (sect / 4)

/-- Lanes are performed one after another, R281: between two that name one software-managed line at cluster scope, dies may write the sector
back and the issuing die may evict the line, R272. How many such events there are, and which, are free values (log 9). -/
def State.betweenLanes (s : State) (sect : Nat) : State :=
  (List.range (s.free % 8)).foldl (fun s _ =>
    let s := s.bump
    let k := s.free % 9
    let asks := (List.range 4).map fun j => (sect / 4 * 4 + j, true)
    let d := if k == 8 then s.cdie else k
    if (s.die d).fenced || s.waitsAny d s.cctx.part asks then s else s.sectorEvent d sect (k == 8)) s.bump

/-- Perform an atomic's lanes in ascending order, R281: the old value of each lane. -/
def State.rmwLanes (s : State) (sc : Nat) (red : Bool) (aop : Aop) (wide : Bool) :
    List (Nat × Tr × Nat × Nat) → State × List (Nat × Nat × Bool)
  | [] => (s, [])
  | (l, t, v, c) :: rest =>
    if red && State.usesUpdLine t sc aop then (s.redUpdate s.ccore s.cg.ctx t aop wide v).rmwLanes sc red aop wide rest
    else
      let (s, old, p) := s.grmw s.ccore s.cg.ctx t sc (if wide then 8 else 4) fun o => aopNew aop wide o v c
      let again := sc == 6 && !t.uncached && !t.coh && rest.any fun r => r.2.1.pa / 256 == t.pa / 256
      let (s, olds) := (if again then s.betweenLanes (t.pa / 64) else s).rmwLanes sc red aop wide rest
      (s, (l, old, p) :: olds)

/-- Operands of an atomic's lanes, R251. -/
def State.aopOperands (s : State) (f : AF) (trs : List (Nat × Tr)) : List (Nat × Tr × Nat × Nat) :=
  let get := fun (r : BitVec 8) l => if f.sz == .b64 then (s.cg.vlane64 r.toNat l).toNat else (s.cg.vlane r.toNat l).toNat
  trs.map fun r => (r.1, r.2, get f.opnd r.1, if f.aop == .cas then get f.cmp r.1 else 0)

/-- Old values as register writes. -/
def oldWrites (t : Nat) (wide : Bool) (olds : List (Nat × Nat × Bool)) : List RegW :=
  loadWrites t (if wide then 2 else 1) (olds.map fun o => (o.1, bytesOfNat (if wide then 8 else 4) o.2.1, o.2.2))

/-- What a global access does once its probe has passed: the state after, and the register writes of a load. -/
def State.performMem (s : State) (i : Instr) (trs : List (Nat × Tr)) : State × List RegW :=
  match i with
  | .ld f =>
    let (s, rs) := (s.beforeLoad f).readLanes trs f.sz.bytes
    let s := if f.ord.isAcq then s.acquireAct f.sc.code else s
    (s, loadWrites f.t.toNat (sizeRegs f.sz) rs)
  | .sld f =>
    let (s, rs) := (s.beforeLoad f).readLanes trs f.sz.bytes
    let s := if f.ord.isAcq then s.acquireAct f.sc.code else s
    (s, rs.map fun r => RegW.s f.t.toNat (BitVec.ofNat 64 (natOfBytes r.2.1)) r.2.2)
  | .st f =>
    let ws := trs.map fun r => (r.2, s.dataOf f.t.toNat (sizeRegs f.sz) f.sz.bytes r.1)
    let s := if f.ord.isRel then s.releaseAct f.sc.code else s
    let s := s.writeLanes ws
    (if f.ord == .sc then s.acquireAct f.sc.code else s, [])
  | .sst f =>
    let ws := trs.map fun r =>
      (r.2, bytesOfNat f.sz.bytes (s.sreg f.t.toNat).toNat, s.cg.spoison s.slot f.t.toNat)
    let s := if f.ord.isRel then s.releaseAct f.sc.code else s
    let s := s.writeLanes ws
    (if f.ord == .sc then s.acquireAct f.sc.code else s, [])
  | .atom f =>
    let ops := s.aopOperands f trs
    let s := if f.ord.isRel then s.releaseAct f.sc.code else s
    let (s, olds) := s.rmwLanes f.sc.code false f.aop (f.sz == .b64) ops
    let s := if f.ord.isAcq then s.acquireAct f.sc.code else s
    (s, if f.t == 0xFF then [] else oldWrites f.t.toNat (f.sz == .b64) olds)
  | .red f =>
    let ops := s.aopOperands f trs
    let s := if f.ord.isRel then s.releaseAct f.sc.code else s
    ((s.rmwLanes f.sc.code true f.aop (f.sz == .b64) ops).1, [])
  | _ => (s, [])

/-- The instruction counts as a load, R171. -/
def countsLoad : Instr → Bool
  | .ld _ => true
  | .sld _ => true
  | .atom f => f.t != 0xFF
  | _ => false

/-- atom and red perform the release and acquire actions of their order once, whatever lanes are active, R281; the other accesses do
what they do lane by lane, R248. -/
def syncsAlone : Instr → Bool
  | .atom _ => true
  | .red _ => true
  | _ => false

/-- After the probe: a checked access parks for its two phases (R302, R304); any other is performed, and counted under R171; a
full count stalls. Without a lane there is no access, only the actions of an atomic's order. -/
def State.issueMem (s : State) (i : Instr) (vtrs : List (Nat × Word × Tr)) : Eff :=
  let trs := vtrs.map fun r => (r.1, r.2.2)
  if trs.isEmpty && !syncsAlone i then .retire s
  else if s.blocked i trs then .stay (s.waitHomes (s.allNeeds i trs))
  else if trs.isEmpty then .retire (s.performMem i []).1
  else if trs.any fun r => r.2.checked then .stay ((s.modA fun a => { a with chk := none, chkVals := [] }).park (.check vtrs))
  else if countsLoad i && decide (63 ≤ s.ca.loads.length) then .stay s
  else if !countsLoad i && decide (63 ≤ s.ca.stores) then .stay s
  else
    let (s, ws) := (s.chargeHomes s.cdie s.cctx.part (s.memNeeds i trs)).performMem i trs
    .retire (if countsLoad i then s.pushLoad ws else s.pushStore)

/-- ATOM_TYPE, after step 6: a 32-bit operation with b64, or an operation the host window does not carry, R251, R280, R294. -/
def atomTrap (aop : Aop) (sz : Size) (sc : Nat) (trs : List (Nat × Tr)) : Option TrapInfo :=
  let t := trapOf 18 0 (BitVec.ofNat 64 aop.code)
  if sz == .b64 && decide (10 ≤ aop.code) then some t
  else if trs.any fun r => r.2.host && !(decide (7 ≤ sc) && [Aop.add, .exch, .cas].contains aop) then some t
  else none

/-- Base and offset registers that must not meet poison, R500. -/
def addrReads (base : BitVec 6) (off : BitVec 8) (act : BitVec 32) : List Rd :=
  [.s base.toNat] ++ if off == 0xFF then [] else [.v off.toNat 1 act]

def offRegs (off : BitVec 8) : List (Nat × Nat) := if off == 0xFF then [] else [(off.toNat, 1)]

/-- What an instruction's probe asks of global memory: its kind, size and lanes, once its guard is known. -/
def State.memEff (s : State) (i : Instr) : Eff :=
  match i with
  | .ld f =>
    s.guarded f.g false ((f.t.toNat, sizeRegs f.sz) :: offRegs f.off) (addrReads f.base f.off) fun act =>
      s.gprobe .read f.sz.bytes (s.eas f.base f.off f.disp.toInt act) fun s trs => s.issueMem i trs
  | .st f =>
    s.guarded f.g false ((f.t.toNat, sizeRegs f.sz) :: offRegs f.off) (addrReads f.base f.off) fun act =>
      s.gprobe .write f.sz.bytes (s.eas f.base f.off f.disp.toInt (s.teamOnly act)) fun s trs => s.issueMem i trs
  | .sld f =>
    s.guarded f.g true [] (addrReads f.base f.off) fun act =>
      s.gprobe .read f.sz.bytes [(lowest act, s.ea f.base f.off f.disp.toInt 0)] fun s trs =>
        match s.divergedScalar f.t.toNat with
        | some t => .trap t
        | none => s.issueMem i trs
  | .sst f =>
    s.guarded f.g true [] (addrReads f.base f.off) fun act =>
      if s.teamOnly act == 0 then .retire s
      else s.gprobe .write f.sz.bytes [(lowest (s.teamOnly act), s.ea f.base f.off f.disp.toInt 0)] fun s trs => s.issueMem i trs
  | .atom f => atomEff f
  | .red f => atomEff f
  | _ => .retire s
where
  /-- atom and red: helper lanes are dropped, R280, R281. -/
  atomEff (f : AF) : Eff :=
    let n := if f.sz == .b64 then 2 else 1
    let regs := offRegs f.off ++ [(f.opnd.toNat, n)] ++ (if f.aop == .cas then [(f.cmp.toNat, n)] else []) ++
      (if f.t == 0xFF then [] else [(f.t.toNat, n)])
    let reads := fun act => addrReads f.base f.off act ++ [Rd.v f.opnd.toNat n act] ++
      (if f.aop == .cas then [Rd.v f.cmp.toNat n act] else [])
    s.guarded f.g false regs reads fun act =>
      s.gprobe .rmw f.sz.bytes (s.eas f.base f.off 0 (s.teamOnly act)) fun s trs =>
        match atomTrap f.aop f.sz f.sc.code (trs.map fun r => (r.1, r.2.2)) with
        | some t => .trap t
        | none => s.issueMem i trs

/-- ld, R248. -/
def execLd (f : MF) (s : State) : Host.Outcome State Fault Refusal := s.conclude (s.memEff (.ld f))
/-- st, R248. -/
def execSt (f : MF) (s : State) : Host.Outcome State Fault Refusal := s.conclude (s.memEff (.st f))
/-- sld, R248. -/
def execSld (f : MF) (s : State) : Host.Outcome State Fault Refusal := s.conclude (s.memEff (.sld f))
/-- sst, R248. -/
def execSst (f : MF) (s : State) : Host.Outcome State Fault Refusal := s.conclude (s.memEff (.sst f))
/-- atom, R281. -/
def execAtom (f : AF) (s : State) : Host.Outcome State Fault Refusal := s.conclude (s.memEff (.atom f))
/-- red, R281, R282. -/
def execRed (f : AF) (s : State) : Host.Outcome State Fault Refusal := s.conclude (s.memEff (.red f))

/-- Where a scratchpad access goes, R244: the team and the offset, or the trap of its lane. -/
inductive SpLoc where
  | at (tid off : Nat)
  | range
  | remote
  deriving DecidableEq, Repr

def State.spLoc (s : State) (window : Bool) (a : Word) : SpLoc :=
  let t := s.cteam
  if !window then (if t.scratch ≤ a.toNat then .range else .at s.cg.tid a.toNat)
  else if 2 ^ 25 ≤ a.toNat || decide (t.scratch ≤ a.toNat % 2 ^ 18) then .range
  else match s.panelTeam t.panel (a.toNat / 2 ^ 18) with
    | some tid => .at tid (a.toNat % 2 ^ 18)
    | none => .remote

/-- The probe of a scratchpad access: alignment, range, window, watch, each for the lowest failing lane, R89, R240, R244. -/
def State.spProbe (s : State) (window : Bool) (k : XKind) (n : Nat) (lanes : List Lane)
    (f : List (Nat × Nat × Nat) → Eff) : Eff :=
  match alignTrap k n lanes with
  | some t => .trap t
  | none =>
    let locs := lanes.map fun l => (l, s.spLoc window l.2)
    match locs.find? fun l => l.2 == .range with
    | some (l, _) => .trap (trapOf 16 l.2 (accessX l.1 k 7))
    | none =>
      match locs.find? fun l => l.2 == .remote with
      | some (l, _) => .trap (trapOf 17 l.2 (accessX l.1 k 7))
      | none =>
        match s.watchTrap k n lanes with
        | some t => .trap t
        | none => f (locs.filterMap fun l => match l.2 with | .at tid off => some (l.1.1, tid, off) | _ => none)

/-- A scratchpad load, R248. -/
def State.spLoadEff (s : State) (window : Bool) (f : MF) : Eff :=
  s.guarded f.g false ((f.t.toNat, sizeRegs f.sz) :: offRegs f.off) (addrReads f.base f.off) fun act =>
    s.spProbe window .read f.sz.bytes (s.eas f.base f.off f.disp.toInt act) fun locs =>
      if locs.isEmpty then .retire s
      else if decide (63 ≤ s.ca.loads.length) || (f.ord == .sc && s.relWaits f.sc.code) then .stay (if f.ord == .sc then s.relStay f.sc.code else s)
      else
        let s := s.beforeLoad f
        let s := locs.foldl (fun s l => s.spInject l.2.1 l.2.2 f.sz.bytes) s
        let rs := locs.map fun l => (l.1, s.spRead l.2.1 l.2.2 f.sz.bytes)
        let s := if f.ord.isAcq then s.acquireAct f.sc.code else s
        .retire (s.pushLoad (loadWrites f.t.toNat (sizeRegs f.sz) rs))

/-- A scratchpad store, R248. -/
def State.spStoreEff (s : State) (window : Bool) (f : MF) : Eff :=
  s.guarded f.g false ((f.t.toNat, sizeRegs f.sz) :: offRegs f.off) (addrReads f.base f.off) fun act =>
    s.spProbe window .write f.sz.bytes (s.eas f.base f.off f.disp.toInt (s.teamOnly act)) fun locs =>
      if locs.isEmpty then .retire s
      else if decide (63 ≤ s.ca.stores) || (f.ord.isRel && s.relWaits f.sc.code) then
        .stay (if f.ord.isRel then s.relStay f.sc.code else s)
      else
        let ws := locs.map fun l => (l.2, s.dataOf f.t.toNat (sizeRegs f.sz) f.sz.bytes l.1)
        let s := if f.ord.isRel then s.releaseAct f.sc.code else s
        let s := ws.foldl (fun s w => s.spStore w.1.1 w.1.2 w.2.1 w.2.2) s
        let s := if f.ord == .sc then s.acquireAct f.sc.code else s
        .retire s.pushStore

/-- lds, R248. -/
def execLds (f : MF) (s : State) : Host.Outcome State Fault Refusal := s.conclude (s.spLoadEff false f)
/-- ldc, R248. -/
def execLdc (f : MF) (s : State) : Host.Outcome State Fault Refusal := s.conclude (s.spLoadEff true f)
/-- sts, R248. -/
def execSts (f : MF) (s : State) : Host.Outcome State Fault Refusal := s.conclude (s.spStoreEff false f)
/-- stc, R248. -/
def execStc (f : MF) (s : State) : Host.Outcome State Fault Refusal := s.conclude (s.spStoreEff true f)

/-- One lane of atoms at the target's scratchpad, R251; a poisoned old value writes nothing. -/
def State.spRmw (s : State) (tid off : Nat) (aop : Aop) (wide : Bool) (v c : Nat) : State × Nat × Bool :=
  let n := if wide then 8 else 4
  let s := s.spInject tid off n
  let (bs, p) := s.spRead tid off n
  let o := natOfBytes bs
  if p then (s, o, true) else (s.spStore tid off (bytesOfNat n (aopNew aop wide o v c)) false, o, false)

/-- atoms, R251. -/
def State.atomsEff (s : State) (f : AF) : Eff :=
  let n := if f.sz == .b64 then 2 else 1
  let wide := f.sz == .b64
  let regs := offRegs f.off ++ [(f.opnd.toNat, n)] ++ (if f.aop == .cas then [(f.cmp.toNat, n)] else []) ++
    (if f.t == 0xFF then [] else [(f.t.toNat, n)])
  let reads := fun act => addrReads f.base f.off act ++ [Rd.v f.opnd.toNat n act] ++
    (if f.aop == .cas then [Rd.v f.cmp.toNat n act] else [])
  let get := fun (r : BitVec 8) l => if wide then (s.cg.vlane64 r.toNat l).toNat else (s.cg.vlane r.toNat l).toNat
  s.guarded f.g false regs reads fun act =>
    s.spProbe true .rmw f.sz.bytes (s.eas f.base f.off 0 (s.teamOnly act)) fun locs =>
      match atomTrap f.aop f.sz f.sc.code [] with
      | some t => .trap t
      | none =>
        if locs.isEmpty then .retire s
        else if f.t != 0xFF && decide (63 ≤ s.ca.loads.length) then .stay s
        else if f.t == 0xFF && decide (63 ≤ s.ca.stores) then .stay s
        else if f.ord.isRel && s.relWaits f.sc.code then .stay (s.relStay f.sc.code)
        else
          let ops := locs.map fun l => (l.1, l.2.1, l.2.2, get f.opnd l.1, if f.aop == .cas then get f.cmp l.1 else 0)
          let s := if f.ord.isRel then s.releaseAct f.sc.code else s
          let (s, olds) := ops.foldl (fun acc o =>
            let (s, old, p) := acc.1.spRmw o.2.1 o.2.2.1 f.aop wide o.2.2.2.1 o.2.2.2.2
            (s, acc.2 ++ [(o.1, old, p)])) (s, ([] : List (Nat × Nat × Bool)))
          let s := if f.ord.isAcq then s.acquireAct f.sc.code else s
          .retire (if f.t == 0xFF then s.pushStore else s.pushLoad (oldWrites f.t.toNat wide olds))

def execAtoms (f : AF) (s : State) : Host.Outcome State Fault Refusal := s.conclude (s.atomsEff f)

/-- pref, R250: each lane whose page is translated and allows it brings its line into the L1 or the L2; a miss starts a walk. -/
def State.prefLane (s : State) (l1 : Bool) (a : Word) : State :=
  match s.xlate s.ccore s.cg.ctx [] a with
  | .miss page => s.askWalks s.cdie s.cg.ctx [page]
  | .fault _ _ => s
  | .ok t e =>
    let sl := State.sliceOf s.ccore t
    let asks := s.turnNeeds s.cdie t.coh (t.pa / 256) ++  (List.range 4).filterMap fun k =>
      (s.l2Need s.cdie s.cg.ctx t.coh sl (t.pa / 256 * 4 + k) (BitVec.allOnes 64) false).map fun w => (t.pa / 256 * 4 + k, w)
    if (permit e (!s.ca.handler) .prefetch).isSome || t.uncached || s.waitsAny s.cdie s.cctx.part asks then s
    else (List.range 4).foldl (fun s k =>
      let sect := t.pa / 256 * 4 + k
      if l1 then (s.l1Read s.ccore s.cg.ctx t.coh sl sect (BitVec.allOnes 64)).1
      else ((s.l2Reach s.cdie s.cg.ctx t.coh sl (sect / 4)).l2Fill s.cdie s.cg.ctx t.coh sect (BitVec.allOnes 64)).1) (s.chargeHomes s.cdie s.cctx.part asks)

def State.prefEff (s : State) (f : MF) : Eff :=
  s.guarded f.g false (offRegs f.off) (addrReads f.base f.off) fun act =>
    .retire ((s.eas f.base f.off f.disp.toInt act).foldl (fun s l => s.prefLane (f.t == 0) l.2) s)

def execPref (f : MF) (s : State) : Host.Outcome State Fault Refusal := s.conclude (s.prefEff f)

/-- Range operations, R284. -/
inductive RangeOp where
  | wb | inv | wbi
  deriving DecidableEq, Repr

/-- A range operation on one line, R285: the core's L1, and from device scope the die's L2. -/
def State.rangeLine (s : State) (op : RangeOp) (sc : Nat) (t : Tr) : State :=
  if t.uncached then s else
  let line := t.pa / 256
  let s := s.mergeUpd s.ccore fun u => u.line == line
  let s := if op == .wb then s else (List.range 4).foldl (fun s k => s.l1Drop s.ccore (line * 4 + k)) s
  if sc < 7 then s else
  let s := if op == .wb then s else s.mergeDie s.cdie line
  let s := (List.range 4).foldl (fun s k =>
    let sect := line * 4 + k
    match op with
    | .wb => s.swWriteBack s.cdie sect
    | .inv => s.swClean s.cdie sect
    | .wbi => (s.swWriteBack s.cdie sect).swDrop s.cdie sect) s
  if op == .wb then s else s.swTidy s.cdie line

/-- What a range operation asks of homes for one line: the merges and the write-backs of R285. -/
def State.rangeNeeds (s : State) (op : RangeOp) (sc : Nat) (t : Tr) : List (Nat × Bool) :=
  if t.uncached then [] else
  let line := t.pa / 256
  let merges := fun c => s.mergeNeeds c fun u => u.line == line
  if sc < 7 then merges s.ccore
  else (if op == .wb then merges s.ccore else (s.dieCores s.cdie).flatMap merges) ++
    (if op == .inv then [] else (List.range 4).filterMap fun k =>
      match s.l2sect s.cdie (line * 4 + k) with
      | some (false, x) => if x.drt == 0 then none else some (line * 4 + k, true)
      | _ => none)

/-- cwb, cinv, cwbi, R284-R286: the instruction waits while a home that it needs cannot serve it; the arm's wait for the acknowledgements
is over when the step ends. A fault on a page of the range names the lowest active lane and, as TRAPAD, a for the first page and the page's
first address for a later one (DESIGN CHOICE, log 52). -/
def State.rangeEff (s : State) (op : RangeOp) (f : MF) : Eff :=
  s.guarded f.g true [] (fun _ => [.s f.base.toNat, .s f.t.toNat]) fun act =>
    let a := s.sreg f.base.toNat + BitVec.ofInt 64 f.disp.toInt
    let n := (s.sreg f.t.toNat).toNat
    if a.toNat % 256 != 0 || n % 256 != 0 || decide (524288 < n) then .trap (trapOf 15 a (accessX (lowest act) .read 7))
    else if n == 0 then .retire s
    else
      let first := a.toNat / 2 ^ 14
      let count := (a.toNat + n - 1) / 2 ^ 14 - first + 1
      let pages := (List.range count).map fun p => (lowest act, if p == 0 then a else BitVec.ofNat 64 ((first + p) * 2 ^ 14))
      match s.probe s.ccore s.cg.ctx (!s.ca.handler) .read pages with
      | .trap t => .trap t
      | .walk ps => .stay (s.parkWalk ps)
      | .ok trs =>
        let s := trs.foldl (fun s r => s.useEntry s.ccore .read r.2.2) s
        let lines := (List.range (n / 256)).filterMap fun k =>
          let va := a.toNat + 256 * k
          (trs[va / 2 ^ 14 - first]?).map fun r => { r.2.1 with pa := r.2.2.pa va }
        let asks := lines.flatMap fun t => s.rangeNeeds op f.sc.code t
        if s.armWaits asks then .stay (s.waitHomes asks)
        else .retire (lines.foldl (fun s t => s.rangeLine op f.sc.code t) (s.chargeHomes s.cdie s.cctx.part asks))

/-- cwb, R285. -/
def execCwb (f : MF) (s : State) : Host.Outcome State Fault Refusal := s.conclude (s.rangeEff .wb f)
/-- cinv, R285. -/
def execCinv (f : MF) (s : State) : Host.Outcome State Fault Refusal := s.conclude (s.rangeEff .inv f)
/-- cwbi, R285. -/
def execCwbi (f : MF) (s : State) : Host.Outcome State Fault Refusal := s.conclude (s.rangeEff .wbi f)

/-- fence, R283. -/
def State.fenceEff (s : State) (f : MF) : Eff :=
  s.guarded f.g true [] (fun _ => []) fun _ =>
    if f.ord.isRel && s.relWaits f.sc.code then .stay (s.relStay f.sc.code) else
    let s := if f.ord.isRel then s.releaseAct f.sc.code else s
    .retire (if f.ord.isAcq then s.acquireAct f.sc.code else s)

def execFence (f : MF) (s : State) : Host.Outcome State Fault Refusal := s.conclude (s.fenceEff f)

end Sys2Proof.Machine
end

