-- ==== Sys2Proof/Machine/HomeEvents.lean ====
section
/-! DEFINITION. Machine events of the memory system: replies and acknowledgements (R171, R172), page walks (R237), the L2s and the
homes (R271, R272, R298-R301), and the phases of checked accesses (R302-R306). An event that is not due changes nothing. -/

namespace Sys2Proof.Machine

/-- A load reply is committed to registers in issue order, R172; slot 2 stands for the arms that have ended while their group goes on. -/
def execLoadReplyCommit (gid slot : Nat) (s : State) : Host.Outcome State Fault Refusal :=
  let g := s.grp gid
  if slot == 2 then match g.orphans with
    | ws :: rest => .next (s.setGrp gid (({ g with orphans := rest }).commitAll slot ws))
    | [] => .next s
  else
    let a := g.arm slot
    match a.loads with
    | ws :: rest => .next (s.setGrp gid ((g.setArm slot { a with loads := rest }).commitAll slot ws))
    | [] => .next s

/-- An execution point acknowledges a store, R171. -/
def execStoreAck (gid slot : Nat) (s : State) : Host.Outcome State Fault Refusal :=
  let g := s.grp gid
  .next (s.setGrp gid (g.setArm slot { g.arm slot with stores := (g.arm slot).stores - 1 }))

/-- The arms parked for a walk are told of its fault, R232, R237. -/
def tellFault (k : WalkKey) (level : Nat) (pois : Bool) (a : Arm) : Arm :=
  match a.park with
  | some (.walk ks) => if ks.contains k then { a with walkFaults := a.walkFaults ++ [(k.page, level, pois)] } else a
  | _ => a

/-- The cores whose arms wait for a walk. -/
def walkCores (s : State) (k : WalkKey) : List Nat :=
  let waits := fun (a : Arm) => match a.park with | some (.walk ks) => ks.contains k | _ => false
  ((s.groups.filter fun p => waits p.2.arm0 || waits p.2.arm1).map fun p => gidCore p.1).dedup

/-- A walk ends, R234, R237: it is one of the 32 that go on at a time; the leaf is installed in the die's L2 TLB and in the waiting cores'
L1 TLBs, setting A where it was clear; a fault is told to the waiting arms, whose probes repeat. While an xinv of the page waits, the
result is discarded (R450). -/
def execPageWalkComplete (die ctx page : Nat) (s : State) : Host.Outcome State Fault Refusal :=
  let walk := s.dieWalk die ctx page
  if !((s.die die).walks.take Config.walkers).contains (ctx, page) || s.waitsAny die (s.ctx ctx).part (s.walkNeeds die ctx walk) then
    .next s
  else
    let s := (s.walkInject die ctx walk).chargeHomes die (s.ctx ctx).part (s.walkNeeds die ctx walk)
    let walk := s.dieWalk die ctx page
    let k : WalkKey := ⟨die, ctx, page⟩
    let s := s.setDie die { s.die die with walks := (s.die die).walks.filter (· != (ctx, page)) }
    if s.xinvPending ctx page then .next s else
    let s := s.wcacheAdd die walk.upper
    let told := fun (level : Nat) (pois : Bool) =>
      { s with groups := s.groups.map fun (p : Nat × Group) =>
          (p.1, { p.2 with arm0 := tellFault k level pois p.2.arm0, arm1 := tellFault k level pois p.2.arm1 }) }
    match walk.res with
    | .fault level => .next (told level false)
    | .pois => .next (told 0 true)
    | .leaf e =>
      let (s, e) := if bit e.pte 6 then (s, e) else (s.orPte e 64, { e with pte := e.pte ||| 64 })
      .next ((walkCores s k).foldl (fun s c => s.l1TlbAdd c e) (s.l2TlbAdd die e))

/-- A slice writes back a dirty software-managed sector, R272; where the sector is clean, it evicts the sector's line: the deltas of
the line's update-only lines join it (R275), its dirty bytes are written back, and it is gone (R273); that the one event does both is
the model's choice (log 10). -/
def execL2WriteBack (die sect : Nat) (s : State) : Host.Outcome State Fault Refusal :=
  match s.l2sect die sect with
  | some (false, x) =>
    let asks := if x.drt != 0 then [(sect, true)] else (List.range 4).map fun k => (sect / 4 * 4 + k, true)
    if s.waitsAny die (s.ctx x.tag).part asks then .next s
    else .next ((s.chargeHomes die (s.ctx x.tag).part asks).sectorEvent die sect (x.drt == 0))
  | _ => .next s

/-- A slice answers its home's recall or invalidation, R271, R275, and the home's directory follows; with no die of that number named,
the home evicts the sector's line, R299. Traffic without a route waits, R312. -/
def execL2Recall (die sect : Nat) (toShared : Bool) (s : State) : Host.Outcome State Fault Refusal :=
  if Config.dies ≤ die then
    (if s.lineDeaf (sect / 4) then .next s else .next (s.homeEvict (sect / 4)))
  else if !bit (s.dirEnt sect).shr die || s.homeCut die sect (s.hasDeltas die sect) then .next s
  else .next (s.giveUp die sect toShared)

/-- The home serves a shared read of a coherent sector, R298; a die holds the sector S. -/
def execHomeReadShared (req sect : Nat) (s : State) : Host.Outcome State Fault Refusal :=
  if (s.die req).lost || decide (10 ≤ req) || s.homeBusy req sect false then .next s
  else if req < 8 then .next ((s.l2Reach req 0 true (s.lineSlice req (sect / 4)) (sect / 4)).l2Fill req 0 true sect (BitVec.allOnes 64)).1
  else .next (s.homeReadShared req sect)

/-- The home grants ownership, R298; a die holds the sector O. -/
def execHomeReadForOwnership (req sect : Nat) (s : State) : Host.Outcome State Fault Refusal :=
  if (s.die req).lost || decide (10 ≤ req) || s.homeBusy req sect true then .next s
  else if req < 8 then .next ((s.l2Reach req 0 true (s.lineSlice req (sect / 4)) (sect / 4)).l2Store req 0 true sect 0 [] false)
  else .next (s.homeReadOwn req sect)

/-- The home merges the masked bytes of a write-back, R298, R300, which the die's L2 holds dirty just so: of an owned coherent sector,
which the die gives up, or of a software-managed one. A lost die's traffic is refused, R312. -/
def execHomeWriteBackMerge (b : WriteBack) (s : State) : Host.Outcome State Fault Refusal :=
  match s.l2sect b.die b.sect with
  | none => .next s
  | some (coh, x) =>
    let same := b.mask == x.drt && b.pois == x.psn && overlay b.mask [] b.data == overlay b.mask [] x.data
    if (s.die b.die).lost || !same || b.mask == 0 || s.waitsHome b.die (s.ctx x.tag).part b.sect true then .next s
    else
      let s := s.chargeHomes b.die (s.ctx x.tag).part [(b.sect, true)]
      .next (if coh then s.giveUp b.die b.sect false else s.swWriteBack b.die b.sect)

/-- The home's atomic units perform an atomic, R301. -/
def execHomeAtomic (r : AtomReq) (s : State) : Host.Outcome State Fault Refusal :=
  if (s.die r.die).lost || decide (Config.deviceMemTop ≤ r.pa) || s.homeBusy r.die (r.pa / 64) true then .next s
  else .next ((s.noteStore (r.pa / 64)).homeRmw r.pa (if r.wide then 8 else 4) fun o => aopNew r.aop r.wide o r.opnd.toNat r.cmp.toNat).1

/-- The bytes a lane's checked access reads and writes, by the instruction, R304: (reads, writes). -/
def checkKinds : Instr → Bool × Bool
  | .ld _ => (true, false)
  | .sld _ => (true, false)
  | .st _ => (false, true)
  | .sst _ => (false, true)
  | _ => (true, true)

/-- Bytes of one lane of a memory instruction. -/
def instrBytes : Instr → Nat
  | .ld f => f.sz.bytes
  | .st f => f.sz.bytes
  | .sld f => f.sz.bytes
  | .sst f => f.sz.bytes
  | .atom f => f.sz.bytes
  | .red f => f.sz.bytes
  | _ => 0

/-- The instruction at an arm's head, decoded. -/
def Arm.head (a : Arm) : Option Instr :=
  match a.clause with
  | some c => (match decodeWord (c.words.getD c.idx 0) with | .ok i => some i | .error _ => none)
  | none => none

/-- The conflict rule of R304 against one record of another group. -/
def CheckRec.conflicts (r : CheckRec) (rd wr : Bool) (mask : BitVec 64) : Bool :=
  let w := (r.wmask ||| r.tw) &&& mask != 0
  let x := (r.rmask ||| r.tr) &&& mask != 0
  (wr && (w || x)) || (rd && w)

/-- TRAPX in the race layout, R440. -/
def raceX (lane : Nat) (r : CheckRec) (mask : BitVec 64) : Word :=
  let w := (r.wmask ||| r.tw) &&& mask != 0
  let tent := (r.tw ||| r.tr) &&& mask != 0
  BitVec.ofNat 64 (lane + 2 ^ 16 * r.slot + 2 ^ 21 * r.core + 2 ^ 28 * r.cluster + 2 ^ 32 * r.die +
    (if w then 2 ^ 35 else 0) + (if tent then 2 ^ 36 else 0))

/-- A group's record of the sector of a physical address takes new bits; a new record in a full table closes the oldest silently,
R303, R306. -/
def State.openRec (s : State) (gid pa : Nat) (f : CheckRec → CheckRec) : State :=
  let g := s.grp gid
  let sect := homeLocal pa / 64
  let h := homeChip pa
  let t := mget [] s.checks h
  let s := s.setGrp gid { g with chkHomes := setBit g.chkHomes h true }
  let mine := fun (r : CheckRec) => r.sect == sect && r.isOf g
  if t.any mine then { s with checks := mset [] s.checks h (t.map fun r => if mine r then f r else r) }
  else
    let fresh := f ⟨sect, 0, 0, 0, 0, 0, 0, g.ctx, g.vcluster / 2, g.vcluster, g.vcore, g.vslot, gidDie gid⟩
    match t with
    | old :: rest =>
      if Config.checkRecords ≤ t.length then
        let c := s.ctx old.ctx
        let s := s.setCtx old.ctx { c with chklost := c.chklost + 1 }
        { s with checks := mset [] s.checks h (rest ++ [fresh]) }
      else { s with checks := mset [] s.checks h (t ++ [fresh]) }
    | [] => { s with checks := mset [] s.checks h [fresh] }

/-- One lane of the check phase, R304: the conflicting record, or the state with the lane's tentative bits. -/
def State.checkLane (s : State) (gid slot : Nat) (rd wr : Bool) (n lane : Nat) (va : Word) (t : Tr) : State × Option TrapInfo :=
  let sect := homeLocal t.pa / 64
  let mask := byteMask (t.pa % 64) n
  let g := s.grp gid
  let recs := (mget [] s.checks (homeChip t.pa)).filter fun r => r.sect == sect && !r.isOf g
  match recs.find? fun r => r.conflicts rd wr mask with
  | some r => (s, some (trapOf 19 va (raceX lane r mask)))
  | none =>
    (s.openRec gid t.pa fun r => r.tent slot (if wr then mask else 0) (if rd then mask else 0), none)

/-- The lanes of a checked access, as its performance takes them. -/
def checkLanes (trs : List (Nat × Word × Tr)) : List (Nat × Tr) := trs.map fun r => (r.1, r.2.2)

/-- What the check of a load reads, R304: a load of order sc performs its release first (R277). -/
def State.checkRead (s : State) (i : Instr) (trs : List (Nat × Tr)) : State × List RegW :=
  match i with
  | .ld f =>
    let (s, rs) := (s.beforeLoad f).readLanes trs f.sz.bytes
    (s, loadWrites f.t.toNat (sizeRegs f.sz) rs)
  | .sld f =>
    let (s, rs) := (s.beforeLoad f).readLanes trs f.sz.bytes
    (s, rs.map fun r => RegW.s f.t.toNat (BitVec.ofNat 64 (natOfBytes r.2.1)) r.2.2)
  | _ => (s, [])

/-- What the commit performs, R304: the held writes and atomics; of a load, which has its values since the check, the acquire of its
order. -/
def State.commitMem (s : State) (i : Instr) (trs : List (Nat × Tr)) : State × List RegW :=
  match i with
  | .ld f => (if f.ord.isAcq then s.acquireAct f.sc.code else s, s.ca.chkVals)
  | .sld f => (if f.ord.isAcq then s.acquireAct f.sc.code else s, s.ca.chkVals)
  | _ => (s.chargeHomes s.cdie s.cctx.part (s.memNeeds i trs)).performMem i trs

/-- The homes check a checked access against the open records of other groups, and return the bytes of a load, R304; the check waits while
one of them has no route (R312). -/
def execCheckPhase (gid slot : Nat) (s : State) : Host.Outcome State Fault Refusal :=
  let a := (s.grp gid).arm slot
  match a.park, a.head, a.chk with
  | some (.check trs), some i, none =>
    let (rd, wr) := checkKinds i
    let me := { s with cur := (gid, slot) }
    if me.blocked i (checkLanes trs) then .next (me.waitHomes (me.allNeeds i (checkLanes trs))) else
    let (s, bad) := trs.foldl (fun acc r =>
      if r.2.2.checked then
        let (s, e) := acc.1.checkLane gid slot rd wr (instrBytes i) r.1 r.2.1 r.2.2
        (s, if acc.2.isSome then acc.2 else e)
      else acc) (s, none)
    let s := { s with cur := (gid, slot) }
    let (s, ws) := if bad.isSome || !(rd && !wr) then (s, [])
      else (s.chargeHomes s.cdie s.cctx.part (s.memNeeds i (checkLanes trs))).checkRead i (checkLanes trs)
    .next (if me.closesCut s then me else s.modA fun a => { a with chk := some bad, chkVals := ws, asks := none })
  | _, _, _ => .next s

/-- Change a group's records everywhere; those left without an access close. -/
def State.mapRecs (s : State) (gid : Nat) (f : CheckRec → CheckRec) : State :=
  let g := s.grp gid
  let one := fun (p : Nat × List CheckRec) =>
    (p.1, (p.2.map fun r => if r.isOf g then f r else r).filter fun r => !(r.isOf g && r.empty))
  { s with checks := (s.checks.map one).filter fun p => !p.2.isEmpty }

/-- TENT of an arm's access is cleared, R304: its bits are those of a performed access, in the homes that hold records of the group. -/
def State.commitChecks (s : State) (gid slot : Nat) (trs : List (Nat × Word × Tr)) : State :=
  let g := s.grp gid
  let s := s.mapRecs gid fun r => r.commit slot
  let homes := trs.foldl (fun m r =>
    let h := homeChip r.2.2.pa
    if r.2.2.checked && (mget [] s.checks h).any fun x => x.isOf g then setBit m h true else m) (s.grp gid).chkHomes
  s.setGrp gid { s.grp gid with chkHomes := homes }

/-- The homes perform the held accesses, clear TENT, and the arm goes on with its loaded values, R304. Where the access is itself a
synchronising operation, the group's earlier records have closed by then (R305), and its own record stands. -/
def execCheckCommit (gid slot : Nat) (s : State) : Host.Outcome State Fault Refusal :=
  let a := (s.grp gid).arm slot
  match a.park, a.head, a.chk with
  | some (.check trs), some i, some none =>
    let me := { s with cur := (gid, slot) }
    if me.blocked i (checkLanes trs) then .next (me.waitHomes (me.allNeeds i (checkLanes trs))) else
    let (s, ws) := me.commitMem i (checkLanes trs)
    .next (if me.closesCut s then me else ((s.commitChecks gid slot trs).commitNow ws).retire)
  | _, _, _ => .next s

/-- The homes discard a conflicting checked access, and the instruction traps MM_RACE, R304. -/
def execCheckAbort (gid slot : Nat) (s : State) : Host.Outcome State Fault Refusal :=
  let a := (s.grp gid).arm slot
  match a.park, a.chk with
  | some (.check _), some (some t) =>
    let s := s.mapRecs gid fun r => r.discard slot
    let g := s.grp gid
    let s := { s.setGrp gid (g.setArm slot { g.arm slot with park := none, chk := none }) with cur := (gid, slot) }
    .next (s.takeTrap t)
  | _, _ => .next s

/-- Instructions that are synchronising operations, R255: scoped accesses with an order, fences, and those that R180, R209, R210, R226 and
the chapters on transfers and messages name. -/
def synchronises : Instr → Bool
  | .ld f | .st f | .sld f | .sst f => f.ord != .rlx
  | .lds f | .ldc f | .sts f | .stc f => f.ord != .rlx
  | .rld f | .rst f => f.ord != .rlx
  | .atom f | .red f | .atoms f | .ratom f => f.ord != .rlx
  | .fence _ => true
  | .bar _ | .bararr _ | .barwait _ | .pbar _ | .tcall _ | .tret _ | .tvote _ | .fork _ | .join _ | .exitG _ => true
  | .cpy _ | .cpym _ | .gath _ | .coll _ | .msend _ | .qpush _ | .qpop _ | .qtry _ | .qfence _ => true
  | .xinvPage _ | .xinvRange _ | .xinvCtx _ => true
  | _ => false

/-- An arm of the group stands at a synchronising operation: an instruction that is one, or the clause at which its frame merges. -/
def Group.synchronising (g : Group) : Bool :=
  let at_ := fun (a : Arm) => a.live && (a.head.any synchronises ||
    (a.clause.isNone && match a.top.bind g.frame with | some f => f.raddr == a.pc | none => false))
  g.live && (at_ g.arm0 || at_ g.arm1)

/-- The homes close a group's check records, R305, where an arm of it stands at a synchronising operation: those that the close reaches
(R312). -/
def execCheckClose (gid : Nat) (s : State) : Host.Outcome State Fault Refusal :=
  .next (if (s.grp gid).synchronising then s.closeAt gid (s.closable gid) else s)

end Sys2Proof.Machine
end

