-- ==== Sys2Proof/Machine/Fabric.lean ====
section
/-! DEFINITION. The photonic fabric (R307-R312): routing registers, colours that fail and recover, drains, and the loss of every
route between a die and a chiplet. -/

namespace Sys2Proof.Machine

namespace State

/-- The route that MODE names works, R309. -/
def modeWorks (s : State) (i j : Nat) (r : Route) : Bool :=
  match r.mode with
  | 0 => r.aup && r.bup
  | 1 => r.aup
  | 2 => r.bup
  | _ => s.legWorks i r.relay && s.legWorks r.relay j

/-- The route in effect, R309: the named one, else whatever direct colours work. -/
def effOf (s : State) (i j : Nat) (r : Route) : Nat :=
  if s.modeWorks i j r then r.mode else if r.aup && r.bup then 0 else if r.aup then 1 else if r.bup then 2 else 0

/-- Setting EVT raises an event to the management controller, R308, and vector 0, R485. -/
def raiseEvt (s : State) (i j : Nat) : State :=
  ({ s.setRoute i j { s.route i j with evt := true } with events := s.events ++ [DevEvent.route i j] }).sendMsix 0

/-- Recompute the route in effect of one pair; a pair that is draining keeps its route until the drain ends, R311. -/
def refreshRoute (s : State) (i j : Nat) : State :=
  let r := s.route i j
  if r.busy then s else s.setRoute i j { r with eff := s.effOf i j r }

/-- A detection of a loss stands only while the loss lasts, R312. -/
def dropSeen (s : State) : State :=
  { s with lossSeen := s.lossSeen.filter fun (p : Nat × Bool) => s.cutOff (p.1 / 64) (p.1 % 64 / 2) }

/-- The pairs whose MODE names a relay over the pair. -/
def relayers (s : State) (i j : Nat) : List Nat := (mkeys s.routes).filter fun k =>
  let x := mget {} s.routes k
  x.mode == 3 && ((k / 32 == i && x.relay == j) || (x.relay == i && k % 32 == j))

/-- The state of a pair has changed: every pair that relays over it chooses its route anew, with EVT set, R308, R309, and so do the pairs
that relay over one of these whose route in effect changes by it (R310). -/
def legsChanged : Nat → State → Nat → Nat → State
  | 0, s, _, _ => s
  | n + 1, s, i, j => (s.relayers i j).foldl (fun s k =>
      let e := (mget {} s.routes k).eff
      let s := (s.refreshRoute (k / 32) (k % 32)).raiseEvt (k / 32) (k % 32)
      if (mget {} s.routes k).eff == e then s else legsChanged n s (k / 32) (k % 32)) s

/-- A colour of the pair changes, R309: the pair's EVT is set, and that of every pair that relays over it. -/
def colourChange (s : State) (i j : Nat) (planeB up : Bool) : State :=
  if !isPair i j then s else
  let r := s.route i j
  if (if planeB then r.bup else r.aup) == up then s else
  let s := s.setRoute i j (if planeB then { r with bup := up } else { r with aup := up })
  (legsChanged 676 ((s.refreshRoute i j).raiseEvt i j) i j).dropSeen

/-- The word that a read of ROUTE returns, R308. -/
def routeWord (s : State) (i j : Nat) : Word :=
  let r := s.route i j
  let b := fun (x : Bool) n => if x then 2 ^ n else 0
  BitVec.ofNat 64 (r.mode + 4 * r.relay + b r.err 9 + 2 ^ 10 * r.eff + b r.aup 12 + b r.bup 13 + b r.evt 14 + b r.busy 15)

/-- A write of ROUTE, R308, R311: ERR and EVT clear where ones are written; an illegal RELAY sets ERR and is not applied; a change
of MODE or RELAY drains the pair first. -/
def writeRoute (s : State) (i j : Nat) (x : Word) : State :=
  let r := s.route i j
  let mode := x.toNat % 4
  let relay := x.toNat / 4 % 32
  let r := { r with evt := r.evt && !bit x 14, err := r.err && !bit x 9 }
  if mode == 3 && (decide (26 ≤ relay) || relay == i || relay == j) then s.setRoute i j { r with err := true }
  else if mode == r.mode && relay == r.relay then s.setRoute i j r
  else s.setRoute i j { r with mode := mode, relay := relay, busy := true }

/-- Key of an end's detection of a loss: the die's end is odd. -/
def lossKey (die port : Nat) (dieEnd : Bool) : Nat := 64 * die + 2 * port + (if dieEnd then 1 else 0)

end State

/-- A colour fails: the pair falls back to whatever works, R309. -/
def execColourFail (i j : Nat) (planeB : Bool) (s : State) : Host.Outcome State Fault Refusal := .next (s.colourChange i j planeB false)
/-- A failed colour works again, R309. -/
def execColourRecover (i j : Nat) (planeB : Bool) (s : State) : Host.Outcome State Fault Refusal := .next (s.colourChange i j planeB true)

/-- A drained pair switches to its new route, R311; falling back from the named route sets EVT, R309. A pair that becomes or ceases to be
relayed changes the relays over it (R310). -/
def execRouteDrainComplete (i j : Nat) (s : State) : Host.Outcome State Fault Refusal :=
  let r := s.route i j
  if !r.busy then .next s
  else
    let s := s.setRoute i j { r with busy := false, eff := s.effOf i j r }
    let e := (s.route i j).eff
    let s := if (e == 3) == (r.eff == 3) then s else State.legsChanged 676 s i j
    .next (if e == r.mode then s.dropSeen else s.dropSeen.raiseEvt i j)

/-- A flit that fails its CRC is replayed: programs never see it, and the hop's log records it, R307, R459; the flit counter and the
syndrome are free values (log 9). -/
def execFlitCrcReplay (i j : Nat) (s : State) : Host.Outcome State Fault Refusal :=
  let k := State.routeKey i j
  let e : LogEntry := ⟨Config.freeWord s.freeCtr 0, BitVec.ofNat 16 s.free, 0xFFFF, 3⟩
  .next ((s.bump.logError 11 k e true).fireInj 3 11 k none)

/-- An end detects that a compute die and a memory chiplet, the collective die or the host I/O die have no route, R312, R490. -/
def execRouteLossDetect (die port : Nat) (dieEnd : Bool) (s : State) : Host.Outcome State Fault Refusal :=
  if decide (die < 8) && decide (8 ≤ port) && decide (port < 26) && s.cutOff die port then
    .next { s with lossSeen := mset false s.lossSeen (State.lossKey die port dieEnd) true }
  else .next s

/-- Detections stand only while the loss lasts, R312. -/
def State.stillCut (s : State) (die : Nat) (dieEnd : Bool) : Bool :=
  (List.range 18).any fun c => mget false s.lossSeen (State.lossKey die (8 + c) dieEnd) && s.cutOff die (8 + c)

/-- The die fences itself 16 us after its detection, R312: its groups end with DIE_LOST and its L2 is dropped without
write-back, and its engines stop with their cores. Their check records stay open until the homes act. -/
def execDieFence (die : Nat) (s : State) : Host.Outcome State Fault Refusal :=
  if (s.die die).fenced || !s.stillCut die true then .next s
  else
    let d := s.die die
    let s := s.setDie die { d with fenced := true, l2 := [], lists := [], walks := [] }
    let s := { s with cores := s.cores.map fun (p : Nat × CoreSt) =>
      (p.1, if coreDie p.1 == die then { p.2 with l1 := [], upd := [] } else p.2) }
    let here := (s.groups.filter fun p => p.2.live && gidDie p.1 == die).map (·.1)
    let open_ := s.checks
    let s := here.foldl (fun s gid => s.endAsync gid (trapOf 60 0 (BitVec.ofNat 64 ((s.grp gid).vcluster / 2)))) s
    .next { s with checks := open_, teams := s.teams.map fun (p : Nat × Team) =>
      (p.1, if !p.2.saved && coreDie p.2.core == die then p.2.dropQueues else p.2) }

/-- Every home drops a lost die, R312: its sharer bits go, the sectors it owned are poisoned, its check records close and are
counted in CHKLOST. -/
def State.loseDie (s : State) (die : Nat) : State :=
  let s := s.setDie die { s.die die with lost := true }
  let s := (mkeys s.dir).foldl (fun s k =>
    let e := s.dirEnt k
    if !bit e.shr die then s
    else if e.st == .o then { s.setDir k {} with psn := mset false s.psn k true }
    else s.setDir k (e.keep (setBit e.shr die false))) s
  let gone := s.checks.flatMap fun p => p.2.filter fun r => r.pdie == die
  let s := gone.foldl (fun s r => s.setCtx r.ctx { s.ctx r.ctx with chklost := (s.ctx r.ctx).chklost + 1 }) s
  let keep := fun (p : Nat × List CheckRec) => (p.1, p.2.filter fun r => r.pdie != die)
  { s with checks := (s.checks.map keep).filter fun p => !p.2.isEmpty }

/-- A home declares a die lost 20 us after its own detection, R312. -/
def execDieLostDeclare (die : Nat) (s : State) : Host.Outcome State Fault Refusal :=
  if (s.die die).fenced && !(s.die die).lost && s.stillCut die false then .next (s.loseDie die) else .next s

end Sys2Proof.Machine
end

