-- ==== Sys2Proof/Machine/Remote.lean ====
section
/-! DEFINITION. Remote access (R315-R320) at the source, and the ingress of remote accesses at the target (R318, R319, R503). -/

namespace Sys2Proof.Machine

/-- TRAPX in the remote layout, R440. -/
def remoteX (done : BitVec 32) (peer lane : Nat) : Word := BitVec.ofNat 64 (done.toNat + 2 ^ 32 * (peer % 256) + 2 ^ 40 * lane)

/-- What the three remote instructions share: guard, peer and address registers, displacement, scope, order and size. -/
structure RemoteForm where
  g : Guard
  base : BitVec 6
  off : BitVec 8
  disp : Int
  sc : Scope
  ord : Order
  sz : Size
  regs : List (Nat × Nat)
  reads : BitVec 32 → List Rd
  trap : Option TrapInfo

def remoteForm : Instr → Option RemoteForm
  | .rld f => some ⟨f.g, f.base, f.off, f.disp.toInt, f.sc, f.ord, f.sz, [(f.t.toNat, sizeRegs f.sz)], fun _ => [], none⟩
  | .rst f => some ⟨f.g, f.base, f.off, f.disp.toInt, f.sc, f.ord, f.sz, [(f.t.toNat, sizeRegs f.sz)], fun _ => [], none⟩
  | .ratom f =>
    let n := if f.sz == .b64 then 2 else 1
    some ⟨f.g, f.base, f.off, 0, f.sc, f.ord, f.sz,
      [(f.opnd.toNat, n)] ++ (if f.aop == .cas then [(f.cmp.toNat, n)] else []) ++ (if f.t == 0xFF then [] else [(f.t.toNat, n)]),
      fun act => [Rd.v f.opnd.toNat n act] ++ (if f.aop == .cas then [Rd.v f.cmp.toNat n act] else []),
      atomTrap f.aop f.sz f.sc.code []⟩
  | _ => none

/-- The lanes of a remote instruction with their peers and addresses, R315. -/
def State.remoteLanes (s : State) (f : RemoteForm) (m : BitVec 32) : List (Nat × Nat × Word) :=
  (maskList m).map fun l =>
    (l, (s.cg.vlane f.base.toNat l).toNat, s.cg.vlane64 f.off.toNat l + BitVec.ofInt 64 f.disp)

/-- A peer entry: V and DOWN of PEERn, R447. -/
def State.peerValid (s : State) (p : Nat) : Bool := decide (p ≤ 255) && bit (mget 0 s.cctx.peers p) 31
def State.peerDown (s : State) (p : Nat) : Bool := bit (mget 0 s.cctx.peers p) 30

/-- The probe of R316. -/
def State.remoteProbe (s : State) (f : RemoteForm) (k : XKind) (ls : List (Nat × Nat × Word)) : Option TrapInfo :=
  match alignTrap k f.sz.bytes (ls.map fun l => (l.1, l.2.2)) with
  | some t => some t
  | none =>
    match ls.find? fun l => !s.peerValid l.2.1 with
    | some l => some (trapOf 23 0 (remoteX s.ca.done l.2.1 l.1))
    | none =>
      (ls.find? fun l => decide (2 ^ 58 ≤ l.2.2.toNat)).map fun l => trapOf 21 l.2.2 (remoteX s.ca.done l.2.1 l.1)

/-- The lanes of the next replay, R317: those of the lowest peer among the lanes not yet done. -/
def nextReplay (done : BitVec 32) (ls : List (Nat × Nat × Word)) : Option (Nat × List (Nat × Word)) :=
  let left := ls.filter fun l => !bit done l.1
  match left with
  | [] => none
  | l :: rest =>
    let p := rest.foldl (fun m x => min m x.2.1) l.2.1
    some (p, (left.filter fun x => x.2.1 == p).map fun x => (x.1, x.2.2))

/-- What one lane of a replay sends, R315, R317. -/
def State.remoteLane (s : State) (i : Instr) (x : Nat × Word) : RemoteLane :=
  match i with
  | .rst f =>
    let d := s.dataOf f.t.toNat (sizeRegs f.sz) f.sz.bytes x.1
    ⟨x.1, x.2, d.1, d.2, 0⟩
  | .ratom f =>
    let get := fun (r : BitVec 8) => if f.sz == .b64 then s.cg.vlane64 r.toNat x.1 else (s.cg.vlane r.toNat x.1).setWidth 64
    ⟨x.1, x.2, bytesOfNat f.sz.bytes (get f.opnd).toNat, false, if f.aop == .cas then get f.cmp else 0⟩
  | _ => ⟨x.1, x.2, [], false, 0⟩

namespace State

/-- The planes of a scale-up port, R486. -/
def planeKey (port : Nat) (bulk : Bool) : Nat := 2 * port + if bulk then 1 else 0
def plane (s : State) (port : Nat) (bulk : Bool) : Plane := mget {} s.planes (planeKey port bulk)
def setPlane (s : State) (port : Nat) (bulk : Bool) (p : Plane) : State := { s with planes := mset {} s.planes (planeKey port bulk) p }

/-- A port works while both its planes are up. -/
def portUp (s : State) (port : Nat) : Bool := !(s.plane port false).down && !(s.plane port true).down

/-- The ports of a device's set that work, R489. -/
def portsOf (s : State) (dev : Nat) : List Nat := (mget [] s.portSets dev).filter s.portUp

/-- Traffic to a device waits, R488, R489: of its set of ports none works, or each that works has a used-up counter on the plane. -/
def heldTo (s : State) (dev : Nat) (bulk : Bool) : Bool :=
  !(mget [] s.portSets dev).isEmpty && (s.portsOf dev).all fun p => (s.plane p bulk).exhausted

/-- Flits travel to another device on a plane, R321, R393: over a port of its set, chosen freely (R486), whose flit counter advances
(R487), and vector 0 tells of one that has come to its last usable value (R488); an injected flit failure of the port's link takes place
there, and is replayed (R461). -/
def carry (s : State) (dev : Nat) (bulk : Bool) : State :=
  let ports := (s.portsOf dev).filter fun p => !(s.plane p bulk).exhausted
  match ports with
  | [] => s
  | _ =>
    let port := ports.getD (s.free % ports.length) 0
    let p := s.plane port bulk
    let t := s.setPlane port bulk (p.send (Config.flits s.freeCtr))
    let t := if (t.plane port bulk).exhausted then t.sendMsix 0 else t
    let l : LogEntry := ⟨Config.freeWord s.freeCtr 0, BitVec.ofNat 16 s.free, 0xFFFF, 3⟩
    (if t.injArmed 3 12 port none then (t.logError 12 port l true).fireInj 3 12 port none else t).bump

/-- The device transmits to another on the narrow plane, and its data on the bulk plane. -/
def transmit (s : State) (dev : Nat) (bulk : Bool) (e : DevEvent) : State :=
  let s := { s with events := s.events ++ [e] }.carry dev false
  if bulk then s.carry dev true else s

end State

/-- The data of x4 and x8 stores travels on the bulk plane, R321. -/
def bulkData (i : Instr) : Bool := match i with | .rst f => f.sz == .x4 || f.sz == .x8 | _ => false

/-- A replay leaves the device for the one that the peer entry names, R317, R447. -/
def State.sendReplay (s : State) (i : Instr) (p : Nat) (lanes : List (Nat × Word)) : State :=
  let dev := (mget 0 s.cctx.peers p).toNat % 256
  s.transmit dev (bulkData i) (.remoteReplay dev i (lanes.map (s.remoteLane i)))

/-- A replay to the peer waits for its plane, R488. -/
def State.replayHeld (s : State) (i : Instr) (p : Nat) : Bool :=
  let dev := (mget 0 s.cctx.peers p).toNat % 256
  s.heldTo dev false || (bulkData i && s.heldTo dev true)

/-- rld, rst and ratom up to the sending of a replay, R316, R317: the lanes not done yet are checked, and the arm parks for the answers of
those of the lowest peer. -/
def State.remoteEff (s : State) (i : Instr) (k : XKind) : Eff :=
  match remoteForm i with
  | none => .retire s
  | some f =>
    let regs := [(f.base.toNat, 1), (f.off.toNat, 2)] ++ f.regs
    let left := fun act => s.teamOnly act &&& ~~~s.ca.done
    let reads := fun act => [Rd.v f.base.toNat 1 (left act), Rd.v f.off.toNat 2 (left act)] ++ f.reads (left act)
    s.guarded f.g false regs reads fun act =>
      let ls := s.remoteLanes f (left act)
      match s.remoteProbe f k ls with
      | some t => .trap t
      | none =>
        match f.trap with
        | some t => .trap t
        | none =>
          match nextReplay s.ca.done ls with
          | none => .retire (s.modA fun a => { a with done := 0 })
          | some (p, lanes) =>
            let lo := (lanes.head?).getD (0, 0)
            if s.peerDown p then .trap (trapOf 61 lo.2 (remoteX s.ca.done p lo.1))
            else if f.ord.isRel && s.relWaits f.sc.code then .stay (s.relStay f.sc.code)
            else if s.replayHeld i p then .stay (s.park (.remote lanes false))
            else
              let s := if f.ord.isRel then s.releaseAct f.sc.code else s
              .stay (((s.sendReplay i p lanes).modA fun a => { a with answers := [] }).park (.remote lanes true))

/-- rld, R317. -/
def execRld (f : MF) (s : State) : Host.Outcome State Fault Refusal := s.conclude (s.remoteEff (.rld f) .read)
/-- rst, R317. -/
def execRst (f : MF) (s : State) : Host.Outcome State Fault Refusal := s.conclude (s.remoteEff (.rst f) .write)
/-- ratom, R317. -/
def execRatom (f : AF) (s : State) : Host.Outcome State Fault Refusal := s.conclude (s.remoteEff (.ratom f) .rmw)

/-- The register writes of a replay's answer. -/
def answerWrites (i : Instr) (rs : List (Nat × List Byte × Bool)) : List RegW :=
  match i with
  | .rld f => loadWrites f.t.toNat (sizeRegs f.sz) rs
  | .ratom f => if f.t == 0xFF then [] else loadWrites f.t.toNat (if f.sz == .b64 then 2 else 1) rs
  | _ => []

/-- A replay whose every lane is answered with a value, R317. -/
def answersLanes : Instr → Bool
  | .rld _ => true
  | .ratom f => f.t != 0xFF
  | _ => false

/-- The peer of a replay's lanes, for TRAPX. -/
def State.replayPeer (s : State) (i : Instr) (l : Nat) : Nat :=
  match remoteForm i with
  | some f => (s.cg.vlane f.base.toNat l).toNat
  | none => 0

/-- Answers to a replay arrive, R317, R319: a refused lane traps; once every lane has been answered the values commit, the lanes join the
done mask, acquires act, and the arm goes on with its next replay or retires. -/
def execRemoteAnswer (gid slot : Nat) (r : RemoteAns) (s : State) : Host.Outcome State Fault Refusal :=
  let s0 := { s with cur := (gid, slot) }
  match s0.ca.park, s0.ca.head with
  | some (.remote lanes true), some i =>
    match r.refusedLane with
    | some l =>
      let va := ((lanes.find? fun x => x.1 == l).map (·.2)).getD 0
      .next ((s0.modA fun a => { a with park := none }).takeTrap
        (trapOf (if r.perm then 20 else 21) va (remoteX s0.ca.done (s0.replayPeer i l) l)))
    | none =>
      let mask := lanes.foldl (fun m x => setBit m x.1 true) (0 : BitVec 32)
      let got := s0.ca.answers ++ r.vals.filter fun v => bit mask v.1
      if answersLanes i && lanes.any fun x => !got.any fun v => v.1 == x.1 then .next (s0.modA fun a => { a with answers := got })
      else
      let s1 := s0.commitNow (answerWrites i got)
      let s1 := s1.modA fun a => { a with park := none, answers := [], done := a.done ||| mask }
      match remoteForm i with
      | some f =>
        let s2 := if f.ord.isAcq then s1.acquireAct f.sc.code else s1
        (match nextReplay s2.ca.done (s2.remoteLanes f (s2.teamOnly (s2.active f.g))) with
         | some _ => .next s2
         | none => .next (s2.modA fun a => { a with done := 0 }).retire)
      | none => .next s1
  | _, _ => .next s

/-- A waiting replay traps REMOTE_TIMEOUT, R320. -/
def State.timeoutReplay (s : State) (gid slot : Nat) : State :=
  let s0 := { s with cur := (gid, slot) }
  match s0.ca.park, s0.ca.head with
  | some (.remote lanes _), some i =>
    let lo := (lanes.head?).getD (0, 0)
    (s0.modA fun a => { a with park := none }).takeTrap (trapOf 22 lo.2 (remoteX s0.ca.done (s0.replayPeer i lo.1) lo.1))
  | _, _ => s

/-- A replay gets no answer within the context's timeout, or its plane went down, R320. -/
def execRemoteTimeout (gid slot : Nat) (s : State) : Host.Outcome State Fault Refusal := .next (s.timeoutReplay gid slot)

/-- The context bound to a source device, R503: EXPBd names the ASID of a context that the device holds. -/
def State.binding (s : State) (sdev : Nat) : Option Nat :=
  let a := mget 0xFFFF s.dev.expb sdev
  if a == 0xFFFF then none else (s.ctxs.find? fun p => p.2.live && p.2.asid == a).map (·.1)

/-- Write bytes at their home as an agent outside every die, R298, R300. -/
def State.devWrite (s : State) (pa : Nat) (bs : List Byte) (pois : Bool) : State :=
  (List.range ((pa % 64 + bs.length + 63) / 64)).foldl (fun s k =>
    let sect := pa / 64 + k
    let lo := if k == 0 then pa % 64 else 0
    let skip := if k == 0 then 0 else 64 * k - pa % 64
    let part := (bs.drop skip).take (64 - lo)
    ((s.noteStore sect).homeTake sect true).homeWrite sect (byteMask lo part.length) (place lo part) pois) s

/-- Read bytes at their home as an agent outside every die, R298. -/
def State.devRead (s : State) (pa n : Nat) : State × List Byte × Bool :=
  let sects := (List.range ((pa % 64 + n + 63) / 64)).map fun k => pa / 64 + k
  let s := (sects.foldl (fun s k => s.homeTake k false) s).homeInject pa n 0xFFFF
  (s, mgetList 0 s.mem pa n, sects.any s.homePsn)

/-- An entry of the ingress fault log, R319: written at FLOGBASE; beyond 256 entries the oldest is overwritten and counted. -/
def State.flogAdd (s : State) (r : RemoteReq) (asid cause : Nat) : State :=
  let i := s.dev.flogIdx
  let kind := match r.kind with | .read => 0 | .write => 1 | .rmw => 2
  let bs := bytesOfNat 8 r.va.toNat ++ bytesOfNat 2 asid ++ bytesOfNat 1 r.sdev ++ bytesOfNat 1 (r.scluster % 16) ++
    bytesOfNat 1 (r.score % 128) ++ bytesOfNat 1 (r.sslot % 32) ++ bytesOfNat 1 kind ++ bytesOfNat 1 cause ++ List.replicate 16 0
  let s := s.devWrite (s.dev.flogbase + 32 * i) bs false
  let d := s.dev
  ({ s with dev := { d with flogIdx := (i + 1) % 256, flogCount := min 256 (d.flogCount + 1),
                            flogOver := if d.flogCount == 256 then min 65535 (d.flogOver + 1) else d.flogOver },
            events := s.events ++ [DevEvent.ingressFault i] }).sendMsix 0

/-- The ingress MMU translates in a context's tables through its own TLB, R318. -/
def State.ingressXlate (s : State) (ctx : Nat) (va : Word) : State × Option TlbEntry :=
  let page := pageOf va.toNat
  if 2 ^ 58 ≤ va.toNat then (s, none)
  else match s.ingressTlb.find? fun e => e.hits ctx (s.ctx ctx).part page with
    | some e => (s, some e)
    | none => match s.walkPage ctx page with
      | .leaf e =>
        let (s, e) := if bit e.pte 6 then (s, e) else (s.orPte e 64, { e with pte := e.pte ||| 64 })
        ({ s with ingressTlb := tlbAdd 4096 s.ingressTlb e, leafs := if s.leafs.contains e then s.leafs else s.leafs ++ [e] }, some e)
      | _ => (s, none)

def State.answer (s : State) (sdev : Nat) (refused : Option Nat) (data : List Byte) (pois : Bool) : State :=
  s.transmit sdev (decide (8 < data.length)) (.remoteAnswer sdev refused data pois)

/-- An xinv of the address space is being performed, so the first touches of engines and the ingress MMU wait too, R450 (log 22). -/
def State.xinvHolds (s : State) (ctx : Nat) : Bool := s.xinvNow.any fun x => (s.ctx x.ctx).asid == (s.ctx ctx).asid

/-- An agent outside every die waits for the homes of a range of bytes, R298, R312. -/
def State.rangeBusy (s : State) (pa n : Nat) (write : Bool) : Bool :=
  s.mayWait && (State.devNeeds pa n write).any fun r => s.homeBusy 25 r.1 r.2

/-- A remote access waits, R298, R312, R480: for the home of its bytes, or for the partition's allowance there; for that of the page-table
entry in which it sets D. -/
def State.ingressWaits (s : State) (c : Nat) (r : RemoteReq) (e : TlbEntry) : Bool :=
  let pa := e.pa r.va.toNat
  s.mayWait && decide (pa < Config.deviceMemTop) && s.waitsAny 25 (s.ctx c).part
    (State.devNeeds pa r.len (r.kind != .read) ++ if r.kind != .read && !e.d then [(e.pteAddr / 64, true)] else [])

/-- A remote access is translated and performed at the target's home, or refused and logged, R318, R319. It waits while an xinv of the
context's address space does (R450), while a home that it needs holds it up, and while its answer could not be sent (R488). The spec says
nothing of the host window at the target of an operation other than add, exch and cas: it is performed there (DESIGN CHOICE, log 51). -/
def execRemoteIngress (r : RemoteReq) (s : State) : Host.Outcome State Fault Refusal :=
  if s.heldTo r.sdev false || s.rangeBusy (s.dev.flogbase + 32 * s.dev.flogIdx) 32 true then .next s else
  match s.binding r.sdev with
  | none => .next ((s.flogAdd r 0xFFFF 20).answer r.sdev (some 20) [] false)
  | some c =>
    let asid := (s.ctx c).asid
    let held := s
    if s.xinvHolds c || s.heldTo r.sdev (decide (8 < r.len)) then .next s else
    match s.ingressXlate c r.va with
    | (s, none) => .next ((s.flogAdd r asid 21).answer r.sdev (some 21) [] false)
    | (s, some e) =>
      let need := match r.kind with | .read => e.rd | .write => e.w | .rmw => e.rd && e.w
      if !(e.exp && e.u && need) then .next ((s.flogAdd r asid 20).answer r.sdev (some 20) [] false)
      else
        let pa := e.pa r.va.toNat
        if s.ingressWaits c r e then .next held else
        let s := if pa < Config.deviceMemTop then s.chargeHomes 25 (s.ctx c).part (State.devNeeds pa r.len (r.kind != .read)) else s
        let s := if r.kind != .read && !e.d then s.orPte e 128 else s
        let t : Tr := ⟨pa, e.coh, e.chk, e.smode, e.sliceNo⟩
        if t.hole then .next ((s.holeLog pa).answer r.sdev none (s.freeBytes r.len) true).bump
        else if t.host then
          let old := mgetList 0 s.hostMem pa r.len
          match r.kind with
          | .read => .next (s.answer r.sdev none old false)
          | .write => .next ({ s with hostMem := msetList 0 s.hostMem pa r.data }.answer r.sdev none [] false)
          | .rmw =>
            let new := aopNew r.aop (r.len == 8) (natOfBytes old) (natOfBytes r.data) r.cmp.toNat
            .next ({ s with hostMem := msetList 0 s.hostMem pa (bytesOfNat r.len new) }.answer r.sdev none old false)
        else
          match r.kind with
          | .read =>
            let (s, bs, p) := s.devRead pa r.len
            .next (s.answer r.sdev none bs p)
          | .write => .next ((s.devWrite pa r.data r.pois).answer r.sdev none [] false)
          | .rmw =>
            let (s, old, p) := ((s.noteStore (pa / 64)).homeInject pa r.len 0xFFFF).homeRmw pa r.len fun o => aopNew r.aop (r.len == 8) o (natOfBytes r.data) r.cmp.toNat
            .next (s.answer r.sdev none (bytesOfNat r.len old) p)

end Sys2Proof.Machine
end

