-- ==== Sys2Proof/Machine/Control.lean ====
section
/-! DEFINITION. Control instructions of row 0x5 (R173-R191): branches, calls, jumps, brp, bwait, vote, exit, yield, nop, loop. -/

namespace Sys2Proof.Machine

/-- A branch displacement in 8-byte words from the clause's header, R185. -/
def State.target (s : State) (disp : Int) : Word := s.hdr + BitVec.ofInt 64 (8 * disp)

/-- The condition of bra, call and ret, R185. -/
def State.condition (s : State) (f : BF) : Bool :=
  match f.ck with
  | .always => true
  | .nonzero => s.sreg f.cs.toNat != 0
  | .zero => s.sreg f.cs.toNat == 0

def condReads (f : BF) : List Rd := if f.ck == .always then [] else [.s f.cs.toNat]

/-- bra, R185. -/
def State.braEff (s : State) (f : BF) : Eff :=
  s.guarded f.g true [] (fun _ => condReads f) fun _ =>
    if s.condition f then .stay (s.jump (s.target f.disp.toInt)) else .retire s
def execBra (f : BF) (s : State) : Host.Outcome State Fault Refusal := s.conclude (s.braEff f)

/-- call, R185: the link goes to s63. -/
def State.callEff (s : State) (f : BF) : Eff :=
  s.guarded f.g true [] (fun _ => condReads f) fun _ =>
    if s.condition f then
      .stay ((s.setS 63 (s.hdr + BitVec.ofNat 64 (8 * (s.nwords + 1)))).jump (s.target f.disp.toInt))
    else .retire s
def execCall (f : BF) (s : State) : Host.Outcome State Fault Refusal := s.conclude (s.callEff f)

/-- ret, R185. -/
def State.retEff (s : State) (f : BF) : Eff :=
  s.guarded f.g true [] (fun _ => condReads f ++ if s.condition f then [.s 63] else []) fun _ =>
    if s.condition f then .stay (s.jump (s.sreg 63)) else .retire s
def execRet (f : BF) (s : State) : Host.Outcome State Fault Refusal := s.conclude (s.retEff f)

/-- loop, R185. -/
def State.loopEff (s : State) (f : BF) : Eff :=
  s.guarded f.g true [] (fun _ => [.s f.cs.toNat]) fun _ =>
    match s.divergedScalar f.cs.toNat with
    | some t => .trap t
    | none =>
      let c := s.sreg f.cs.toNat - 1
      let s' := s.setS f.cs.toNat c
      if c != 0 then .stay (s'.jump (s.target f.disp.toInt)) else .retire s'
def execLoop (f : BF) (s : State) : Host.Outcome State Fault Refusal := s.conclude (s.loopEff f)

/-- jmp, R186. -/
def State.jmpEff (s : State) (f : SF) : Eff :=
  s.guarded f.g true [] (fun _ => .s f.a.toNat :: if f.immf then [] else [.s f.b.toNat]) fun _ =>
    let o := if f.immf then BitVec.ofInt 64 f.imm.toInt else s.sreg f.b.toNat
    .stay (s.jump (s.sreg f.a.toNat + o))
def execJmp (f : SF) (s : State) : Host.Outcome State Fault Refusal := s.conclude (s.jmpEff f)

/-- The frame that a diverging brp pushes, R174, R177. -/
def State.newFrame (s : State) (raddr : Word) (tr : Tr) (spmask : BitVec 32) (sppc : Word) : Frame :=
  let a := s.ca
  { raddr := raddr, expect := a.mask, arrived := 0, sfmt := a.fmt, spmask := spmask, sppc := sppc,
    spxfer := if spmask == 0 then 0 else s.ipc, parent := a.top, dissolved := false, sscl := a.scal, sspois := a.spois,
    sphandler := a.handler, seq := s.cg.nextSeq, waiting := [], tr := tr }

/-- The arm diverges, R174, R175: the fall-through side stays, the taken side takes the empty slot or is spilled. Both sides keep the
arm's level; of two sides at handler level one runs at a time, R436 (DESIGN CHOICE, log 47). -/
def State.diverge (s : State) (pos : Nat) (tr : Tr) (raddr tgt : Word) (taken : BitVec 32) : State :=
  let g := s.cg
  let a := s.ca
  let other := 1 - s.slot
  let spill := (g.arm other).live
  let f := s.newFrame raddr tr (if spill then taken else 0) (if spill then tgt else 0)
  let g := g.setFrame pos (some f)
  let g := g.setArm s.slot { a with mask := a.mask &&& ~~~taken, top := some pos }
  let b := { g.arm other with live := true, pc := tgt, mask := taken, fmt := a.fmt, scal := a.scal, spois := a.spois,
                              clause := none, xfer := s.ipc, top := some pos, loads := [], stores := 0, park := none,
                              handler := a.handler, pend := false, step := false, yielded := false, bw := true, done := 0,
                              walkFaults := [], chk := none, asks := none, ue := none }
  (s.clearHits (tr.pa / 64) 6).setFrames s.gid (if spill then g else g.setArm other b)

/-- brp, R173-R178, R187. -/
def State.brpEff (s : State) (f : PF) : Eff :=
  match s.rdTrap (.p f.g.ps.toNat s.armMask) with
  | some t => .trap t
  | none =>
    let taken := s.active f.g
    let tgt := s.target f.tdisp.toInt
    if taken == s.armMask then .stay (s.jump tgt)
    else if taken == 0 then .retire s
    else if !s.ca.loads.isEmpty then .stay (s.park .brpLoads)
    else match s.cg.freePos with
      | none => .trap (trapOf 9 0 10)
      | some pos =>
        let va := s.cg.spill + BitVec.ofNat 64 (384 * pos)
        match s.xlate s.ccore s.cg.ctx s.ca.walkFaults va with
        | .miss page => .stay (s.parkWalk [page])
        | .fault _ level => .trap (trapOf 10 va (accessX 0 .write level))
        | .ok t e =>
          if !e.rd || !e.w then .trap (trapOf 10 va (accessX 0 .write 7))
          else .retire ((s.useEntry s.ccore .write e).diverge pos t (s.target f.rdisp.toInt) tgt taken)
def execBrp (f : PF) (s : State) : Host.Outcome State Fault Refusal := s.conclude (s.brpEff f)

/-- bwait, R182-R184, R188: 0 after a dissolve when it stands first in its clause, else 1. -/
def State.bwaitEff (s : State) (f : SF) : Eff :=
  s.guarded f.g true [] (fun _ => if f.immf then [] else [.s f.b.toNat]) fun _ =>
    let first := match s.ca.clause with | some c => c.idx == 0 | none => false
    .retire ((s.setS f.d.toNat (if first && !s.ca.bw then 0 else 1)).modA fun a => { a with bw := true })
def execBwait (f : SF) (s : State) : Host.Outcome State Fault Refusal := s.conclude (s.bwaitEff f)

/-- vote, R189: `con` the contributors, `v` those whose predicate is 1. -/
def voteValue (mode : Nat) (con v : BitVec 32) : BitVec 32 :=
  let b := fun (x : Bool) => if x then BitVec.allOnes 32 else 0
  match mode with
  | 0 => b (v != 0)
  | 1 => b (con &&& ~~~v == 0)
  | 2 => b (v == 0 || con &&& ~~~v == 0)
  | 3 => v
  | _ => con &&& ~~~v

def State.voteEff (s : State) (f : VF) : Eff :=
  let p := match f.a with | .v r => r.toNat % 8 | _ => 0
  let mode := f.sub.toNat
  let isMask := decide (3 ≤ mode)
  s.guarded f.g false (if isMask then [(f.d.toNat, 1)] else []) (fun act => [.p p act]) fun act =>
    let con := s.teamOnly act
    let r := voteValue mode con (con &&& s.cg.pred p)
    .retire (s.modG fun g =>
      if isMask then (g.setV f.d.toNat act fun _ => r).markV f.d.toNat act 0
      else (g.setPred f.d.toNat act r).markPred f.d.toNat act 0)
def execVote (f : VF) (s : State) : Host.Outcome State Fault Refusal := s.conclude (s.voteEff f)

/-- exit, R179, R190, R191: the active lanes leave the arm; an arm without lanes ends, a group without arms ends. A merge that this
brings is a synchronising operation, R180, R305. -/
def State.exitEff (s : State) (f : BF) : Eff :=
  s.guarded f.g false [] (fun _ => []) fun act =>
    if act == 0 then .retire s
    else
      let s := s.spoilFrames s.gid
      let psn := s.framePsn s.gid
      let s' := s.setFrames s.gid (s.cg.exitLanes psn s.slot act)
      let s' := if s.cg.exitMerges psn s.slot act then s'.closeChecks s.gid else s'
      if s.armMask &&& ~~~act != 0 then .retire s'
      else if s'.cg.empty then .stay (s.endGroup s.gid none)
      else .stay (s'.setG s'.cg.settlePlace)
def execExitG (f : BF) (s : State) : Host.Outcome State Fault Refusal := s.conclude (s.exitEff f)

/-- yield, R190, R195. -/
def State.yieldEff (s : State) (f : BF) : Eff :=
  s.guarded f.g true [] (fun _ => []) fun _ => .retire (s.modA fun a => { a with yielded := true })
def execYield (f : BF) (s : State) : Host.Outcome State Fault Refusal := s.conclude (s.yieldEff f)

/-- nop, R190. -/
def State.nopEff (s : State) (f : BF) : Eff := s.guarded f.g true [] (fun _ => []) fun _ => .retire s
def execNop (f : BF) (s : State) : Host.Outcome State Fault Refusal := s.conclude (s.nopEff f)

end Sys2Proof.Machine
end

