-- ==== Sys2Proof/Machine/Entry.lean ====
section
/-! DEFINITION. Entering a clause (R55-R60, R87 step 1, R170): the fetch, the clause checks, arrivals at frames (R180-R184) and
the header's waits (R57). -/

namespace Sys2Proof.Machine

/-- The fields of a clause header, R56. -/
structure Header where
  n : Nat
  cls : Nat
  ldw : Nat
  stw : Nat
  cpw : Nat
  tlw : Nat
  yh : Bool
  deriving DecidableEq, Repr

def isHeader (w : Word) : Bool := w.toNat / 2 ^ 58 == 63

def headerOf (w : Word) : Header :=
  { n := natBits w.toNat 54 4 + 1, cls := natBits w.toNat 48 6, ldw := natBits w.toNat 42 6, stw := natBits w.toNat 36 6,
    cpw := natBits w.toNat 30 6, tlw := natBits w.toNat 24 6, yh := bit w 23 }

/-- The class bit of an opcode row, R23, R56; rows 0xE and 0xF belong to no class. -/
def classBit (opc : Nat) : Option Nat :=
  let r := opc / 16
  if r ≤ 4 then some 0 else if r ≤ 6 then some 4 else if r ≤ 9 then some 1 else if r ≤ 11 then some 2
  else if r == 12 then some 3 else if r == 13 then some 5 else none

/-- Transfers of control, which stand last in their clause, R87 step 1d. -/
def isTransfer (opc : Nat) : Bool := [0x50, 0x51, 0x52, 0x53, 0x54, 0x57, 0x5A, 0x65, 0x66, 0xD1].contains opc

/-- The first word whose class the mask does not cover, step 1c. -/
def uncovered (cls : Nat) (ws : List Word) : Option Nat :=
  ws.findIdx? fun w => match classBit (opcOf w) with | some b => natBits cls b 1 == 0 | none => false

/-- The first transfer that stands before the last word, step 1d. -/
def earlyTransfer (ws : List Word) : Option Nat := ws.dropLast.findIdx? fun w => isTransfer (opcOf w)

/-- One fetched word. -/
inductive Fetched where
  | word (s : State) (w : Word)
  | walk (page : Nat)
  | trap (t : TrapInfo)
  /-- the hole of the address space: its access is logged, R294 -/
  | hole (s : State) (t : TrapInfo)
  /-- a home that must serve the word cannot do so now, R312, R480 -/
  | wait

/-- A word is to enter a core's instruction cache: a full one drops some other word (R15; which one is a free value, log 23). -/
def State.icacheRoom (s : State) (c a : Nat) : State :=
  let x := s.core c
  if (mget none x.icache a).isSome || decide (x.icache.length < Config.icacheWords) then s
  else
    let v := (mkeys x.icache).getD (s.free % x.icache.length) 0
    (s.setCore c { x with icache := mset none x.icache v none, icPois := mset false x.icPois v false }).bump

/-- What the fetch of a word that the instruction cache does not hold asks of its home. -/
def State.fetchNeeds (s : State) (t : Tr) : List (Nat × Bool) :=
  if (mget none (s.core s.ccore).icache t.pa).isSome then []
  else if t.uncached then [(t.pa / 64, false)]
  else match s.l2sect s.cdie (t.pa / 64) with
    | some (true, x) => if x.cst == .i then [(t.pa / 64, false)] else []
    | some (false, x) => let m := byteMask (t.pa % 64) 8; if m &&& x.val == m then [] else [(t.pa / 64, false)]
    | none => [(t.pa / 64, false)]

/-- A fetch meets an injection where its word stands: in the instruction cache, the die's L2 or the home, R461. -/
def State.fetchInject (s : State) (t : Tr) : State :=
  if s.dev.injctl.isEmpty then s
  else if (mget none (s.core s.ccore).icache t.pa).isSome then
    s.injectAt 5 s.ccore t.pa 8 s.cg.ctx fun _ s =>
      s.setCore s.ccore { s.core s.ccore with icPois := mset false (s.core s.ccore).icPois t.pa true }
  else s.dieInject s.cdie s.cg.ctx t.pa 8 t.uncached

/-- Fetch one word with execute permission, R59; a word that the instruction cache holds and memory no longer does is either
one, R60 (log 23). -/
def State.fetchWord (s : State) (va : Word) : Fetched :=
  match s.xlate s.ccore s.cg.ctx s.ca.walkFaults va with
  | .miss page => .walk page
  | .fault cause level => .trap (trapOf cause va (if cause == 51 then 0 else accessX 0 .exec level))
  | .ok t e =>
    match permit e (!s.ca.handler) .exec with
    | some c => .trap (trapOf c va (accessX 0 .exec 7))
    | none =>
      if t.host then .word (s.useEntry s.ccore .exec e) (BitVec.ofNat 64 (natOfBytes (mgetList 0 s.hostMem t.pa 8)))
      else if t.hole then .hole (s.holeLog t.pa) (trapOf 51 va 0)
      else if s.waitsAny s.cdie s.cctx.part (s.fetchNeeds t) then .wait
      else
        let s := ((s.fetchInject t).chargeHomes s.cdie s.cctx.part (s.fetchNeeds t)).icacheRoom s.ccore t.pa
        let (bs, pois) := s.dieView s.cdie t.pa 8
        let now : Word := BitVec.ofNat 64 (natOfBytes bs)
        if pois || mget false (s.core s.ccore).icPois t.pa then .trap (trapOf 51 va 0)
        else
          let s := s.useEntry s.ccore .exec e
          let old := mget none (s.core s.ccore).icache t.pa
          let stale := match old with | some o => o != now && s.free % 2 == 1 | none => false
          let w := if stale then old.getD now else now
          let s := if old.isSome && old != some now then s.bump else s
          .word (s.setCore s.ccore { s.core s.ccore with icache := mset none (s.core s.ccore).icache t.pa (some w) }) w

/-- Fetch `n` words in order; the first failing word decides, R59. -/
def State.fetchWords (s : State) (va : Word) : Nat → List Word → Fetched × List Word
  | 0, acc => (.word s 0, acc)
  | n + 1, acc =>
    match s.fetchWord va with
    | .word s w => s.fetchWords (va + 8) n (acc ++ [w])
    | f => (f, acc)

/-- A trap at the header: TRAPPC is the header's address, R88. -/
def State.headerTrap (s : State) (t : TrapInfo) (pc : Word) : Host.Outcome State Fault Refusal :=
  .next (s.takeTrapAt s.gid s.slot t pc)

/-- The header's waits, R57, R171. -/
def waitsMet (g : Group) (a : Arm) (h : Header) : Bool :=
  let ok := fun (w c : Nat) => w == 63 || decide (c ≤ w)
  ok h.ldw a.loads.length && ok h.stw a.stores && ok h.cpw g.copies && ok h.tlw g.tiles

/-- The copy-fault and tile-fault flags trap at a header that waits on their counts, R341, R425. -/
def flagTrap (g : Group) (h : Header) : Option (TrapInfo × Group) :=
  match g.copyFlag with
  | some (cause, ad, x) => if h.cpw < 63 then some (trapOf cause ad (BitVec.ofNat 64 x), { g with copyFlag := none }) else tile
  | none => tile
where
  tile : Option (TrapInfo × Group) :=
    match g.tileFlag with
    | some t => if h.tlw < 63 then some (t, { g with tileFlag := none }) else none
    | none => none

/-- Step 3 of R170: the arm waits at its header, or may issue; a CPW wait that a falling count satisfied is an acquire of the
completion (R366). -/
def State.headerStep (s : State) : Host.Outcome State Fault Refusal :=
  match s.ca.clause with
  | none => .next s
  | some c =>
    let h := headerOf c.head
    match s.ca.ue with
    | some va => (s.modA fun a => { a with ue := none }).headerTrap (trapOf 51 va 0) c.hdr
    | none =>
    match flagTrap s.cg h with
    | some (t, g) => (s.setG g).headerTrap t c.hdr
    | none =>
      if !waitsMet s.cg s.ca h then .next (s.park .header)
      else
        let s := s.modA fun a => { a with park := none }
        .next (if s.cg.copyObs && decide (h.cpw < 63) then (s.modG fun g => { g with copyObs := false }).acquireAct 6 else s)

/-- Step 2 of R170: arrivals at the top frame, R180-R184. -/
def State.arrive (s : State) (pc : Word) (timed : Bool) : Nat → Host.Outcome State Fault Refusal
  | 0 => s.headerStep
  | fuel + 1 =>
    match s.ca.top with
    | none => s.headerStep
    | some pos =>
      match s.cg.frame pos with
      | none => s.headerStep
      | some f =>
        if f.raddr != pc then s.headerStep
        else if s.framePsn s.gid pos then s.headerTrap (trapOf 51 (s.cg.frameVa pos) 0) pc
        else if f.dissolved then
          (s.modG fun g => (g.setArm s.slot { g.arm s.slot with top := f.parent, bw := false }).releaseAll).arrive pc timed fuel
        else
          let f := { f with arrived := f.arrived ||| s.armMask }
          let s := s.setFrames s.gid (s.cg.setFrame pos (some f))
          let psn := s.framePsn s.gid
          if f.arrived &&& f.expect == f.expect then
            let g := match s.cg.timedSlot pos with
              | some t => if t == s.slot then s.cg.merge pos s.slot true else
                  let b := s.cg.arm t
                  let g := s.cg.freeArm t
                  (g.setArm s.slot { g.arm s.slot with loads := b.loads ++ (g.arm s.slot).loads,
                                                       stores := b.stores + (g.arm s.slot).stores }).merge pos s.slot true
              | none => s.cg.merge pos s.slot true
            ((s.setFrames s.gid (g.settle psn s.slot)).closeChecks s.gid).arrive pc timed fuel
          else if timed then .next (s.park (.timed pos))
          else
            let a := s.ca
            let f := { f with waiting := f.waiting ++ [⟨a.mask, a.loads, a.stores, a.handler⟩] }
            .next (s.setFrames s.gid (((s.cg.setFrame pos (some f)).freeArm s.slot).settle psn s.slot).settlePlace)

/-- The arm stands at the clause in which it waited timed, and the merge has exposed a frame that reconverges here too (log 30). -/
def State.arrivesAgain (s : State) : Bool :=
  s.ca.bw && match s.ca.clause, s.ca.top.bind s.cg.frame with
    | some c, some f => f.raddr == c.hdr
    | _, _ => false

/-- An arm that is parked at its header goes on, R170. -/
def State.resumeHeader (s : State) : Host.Outcome State Fault Refusal :=
  match s.ca.clause with
  | some c => if s.arrivesAgain then (s.spoilFrames s.gid).arrive c.hdr (opcOf (c.words.getD 0 0) == 0x55) 11 else s.headerStep
  | none => s.headerStep

/-- An arm enters a clause, R170. A frame that the arm was read back from with poisoned data traps first, R178. DESIGN CHOICE (log
47): a word without the tag in the header's place is fetched alone, so its N words raise no fetch trap before step 1a. TRAPAD of
HEADER_BAD names the transfer where the arm arrived at a word that is not a header, and is 0 for steps 1b and 1c, R439. -/
def execClauseEntry (s : State) : Host.Outcome State Fault Refusal :=
  let a := s.ca
  let pc := a.pc
  if !a.live || a.clause.isSome then .next s
  else if a.ue.isSome then (s.modA fun a => { a with ue := none }).headerTrap (trapOf 51 (a.ue.getD 0) 0) pc
  else if pc.toNat % 8 != 0 then s.headerTrap (trapOf 3 a.xfer 0) pc
  else match s.fetchWord pc with
    | .walk page => .next (s.parkWalk [page])
    | .trap t => s.headerTrap t pc
    | .hole s t => s.headerTrap t pc
    | .wait => .next s
    | .word s w =>
      if !isHeader w then s.headerTrap (trapOf 3 a.xfer 0) pc
      else
        let h := headerOf w
        match s.fetchWords (pc + 8) h.n [] with
        | (.walk page, _) => .next (s.parkWalk [page])
        | (.trap t, _) => s.headerTrap t pc
        | (.hole s t, _) => s.headerTrap t pc
        | (.wait, _) => .next s
        | (.word s _, ws) =>
          if w.toNat % 2 ^ 23 != 0 then s.headerTrap (trapOf 3) pc
          else match uncovered h.cls ws with
            | some k => s.headerTrap (trapOf 3 0 (BitVec.ofNat 64 k)) pc
            | none => match earlyTransfer ws with
              | some k => s.headerTrap (trapOf 4 0 (BitVec.ofNat 64 k)) pc
              | none =>
                let s := s.modG fun g => { g.setArm s.slot { g.arm s.slot with
                    clause := some ⟨pc, w, ws, 0⟩, park := none, walkFaults := [], asks := none, bw := true, yielded := h.yh } with
                  begun := g.begun + 1 }
                (s.spoilFrames s.gid).arrive pc (opcOf (ws.getD 0 0) == 0x55) 11

/-- A timed arrival expires and its frame dissolves, R182, R183. -/
def execBwaitTimeout (gid slot : Nat) (s : State) : Host.Outcome State Fault Refusal :=
  let s := s.spoilFrames gid
  .next (s.setFrames gid ((s.grp gid).dissolve slot))

end Sys2Proof.Machine
end

