-- ==== Sys2Proof/Machine/Alu.lean ====
section
/-! DEFINITION. Integer, logic, bitfield, compare, select and move instructions of rows 0x0 and 0x1 (R135-R145). -/

namespace Sys2Proof.Machine

/-- Write a vector register or pair in the active lanes with clean data, R92, R131. -/
def Group.putV (g : Group) (d : Nat) (wide : Bool) (act : BitVec 32) (val : Nat → Nat) : Group :=
  let g := (g.setV d act fun l => BitVec.ofNat 32 (val l)).markV d act 0
  if wide then (g.setV (d + 1) act fun l => BitVec.ofNat 32 (val l / 2 ^ 32)).markV (d + 1) act 0 else g

/-- A per-lane instruction that raises nothing: the sources it reads (with their width), and the value of each active lane. -/
def State.vEff (s : State) (f : VF) (wideD : Bool) (srcs : List (Src × Bool)) (val : Nat → Nat) : Eff :=
  s.guarded f.g false ((f.d.toNat, if wideD then 2 else 1) :: srcs.flatMap fun x => x.1.regs x.2)
    (fun act => srcs.flatMap fun x => x.1.reads x.2 act)
    fun act => .retire (s.modG fun g => g.putV f.d.toNat wideD act val)

/-- An element as a number of its type, R94. -/
def elemInt (ty : Ty) (k x : Nat) : Int :=
  let e := elemAt ty.width k x
  if ty.signed then toSigned ty.width e else (e : Int)

/-- Reduce an integer into a type, R96. -/
def wrapInt (ty : Ty) (x : Int) : Int :=
  let e := lowBits ty.width x
  if ty.signed then toSigned ty.width e else (e : Int)

/-- The nearest value of a type's range, R96. -/
def clampInt (ty : Ty) (x : Int) : Int :=
  let lo : Int := if ty.signed then -(2 ^ (ty.width - 1) : Nat) else 0
  let hi : Int := if ty.signed then ((2 ^ (ty.width - 1) : Nat) : Int) - 1 else ((2 ^ ty.width : Nat) : Int) - 1
  if x < lo then lo else if hi < x then hi else x

/-- ModAbsNeg of R135: abs then negate, both wrapping, R66. -/
def absNeg (ty : Ty) (xa na : Bool) (x : Int) : Int :=
  let y := if xa then wrapInt ty (x.natAbs : Int) else x
  if na then wrapInt ty (-y) else y

/-- A lane's integer operation over the elements of its sources, R135. -/
def intLane (f : VF) (op : Int → Int → Int → Int) (a b c : Nat) : Nat :=
  packElems f.ty.width ((List.range f.ty.elems).map fun k =>
    let e := op (absNeg f.ty f.xa f.na (elemInt f.ty k a)) (absNeg f.ty f.xb f.nb (elemInt f.ty k b)) (elemInt f.ty k c)
    lowBits f.ty.width (if f.sat then clampInt f.ty e else e))

/-- Integer arithmetic of R135 on A and B. -/
def State.arithEff (s : State) (f : VF) (op : Int → Int → Int) : Eff :=
  let w := f.ty.is64
  s.vEff f w [(f.a, w), (f.b, w)] fun l => intLane f (fun x y _ => op x y) (s.raw f.ty l f.a) (s.raw f.ty l f.b) 0

/-- iadd, R135. -/
def execIadd (f : VF) (s : State) : Host.Outcome State Fault Refusal := s.conclude (s.arithEff f fun x y => x + y)
/-- isub, R135. -/
def execIsub (f : VF) (s : State) : Host.Outcome State Fault Refusal := s.conclude (s.arithEff f fun x y => x - y)
/-- imul, R135. -/
def execImul (f : VF) (s : State) : Host.Outcome State Fault Refusal := s.conclude (s.arithEff f fun x y => x * y)
/-- imulhi, R135. -/
def execImulhi (f : VF) (s : State) : Host.Outcome State Fault Refusal :=
  s.conclude (s.arithEff f fun x y => x * y / (2 ^ f.ty.width : Nat))
/-- imin, R135. -/
def execImin (f : VF) (s : State) : Host.Outcome State Fault Refusal := s.conclude (s.arithEff f fun x y => min x y)
/-- imax, R135. -/
def execImax (f : VF) (s : State) : Host.Outcome State Fault Refusal := s.conclude (s.arithEff f fun x y => max x y)

/-- imad, R135. -/
def State.imadEff (s : State) (f : VF) : Eff :=
  let w := f.ty.is64
  s.vEff f w [(f.a, w), (f.b, w), (f.c, w)] fun l =>
    intLane f (fun x y z => x * y + z) (s.raw f.ty l f.a) (s.raw f.ty l f.b) (s.raw f.ty l f.c)
def execImad (f : VF) (s : State) : Host.Outcome State Fault Refusal := s.conclude (s.imadEff f)

/-- iabs, R135. -/
def State.iabsEff (s : State) (f : VF) : Eff :=
  let w := f.ty.is64
  s.vEff f w [(f.a, w)] fun l => intLane f (fun x _ _ => (x.natAbs : Int)) (s.raw f.ty l f.a) 0 0
def execIabs (f : VF) (s : State) : Host.Outcome State Fault Refusal := s.conclude (s.iabsEff f)

/-- Bitwise logic, R136. -/
def State.logicEff (s : State) (f : VF) (op : Nat → Nat → Nat) : Eff :=
  let w := f.ty.is64
  s.vEff f w [(f.a, w), (f.b, w)] fun l => op (s.raw f.ty l f.a) (s.raw f.ty l f.b)

/-- and, R136. -/
def execVand (f : VF) (s : State) : Host.Outcome State Fault Refusal := s.conclude (s.logicEff f fun x y => x &&& y)
/-- or, R136. -/
def execVor (f : VF) (s : State) : Host.Outcome State Fault Refusal := s.conclude (s.logicEff f fun x y => x ||| y)
/-- xor, R136. -/
def execVxor (f : VF) (s : State) : Host.Outcome State Fault Refusal := s.conclude (s.logicEff f fun x y => x ^^^ y)

/-- The table of blut: bits [7:0] of the word, R137. -/
def blutTable (f : VF) : Nat :=
  (if f.nb then 128 else 0) + (if f.xa then 64 else 0) + (if f.xb then 32 else 0) + f.sub.toNat

/-- blut in one lane, R137. -/
def blutLane (tt w a b c : Nat) : Nat :=
  (List.range w).foldl (fun r i =>
    let row := a / 2 ^ i % 2 + 2 * (b / 2 ^ i % 2) + 4 * (c / 2 ^ i % 2)
    r + tt / 2 ^ row % 2 * 2 ^ i) 0

/-- blut, R137. -/
def State.blutEff (s : State) (f : VF) : Eff :=
  let w := f.ty.is64
  s.vEff f w [(f.a, w), (f.b, w), (f.c, w)] fun l =>
    blutLane (blutTable f) f.ty.width (s.raw f.ty l f.a) (s.raw f.ty l f.b) (s.raw f.ty l f.c)
def execBlut (f : VF) (s : State) : Host.Outcome State Fault Refusal := s.conclude (s.blutEff f)

/-- The shift count of element `k`, R138: B read as n32, its matching element for a packed type; a small integer takes the row of
TY in R65 (DEDUCED, log 20). -/
def State.shiftCount (s : State) (f : VF) (l k : Nat) : Nat :=
  if f.ty.elems == 1 then s.raw .n32 l f.b else elemAt f.ty.width k (s.raw f.ty l f.b)

/-- A shift of every element, R138. -/
def State.shiftEff (s : State) (f : VF) (op : Nat → Nat → Nat) : Eff :=
  let w := f.ty.is64
  s.vEff f w [(f.a, w), (f.b, false)] fun l =>
    packElems f.ty.width ((List.range f.ty.elems).map fun k => op (elemAt f.ty.width k (s.raw f.ty l f.a)) (s.shiftCount f l k))

/-- shl, R138. -/
def execShl (f : VF) (s : State) : Host.Outcome State Fault Refusal :=
  s.conclude (s.shiftEff f fun a c => if f.ty.width ≤ c then 0 else a * 2 ^ c)
/-- shr, R138. -/
def execShr (f : VF) (s : State) : Host.Outcome State Fault Refusal :=
  s.conclude (s.shiftEff f fun a c => if f.ty.width ≤ c then 0 else a / 2 ^ c)
/-- An arithmetic right shift at width `w`; a count of `w` or more gives all sign bits. -/
def sarBits (w a c : Nat) : Nat := lowBits w (toSigned w a / (2 ^ min c w : Nat))
/-- sar, R138. -/
def execSar (f : VF) (s : State) : Host.Outcome State Fault Refusal :=
  s.conclude (s.shiftEff f fun a c => sarBits f.ty.width a c)

/-- funnel in one lane, R139. -/
def funnelLane (left : Bool) (a b n : Nat) : Nat :=
  let x := b * 2 ^ 32 + a
  if left then x / 2 ^ (32 - n) % 2 ^ 32 else x / 2 ^ n % 2 ^ 32

/-- funnel, R139. -/
def State.funnelEff (s : State) (f : VF) : Eff :=
  s.vEff f false [(f.a, false), (f.b, false), (f.c, false)] fun l =>
    funnelLane (bit f.sub 0) (s.raw .b32 l f.a) (s.raw .b32 l f.b) (s.raw .n32 l f.c % 32)
def execFunnel (f : VF) (s : State) : Host.Outcome State Fault Refusal := s.conclude (s.funnelEff f)

/-- A one-source bit operation, R140. -/
def State.unaryEff (s : State) (f : VF) (op : Nat → Nat → Nat) : Eff :=
  let w := f.ty.is64
  s.vEff f w [(f.a, w)] fun l => op f.ty.width (s.raw f.ty l f.a)

def popcNat (w x : Nat) : Nat := (List.range w).foldl (fun n i => n + x / 2 ^ i % 2) 0
def clzNat (w x : Nat) : Nat := if x == 0 then w else w - 1 - Nat.log2 x
def revNat (w x : Nat) : Nat := (List.range w).foldl (fun r i => r + x / 2 ^ i % 2 * 2 ^ (w - 1 - i)) 0

/-- popc, R140. -/
def execPopc (f : VF) (s : State) : Host.Outcome State Fault Refusal := s.conclude (s.unaryEff f popcNat)
/-- clz, R140. -/
def execClz (f : VF) (s : State) : Host.Outcome State Fault Refusal := s.conclude (s.unaryEff f clzNat)
/-- brev, R140. -/
def execBrev (f : VF) (s : State) : Host.Outcome State Fault Refusal := s.conclude (s.unaryEff f revNat)

/-- bfe in one lane, R140: bits at or above w read as the sign under an i type. -/
def bfeLane (ty : Ty) (a pos len : Nat) : Nat :=
  let w := ty.width
  let len := min len w
  let x : Int := elemInt ty 0 a
  let v := lowBits len (x / (2 ^ pos : Nat))
  if len == 0 then 0 else if ty.signed then lowBits w (toSigned len v) else v

/-- bfe, R140. -/
def State.bfeEff (s : State) (f : VF) : Eff :=
  let w := f.ty.is64
  s.vEff f w [(f.a, w), (f.b, false), (f.c, false)] fun l =>
    bfeLane f.ty (s.raw f.ty l f.a) (s.raw .n32 l f.b % 256) (s.raw .n32 l f.c % 256)
def execBfe (f : VF) (s : State) : Host.Outcome State Fault Refusal := s.conclude (s.bfeEff f)

/-- bfi in one lane, R140: bits of the field at or above w are dropped. -/
def bfiLane (w a pos len c : Nat) : Nat :=
  (List.range w).foldl (fun r i =>
    let x := if pos ≤ i && decide (i < pos + len) then a / 2 ^ (i - pos) % 2 else c / 2 ^ i % 2
    r + x * 2 ^ i) 0

/-- bfi, R140. -/
def State.bfiEff (s : State) (f : VF) : Eff :=
  let w := f.ty.is64
  s.vEff f w [(f.a, w), (f.b, false), (f.c, w)] fun l =>
    bfiLane f.ty.width (s.raw f.ty l f.a) (s.raw .n32 l f.b % 256) (s.raw .n32 l f.b / 256 % 256) (s.raw f.ty l f.c)
def execBfi (f : VF) (s : State) : Host.Outcome State Fault Refusal := s.conclude (s.bfiEff f)

/-- One result byte of bytesel, R141. -/
def byteselByte (a b ctl : Nat) : Nat :=
  let x := (b * 2 ^ 32 + a) / 256 ^ (ctl % 8) % 256
  match ctl / 8 % 8 with
  | 0 => x
  | 1 => 0
  | 2 => 255
  | 3 => if 128 ≤ x then 255 else 0
  | 4 => revNat 8 x
  | 5 => x % 16 * 16 + x / 16
  | 6 => x % 16
  | _ => x / 16 * 16

/-- bytesel, R141. -/
def State.byteselEff (s : State) (f : VF) : Eff :=
  s.vEff f false [(f.a, false), (f.b, false), (f.c, false)] fun l =>
    packElems 8 ((List.range 4).map fun k =>
      byteselByte (s.raw .b32 l f.a) (s.raw .b32 l f.b) (elemAt 8 k (s.raw .b32 l f.c)))
def execBytesel (f : VF) (s : State) : Host.Outcome State Fault Refusal := s.conclude (s.byteselEff f)

/-- The relation of a condition code, R142. -/
def icmpRel (cond : Nat) (x y : Int) : Bool :=
  match cond with
  | 0 => x == y
  | 1 => x != y
  | 2 => decide (x < y)
  | 3 => decide (x ≤ y)
  | 4 => decide (y < x)
  | _ => decide (y ≤ x)

/-- icmp, R142. -/
def State.icmpEff (s : State) (f : VF) : Eff :=
  let w := f.ty.is64
  s.guarded f.g false (f.a.regs w ++ f.b.regs w) (fun act => f.a.reads w act ++ f.b.reads w act) fun act =>
    let v := maskOf fun l => icmpRel f.sub.toNat (absNeg f.ty f.xa f.na (elemInt f.ty 0 (s.raw f.ty l f.a)))
      (absNeg f.ty f.xb f.nb (elemInt f.ty 0 (s.raw f.ty l f.b)))
    .retire (s.modG fun g => (g.setPred (f.d.toNat % 8) act v).markPred (f.d.toNat % 8) act 0)
def execIcmp (f : VF) (s : State) : Host.Outcome State Fault Refusal := s.conclude (s.icmpEff f)

/-- sel, R143. -/
def State.selEff (s : State) (f : VF) : Eff :=
  let w := f.ty.is64
  let p := match f.c with | .v r => r.toNat % 8 | _ => 0
  s.guarded f.g false ((f.d.toNat, if w then 2 else 1) :: f.a.regs w ++ f.b.regs w)
    (fun act => f.a.reads w act ++ f.b.reads w act ++ [.p p act]) fun act =>
    .retire (s.modG fun g => g.putV f.d.toNat w act fun l => if bit (s.cg.pred p) l then s.raw f.ty l f.a else s.raw f.ty l f.b)
def execSel (f : VF) (s : State) : Host.Outcome State Fault Refusal := s.conclude (s.selEff f)

/-- mov, R144. -/
def State.movEff (s : State) (f : VF) : Eff :=
  let w := f.ty.is64
  s.vEff f w [(f.a, w)] fun l => s.raw f.ty l f.a
def execMov (f : VF) (s : State) : Host.Outcome State Fault Refusal := s.conclude (s.movEff f)

/-- movi, R144. -/
def State.moviEff (s : State) (f : MoviF) : Eff :=
  s.guarded f.g false [(f.d.toNat, 1)] (fun _ => []) fun act =>
    .retire (s.modG fun g => g.putV f.d.toNat false act fun _ => f.imm.toNat)
def execMovi (f : MoviF) (s : State) : Host.Outcome State Fault Refusal := s.conclude (s.moviEff f)

/-- ishadd in one lane, R145. -/
def ishaddLane (w : Nat) (na nb : Bool) (sh a b : Nat) : Nat :=
  let t : Int := (a * 2 ^ sh : Nat)
  lowBits w ((if na then -t else t) + (if nb then -(b : Int) else (b : Int)))

/-- ishadd, R145. -/
def State.ishaddEff (s : State) (f : VF) : Eff :=
  let w := f.ty.is64
  s.vEff f w [(f.a, w), (f.b, w)] fun l =>
    ishaddLane f.ty.width f.na f.nb f.sub.toNat (s.raw f.ty l f.a) (s.raw f.ty l f.b)
def execIshadd (f : VF) (s : State) : Host.Outcome State Fault Refusal := s.conclude (s.ishaddEff f)

end Sys2Proof.Machine
end

