-- ==== Sys2Proof/Machine/Scalar.lean ====
section
/-! DEFINITION. The scalar unit and the state registers of row 0x4 (R160-R164). -/

namespace Sys2Proof.Machine

/-- The second operand of an S-format instruction, R74. -/
def State.sOperand (s : State) (f : SF) : Nat := if f.immf then (BitVec.ofInt 64 f.imm.toInt).toNat else (s.sreg f.b.toNat).toNat

/-- Width of a scalar operation, R160. -/
def SF_width (f : SF) : Nat := if f.w64 then 64 else 32

/-- A scalar operation of R160: operands at width w, result written zero-extended. -/
def State.scalarEff (s : State) (f : SF) (useA : Bool) (op : Nat → Nat → Nat → Nat) : Eff :=
  let w := SF_width f
  s.guarded f.g true [] (fun _ => (if useA then [.s f.a.toNat] else []) ++ if f.immf then [] else [.s f.b.toNat]) fun _ =>
    match s.divergedScalar f.d.toNat with
    | some t => .trap t
    | none =>
      let a := (s.sreg f.a.toNat).toNat % 2 ^ w
      let b := s.sOperand f % 2 ^ w
      .retire (s.setS f.d.toNat (BitVec.ofNat 64 (op w a b % 2 ^ w)))

/-- sadd, R160. -/
def execSadd (f : SF) (s : State) : Host.Outcome State Fault Refusal := s.conclude (s.scalarEff f true fun _ a b => a + b)
/-- ssub, R160. -/
def execSsub (f : SF) (s : State) : Host.Outcome State Fault Refusal :=
  s.conclude (s.scalarEff f true fun w a b => a + (2 ^ w - b))
/-- smul, R160. -/
def execSmul (f : SF) (s : State) : Host.Outcome State Fault Refusal := s.conclude (s.scalarEff f true fun _ a b => a * b)
/-- sand, R160. -/
def execSand (f : SF) (s : State) : Host.Outcome State Fault Refusal := s.conclude (s.scalarEff f true fun _ a b => a &&& b)
/-- sor, R160. -/
def execSor (f : SF) (s : State) : Host.Outcome State Fault Refusal := s.conclude (s.scalarEff f true fun _ a b => a ||| b)
/-- sxor, R160. -/
def execSxor (f : SF) (s : State) : Host.Outcome State Fault Refusal := s.conclude (s.scalarEff f true fun _ a b => a ^^^ b)
/-- sshl, R160: the count is the low 6 bits of b. -/
def execSshl (f : SF) (s : State) : Host.Outcome State Fault Refusal :=
  s.conclude (s.scalarEff f true fun w a b => if w ≤ b % 64 then 0 else a * 2 ^ (b % 64))
/-- sshr, R160. -/
def execSshr (f : SF) (s : State) : Host.Outcome State Fault Refusal :=
  s.conclude (s.scalarEff f true fun w a b => if w ≤ b % 64 then 0 else a / 2 ^ (b % 64))
/-- ssar, R160. -/
def execSsar (f : SF) (s : State) : Host.Outcome State Fault Refusal :=
  s.conclude (s.scalarEff f true fun w a b => sarBits w a (b % 64))
/-- scmp, R161. -/
def execScmp (f : SF) (s : State) : Host.Outcome State Fault Refusal := s.conclude (s.scalarEff f true scmpWord)
/-- smovi, R160. -/
def execSmovi (f : SF) (s : State) : Host.Outcome State Fault Refusal := s.conclude (s.scalarEff f false fun _ _ b => b)

/-- The lane that vrd and vwr name, R162. -/
def State.laneArg (s : State) (f : VF) : Nat := s.raw .n32 0 f.b % 32

/-- vrd, R162. -/
def State.vrdEff (s : State) (f : VF) : Eff :=
  let w := f.ty.is64
  let n := if w then 2 else 1
  let r := match f.a with | .v r => r.toNat | _ => 0
  s.guarded f.g true [(r, n)] (fun _ => f.b.reads false 0 ++ [.v r n (maskOf fun l => l == s.laneArg f)]) fun _ =>
    match s.divergedScalar (f.d.toNat % 64) with
    | some t => .trap t
    | none =>
      let l := s.laneArg f
      .retire (s.setS (f.d.toNat % 64) (if w then s.cg.vlane64 r l else (s.cg.vlane r l).setWidth 64))
def execVrd (f : VF) (s : State) : Host.Outcome State Fault Refusal := s.conclude (s.vrdEff f)

/-- vwr, R162: only a lane of the arm's mask is written. -/
def State.vwrEff (s : State) (f : VF) : Eff :=
  let w := f.ty.is64
  s.guarded f.g true [(f.d.toNat, if w then 2 else 1)] (fun _ => f.a.reads w 0 ++ f.b.reads false 0) fun _ =>
    let m := s.armMask &&& maskOf fun l => l == s.laneArg f
    .retire (s.modG fun g => g.putV f.d.toNat w m fun _ => s.raw f.ty 0 f.a)
def execVwr (f : VF) (s : State) : Host.Outcome State Fault Refusal := s.conclude (s.vwrEff f)

/-- The group's rank in its current team, R202. -/
def State.rank (s : State) : Nat := ((s.groupsOf s.cg.tid s.cg.lid).filter fun g => decide ((s.grp g).vslot < s.cg.vslot)).length

/-- Team lanes in the level's live groups, R202. -/
def State.teamSize (s : State) : Nat :=
  (s.groupsOf s.cg.tid s.cg.lid).foldl (fun n g => n + popcount (s.grp g).teamLanes) 0

/-- STRAND, R202. -/
def State.strandReg (s : State) : Nat :=
  let l := s.level s.cg.tid s.cg.lid
  16 * l.depth + match l.kind with | .root => 0 | .strand c => c | .brood _ => 15

/-- The value of a state register, R163; CYCLE is read by `mfs` itself. -/
def State.stateReg (s : State) (n : Nat) : Nat :=
  let g := s.cg
  let t := s.cteam
  match n with
  | 0x01 => g.vslot
  | 0x02 => s.rank
  | 0x03 => s.teamSize
  | 0x04 => s.strandReg
  | 0x05 => g.vcore
  | 0x06 => g.vcluster
  | 0x07 => g.vcluster / 2
  | 0x08 => t.xidx.toNat
  | 0x09 => t.yidx.toNat
  | 0x0A => t.zidx.toNat
  | 0x0B => s.armMask.toNat
  | 0x0C => s.ca.fmt.toNat
  | 0x0D => g.seed.toNat
  | 0x0E => g.gang.toNat
  | 0x0F => t.skeinSize * 65536 + t.skeinFree * 256 + g.chunks
  | 0x11 => s.ca.trapc.toNat
  | 0x12 => s.ca.trappc.toNat
  | 0x13 => s.ca.trapad.toNat
  | 0x14 => s.ca.trapx.toNat
  | 0x15 => s.cctx.chklost.toNat
  | _ => 0

/-- The core's clock count at a read: it has advanced by a free amount since the last read, R20 (log 6). -/
def State.readCycle (s : State) : State × Word :=
  let c := (s.core s.ccore).cycle + BitVec.ofNat 64 s.free
  ((s.setCore s.ccore { s.core s.ccore with cycle := c }).bump, c)

/-- mfs, R163: LANE is per lane, every other register is read once. -/
def State.mfsEff (s : State) (f : SF) : Eff :=
  if f.num == 0 then
    s.guarded f.g false [(f.vreg, 1)] (fun _ => []) fun act => .retire (s.modG fun g => g.putV f.vreg false act fun l => l)
  else
    s.guarded f.g true [] (fun _ => []) fun _ =>
      match s.divergedScalar f.d.toNat with
      | some t => .trap t
      | none =>
        if f.num == 0x10 then
          let (s, c) := s.readCycle
          .retire (s.setS f.d.toNat c)
        else .retire (s.setS f.d.toNat (BitVec.ofNat 64 (s.stateReg f.num)))
def execMfs (f : SF) (s : State) : Host.Outcome State Fault Refusal := s.conclude (s.mfsEff f)

/-- mts of FMT and, at handler level, of the trap registers, R123, R163. -/
def State.mtsEff (s : State) (f : SF) : Eff :=
  if f.num != 0x0C && !s.ca.handler then .trap (trapOf 2)
  else
    s.guarded f.g true [] (fun _ => [.s f.a.toNat]) fun _ =>
      let v := s.sreg f.a.toNat
      .retire (s.modA fun a =>
        match f.num with
        | 0x0C => { a with fmt := BitVec.ofNat 32 (v.toNat % 2 ^ 23) }
        | 0x11 => { a with trapc := BitVec.ofNat 6 v.toNat }
        | 0x12 => { a with trappc := v }
        | 0x13 => { a with trapad := v }
        | _ => { a with trapx := v })
def execMts (f : SF) (s : State) : Host.Outcome State Fault Refusal := s.conclude (s.mtsEff f)

/-- The xorshift state of a lane seeded from `seed` with its number, R109: a zero state becomes 1. -/
def seedLane (seed : BitVec 32) (n : Nat) : BitVec 32 :=
  let x := seed ^^^ BitVec.ofNat 32 (n * 0x9E3779B9)
  if x == 0 then 1 else x

/-- mts of SEED, R109, R163. -/
def State.mtsSeedEff (s : State) (f : SF) : Eff :=
  s.guarded f.g true [] (fun _ => [.s f.a.toNat]) fun _ =>
    if !s.cg.converged then .trap (trapOf 7 0 0x10D)
    else
      let v := BitVec.ofNat 32 (s.sreg f.a.toNat).toNat
      let r := s.rank
      .retire (s.modG fun g => { g with seed := v, xs := (List.range 32).map fun l => seedLane v (32 * r + l) })
def execMtsSeed (f : SF) (s : State) : Host.Outcome State Fault Refusal := s.conclude (s.mtsSeedEff f)

/-- The FMT bits of a selector, R164. -/
def fmtSelMask (sel : Nat) : Nat :=
  (if sel % 2 == 1 then 0xFF else 0) + (if sel / 2 % 2 == 1 then 0xF00 else 0) + (if sel / 4 % 2 == 1 then 0x7000 else 0) +
    (if sel / 8 % 2 == 1 then 0x38000 else 0) + (if sel / 16 % 2 == 1 then 0x7C0000 else 0)

/-- fmtset, R164. -/
def State.fmtsetEff (s : State) (f : SF) : Eff :=
  s.guarded f.g true [] (fun _ => if f.immf then [] else [.s f.b.toNat]) fun _ =>
    let v := BitVec.ofNat 32 (s.sOperand f)
    let m := BitVec.ofNat 32 (fmtSelMask f.d.toNat)
    .retire (s.modA fun a => { a with fmt := (a.fmt &&& ~~~m) ||| (v &&& m) })
def execFmtset (f : SF) (s : State) : Host.Outcome State Fault Refusal := s.conclude (s.fmtsetEff f)

end Sys2Proof.Machine
end

