-- ==== Sys2Proof/Machine/Teams.lean ====
section
/-! DEFINITION. Row 0x6: barriers, team-calls, votes, fork and join, the skein, gangs (R201-R226). A group-collective instruction
parks its arm and is performed again when what it waits for has come. -/

namespace Sys2Proof.Machine

/-- The live arm of a converged group. -/
def Group.soleSlot (g : Group) : Nat := if g.arm0.live then 0 else 1
def Group.sole (g : Group) : Arm := g.arm g.soleSlot

/-- Order a list of keys by a number, R12, R202. -/
def insertBy (key : Nat → Nat) (x : Nat) : List Nat → List Nat
  | [] => [x]
  | y :: ys => if key x ≤ key y then x :: y :: ys else y :: insertBy key x ys
def sortBy (key : Nat → Nat) (l : List Nat) : List Nat := l.foldr (insertBy key) []

namespace State

/-- The live groups of the current team by ascending group slot, R202. -/
def ranked (s : State) : List Nat := sortBy (fun g => (s.grp g).vslot) (s.groupsOf s.cg.tid s.cg.lid)

/-- A group-collective instruction of a diverged group traps before any effect, R203. -/
def collective (s : State) (opc : Nat) (k : Eff) : Eff :=
  if s.cg.converged then k else .trap (trapOf 8 0 (BitVec.ofNat 64 opc))

/-- A barrier index beyond the current team's records traps at decode step 4, R204. -/
def barIndex (s : State) (b : Nat) (k : Eff) : Eff :=
  if (s.level s.cg.tid s.cg.lid).recs.length ≤ b then .trap (trapOf 2) else k

def barRec (s : State) (b : Nat) : BarRec := (s.level s.cg.tid s.cg.lid).recs.getD b {}

/-- BAR_OVF or BAR_POISON with the record's index, R208. -/
def psnTrap (r : BarRec) (b : Nat) : TrapInfo := ⟨r.pcause, 0, BitVec.ofNat 64 b⟩

/-- The arrival of the executing group at a record, R209, with its release, R226. -/
def arriveBar (s : State) (b : Nat) : State :=
  (s.releaseAct 4).modRec s.cg.tid s.cg.lid b fun r =>
    { r with arr := r.arr + 1, arrset := setBit r.arrset s.cg.vslot true }

/-- Return from a wait on a record, R226; where its completion counted an engine's delivery, R366. -/
def barAcquire (s : State) (b : Nat) : State :=
  let r := s.barRec b
  let s := s.acquireAct 4
  if r.lastEng then s.l1Clear s.ccore else s

/-- bar, R209. -/
def barEff (s : State) (b : Nat) : Eff :=
  s.barIndex b <| s.collective 0x60 <|
    let r := s.barRec b
    if r.psn then .trap (psnTrap r b)
    else match s.ca.park with
      | some (.bar _ gen) => if r.gen != gen then .retire (s.barAcquire b) else .stay s
      | _ =>
        if bit r.arrset s.cg.vslot then .stay (s.park (.barDup b r.gen false))
        else
          let s := s.arriveBar b
          if (s.barRec b).gen != r.gen then .retire (s.barAcquire b) else .stay (s.park (.bar b r.gen))

/-- bararr, R209: the generation goes to the scalar. DESIGN CHOICE (log 47): a poisoned record is tested before the second arrival of
a generation, so a bararr that parked is woken by the poisoning too and traps. -/
def bararrEff (s : State) (d b : Nat) : Eff :=
  s.barIndex b <| s.collective 0x61 <|
    let r := s.barRec b
    if r.psn then .trap (psnTrap r b)
    else if bit r.arrset s.cg.vslot then .stay (s.park (.barDup b r.gen true))
    else .retire ((s.arriveBar b).setS d (r.gen.setWidth 64))

/-- barwait, R209. -/
def barwaitEff (s : State) (f : SF) : Eff :=
  let b := f.imm.toNat
  s.barIndex b <| s.guarded f.g true [] (fun _ => [.s f.a.toNat]) fun _ =>
    let r := s.barRec b
    if r.psn then .trap (psnTrap r b)
    else
      let tok := BitVec.ofNat 32 (s.sreg f.a.toNat).toNat
      if r.gen == tok then .stay (s.park (.barWait b tok)) else .retire (s.barAcquire b)

/-- barexp, R207, R208. -/
def barexpEff (s : State) (f : SF) : Eff :=
  let b := f.d.toNat
  s.barIndex b <| s.guarded f.g true [] (fun _ => if f.immf then [] else [.s f.b.toNat]) fun _ =>
    if f.a == 1 then
      .retire (s.modRec s.cg.tid s.cg.lid b fun r => { r with pend := 0, psn := false, pcause := 0 })
    else
      let v : Int := if f.immf then f.imm.toInt else (s.sreg f.b.toNat).toInt
      if pendFits ((s.barRec b).pend + v) then
        .retire (s.modRec s.cg.tid s.cg.lid b fun r => { r with pend := r.pend + v })
      else .trap (trapOf 28 0 (BitVec.ofNat 64 b))

/-- Every other live group of the current level is parked in a way that `p` accepts. -/
def othersAt (s : State) (p : Park → Bool) : Bool :=
  (s.groupsOf s.cg.tid s.cg.lid).all fun g => g == s.gid || ((s.grp g).sole.park.map p).getD false

/-- The arrival of the whole team at the panel's record when its last group has come, or the last that was missing has ended, R210:
the subscription updates that the team's groups published are delivered first. -/
def panelArrive (s : State) (gen : Nat) : Eff :=
  let tid := s.cg.tid
  let p := s.cteam.panel
  let s := if (s.othersAt fun k => k == .pbar gen) && !(s.panel p).arrived.contains tid then
      let s := s.drainSubs s.ccore
      (s.setPanel p { s.panel p with arrived := (s.panel p).arrived ++ [tid] }).panelCheck p
    else s
  if (s.panel p).gen != gen then .retire (s.acquireAct 6) else .stay (s.park (.pbar gen))

/-- pbar, R210. -/
def pbarEff (s : State) : Eff :=
  s.collective 0x64 <|
    match s.ca.park with
    | some (.pbar gen) => s.panelArrive gen
    | _ =>
      let d := (s.level s.cg.tid s.cg.lid).depth
      if d != 0 then .trap (trapOf 30 0 (BitVec.ofNat 64 d))
      else if s.relWaits 6 then .stay (s.relStay 6)
      else (s.releaseAct 6).panelArrive (s.panel s.cteam.panel).gen

end State

/-- The group counts of a deal, R212: weights and live groups. -/
def dealCounts (w : List Nat) (g : Nat) : List Nat :=
  let m := (w.filter (· != 0)).length
  let tot := w.foldl (fun a x => a + x) 0
  let fl := w.map fun x => (g - m) * x / tot
  let rem := w.map fun x => (g - m) * x % tot
  let left := (g - m) - fl.foldl (fun a x => a + x) 0
  (List.range w.length).map fun i =>
    if w.getD i 0 == 0 then 0
    else
      let ahead := (List.range w.length).filter fun j =>
        w.getD j 0 != 0 && (decide (rem.getD i 0 < rem.getD j 0) || (rem.getD j 0 == rem.getD i 0 && decide (j < i)))
      1 + fl.getD i 0 + if ahead.length < left then 1 else 0

/-- The callee of each rank, R212. -/
def dealRanks (counts : List Nat) : List Nat :=
  (List.range counts.length).flatMap fun i => List.replicate (counts.getD i 0) i

namespace State

/-- Free barrier records, vector registers and group slots of a core, R15, R201. A slot whose ended group still has tile
operations is not free, R191. -/
def freeRecs (s : State) (c : Nat) : Nat :=
  Config.recordsPerCore - s.teams.foldl (fun n (p : Nat × Team) =>
    if p.2.live && !p.2.saved && p.2.core == c then n + p.2.levels.foldl (fun k (l : Nat × Level) => k + l.2.recs.length) 0 else n) 0

/-- A group slot is held, with its registers and its spill block: by a live group; by an ended one until its tile operations have
completed, R191; and by an ended group of the team's placement until the team's last group ends, R201 (R191 frees a forked one; DEDUCED, log 47). -/
def slotUsed (s : State) (gid : Nat) : Bool :=
  let g := s.grp gid
  g.live || (g.uid != 0 && (s.team g.tid).tileOut g.uid && !(s.team g.tid).saved) || (g.uid != 0 && g.forker.isNone && (s.team g.tid).live && !(s.team g.tid).saved)

def freeSlots (s : State) (c : Nat) : List Nat := ((List.range 32).map fun k => 32 * c + k).filter fun g => !s.slotUsed g

def freeRegs (s : State) (c : Nat) : Nat :=
  let bases := s.groups.foldl (fun n (p : Nat × Group) => if gidCore p.1 == c && s.slotUsed p.1 then n + p.2.base else n) 0
  let skeins := s.teams.foldl (fun n (p : Nat × Team) =>
    if p.2.live && !p.2.saved && p.2.core == c then n + 8 * p.2.skeinSize else n) 0
  Config.vregsPerCore - (bases + skeins)

/-- Free 4 KiB blocks of a launch's spill region, R176, R469. -/
def freeBlocks (s : State) (l : Nat) : List Word :=
  let r := (s.launch l).lrec
  let used := (s.groups.filter fun (p : Nat × Group) => p.2.launch == l && s.slotUsed p.1).map (·.2.spill) ++
    (s.teams.filter fun (p : Nat × Team) => p.2.launch == l).flatMap fun (p : Nat × Team) => p.2.groups.map (·.spill)
  ((List.range (r.spillkb / 4)).map fun k => r.spill + BitVec.ofNat 64 (4096 * k)).filter fun a => !used.contains a

/-- A trap in every live group of the current team at its own instruction, R211. -/
def trapTeam (s : State) (t : TrapInfo) : State :=
  (s.groupsOf s.cg.tid s.cg.lid).foldl (fun s' g =>
    if (s'.grp g).live then s'.takeTrapAt g (s.grp g).soleSlot t (s.grp g).sole.ipc else s') s

/-- The strands start, R212-R214: `w` and `entries` from the table, `m` callees of nonzero weight. DESIGN CHOICE (log 47): where the
groups issue their tcalls from different clauses, the entry's resume address is that of the group whose issue lets the deal take place. -/
def startStrands (s : State) (w : List Nat) (entries : List Word) : State :=
  let tid := s.cg.tid
  let lid := s.cg.lid
  let gs := s.ranked
  let ranks := dealRanks (dealCounts w gs.length)
  let callees := (List.range w.length).filter fun i => w.getD i 0 != 0
  let lvl := s.level tid lid
  let first := s.uids
  let lidOf := fun i => first + callees.idxOf i
  let saved := gs.map fun g => ((s.grp g).uid, (s.grp g).sole.fmt, (s.grp g).gang)
  let resume := s.hdr + BitVec.ofNat 64 (8 * (s.nwords + 1))
  let s := { s with uids := first + callees.length }
  let s := s.setLevel tid lid { lvl with call := some ⟨resume, callees.map lidOf, [], saved⟩ }
  let s := callees.foldl (fun s i =>
    s.setLevel tid (lidOf i) { live := true, kind := .strand i, depth := lvl.depth + 1, parent := lid, recs := List.replicate 4 {} }) s
  (gs.zip ranks).foldl (fun s (x : Nat × Nat) =>
    let g := s.grp x.1
    let a := g.sole
    let a := { a with pc := entries.getD x.2 0, clause := none, xfer := a.ipc, park := none, walkFaults := [], asks := none }
    (s.setGrp x.1 { g.setArm g.soleSlot a with lid := lidOf x.2, gang := 0 }).closeChecks x.1) s

/-- The deal of a team-call whose groups have all arrived, R211: the table at `addr` is read through the L1. -/
def tcallGo (s : State) (addr : Word) : Eff :=
  let others := (s.groupsOf s.cg.tid s.cg.lid).filter (· != s.gid)
  if others.any fun g => (s.grp g).sole.park != some (.tcall addr) then .stay (s.trapTeam (trapOf 31 addr 1))
  else if addr.toNat % 64 != 0 then .stay (s.trapTeam (trapOf 15 addr (accessX 0 .read 7)))
  else match s.probe s.ccore s.cg.ctx (!s.ca.handler) .read [(0, addr), (0, addr + 64)] with
    | .walk pages => .stay (s.parkWalk pages)
    | .trap t => .stay (s.trapTeam t)
    | .ok trs =>
      let s := trs.foldl (fun s r => s.useEntry s.ccore .read r.2.2) s
      let (s, bs, pois) := trs.foldl (fun (acc : State × List Byte × Bool) r =>
        let (s, b, p) := acc.1.gread acc.1.ccore acc.1.cg.ctx r.2.1 64
        (s, acc.2.1 ++ b, acc.2.2 || p)) (s, [], false)
      let w := (List.range 8).map fun i => (bs.getD (16 * i + 8) 0).toNat
      let entries := (List.range 8).map fun i => BitVec.ofNat 64 (natOfBytes ((List.range 8).map fun k => bs.getD (16 * i + k) 0))
      let m := (w.filter (· != 0)).length
      if pois then .stay (s.trapTeam (trapOf 51 addr 0))
      else if m == 0 || decide (others.length + 1 < m) then .stay (s.trapTeam (trapOf 31 addr 0))
      else if (s.level s.cg.tid s.cg.lid).depth == 8 then .stay (s.trapTeam (trapOf 30 0 8))
      else if s.freeRecs s.ccore < 4 * m then .stay (s.park (.tcall addr))
      else .stay (s.startStrands w entries)

/-- A park at a tcall, whatever table it names. -/
def isTcall : Park → Bool
  | .tcall _ => true
  | _ => false

/-- tcall, R211. -/
def tcallEff (s : State) (f : SF) : Eff :=
  s.guarded f.g true [] (fun _ => [.s f.a.toNat]) fun _ => s.collective 0x65 <|
    let addr := s.sreg f.a.toNat
    let s := if (s.ca.park.map isTcall).getD false then s else s.releaseAct 4
    if s.othersAt isTcall then s.tcallGo addr else .stay (s.park (.tcall addr))

/-- The groups' parent level resumes when every strand is done, R215. -/
def rejoin (s : State) : State :=
  let tid := s.cg.tid
  let p := (s.level tid s.cg.lid).parent
  match (s.level tid p).call with
  | some e => if s.strandsDone tid e then s.resumeParent tid p e else s
  | none => s

/-- Give back the top `n` chunks of the executing group, R222. -/
def giveChunks (s : State) (n : Nat) : State := (s.modG fun g => { g with chunks := g.chunks - n }).skeinReturn s.cg.tid n

/-- A result is pending into the top `n` chunks, R222. -/
def topPending (s : State) (n : Nat) : Bool :=
  s.cg.arm0.loads.any (fun l => l.any hit) || s.cg.arm1.loads.any (fun l => l.any hit) || s.cg.orphans.any (fun l => l.any hit) ||
    s.cteam.accOps.any fun o => o.uid == s.cg.uid && o.kind == .ld && decide (s.cg.window - 8 * n < o.reg + 32)
where
  /-- A pending write into the chunks given back. -/
  hit (w : RegW) : Bool := match w with | .v r _ _ _ => decide (s.cg.window - 8 * n ≤ r) | .s _ _ _ => false

/-- tret, R215. -/
def tretEff (s : State) (f : SF) : Eff :=
  s.collective 0x66 <|
    match s.ca.park with
    | some .tret => .stay s.rejoin
    | _ =>
      let l := s.level s.cg.tid s.cg.lid
      let n := f.imm.toNat
      match l.kind with
      | .strand _ =>
        if s.cg.chunks < n then .trap (trapOf 35 0 (BitVec.ofNat 64 n))
        else if n != 0 && s.topPending n then .stay s
        else
          let s := if n == 0 then s else s.giveChunks n
          let s := s.releaseAct 4
          let p := s.level s.cg.tid l.parent
          let call := p.call.map fun e => { e with returned := e.returned ++ [s.cg.uid] }
          .stay (((s.setLevel s.cg.tid l.parent { p with call := call }).park .tret).rejoin)
      | _ => .trap (trapOf 32 0 (BitVec.ofNat 64 l.depth))

/-- The result of a team vote in one group, R216. -/
def tvoteWrite (s : State) (gid mode d : Nat) (v : BitVec 32) : State :=
  let g := s.grp gid
  let m := g.sole.mask
  let g := if mode == 3 then (g.setV d m fun _ => v).markV d m 0 else (g.setPred (d % 8) m v).markPred (d % 8) m 0
  s.setGrp gid (g.setArm g.soleSlot g.sole.advance)

/-- The source predicate, mode and destination of a group's team vote: those of the executing instruction, or of the group's park. -/
def tvoteOf (s : State) (p mode d gid : Nat) : Nat × Nat × Nat :=
  if gid == s.gid then (p, mode, d)
  else match (s.grp gid).sole.park with | some (.tvote p m d) => (p, m, d) | _ => (p, mode, d)

/-- The vote of a team whose groups have all issued it, R216. -/
def tvoteGo (s : State) (p mode d : Nat) : State :=
  let gs := s.groupsOf s.cg.tid s.cg.lid
  let con := fun g => (s.grp g).sole.mask &&& (s.grp g).teamLanes
  let total := gs.foldl (fun n g => n + popcount (con g)) 0
  let count := gs.foldl (fun n g => n + popcount (con g &&& (s.grp g).pred (s.tvoteOf p mode d g).1)) 0
  gs.foldl (fun s' g =>
    let (_, md, dd) := s.tvoteOf p mode d g
    let v : BitVec 32 := match md with
      | 0 => if count != 0 then BitVec.allOnes 32 else 0
      | 1 => if count == total then BitVec.allOnes 32 else 0
      | 2 => if count == 0 || count == total then BitVec.allOnes 32 else 0
      | _ => BitVec.ofNat 32 count
    (s'.tvoteWrite g md dd v).closeChecks g) s

def isTvote : Park → Bool
  | .tvote _ _ _ => true
  | _ => false

/-- tvote, R216. -/
def tvoteEff (s : State) (f : VF) : Eff :=
  let p := match f.a with | .v r => r.toNat % 8 | _ => 0
  let mode := f.sub.toNat % 4
  s.guarded f.g true (if mode == 3 then [(f.d.toNat, 1)] else []) (fun act => [.p p act]) fun _ => s.collective 0x67 <|
    let s := if (s.ca.park.map isTvote).getD false then s else s.releaseAct 4
    if s.othersAt isTvote then .stay (s.tvoteGo p mode f.d.toNat) else .stay (s.park (.tvote p mode f.d.toNat))

/-- The virtual slot of a new group: the lowest that no group of its context on its virtual core has, R19 (DESIGN CHOICE: the manual
does not say which, log 40). -/
def freshSlot (s : State) (ctx vcluster vcore : Nat) : Nat :=
  let used := (s.groups.filter fun (p : Nat × Group) =>
    s.slotUsed p.1 && p.2.ctx == ctx && p.2.vcluster == vcluster && p.2.vcore == vcore).map (·.2.vslot)
  (((List.range 32).filter fun k => !used.contains k).head?).getD 0

/-- One child of a fork, R218. -/
def forkChild (s : State) (lid base : Nat) (pc : Word) (blk : Word) (gid : Nat) : State :=
  let g := s.cg
  let a := s.ca
  let vs := s.freshSlot g.ctx g.vcluster g.vcore
  let arm : Arm := { live := true, pc := pc, mask := BitVec.allOnes 32, fmt := a.fmt, scal := a.scal, spois := a.spois, xfer := s.ipc }
  let c : Group :=
    { live := true, ctx := g.ctx, launch := g.launch, tid := g.tid, lid := lid, vcluster := g.vcluster, vcore := g.vcore,
      vslot := vs, teamLanes := BitVec.allOnes 32, base := base, scal := g.scal, spois := g.spois, seed := g.seed,
      xs := (List.range 32).map (fun l => seedLane g.seed (1024 + 32 * vs + l)), arm0 := arm, spill := blk,
      forker := some g.uid, uid := s.uids, since := s.tick }
  { s.setGrp gid c with uids := s.uids + 1 }

/-- fork, R217, R218: registers, slots and records must all be free. -/
def forkEff (s : State) (f : SF) : Eff :=
  let n := f.d.toNat
  let base := 8 * f.a.toNat
  s.guarded f.g true [] (fun _ => []) fun _ =>
    let l := s.level s.cg.tid s.cg.lid
    let slots := s.freeSlots s.ccore
    let blocks := s.freeBlocks s.cg.launch
    if l.depth == 8 then .trap (trapOf 30 0 8)
    else if slots.length < n || blocks.length < n || s.freeRegs s.ccore < n * base || s.freeRecs s.ccore < 4 then
      (if f.b == 1 then .stay (s.park (.forkWait n base)) else .trap (trapOf 33 0 (BitVec.ofNat 64 n)))
    else
      let s := s.releaseAct 5
      let lid := s.uids
      let s := { s with uids := lid + 1 }
      let lvl : Level := { live := true, kind := .brood s.cg.uid, depth := l.depth + 1, parent := s.cg.lid, recs := List.replicate 4 {} }
      let s := s.setLevel s.cg.tid lid lvl
      let pc := s.target f.imm.toInt
      let s := ((slots.take n).zip blocks).foldl (fun s (x : Nat × Word) => s.forkChild lid base pc x.2 x.1) s
      .retire (s.modG fun g => { g with joins := g.joins + n })

/-- join, R219. -/
def joinEff (s : State) (f : SF) : Eff :=
  s.guarded f.g true [] (fun _ => []) fun _ =>
    if s.cg.joins == 0 then .retire (s.acquireAct 5) else .stay (s.park .join)

/-- The count of skgive or sktake. -/
def skeinCount (s : State) (f : SF) : Nat := if f.immf then f.imm.toNat else (s.sreg f.b.toNat).toNat

/-- skgive, R222. -/
def skgiveEff (s : State) (f : SF) : Eff :=
  s.guarded f.g true [] (fun _ => if f.immf then [] else [.s f.b.toNat]) fun _ => s.collective 0x6A <|
    let n := s.skeinCount f
    if n == 0 then .retire s
    else if s.cg.chunks < n then .trap (trapOf 35 0 (BitVec.ofNat 64 n))
    else if s.topPending n then .stay s
    else .retire (s.giveChunks n)

/-- sktake, R221: the request joins the queue's tail; a granted group is in the queue no more. -/
def sktakeEff (s : State) (f : SF) : Eff :=
  match s.ca.park with
  | some (.sktake _) => if s.cteam.skeinQ.any fun q => q.1 == s.cg.uid then .stay s else .retire s
  | _ =>
    s.guarded f.g true [] (fun _ => if f.immf then [] else [.s f.b.toNat]) fun _ => s.collective 0x6B <|
      let n := s.skeinCount f
      let t := s.cteam
      if n == 0 then .retire s
      else if t.skeinSize < n || decide (256 < s.cg.window + 8 * n) then .trap (trapOf 35 0 (BitVec.ofNat 64 n))
      else
        let s := (s.setTeam s.cg.tid { t with skeinQ := t.skeinQ ++ [(s.cg.uid, n)] }).skeinGrant s.cg.tid (t.skeinQ.length + 1)
        if s.cteam.skeinQ.any fun q => q.1 == s.cg.uid then .stay (s.park (.sktake n)) else .retire s

/-- gangset, R225. -/
def gangsetEff (s : State) (f : SF) : Eff :=
  s.guarded f.g true [] (fun _ => if f.immf then [] else [.s f.a.toNat]) fun _ => s.collective 0x6C <|
    let v : BitVec 32 := if f.immf then f.imm else BitVec.ofNat 32 (s.sreg f.a.toNat).toNat
    let slots := (s.groupsOf s.cg.tid s.cg.lid).map fun g => (s.grp g).vslot
    let ok := decide (2 ≤ popcount v) && decide (popcount v ≤ 6) && bit v s.cg.vslot && (maskList v).all fun k => slots.contains k
    if v == 0 || ok then .retire (s.modG fun g => { g with gang := v }) else .trap (trapOf 36)

/-- A group whose every live arm is stuck, R223. -/
def skeinStuck (s : State) (gid : Nat) : Bool :=
  let g := s.grp gid
  let stuck := fun (a : Arm) => match a.park with
    | some (.sktake _) => (s.team g.tid).skeinQ.any fun q => q.1 == g.uid
    | some (.bar b gen) => waits b gen
    | some (.barWait b gen) => waits b gen
    | some (.barDup b gen arr) => !arr && waits b gen
    | some (.pbar gen) => (s.panel (s.team g.tid).panel).gen == gen && !(s.panel (s.team g.tid).panel).arrived.contains g.tid
    | some .join => decide (0 < g.joins)
    | some .tret => match (s.level g.tid (s.level g.tid g.lid).parent).call with
      | some e => !s.strandsDone g.tid e
      | none => true
    | _ => false
  (g.arm0.live || g.arm1.live) && (!g.arm0.live || stuck g.arm0) && (!g.arm1.live || stuck g.arm1)
where
  /-- The record's ARR is below its expected count, in the generation waited for. -/
  waits (b : Nat) (gen : BitVec 32) : Bool :=
    let g := s.grp gid
    let r := (s.level g.tid g.lid).recs.getD b {}
    r.gen == gen && !r.psn && decide (r.arr < (s.groupsOf g.tid g.lid).length)

end State

/-- bar, R209. -/
def execBar (f : SF) (s : State) : Host.Outcome State Fault Refusal := s.conclude (s.barEff f.imm.toNat)
/-- bararr, R209. -/
def execBararr (f : SF) (s : State) : Host.Outcome State Fault Refusal := s.conclude (s.bararrEff f.d.toNat f.imm.toNat)
/-- barwait, R209. -/
def execBarwait (f : SF) (s : State) : Host.Outcome State Fault Refusal := s.conclude (s.barwaitEff f)
/-- barexp, R207, R208. -/
def execBarexp (f : SF) (s : State) : Host.Outcome State Fault Refusal := s.conclude (s.barexpEff f)
/-- pbar, R210. -/
def execPbar (_f : SF) (s : State) : Host.Outcome State Fault Refusal := s.conclude s.pbarEff
/-- tcall, R211-R214. -/
def execTcall (f : SF) (s : State) : Host.Outcome State Fault Refusal := s.conclude (s.tcallEff f)
/-- tret, R215. -/
def execTret (f : SF) (s : State) : Host.Outcome State Fault Refusal := s.conclude (s.tretEff f)
/-- tvote, R216. -/
def execTvote (f : VF) (s : State) : Host.Outcome State Fault Refusal := s.conclude (s.tvoteEff f)
/-- fork, R217, R218. -/
def execFork (f : SF) (s : State) : Host.Outcome State Fault Refusal := s.conclude (s.forkEff f)
/-- join, R219. -/
def execJoin (f : SF) (s : State) : Host.Outcome State Fault Refusal := s.conclude (s.joinEff f)
/-- skgive, R222. -/
def execSkgive (f : SF) (s : State) : Host.Outcome State Fault Refusal := s.conclude (s.skgiveEff f)
/-- sktake, R221. -/
def execSktake (f : SF) (s : State) : Host.Outcome State Fault Refusal := s.conclude (s.sktakeEff f)
/-- gangset, R225. -/
def execGangset (f : SF) (s : State) : Host.Outcome State Fault Refusal := s.conclude (s.gangsetEff f)

/-- SKEIN_DEADLOCK_DETECT of a team, R223: when its queue is not empty and every skein user is stuck, the head request leaves the
queue and its group traps at its sktake; the next requests are then granted as the free chunks allow. -/
def execSkeinDeadlockDetect (tid : Nat) (s : State) : Host.Outcome State Fault Refusal :=
  let t := s.team tid
  match t.skeinQ with
  | [] => .next s
  | (uid, n) :: rest =>
    if t.saved || !(s.teamGroups tid).all s.skeinStuck then .next s
    else
      let s := s.setTeam tid { t with skeinQ := rest }
      match s.findUid uid with
      | none => .next s
      | some gid =>
        let g := s.grp gid
        let s := s.takeTrapAt gid g.soleSlot (trapOf 34 (BitVec.ofNat 64 t.skeinFree) (BitVec.ofNat 64 n)) g.sole.ipc
        .next (s.skeinGrant tid (rest.length + 1))

end Sys2Proof.Machine
end

