-- ==== Sys2Proof/Machine/Tile.lean ====
section
/-! DEFINITION. Row 0xC: the accumulator memory, the rendezvous latch, the matrix unit and the FIFOs (R400-R426). -/

namespace Sys2Proof.Machine

/-- The FMT fields that the gang must share and the unit uses, R122, R409. -/
def fmtA (f : BitVec 32) : Nat := f.toNat % 16
def fmtB (f : BitVec 32) : Nat := f.toNat / 16 % 16
def fmtAccm (f : BitVec 32) : Nat := f.toNat / 256 % 4
def fmtAsc (f : BitVec 32) : Bool := bit f 10
def fmtBsc (f : BitVec 32) : Bool := bit f 11

/-- The matrix unit accepts the combination, R123, R124. -/
def comboOk (f : BitVec 32) : Bool :=
  let a := fmtA f
  let b := fmtB f
  let fp8 := fun x => x == 1 || x == 2
  decide (fmtRm f < 6) &&
    (if fmtAccm f == 1 then a == 3 && b == 3 && !fmtAsc f && !fmtBsc f
     else fmtAccm f == 0 &&
       ((a == 0 && b == 0) || (a == 5 && b == 5) || (fp8 a && fp8 b) || (a == 4 && (b == 0 || fp8 b) && fmtAsc f) ||
        (b == 4 && (a == 0 || fp8 a) && fmtBsc f)))

/-- TRAPX in the gang layout, R440. -/
def gangX (low stage : Nat) : Word := BitVec.ofNat 64 (low % 256 + 256 * stage)

/-- Bytes of an entry by its format tag, R401. -/
def entryBytes (tag : Nat) : Nat := if tag == 0 || tag == 5 then 32768 else if tag == 4 then 4096 else 16384

/-- A byte range of an entry as a number. -/
def FifoEntry.read (e : FifoEntry) (o n : Nat) : Nat := natOfBytes (mgetList 0 e.data o n)

/-- Element `k` of row (A) or column (B) `r` of an entry, R402: its exact value. -/
def FifoEntry.elem (e : FifoEntry) (r k : Nat) : Fp :=
  match e.tag with
  | 0 => unpackF fmtBf16 false (e.read ((512 * r + k) * 2) 2)
  | 5 => unpackF fmtF16 false (e.read ((512 * r + k) * 2) 2)
  | 1 => unpackF fmtE4m3 false (e.read (512 * r + k) 1)
  | 2 => unpackF fmtE5m2 false (e.read (512 * r + k) 1)
  | 3 => Fp.ofInt (toSigned 8 (e.read (512 * r + k) 1))
  | _ => lc2Value (e.read (128 * r + 2 * (k / 8)) 2) (k % 8) 127

/-- A value times an SE8 scale, R112. -/
def scaleBy (e : Nat) (v : Fp) : Fp := if e == 255 then .nan false else v.scale ((e : Int) - 127)

/-- floor(v / 2^u) of a finite value, R412. -/
def floorUnits (u : Int) : Fp → Int
  | .fin neg m e =>
    let a : Int := if neg then -(m : Int) else m
    if u ≤ e then a * 2 ^ (e - u).toNat else Int.fdiv a (2 ^ (u - e).toNat)
  | _ => 0

/-- floor(log2) of the magnitude of a nonzero finite value. -/
def log2Of : Fp → Int
  | .fin _ m e => (Nat.log2 m : Int) + e
  | _ => 0

/-- The value of an element before rounding, R412, R413: the special cases and zeros of a sum, else the sum of the terms cut to
multiples of 2^(X - 100). -/
def tileSum (rdn : Bool) (ts : List Fp) : Fp :=
  match (sumFp rdn ts).1 with
  | .fin n m e =>
    match ts.filter fun t => !t.isZero with
    | [] => .fin n m e
    | t :: rest =>
      let u := rest.foldl (fun x v => max x (log2Of v)) (log2Of t) - 100
      let q := (t :: rest).foldl (fun (a : Int) v => a + floorUnits u v) 0
      if q == 0 then .fin rdn 0 0 else .fin (decide (q < 0)) q.natAbs u
  | v => v

/-- The INT32 accumulation of one element, R414. -/
def tileInt (satf : Bool) (c : Int) (ts : List Int) : Lane32 :=
  let x := ts.foldl (fun (a : Int) t => a + t) c
  BitVec.ofInt 32 (if satf then max (-(2 ^ 31)) (min (2 ^ 31 - 1) x) else x)

/-- Element (i, n) of a bank; what nothing has written is a free value of the allocation, R405 (log 9). -/
def Bank.elem (b : Bank) (key : Nat) : Lane32 := (mget none b.data key).getD (Config.freeLane b.gen key)

/-- One row of a band: its 32 elements in order, stepping the owner's lane under SR, R412-R415. -/
def tileRow (f : BitVec 32) (sr : Bool) (a b : FifoEntry) (sa : Nat → Nat) (sb : Nat → Nat → Nat) (i : Nat) (c : Nat → Lane32)
    (x : BitVec 32) : List Lane32 × BitVec 32 :=
  let mode := if fmtRm f == 5 && !sr then 0 else fmtRm f
  (List.range 32).foldl (fun acc n =>
    if fmtAccm f == 1 then
      let ts := (List.range 512).map fun k => toSigned 8 (a.read (512 * i + k) 1) * toSigned 8 (b.read (512 * n + k) 1)
      (acc.1 ++ [tileInt (bit f 15) (c n).toInt ts], acc.2)
    else
      let ts := (List.range 512).map fun k =>
        scaleBy (sb n (k / 256)) (scaleBy (sa (k / 256)) (mulFp (a.elem i k) (b.elem n k)).1)
      let v := tileSum (mode == 2) (unpackF fmtF32 false (c n).toNat :: ts)
      let x := if mode == 5 then xorshift acc.2 else acc.2
      (acc.1 ++ [BitVec.ofNat 32 (roundTo fmtF32 mode false (bit f 15) x.toNat v).1], x)) ([], x)

namespace State

/-- The group with an identity, live or ended with tile operations outstanding. -/
def anyUid (s : State) (uid : Nat) : Option Nat := (s.groups.find? fun p => p.2.uid == uid).map (·.1)

/-- An ended group whose last tile operation has been acknowledged frees its chunks and frame positions, R191. -/
def tileLast (s : State) (uid : Nat) : State :=
  match s.anyUid uid with
  | some gid =>
    let g := s.grp gid
    if g.live || (s.team g.tid).tileOut uid then s
    else (s.setGrp gid { g with tiles := 0, chunks := 0, frames := [] }).skeinReturn g.tid g.chunks
  | none => s

/-- An operation that the group's tile count counts is done, R423. -/
def tileDone (s : State) (uid : Nat) : State :=
  (match s.anyUid uid with
   | some gid => s.setGrp gid { s.grp gid with tiles := (s.grp gid).tiles - 1 }
   | none => s).tileLast uid

def bank (s : State) (tid b : Nat) : Bank := mget {} (s.team tid).banks b
def setBank (s : State) (tid b : Nat) (x : Bank) : State :=
  s.setTeam tid { s.team tid with banks := mset {} (s.team tid).banks b x }

/-- An arm with the tile-fault flag of its group set traps FIFO_FMT at its next instruction of the row, R425. -/
def tileFlagged (s : State) (k : Eff) : Eff :=
  match s.cg.tileFlag with
  | some t => .stay ((s.modG fun g => { g with tileFlag := none }).takeTrap t)
  | none => k

/-- The checks of R407 on banks `b`, `b + 1`, …, in order. -/
def bankCheck (s : State) (b n stage : Nat) (owner : Bool) : Option TrapInfo :=
  (List.range n).findSome? fun j =>
    let x := s.bank s.cg.tid (b + j)
    if s.cteam.accBudget ≤ b + j || !x.alloc then some (trapOf 38 0 (gangX (b + j) (if stage == 0 then 0 else 3)))
    else if owner && x.owner != s.cg.vslot then some (trapOf 39 0 (gangX (b + j) (if stage == 0 then 0 else 4)))
    else none

/-- An operation waits for an earlier one on one of its banks, R422. -/
def accBlocked (t : Team) (o : AccOp) : Bool :=
  let meets := fun lo n => decide (lo < o.bank + o.n) && decide (o.bank < lo + n)
  (t.accOps.any fun p => decide (p.seq < o.seq) && meets p.bank p.n) ||
    t.mmaQ.any fun m => decide (m.seq < o.seq) && meets (m.bank + m.band) (m.members.length - m.band)

/-- A group that waited for its accfree goes on, R417. -/
def freeAnswer (s : State) (uid : Nat) : State :=
  match s.findUid uid with
  | none => s
  | some gid =>
    let g := s.grp gid
    let slot := g.soleSlot
    if (g.arm slot).park == some .accFree then s.setGrp gid (g.setArm slot (g.arm slot).advance) else s

/-- A read of a bank of accumulator memory, or of the oldest entry of a FIFO, meets an injection there, R461. The places are row and bank, and
row or column and entry (log 18). -/
def bankInject (s : State) (tid b : Nat) : State :=
  if s.dev.injctl.isEmpty then s
  else s.injectAt 2 (s.team tid).core (32 * b) 32 (s.team tid).ctx fun x s =>
    s.setBank tid b { s.bank tid b with psn := setBit (s.bank tid b).psn (x % 32) true }
def fifoInject (s : State) (tid : Nat) (isB : Bool) : State :=
  if s.dev.injctl.isEmpty then s
  else if !((if isB then (s.team tid).fifoB else (s.team tid).fifoA).head?.any fun e => e.written == e.size) then s
  else s.injectIf 3 (s.team tid).core (s.team tid).ctx (fun x => decide (x < 64) && (x % 2 == 1) == isB) (BitVec.ofNat 64) fun x s =>
    let t := s.team tid
    let row := fun (e : FifoEntry) => { e with pois := setBit e.pois (natBits x 1 5) true }
    s.setTeam tid (if isB then { t with fifoB := t.fifoB.modify 0 row } else { t with fifoA := t.fifoA.modify 0 row })

/-- Perform an operation on its banks, R417, R418. -/
def accPerform (s : State) (tid : Nat) (o : AccOp) : State :=
  let s := if o.kind == .ld then s.bankInject tid o.bank else s
  let b := s.bank tid o.bank
  match o.kind with
  | .ld =>
    let s := match s.findUid o.uid with
      | some gid => s.setGrp gid ((List.range 32).foldl (fun (g : Group) c =>
          (g.setV (o.reg + c) o.mask fun l => b.elem (32 * l + c)).markV (o.reg + c) o.mask b.psn) (s.grp gid))
      | none => s
    s.tileDone o.uid
  | .st =>
    let data := o.data.foldl (fun m e => mset none m e.1 e.2) b.data
    (s.setBank tid o.bank { b with data := data, psn := (b.psn &&& ~~~o.mask) ||| (o.pois &&& o.mask) }).tileDone o.uid
  | .zero =>
    ((List.range o.n).foldl (fun s j =>
      s.setBank tid (o.bank + j) { s.bank tid (o.bank + j) with data := (List.range 1024).map fun k => (k, some 0), psn := 0 }) s).tileLast
      o.uid
  | .free =>
    let s := (List.range o.n).foldl (fun s j =>
      s.setBank tid (o.bank + j) { s.bank tid (o.bank + j) with alloc := false, owner := 63, psn := 0, data := [] }) s
    ((o.members.foldl (fun s u => s.freeAnswer u) s).accGrant tid ((s.team tid).accQ.length + 1)).tileLast o.uid

/-- Perform, in order of issue, every operation that waits for nothing any more, R422; an ended team whose last operation this was
gives back its FIFOs and banks, R191. -/
def accPump (s : State) (tid : Nat) : Nat → State
  | 0 => s
  | fuel + 1 =>
    match (s.team tid).accOps.find? fun o => !accBlocked (s.team tid) o with
    | none => s.setTeam tid (s.team tid).tileRest
    | some o =>
      let t := s.team tid
      ((s.setTeam tid { t with accOps := t.accOps.filter fun p => p.seq != o.seq }).accPerform tid o).accPump tid fuel

/-- Issue an operation on banks: it is performed at once where nothing earlier stands on its banks. -/
def accIssue (s : State) (o : AccOp) : State :=
  let tid := s.cg.tid
  let t := s.cteam
  { s.setTeam tid { t with accOps := t.accOps ++ [{ o with seq := s.uids }] } with uids := s.uids + 1 }.accPump tid
    (t.accOps.length + 2)

def countTile (s : State) : State := s.modG fun g => { g with tiles := g.tiles + 1 }

/-- acczero, R418. -/
def acczeroEff (s : State) (f : TF) : Eff :=
  s.guarded f.g true [] (fun _ => []) fun _ => s.tileFlagged <|
    match s.bankCheck f.bank.toNat f.nb.toNat 0 true with
    | some t => .trap t
    | none => .retire (s.accIssue ⟨0, .zero, s.cg.uid, f.bank.toNat, f.nb.toNat, 0, 0, [], 0, []⟩)

/-- accld, R418, R422, R423. -/
def accldEff (s : State) (f : TF) : Eff :=
  s.guarded f.g false [(f.v.toNat, 32)] (fun _ => []) fun act => s.tileFlagged <|
    match s.bankCheck f.bank.toNat 1 0 true with
    | some t => .trap t
    | none =>
      if 63 ≤ s.cg.tiles then .stay s
      else .retire (s.countTile.accIssue ⟨0, .ld, s.cg.uid, f.bank.toNat, 1, act, f.v.toNat, [], 0, []⟩)

/-- The rows that accst stores, R418. -/
def accstRows (s : State) (v : Nat) (act : BitVec 32) : SMap (Option Lane32) :=
  (maskList act).flatMap fun l => (List.range 32).map fun c => (32 * l + c, some (s.cg.vlane (v + c) l))

/-- accst, R418, R422, R423: it reads its registers at issue. -/
def accstEff (s : State) (f : TF) : Eff :=
  s.guarded f.g false [(f.v.toNat, 32)] (fun _ => []) fun act => s.tileFlagged <|
    match s.bankCheck f.bank.toNat 1 0 true with
    | some t => .trap t
    | none =>
      if 63 ≤ s.cg.tiles then .stay s
      else
        let pois := (List.range 32).foldl (fun m c => m ||| s.cg.vpoison (f.v.toNat + c)) (0 : BitVec 32)
        .retire (s.countTile.accIssue
          ⟨0, .st, s.cg.uid, f.bank.toNat, 1, act, 0, s.accstRows f.v.toNat act, pois, []⟩)

/-- fifodrop, R420. -/
def fifodropEff (s : State) (f : TF) : Eff :=
  s.guarded f.g true [] (fun _ => []) fun _ => s.tileFlagged <|
    match s.divergedScalar f.s1.toNat with
    | some t => .trap t
    | none =>
      let t := s.cteam
      let isB := f.sub.toNat % 2 == 1
      let n := min f.nb.toNat (if isB then t.fifoB.length else t.fifoA.length)
      let seq := match s.ca.park with | some (.fifoDrop k) => k | _ => s.uids
      if t.mmaQ.any fun m => decide (m.seq < seq) then .stay (s.park (.fifoDrop seq))
      else
        let t := if isB then { t with fifoB := t.fifoB.drop n } else { t with fifoA := t.fifoA.drop n }
        .retire ((s.setTeam s.cg.tid t).setS f.s1.toNat (BitVec.ofNat 64 n))

/-- The status word of the FIFOs and the unit, R421. -/
def fifoWord (g : Group) (t : Team) : Nat :=
  let tag := fun (l : List FifoEntry) => match l with | e :: _ => e.tag | [] => 15
  let avl := fun (l : List FifoEntry) => (l.filter fun e => e.written == e.size).length
  if t.accBudget == 0 then 2 ^ 47 + 15 * 2 ^ 36 + 15 * 2 ^ 32
  else (if g.tileFlag.isSome then 41 * 2 ^ 48 else 0) + 2 ^ 40 * min t.mmaQ.length 4 + 2 ^ 36 * tag t.fifoB + 2 ^ 32 * tag t.fifoA +
    2 ^ 24 * t.fifoB.length + 2 ^ 16 * avl t.fifoB + 2 ^ 8 * t.fifoA.length + avl t.fifoA

/-- fifostat, R421. -/
def fifostatEff (s : State) (f : TF) : Eff :=
  s.guarded f.g true [] (fun _ => []) fun _ =>
    match s.divergedScalar f.s1.toNat with
    | some t => .trap t
    | none => .retire (s.setS f.s1.toNat (BitVec.ofNat 64 (fifoWord s.cg s.cteam)))

/-- The slots of a group's gang in order, R408. -/
def gangSlots (g : Group) : List Nat := if g.gang == 0 then [g.vslot] else maskList g.gang

/-- The live group of the root team in a virtual slot. -/
def memberAt (s : State) (slot : Nat) : Option Nat := (s.teamGroups s.cg.tid).find? fun m => (s.grp m).vslot == slot

/-- The gang of the executing group: its live members in order. -/
def members (s : State) : List Nat := (gangSlots s.cg).filterMap s.memberAt

/-- The latch lets a group go: with a trap, the count that its own mma raised is lowered again, R423. -/
def leaveLatch (s : State) (m : Nat) (trap : Bool) : State :=
  let g := s.grp m
  let raised := g.latch.map opcOf == some 0xC3
  s.setGrp m { g with latch := none, abort := none, tiles := if trap && raised then g.tiles - 1 else g.tiles }

/-- A trap in every member of the gang at its latched instruction, R409. -/
def gangTrap (s : State) (t : TrapInfo) : State :=
  s.members.foldl (fun s' m =>
    if (s'.grp m).live then
      let pc := (s.grp m).sole.ipc
      (s'.leaveLatch m true).takeTrapAt m (s.grp m).soleSlot t pc
    else s') s

/-- The latch lets every member go; each waits as `p` says, or goes on with its clause. -/
def gangGo (s : State) (p : Option Park) : State :=
  s.members.foldl (fun s' m =>
    let s' := s'.leaveLatch m false
    let g := s'.grp m
    let slot := g.soleSlot
    match p with
    | some k => s'.setGrp m (g.setArm slot { g.arm slot with park := some k }).settlePlace
    | none => s'.setGrp m (g.setArm slot (g.arm slot).advance)) s

/-- Stage 6 of R409: one word, one gang, one format. -/
def gangAgrees (s : State) : Bool :=
  s.members.all fun m =>
    let g := s.grp m
    g.latch == s.cg.latch && g.gang == s.cg.gang && g.sole.fmt.toNat % 2 ^ 16 == s.ca.fmt.toNat % 2 ^ 16

/-- A scale record, R411: its offset and bytes with their poison, or the trap of stage 7. -/
def scaleRec (s : State) (used : Bool) (reg n : Nat) : Except TrapInfo (List Byte × List Bool) :=
  if !used then .ok ([], [])
  else
    let m0 := (s.members.head?).getD s.gid
    let o := (s.grp m0).sreg (s.grp m0).soleSlot reg
    if o.toNat % 64 != 0 then .error (trapOf 42 o (gangX 0 7))
    else if s.cteam.scratch < o.toNat + n then .error (trapOf 16 o (accessX 0 .read 7))
    else .ok ((s.spRead s.cg.tid o.toNat n).1, (List.range (n / 2)).map fun k => (s.spRead s.cg.tid (o.toNat + 2 * k) 2).2)

/-- A scale record is read, R461. -/
def scaleInject (s : State) (used : Bool) (reg n : Nat) : State :=
  let m0 := (s.members.head?).getD s.gid
  if used then s.spInject s.cg.tid ((s.grp m0).sreg (s.grp m0).soleSlot reg).toNat n else s

/-- The release of an mma, R409 stage 7, R411, R419, R422: a full queue keeps the members parked. -/
def mmaRelease (s : State) (f : TF) : State :=
  let fmt := s.ca.fmt
  let n := s.members.length
  if 4 ≤ s.cteam.mmaQ.length then s
  else
    let s := (s.scaleInject (fmtAsc fmt) f.s1.toNat (64 * n)).scaleInject (fmtBsc fmt) f.s2.toNat 64
    match s.scaleRec (fmtAsc fmt) f.s1.toNat (64 * n), s.scaleRec (fmtBsc fmt) f.s2.toNat 64 with
    | .error t, _ => s.gangTrap t
    | _, .error t => s.gangTrap t
    | .ok (a, pa), .ok (b, pb) =>
      let op : MmaOp := { seq := s.uids, members := s.members.map fun m => (s.grp m).uid, fmt := fmt, bank := f.bank.toNat,
                          zero := f.sub.toNat % 2 == 1, scaleA := a, scaleB := b, poisA := pa, poisB := pb.any id, band := 0,
                          b := none }
      let t := s.cteam
      { s.setTeam s.cg.tid { t with mmaQ := t.mmaQ ++ [op] } with uids := s.uids + 1 }.gangGo none

/-- The release of an accalloc, R417. -/
def accallocRelease (s : State) (f : TF) : State :=
  let n := f.nb.toNat
  if s.cteam.accBudget < n then s.gangTrap (trapOf 40 0 (BitVec.ofNat 64 n))
  else
    let t := s.cteam
    let q : AccReq := ⟨s.members.map fun m => (s.grp m).uid, n, f.s1.toNat⟩
    ((s.gangGo (some (.accQueue n))).setTeam s.cg.tid { t with accQ := t.accQ ++ [q] }).accGrant s.cg.tid (t.accQ.length + 1)

/-- The release of an accfree, R417. -/
def accfreeRelease (s : State) (f : TF) : State :=
  match s.bankCheck f.bank.toNat f.nb.toNat 0 false with
  | some t => s.gangTrap t
  | none =>
    let us := s.members.map fun m => (s.grp m).uid
    (s.gangGo (some .accFree)).accIssue ⟨0, .free, s.cg.uid, f.bank.toNat, f.nb.toNat, 0, 0, [], 0, us⟩

/-- At the latch, R409, R410: a member that ended aborts; when every member has issued, stage 6 and the release. -/
def latchGo (s : State) (release : State → State) : Eff :=
  match s.cg.abort with
  | some slot => .stay ((s.leaveLatch s.gid true).takeTrap (trapOf 37 0 (gangX slot 0)))
  | none =>
    if s.members.any fun m => (s.grp m).latch.isNone then .stay s
    else if !s.gangAgrees then .stay (s.gangTrap (trapOf 36 0 (gangX 0 6)))
    else .stay (release s)

/-- A latched instruction, R408, R409: stages 1 to 5 at issue, then the latch. A group whose count is full stalls (R171). -/
def latchedEff (s : State) (opc : Nat) (word : Word) (early : Option TrapInfo) (release : State → State) : Eff :=
  let mma := opc == 0xC3
  if s.ca.park == some .latch then s.latchGo release
  else s.tileFlagged <| s.collective opc <|
    match early with
    | some t => .trap t
    | none =>
      match (gangSlots s.cg).find? fun k => (s.memberAt k).isNone with
      | some k => .trap (trapOf 37 0 (gangX k 5))
      | none =>
        if mma && decide (63 ≤ s.cg.tiles) then .stay s
        else
          let s := (s.modG fun g => { g with latch := some word, tiles := if mma then g.tiles + 1 else g.tiles }).park .latch
          s.latchGo release

/-- Stages 2 to 4 of R409 for mma; member 0's scale scalars are read (R500). -/
def mmaEarly (s : State) (f : TF) : Option TrapInfo :=
  let fmt := s.ca.fmt
  let r := (gangSlots s.cg).idxOf s.cg.vslot
  if !comboOk fmt then some (trapOf 43 0 (BitVec.ofNat 64 (fmt.toNat + 2 * 2 ^ 32)))
  else match s.bankCheck (f.bank.toNat + r) 1 1 true with
    | some t => some t
    | none => if r == 0 then s.rdTraps ((if fmtAsc fmt then [.s f.s1.toNat] else []) ++ if fmtBsc fmt then [.s f.s2.toNat] else [])
      else none

end State

/-- accalloc, R417. -/
def execAccalloc (f : TF) (s : State) : Host.Outcome State Fault Refusal :=
  s.conclude (s.latchedEff 0xC0 (encode (.accalloc f)) none fun s => s.accallocRelease f)
/-- accfree, R417. -/
def execAccfree (f : TF) (s : State) : Host.Outcome State Fault Refusal :=
  s.conclude (s.latchedEff 0xC1 (encode (.accfree f)) none fun s => s.accfreeRelease f)
/-- acczero, R418. -/
def execAcczero (f : TF) (s : State) : Host.Outcome State Fault Refusal := s.conclude (s.acczeroEff f)
/-- mma, R408-R419. -/
def execMma (f : TF) (s : State) : Host.Outcome State Fault Refusal :=
  s.conclude (s.latchedEff 0xC3 (encode (.mma f)) (s.mmaEarly f) fun s => s.mmaRelease f)
/-- accld, R418. -/
def execAccld (f : TF) (s : State) : Host.Outcome State Fault Refusal := s.conclude (s.accldEff f)
/-- accst, R418. -/
def execAccst (f : TF) (s : State) : Host.Outcome State Fault Refusal := s.conclude (s.accstEff f)
/-- fifodrop, R420. -/
def execFifodrop (f : TF) (s : State) : Host.Outcome State Fault Refusal := s.conclude (s.fifodropEff f)
/-- fifostat, R421. -/
def execFifostat (f : TF) (s : State) : Host.Outcome State Fault Refusal := s.conclude (s.fifostatEff f)

namespace State

/-- A tile fault ends an operation at `band`, R419, R425: the members of the bands left take the flag and their counts fall. -/
def tileFault (s : State) (tid : Nat) (op : MmaOp) (band tag : Nat) : State :=
  let t := s.team tid
  let s := s.setTeam tid { t with mmaQ := t.mmaQ.tail }
  let x := trapOf 41 0 (BitVec.ofNat 64 ((if band == 255 then 255 else band) + 256 * tag))
  ((op.members.drop (if band == 255 then 0 else band)).foldl (fun s u =>
    let s := match s.findUid u with | some g => s.setGrp g { s.grp g with tileFlag := some x } | none => s
    s.tileDone u) s).accPump tid (t.accOps.length + 2)

/-- The new bank of band `r`, R412-R415, R426, and the owner's xorshift states. -/
def bandBank (op : MmaOp) (r : Nat) (a b : FifoEntry) (bk : Bank) (owner : Option Group) : Bank × List (BitVec 32) :=
  let xs0 := match owner with | some g => g.xs | none => []
  let sa := fun i blk => if fmtAsc op.fmt then (op.scaleA.getD (64 * r + 2 * i + blk) 0).toNat else 127
  let sb := fun n blk => if fmtBsc op.fmt then (op.scaleB.getD (2 * n + blk) 0).toNat else 127
  let present := match owner with | some g => g.present | none => 0
  let rows := (List.range 32).map fun i =>
    tileRow op.fmt (bit present i) a b (sa i) sb i (fun n => if op.zero then 0 else bk.elem (32 * i + n)) (xs0.getD i 0)
  let data := (List.range 32).flatMap fun i => (List.range 32).map fun n => (32 * i + n, some ((rows.getD i ([], 0)).1.getD n 0))
  let pois := maskOf fun i => bit a.pois i || op.poisA.getD (32 * r + i) false || (!op.zero && bit bk.psn i)
  ({ bk with data := data, psn := if op.poisB || b.pois != 0 then BitVec.allOnes 32 else pois },
    (List.range 32).map fun i => (rows.getD i ([], 0)).2)

/-- The unit performs the next band of its head operation with the popped B entry, R419. -/
def doBand (s : State) (tid : Nat) (op : MmaOp) (b : FifoEntry) : State :=
  let s := s.fifoInject tid false
  let s := if op.zero then s else s.bankInject tid (op.bank + op.band)
  let t := s.team tid
  match t.fifoA with
  | [] => s
  | a :: rest =>
    if a.written != a.size then s
    else if a.tag != fmtA op.fmt then s.tileFault tid op op.band a.tag
    else
      let no := op.bank + op.band
      let bk := s.bank tid no
      let og := (s.teamGroups tid).find? fun m => bk.owner != 63 && (s.grp m).vslot == bk.owner
      let (bk, xs) := bandBank op op.band a b bk (og.map s.grp)
      let s := s.setBank tid no bk
      let s := match og with | some g => s.setGrp g { s.grp g with xs := if fmtAccm op.fmt == 1 then (s.grp g).xs else xs } | none => s
      let t := s.team tid
      let last := decide (op.members.length ≤ op.band + 1)
      let q := if last then t.mmaQ.tail else { op with band := op.band + 1, b := some b } :: t.mmaQ.tail
      ((s.setTeam tid { t with fifoA := rest, mmaQ := q }).tileDone (op.members.getD op.band 0)).accPump tid (t.accOps.length + 2)

end State

/-- MMA_BAND of a tile team, R412, R419: the head operation pops its B entry before its first band; a band whose A entry is not
wholly written waits (R403), and a saved team's operations are suspended (R428). -/
def execMmaBand (tid : Nat) (s : State) : Host.Outcome State Fault Refusal :=
  let t := s.team tid
  match if t.saved then [] else t.mmaQ with
  | [] => .next s
  | op :: later =>
    match op.b with
    | some b => .next (s.doBand tid op b)
    | none =>
      let s := s.fifoInject tid true
      let t := s.team tid
      match t.fifoB with
      | [] => .next s
      | e :: rest =>
        if e.written != e.size then .next s
        else if e.tag != fmtB op.fmt then .next (s.tileFault tid op 255 e.tag)
        else
          let op := { op with b := some e }
          .next ((s.setTeam tid { t with fifoB := rest, mmaQ := op :: later }).doBand tid op e)

end Sys2Proof.Machine
end

