-- ==== Sys2Proof/Machine/Sys.lean ====
section
/-! DEFINITION. Row 0xD: software traps and the return from a handler (R441-R443), gkill (R444), the privileged registers
(R445-R447, R504), xinv (R450), pre-emption points (R452) and error injection (R461). -/

namespace Sys2Proof.Machine

/-- The event that a held trap is delivered, R436. -/
def execPendingTrapDelivery (gid : Nat) (s : State) : Host.Outcome State Fault Refusal := .next (s.deliverPending gid)

namespace State

/-- Decode step 3: a privileged opcode at user level traps PRIV, R86. -/
def privileged (s : State) (opc : Nat) (k : Eff) : Eff := if s.ca.handler then k else .trap (trapOf 5 0 (BitVec.ofNat 64 opc))

/-- trap, R442. -/
def trapSwEff (s : State) (f : YF) : Eff := s.guarded f.g true [] (fun _ => []) fun _ => .trap (trapOf 0 0 (f.imm.setWidth 64))

/-- brk, R442. -/
def brkEff (s : State) (f : YF) : Eff := s.guarded f.g true [] (fun _ => []) fun _ => .trap (trapOf 55 0 (f.imm.setWidth 64))

/-- eret, R443: a top frame that the handler did not leave as it found it is a double fault. -/
def eretEff (s : State) : Eff :=
  s.privileged 0xD1 <|
    if s.ca.top != s.ca.shadow.top then .trap (trapOf 2)
    else .stay (s.setA (eretArm s.ca (bit s.cctx.dbgctl 0) s.ipc))

/-- A pre-emption request is pending for the executing arm's context on its die, R452. -/
def preq (s : State) : Bool := bit s.cctx.preq s.cdie

/-- pmark, R452: with a request pending a user-level arm stops after it, with the liveness entry it names. -/
def pmarkEff (s : State) (f : YF) : Eff :=
  s.guarded f.g true [] (fun _ => []) fun _ =>
    if s.preq && !s.ca.handler then .stay (s.retire.park (.stopped (some f.imm.toNat))) else .retire s

end State

/-- The word of an error log that ELD0-2 read, R459. Of an entry that no error has filled, whose ELD0 and ELD1 R447 gives no reset value, they
read 0 (DESIGN CHOICE, log 3). -/
def logWord (l : ErrLog) (entry k : Nat) : Word :=
  match l.entries[entry]? with
  | some e => (match k with
    | 0 => e.addr
    | 1 => BitVec.ofNat 64 (e.syn.toNat + 2 ^ 16 * (e.ctx % 65536) + 2 ^ 32 * e.kind)
    | _ => BitVec.ofNat 64 l.count)
  | none => if k == 2 then BitVec.ofNat 64 l.count else 0

/-- Ports of a ROUTE number, R447. -/
def routePorts (n : Nat) : Option (Nat × Nat) :=
  if 0x4000 ≤ n && decide (n < 0x4400) then
    let i := (n - 0x4000) / 32
    let j := n % 32
    if i != j && decide (i < 26) && decide (j < 26) then some (i, j) else none
  else none

/-- The executing group runs as a service context: its launch record says so, for a context that may, R434, R470. -/
def State.serviceCtx (s : State) : Bool := (s.launch s.cg.launch).lrec.svc && s.cctx.service

/-- A register that a handler of any context reads, and one that only a service context reaches, R447. -/
def sysHandler (n : Nat) : Bool :=
  decide (n ≤ 0xB) || (decide (0x10 ≤ n) && decide (n ≤ 0x17)) || n == 0x20 || (decide (0x28 ≤ n) && decide (n ≤ 0x2F)) ||
    (decide (0x100 ≤ n) && decide (n ≤ 0x2FF))
def sysService (n : Nat) : Bool :=
  (decide (0x300 ≤ n) && decide (n ≤ 0x303)) || (decide (0x380 ≤ n) && decide (n ≤ 0x383)) ||
    (decide (0x390 ≤ n) && decide (n ≤ 0x3AF)) || (routePorts n).isSome

/-- Registers that a syswr of any handler reaches, R447. -/
def sysHandlerRw (n : Nat) : Bool :=
  [3, 4, 6, 7, 8, 0x20].contains n || (decide (0x10 ≤ n) && decide (n ≤ 0x17)) || (decide (0x28 ≤ n) && decide (n ≤ 0x2F))

namespace State

/-- The value of a privileged register, R447. -/
def sysReg (s : State) (n : Nat) : Word :=
  let c := s.cctx
  let d := s.dev
  let w := fun (x : Nat) => BitVec.ofNat 64 x
  if n == 0 then w s.cg.ctx
  else if n == 1 then w c.part
  else if n == 2 then w c.asid
  else if n == 3 then w c.ptbase
  else if n == 4 then s.hvec s.gid
  else if n == 5 then w c.pdeadl
  else if n == 6 then w c.rtmo
  else if n == 7 then w c.hsave
  else if n == 8 then c.dbgctl.setWidth 64
  else if n == 9 then (if s.preq then 1 else 0)
  else if n == 10 then w c.savea
  else if n == 11 then w c.savesz
  else if n ≤ 0x13 then w (c.waddr.getD (n - 0x10) 0)
  else if n ≤ 0x17 then (c.wctl.getD (n - 0x14) 0).setWidth 64
  else if n == 0x20 then s.ca.shadow.fmt.setWidth 64
  else if n ≤ 0x2F then s.ca.shadow.s56.getD (n - 0x28) 0
  else if n ≤ 0x1FF then mget 0 c.peers (n - 0x100)
  else if n ≤ 0x2FF then w (mget 0xFFFF d.expb (n - 0x200))
  else if n == 0x300 then w d.flogbase
  else if n == 0x301 then w (d.flogIdx + 2 ^ 16 * d.flogOver)
  else if n == 0x302 then c.hooksh.setWidth 64
  else if n == 0x303 then w d.keytmo
  else if n == 0x380 then d.elsel.setWidth 64
  else if n ≤ 0x383 then
    let (cls, unit) := (d.elsel.toNat / 2 ^ 28, d.elsel.toNat / 16 % 2 ^ 24)
    if unitExists cls unit then logWord (mget {} d.logs (2 ^ 24 * cls + unit)) (d.elsel.toNat % 8) (n - 0x381) else 0
  else if n ≤ 0x39F then mget 0 d.injctl (n - 0x390)
  else if n ≤ 0x3AF then mget 0 d.injadr (n - 0x3A0)
  else match routePorts n with
    | some (i, j) => s.routeWord i j
    | none => 0

/-- sysrd, R434, R445: an unassigned number, or a service register in another context, traps at decode step 4. A shadow scalar
hands on the poison it was saved with. -/
def sysrdEff (s : State) (f : YF) : Eff :=
  let n := f.imm.toNat
  s.privileged 0xD3 <|
    if !(sysHandler n || (sysService n && s.serviceCtx)) then .trap (trapOf 2)
    else s.guarded f.g true [] (fun _ => []) fun _ =>
      match s.divergedScalar f.d.toNat with
      | some t => .trap t
      | none =>
        let p := decide (0x28 ≤ n) && decide (n ≤ 0x2F) && bit s.ca.shadow.pois (n - 0x28)
        .retire ((s.setS f.d.toNat (s.sysReg n)).modG fun g => g.markS s.slot f.d.toNat p)

/-- A syswr of a register without behaviour of its own, R445, R447: nothing where the value lies outside the stated range. -/
def sysWrite (s : State) (n v : Nat) : Option State :=
  let c := s.cctx
  let d := s.dev
  let setC := fun (c : Ctx) => some (s.setCtx s.cg.ctx c)
  let setD := fun (d : DevRegs) => some { s with dev := d }
  let a := s.ca
  if n == 3 then (if v < 2 ^ 52 && v % 2 ^ 14 == 0 then setC { c with ptbase := v } else none)
  else if n == 6 then (if 10 ≤ v && decide (v ≤ 1000000) then setC { c with rtmo := v } else none)
  else if n == 7 then (if v < 2 ^ 58 then setC { c with hsave := v } else none)
  else if n == 8 then (if v < 256 then setC { c with dbgctl := BitVec.ofNat 8 (v % 2) } else none)
  else if 0x10 ≤ n && decide (n ≤ 0x13) then
    (if v < 2 ^ 58 && v % 2 ^ ((c.wctl.getD (n - 0x10) 0).toNat / 4) == 0 then
      setC { c with waddr := c.waddr.set (n - 0x10) v } else none)
  else if 0x14 ≤ n && decide (n ≤ 0x17) then
    (if v < 256 && decide (2 ≤ v / 4) && decide (v / 4 ≤ 36) then setC { c with wctl := c.wctl.set (n - 0x14) (BitVec.ofNat 8 v) }
     else none)
  else if n == 0x20 then
    (if v < 2 ^ 32 then some (s.setA { a with shadow := { a.shadow with fmt := BitVec.ofNat 32 (v % 2 ^ 23) } }) else none)
  else if 0x28 ≤ n && decide (n ≤ 0x2F) then
    some (s.setA { a with shadow := { a.shadow with s56 := a.shadow.s56.set (n - 0x28) (BitVec.ofNat 64 v),
                                                    pois := setBit a.shadow.pois (n - 0x28) false } })
  else if 0x100 ≤ n && decide (n ≤ 0x1FF) then
    (if v < 2 ^ 32 && v / 256 % 2 ^ 22 == 0 then
      setC { c with peers := mset 0 c.peers (n - 0x100) (if 2 ^ 31 ≤ v then BitVec.ofNat 64 v else 0) } else none)
  else if 0x200 ≤ n && decide (n ≤ 0x2FF) then
    (if v < 65536 then setD { d with expb := mset 0xFFFF d.expb (n - 0x200) v } else none)
  else if n == 0x300 then (if v < 2 ^ 52 && v % 8192 == 0 then setD { d with flogbase := v } else none)
  else if n == 0x301 then (if v < 2 ^ 32 then setD { d with flogOver := d.flogOver &&& (65535 - v / 65536) } else none)
  else if n == 0x302 then (if v < 2 ^ 32 then setC { c with hooksh := BitVec.ofNat 32 v } else none)
  else if n == 0x303 then (if 1 ≤ v && decide (v ≤ 1000) then setD { d with keytmo := v } else none)
  else if n == 0x380 then
    (if v < 2 ^ 32 then setD { d with elsel := BitVec.ofNat 32 (v / 16 * 16 + v % 8) } else none)
  else if 0x3A0 ≤ n && decide (n ≤ 0x3AF) then setD { d with injadr := mset 0 d.injadr (n - 0x3A0) (BitVec.ofNat 64 v) }
  else none

/-- The checks that every syswr shares, R434, R445, and the write itself. -/
def syswrEff (s : State) (f : YF) (write : Nat → Nat → Option State) : Eff :=
  let n := f.imm.toNat
  let wide := (decide (0x100 ≤ n) && decide (n ≤ 0x303)) || n == 0x380 || (decide (0x390 ≤ n) && decide (n ≤ 0x3AF)) ||
    (routePorts n).isSome
  s.privileged 0xD4 <|
    if !(sysHandlerRw n || (wide && s.serviceCtx)) then .trap (trapOf 2)
    else s.guarded f.g true [] (fun _ => [.s f.a.toNat]) fun _ =>
      match write n (s.sreg f.a.toNat).toNat with
      | some s => .retire s
      | none => .trap (trapOf 2)

/-- ROUTE(i, j), R308, R311, R448. -/
def sysWriteRoute (s : State) (n v : Nat) : Option State :=
  match routePorts n with
  | some (i, j) => if v < 2 ^ 32 then some (s.writeRoute i j (BitVec.ofNat 64 v)) else none
  | none => none

/-- HVEC of the issuing group's launch, R504. -/
def sysWriteHvec (s : State) (v : Nat) : Option State :=
  if v < 2 ^ 58 && v % 8 == 0 then
    some (s.setLaunch s.cg.launch { s.launch s.cg.launch with hvec := BitVec.ofNat 64 v })
  else none

/-- INJCTLn, R461: TYPE, CLASS and UNIT are written, FIRED stays, and the register is disarmed. -/
def sysWriteInjctl (s : State) (n v : Nat) : Option State :=
  let k := n - 0x390
  let old := (mget 0 s.dev.injctl k).toNat
  let x := v / 2 ^ 28 % 2 ^ 30 * 2 ^ 28 + old / 2 ^ 63 * 2 ^ 63
  some { s with dev := { s.dev with injctl := mset 0 s.dev.injctl k (BitVec.ofNat 64 x) } }

/-- errinj, R434, R461. -/
def errinjEff (s : State) (f : YF) : Eff :=
  s.privileged 0xD6 <|
    if !s.serviceCtx then .trap (trapOf 2)
    else s.guarded f.g true [] (fun _ => []) fun _ =>
      let k := f.imm.toNat
      let old := (mget 0 s.dev.injctl k).toNat % 2 ^ 62
      .retire { s with dev := { s.dev with injctl := mset 0 s.dev.injctl k (BitVec.ofNat 64 (old + 2 ^ 62)) } }

end State

/-- trap, R442. -/
def execTrapSw (f : YF) (s : State) : Host.Outcome State Fault Refusal := s.conclude (s.trapSwEff f)
/-- brk, R442. -/
def execBrk (f : YF) (s : State) : Host.Outcome State Fault Refusal := s.conclude (s.brkEff f)
/-- eret, R443. -/
def execEret (_f : YF) (s : State) : Host.Outcome State Fault Refusal := s.conclude s.eretEff
/-- pmark, R452. -/
def execPmark (f : YF) (s : State) : Host.Outcome State Fault Refusal := s.conclude (s.pmarkEff f)
/-- sysrd, R445. -/
def execSysrd (f : YF) (s : State) : Host.Outcome State Fault Refusal := s.conclude (s.sysrdEff f)
/-- syswr, R445. -/
def execSyswr (f : YF) (s : State) : Host.Outcome State Fault Refusal := s.conclude (s.syswrEff f s.sysWrite)
/-- syswr of ROUTE, R311, R448. -/
def execSyswrRoute (f : YF) (s : State) : Host.Outcome State Fault Refusal := s.conclude (s.syswrEff f s.sysWriteRoute)
/-- syswr of HVEC, R504. -/
def execSyswrHvec (f : YF) (s : State) : Host.Outcome State Fault Refusal := s.conclude (s.syswrEff f fun _ v => s.sysWriteHvec v)
/-- syswr of INJCTLn, R461. -/
def execSyswrInjctl (f : YF) (s : State) : Host.Outcome State Fault Refusal := s.conclude (s.syswrEff f s.sysWriteInjctl)
/-- errinj, R461. -/
def execErrinj (f : YF) (s : State) : Host.Outcome State Fault Refusal := s.conclude (s.errinjEff f)

namespace State

/-- The leaves of a context's tables for pages `lo` to `hi - 1`: through the table of `level` at `base`, whose first page is
`first`, R230. -/
def leaves (s : State) (ctx part lo hi : Nat) : Nat → Nat → Nat → List TlbEntry
  | 0, base, first =>
    (List.range 2048).filterMap fun k =>
      if lo ≤ first + k && decide (first + k < hi) then
        let (pte, pois) := s.readPte (base + 8 * k)
        if pois || !bit pte 0 then none
        else match leafOf ctx part (first + k) 0 pte (base + 8 * k) with | .leaf e => some e | _ => none
      else none
  | level + 1, base, first =>
    (List.range 2048).flatMap fun k =>
      let span := pagesOf (level + 1)
      let p := first + k * span
      if lo < p + span && decide (p < hi) then
        let (pte, pois) := s.readPte (base + 8 * k)
        if pois || !bit pte 0 then []
        else if bit pte 11 then
          (if level + 1 == 3 then [] else match leafOf ctx part p (level + 1) pte (base + 8 * k) with | .leaf e => [e] | _ => [])
        else
          let next := natBits pte.toNat 20 38 * 2 ^ 14
          if Config.deviceMemTop ≤ next then [] else s.leaves ctx part lo hi level next p
      else []

/-- The entry belongs to the address space or, with G = 1, to the partition, R450. -/
def xinvOwn (s : State) (asid part : Nat) (e : TlbEntry) : Bool :=
  match e.part with | some p => p == part | none => (s.ctx e.ctx).asid == asid

end State

/-- The entry translates some page of `lo` to `hi - 1`. -/
def TlbEntry.meets (e : TlbEntry) (lo hi : Nat) : Bool := decide (lo < e.page + pagesOf e.level) && decide (e.page < hi)

/-- The physical bytes that an entry gives to pages `lo` to `hi - 1`: start and length. -/
def TlbEntry.span (e : TlbEntry) (lo hi : Nat) : Nat × Nat :=
  let a := max lo e.page
  let b := min hi (e.page + pagesOf e.level)
  ((e.pfn + (a - e.page)) * 2 ^ 14, (b - a) * 2 ^ 14)

namespace State

/-- Every translation the device holds or has installed since an xinv covered it: the cores' and the dies' TLBs, the ingress MMU's, and
the leaves that a TLB has dropped meanwhile. -/
def allEntries (s : State) : List TlbEntry :=
  s.cores.flatMap (fun (p : Nat × CoreSt) => p.2.tlb) ++ s.diesSt.flatMap (fun (p : Nat × DieSt) => p.2.tlb) ++ s.ingressTlb ++ s.leafs

/-- A line meets some physical span. -/
def inSpans (spans : List (Nat × Nat)) (line : Nat) : Bool :=
  spans.any fun x => decide (line * 256 < x.1 + x.2) && decide (x.1 < line * 256 + 256)

/-- The lines of the spans that a die holds software-managed: in its L2, or as update-only lines of its cores. -/
def swLines (s : State) (spans : List (Nat × Nat)) (d : Nat) : List Nat :=
  let l2 := (s.die d).l2.filterMap fun p => match p.2 with | some l => if l.coh || !inSpans spans p.1 then none else some p.1 | none => none
  let upd := (s.dieCores d).flatMap fun c => (s.core c).upd.filterMap fun u => if u.coh || !inSpans spans u.line then none else some u.line
  (l2 ++ upd).dedup

/-- Write back and invalidate the software-managed sectors of physical spans in every die's L2, whatever their tag, with the deltas of
every core's update-only lines there, R450 step 3. -/
def flushSpans (s : State) (spans : List (Nat × Nat)) : State :=
  (List.range Config.dies).foldl (fun s d => (s.swLines spans d).foldl (fun s line =>
    ((List.range 4).foldl (fun s k => (s.swWriteBack d (line * 4 + k)).swDrop d (line * 4 + k)) (s.mergeDie d line)).swTidy d line) s) s

/-- The flush waits for a home, R312. -/
def flushWaits (s : State) (spans : List (Nat × Nat)) : Bool :=
  (List.range Config.dies).any fun d => (s.swLines spans d).any fun line => (List.range 4).any fun k =>
    match s.l2sect d (line * 4 + k) with
    | some (false, x) => x.drt != 0 && s.homeBusy d (line * 4 + k) true
    | _ => false

/-- What walks have told waiting probes of the pages that an xinv covers is forgotten: they translate afresh, R239, R450 step 5. -/
def untold (s : State) (asid lo hi : Nat) : State :=
  let arm := fun (c : Nat) (a : Arm) => { a with walkFaults := a.walkFaults.filter fun f =>
    !((s.ctx c).asid == asid && decide (lo ≤ f.1) && decide (f.1 < hi)) }
  { s with groups := s.groups.map fun p => (p.1, { p.2 with arm0 := arm p.2.ctx p.2.arm0, arm1 := arm p.2.ctx p.2.arm1 }) }

/-- Drop translations and instruction words, R450 step 4. -/
def dropEntries (s : State) (gone : TlbEntry → Bool) (upper : WalkEntry → Bool) (word : Nat → Bool) : State :=
  let core := fun (p : Nat × CoreSt) =>
    (p.1, { p.2 with tlb := p.2.tlb.filter (fun e => !gone e), icache := p.2.icache.filter (fun w => !word w.1),
                       icPois := p.2.icPois.filter fun w => !word w.1 })
  let die := fun (p : Nat × DieSt) =>
    (p.1, { p.2 with tlb := p.2.tlb.filter (fun e => !gone e), wcache := p.2.wcache.filter fun w => !upper w })
  let queue := fun (q : CopyQueue) => { q with srcPg := q.srcPg.filter (fun e => !gone e), dstPg := q.dstPg.filter fun e => !gone e }
  { s with cores := s.cores.map core, diesSt := s.diesSt.map die,
           teams := s.teams.map fun (p : Nat × Team) => (p.1, { p.2 with queues := p.2.queues.map queue }), ingressTlb := s.ingressTlb.filter (fun e => !gone e),
           leafs := s.leafs.filter fun e => !gone e }

/-- The entries of pages `lo` to `hi - 1` for the executing context's address space and, with G = 1, its partition. -/
def xinvHit (s : State) (lo hi : Nat) (e : TlbEntry) : Bool := s.xinvOwn s.cctx.asid s.cctx.part e && e.meets lo hi

/-- The old and the current physical spans of the pages, R450; the forms that name no range have no flush. -/
def xinvSpans (s : State) (lo hi : Nat) (whole : Bool) : List (Nat × Nat) :=
  let c := s.cctx
  let now := if whole then [] else s.leaves s.cg.ctx c.part lo hi 3 c.ptbase 0
  ((s.allEntries.filter (s.xinvHit lo hi)) ++ now).map fun e => e.span lo hi

/-- Steps 3 and 4 of an xinv of pages `lo` to `hi - 1` of the executing context, R450: the flush, and the invalidations; `whole` for the
forms that name no range, whose instruction caches are emptied. -/
def xinvPages (s : State) (lo hi : Nat) (flush whole : Bool) : State :=
  let spans := s.xinvSpans lo hi whole
  let c := s.cctx
  let upper := fun (w : WalkEntry) => (s.ctx w.ctx).asid == c.asid && decide (lo < (w.idx + 1) * pagesOf w.level) &&
    decide (w.idx * pagesOf w.level < hi)
  let hit := s.xinvHit lo hi
  let s := if flush then s.flushSpans spans else s
  (s.dropEntries hit upper fun pa => whole || spans.any fun x => decide (x.1 ≤ pa) && decide (pa < x.1 + x.2)).untold c.asid lo hi

/-- Another xinv of the device arrived before the executing arm's, R450. -/
def xinvBehind (s : State) : Bool :=
  let own := match s.ca.park with | some (.xinv _ _ n) => n | _ => s.tick
  s.xinvs.any fun x => decide (x.arrived < own)

/-- An xinv waits: for one that arrived before it, and in step 2 of R450 for a checked access that has passed its probe and is not
performed (R239), or a copy page in progress (R339), under the old entries. -/
def xinvWaits (s : State) (lo hi : Nat) : Bool :=
  let inPages := fun (va : Word) => decide (lo ≤ pageOf va.toNat) && decide (pageOf va.toNat < hi)
  let checked := fun (a : Arm) => match a.park with | some (.check trs) => trs.any fun r => inPages r.2.1 | _ => false
  let mine := fun ctx => (s.ctx ctx).asid == s.cctx.asid || (s.ctx ctx).part == s.cctx.part
  let copying := fun (q : CopyQueue) => (q.srcPg ++ q.dstPg).any (s.xinvHit lo hi)
  s.xinvBehind || (s.groups.any fun p => p.2.live && mine p.2.ctx && (checked p.2.arm0 || checked p.2.arm1)) ||
    s.teams.any fun p => !p.2.saved && p.2.queues.any copying

/-- The steps of an xinv, R450: the release, then the wait, in which the arm is parked and new probes of the pages park too, then the
flush and the invalidations. -/
def xinvSteps (s : State) (lo hi : Nat) (flush whole : Bool) : Eff :=
  let finish := fun (s : State) (lo hi : Nat) =>
    if s.xinvWaits lo hi || (flush && s.flushWaits (s.xinvSpans lo hi whole)) then .stay (s.park (.xinv lo hi (match s.ca.park with | some (.xinv _ _ n) => n | _ => s.tick)))
    else .retire (s.xinvPages lo hi flush whole)
  match s.ca.park with
  | some (.xinv lo hi _) => finish s lo hi
  | _ => if s.relWaits 7 then .stay (s.relStay 7) else finish (s.releaseAct 7) lo hi

/-- The pages of xinv.page, R450: page `p` at every size that maps it. -/
def xinvReach (s : State) (p : Nat) : Nat × Nat :=
  let c := s.cctx
  let es := (s.allEntries.filter fun e => s.xinvOwn c.asid c.part e && e.meets p (p + 1)) ++
    s.leaves s.cg.ctx c.part p (p + 1) 3 c.ptbase 0
  (es.foldl (fun m e => min m e.page) p, es.foldl (fun m e => max m (e.page + pagesOf e.level)) (p + 1))

/-- xinv.page, R450: the page of the address at every size that maps it. -/
def xinvPageEff (s : State) (f : YF) : Eff :=
  s.privileged 0xD5 <| s.guarded f.g true [] (fun _ => [.s f.a.toNat]) fun _ =>
    let r := s.xinvReach (pageOf (s.sreg f.a.toNat).toNat)
    s.xinvSteps r.1 r.2 (bit f.sub 2) false

/-- xinv.range, R450. -/
def xinvRangeEff (s : State) (f : YF) : Eff :=
  s.privileged 0xD5 <| s.guarded f.g true [] (fun _ => [.s f.a.toNat, .s f.b.toNat]) fun act =>
    let lo := (s.sreg f.a.toNat).toNat
    let n := (s.sreg f.b.toNat).toNat
    if lo % 16384 != 0 || n % 16384 != 0 || decide (2 ^ 44 < n) then
      .trap (trapOf 15 (s.sreg f.a.toNat) (accessX (lowest act) .read 7))
    else if n == 0 then .retire s
    else s.xinvSteps (lo / 16384) ((lo + n) / 16384) (bit f.sub 2) false

/-- xinv.ctx, R450. -/
def xinvCtxEff (s : State) (f : YF) : Eff :=
  s.privileged 0xD5 <| s.guarded f.g true [] (fun _ => []) fun _ => s.xinvSteps 0 (2 ^ 44) false true

/-- The group that gkill and xshfl name, R387, R444: virtual cluster, core and slot of the issuing context. -/
def named (s : State) (x : Word) : Option Nat :=
  let n := x.toNat
  if 2 ^ 16 ≤ n then none
  else (s.groups.find? fun p => p.2.live && p.2.ctx == s.cg.ctx && p.2.vcluster == n % 16 && p.2.vcore == n / 16 % 128 &&
    p.2.vslot == n / 2048).map (·.1)

/-- The named group is one that pre-emption has saved, R454. -/
def isNamed (s : State) (x : Word) (g : Group) : Bool :=
  g.live && g.ctx == s.cg.ctx && g.vcluster == x.toNat % 16 && g.vcore == x.toNat / 16 % 128 && g.vslot == x.toNat / 2048 &&
    decide (x.toNat < 2 ^ 16)

/-- The saved team that holds the named group. -/
def namedSaved (s : State) (x : Word) : Option Nat :=
  (s.teams.find? fun p => p.2.saved && p.2.groups.any (s.isNamed x)).map (·.1)

/-- Every ended group's tile operations have been acknowledged, R444; its stores are when the step ends. -/
def killDone (s : State) (targets : List Nat) : Bool :=
  targets.all fun u => match s.anyUid u with | some g => (s.grp g).live || (s.grp g).tiles == 0 | none => true

/-- gkill, R444; a group that pre-emption has saved ends in its image. -/
def gkillEff (s : State) (f : YF) : Eff :=
  s.privileged 0xD8 <|
    match s.ca.park with
    | some (.gkill ts) => if s.killDone ts then .retire (s.setS f.d.toNat 1) else .stay s
    | _ =>
      s.guarded f.g true [] (fun _ => [.s f.a.toNat]) fun _ =>
        match s.divergedScalar f.d.toNat with
        | some t => .trap t
        | none =>
          match s.named (s.sreg f.a.toNat) with
          | none =>
            (match s.namedSaved (s.sreg f.a.toNat) with
             | some tid =>
               let x := s.sreg f.a.toNat
               .retire ((s.endSaved tid (trapOf 52) fun g => bit f.sub 0 || s.isNamed x g).setS f.d.toNat 1)
             | none => .retire (s.setS f.d.toNat 0))
          | some g =>
            let targets := if bit f.sub 0 then s.teamGroups (s.grp g).tid else [g]
            let ids := targets.map fun t => (s.grp t).uid
            let self := s.gid
            let s := s.endGroups targets (trapOf 52)
            if targets.contains self then .stay s
            else if s.killDone ids then .retire (s.setS f.d.toNat 1)
            else .stay (s.park (.gkill ids))

end State

/-- xinv.page, R450. -/
def execXinvPage (f : YF) (s : State) : Host.Outcome State Fault Refusal := s.conclude (s.xinvPageEff f)
/-- xinv.range, R450. -/
def execXinvRange (f : YF) (s : State) : Host.Outcome State Fault Refusal := s.conclude (s.xinvRangeEff f)
/-- xinv.ctx, R450. -/
def execXinvCtx (f : YF) (s : State) : Host.Outcome State Fault Refusal := s.conclude (s.xinvCtxEff f)
/-- gkill, R444. -/
def execGkill (f : YF) (s : State) : Host.Outcome State Fault Refusal := s.conclude (s.gkillEff f)

end Sys2Proof.Machine
end

