-- ==== Sys2Proof/Machine/Copy.lean ====
section
/-! DEFINITION. Copy engines, patterns, gathers and stitches (R330-R352, R357-R361, R501, R502). -/

namespace Sys2Proof.Machine

/-- The `n` bytes of a descriptor at `o` as a number. -/
def du (d : List Byte) (o n : Nat) : Nat := natOfBytes ((d.drop o).take n)
/-- The same, signed. -/
def di (d : List Byte) (o n : Nat) : Int := toSigned (8 * n) (du d o n)

/-- Bytes of an element format, R334; 0 for a reserved code. -/
def efmtBytes (c : Nat) : Nat := [1, 2, 4, 8, 4, 2, 2, 1, 1, 1, 2].getD c 0

/-- The floating-point format of an element code 4 to 8, R334. -/
def efmtFp (c : Nat) : FFmt :=
  match c with | 5 => fmtBf16 | 6 => fmtF16 | 7 => fmtE4m3 | 8 => fmtE5m2 | _ => fmtF32

/-- The FMT code that tags a FIFO entry of an element format, R336. -/
def fifoTag (c : Nat) : Option Nat :=
  match c with | 5 => some 0 | 7 => some 1 | 8 => some 2 | 9 => some 3 | 10 => some 4 | 6 => some 5 | _ => none

/-- A format pairing that R334 allows; the conversion is a copy of bits unless both are floating-point codes that differ. -/
def pairingOk (a b : Nat) : Bool :=
  a == b || ((decide (a < 4) || decide (b < 4)) && efmtBytes a == efmtBytes b) ||
    (decide (4 ≤ a) && decide (a ≤ 8) && decide (4 ≤ b) && decide (b ≤ 8))

/-- The fields of a copy descriptor, R332. -/
structure CDesc where
  src : Nat
  dst : Nat
  sk : Nat
  dk : Nat
  sf : Nat
  df : Nat
  rm : Nat
  satf : Bool
  ftz : Bool
  peer : Nat
  ext : List Nat
  bnd : List Nat
  sstr : List Int
  dstr : List Int
  deriving DecidableEq, Repr

def CDesc.of (d : List Byte) : CDesc :=
  let n := min 6 (du d 19 1)
  let dim := fun k => 32 + 16 * k
  { src := du d 0 8, dst := du d 8 8, sk := du d 16 1 % 16, dk := du d 16 1 / 16, sf := du d 17 1 % 16, df := du d 17 1 / 16,
    rm := du d 18 1 % 8, satf := du d 18 1 / 8 % 2 == 1, ftz := du d 18 1 / 16 % 2 == 1, peer := du d 20 2,
    ext := (List.range n).map fun k => du d (dim k) 4, bnd := (List.range n).map fun k => du d (dim k + 4) 4,
    sstr := (List.range n).map fun k => di d (dim k + 8) 4, dstr := (List.range n).map fun k => di d (dim k + 12) 4 }

namespace CDesc

/-- Elements of the copy, R335. -/
def total (c : CDesc) : Nat := c.ext.foldl (fun a x => a * x) 1
def dsz (c : CDesc) : Nat := efmtBytes c.df
def ssz (c : CDesc) : Nat := efmtBytes c.sf
def toFifo (c : CDesc) : Bool := c.dk == 3 || c.dk == 4

/-- Every element address that is used is aligned, R335, R337: the base, and each stride that some used element takes. -/
def aligned (base : Nat) (strides : List Int) (counts : List Nat) (n : Nat) : Bool :=
  counts.any (· == 0) || (base % n == 0 && (strides.zip counts).all fun x => decide (x.2 < 2) || x.1 % (n : Int) == 0)

/-- The descriptor is valid, R336, R337. -/
def valid (d : List Byte) : Bool :=
  let c := of d
  let nd := du d 19 1
  d.length == 128 && du d 18 1 < 32 && du d 22 10 == 0 && decide (1 ≤ nd) && decide (nd ≤ 6) &&
    (((d.drop (32 + 16 * nd)).take (16 * (6 - nd))).all (· == 0)) &&
    [0, 1, 2, 5].contains c.sk && decide (c.dk ≤ 5) && !(c.sk == 5 && c.dk == 5) &&
    (if c.sk == 5 || c.dk == 5 then decide (c.peer ≤ 255) else c.peer == 0) &&
    decide (c.sf ≤ 10) && decide (c.df ≤ 10) && pairingOk c.sf c.df && decide (c.rm ≤ 5) &&
    c.ext.all (0 < ·) && ((c.ext.zip c.bnd).all fun x => decide (x.2 ≤ x.1)) && decide (c.total ≤ 2 ^ 32) &&
    aligned c.src c.sstr c.bnd c.ssz && (c.toFifo || aligned c.dst c.dstr c.ext c.dsz) &&
    (!c.toFifo || (match fifoTag c.df with
      | some t => c.dstr.all (· == 0) && c.total * c.dsz % entryBytes t == 0
      | none => false))

/-- The indices of element `k`, dimension 0 fastest, R335. -/
def unravel : List Nat → Nat → List Nat
  | [], _ => []
  | e :: es, k => k % e :: unravel es (k / e)

def addr (base : Nat) (strides : List Int) (idx : List Nat) : Word :=
  BitVec.ofInt 64 ((base : Int) + (strides.zip idx).foldl (fun (a : Int) x => a + x.1 * (x.2 : Int)) 0)

/-- Element `k`: its source address where it is read, and its destination address. -/
def elemSrc (c : CDesc) (k : Nat) : Option Word :=
  let ix := unravel c.ext k
  if (ix.zip c.bnd).all fun x => decide (x.1 < x.2) then some (addr c.src c.sstr ix) else none
def elemDst (c : CDesc) (k : Nat) : Word := addr c.dst c.dstr (unravel c.ext k)

end CDesc

/-- A failure of one element: the address, the destination side, the reason of R360. -/
structure XFail where
  ad : Word
  dst : Bool
  reason : Nat
  deriving DecidableEq, Repr

namespace State

/-- The leaf of a page that an engine touches first, R339: from the TLBs, else by a walk, R234, R237. An error is the reason of R360, or 0
where the engine waits: for an xinv that has begun (R450), or for the home of a page table (R312). -/
def engLeaf (s : State) (c ctx page : Nat) : Except Nat (State × TlbEntry) :=
  let d := coreDie c
  if s.xinvPending ctx page then .error 0
  else match s.tlbFind c ctx page with
    | some e => .ok (s, e)
    | none =>
      let s := s.walkInject d ctx (s.dieWalk d ctx page)
      let w := s.dieWalk d ctx page
      if s.waitsAny d (s.ctx ctx).part (s.walkNeeds d ctx w) then .error 0
      else match w.res with
        | .leaf e =>
          let s := s.chargeHomes d (s.ctx ctx).part (s.walkNeeds d ctx w)
          let (s, e) := if bit e.pte 6 then (s, e) else (s.orPte e 64, { e with pte := e.pte ||| 64 })
          .ok ((s.wcacheAdd d w.upper).l2TlbAdd d e, e)
        | _ => .error 2

/-- An engine translates at user level, R339: by the entry of `kept` for a page that it has touched, else afresh. -/
def engXlate (s : State) (c ctx : Nat) (write : Bool) (kept : List TlbEntry) (va : Word) : Except Nat (State × Tr × TlbEntry) :=
  let page := pageOf va.toNat
  let tr := fun (e : TlbEntry) => (⟨e.pa va.toNat, e.coh, e.chk, e.smode, e.sliceNo⟩ : Tr)
  if 2 ^ 58 ≤ va.toNat then .error 2
  else match kept.find? fun e => e.hits ctx (s.ctx ctx).part page with
    | some e => .ok (s, tr e, e)
    | none => match s.engLeaf c ctx page with
      | .error r => .error r
      | .ok (s, e) =>
        if (permit e true (if write then .write else .read)).isSome then .error 3
        else if write && !e.d && s.waitsHome (coreDie c) (s.ctx ctx).part (e.pteAddr / 64) true then .error 0
        else .ok (if write then s.useEntry c .write e else s, tr e, e)

/-- What an access of an engine asks of the home of its sector, R338. -/
def engNeeds (s : State) (c ctx : Nat) (t : Tr) (n : Nat) (write : Bool) : List (Nat × Bool) :=
  let sect := t.pa / 64
  if t.hole || t.host then []
  else if t.uncached then [(sect, write)]
  else s.mergeNeeds c (fun u => u.line == sect / 4) ++
    s.turnNeeds (coreDie c) t.coh (sect / 4) ++
    ((s.l2Need (coreDie c) ctx t.coh (sliceOf c t) sect (byteMask (t.pa % 64) n) write).map fun w => (sect, w)).toList ++
    (if write && !t.coh then s.listNeeds (coreDie c) ctx (sliceOf c t) sect else [])

/-- The engine waits for a home, or for a route to the host I/O die, R312, R480. -/
def engWaits (s : State) (c ctx : Nat) (t : Tr) (n : Nat) (write : Bool) : Bool :=
  s.waitsAny (coreDie c) (s.ctx ctx).part (s.engNeeds c ctx t n write) || ((t.hole || t.host) && s.cutFrom (coreDie c) 25)

/-- An engine reads `n` bytes of one sector of global memory, R338: at the die L2, or at the home. -/
def engRead (s : State) (c ctx : Nat) (t : Tr) (n : Nat) : State × List Byte × Bool :=
  if t.hole || t.host || t.uncached then s.gread c ctx t n
  else
    let s := (s.readInject c ctx t n).mergeUpd c fun u => u.line == t.pa / 256
    let (s, data, psn) := (s.l2Reach (coreDie c) ctx t.coh (sliceOf c t) (t.pa / 256)).l2Fill (coreDie c) ctx t.coh (t.pa / 64)
      (byteMask (t.pa % 64) n)
    (s, (List.range n).map fun k => data.getD (t.pa % 64 + k) 0, psn)

/-- An engine writes bytes of one sector, R338: its core's L1 drops its copy. -/
def engWrite (s : State) (c ctx : Nat) (t : Tr) (bs : List Byte) (pois : Bool) : State :=
  let s := (s.l1Drop c (t.pa / 64)).noteStore (t.pa / 64)
  if t.hole || t.host || t.uncached then s.gput c ctx t bs pois
  else
    let s := s.mergeUpd c fun u => u.line == t.pa / 256
    (s.l2Reach (coreDie c) ctx t.coh (sliceOf c t) (t.pa / 256)).l2Store (coreDie c) ctx t.coh (t.pa / 64)
      (byteMask (t.pa % 64) bs.length) (place (t.pa % 64) bs) pois

/-- Where a scratchpad or window address of a team lies, R244. -/
def engLoc (s : State) (tid : Nat) (window : Bool) (a : Word) (n : Nat) : Option (Nat × Nat) :=
  let t := s.team tid
  if !window then (if a.toNat + n ≤ t.scratch then some (tid, a.toNat) else none)
  else if 2 ^ 25 ≤ a.toNat || decide (t.scratch < a.toNat % 2 ^ 18 + n) then none
  else (s.panelTeam t.panel (a.toNat / 2 ^ 18)).map fun x => (x, a.toNat % 2 ^ 18)

/-- The queue of a team. -/
def queue (s : State) (tid q : Nat) : CopyQueue := (s.team tid).queues.getD q {}
def setQueue (s : State) (tid q : Nat) (x : CopyQueue) : State :=
  s.setTeam tid { s.team tid with queues := (s.team tid).queues.set q x }

/-- A queue keeps the translations of the source and destination pages that it has touched, R339; there is no queue 5, which stands for an
access that keeps none. -/
def keepPage (s : State) (tid q : Nat) (write : Bool) (e : TlbEntry) : State :=
  let u := s.queue tid q
  let add := fun (l : List TlbEntry) => if l.contains e then l else l ++ [e]
  if q == 5 then s else s.setQueue tid q (if write then { u with dstPg := add u.dstPg } else { u with srcPg := add u.srcPg })

/-- An engine of a team touches the page of an address, R339. -/
def touchPage (s : State) (tid q : Nat) (write : Bool) (a : Word) : Except Nat State :=
  let t := s.team tid
  (s.engXlate t.core t.ctx write (if write then (s.queue tid q).dstPg else (s.queue tid q).srcPg) a).map fun r => r.1.keepPage tid q write r.2.2

/-- An engine of a team reads `n` bytes in a space of R333 for a queue; a peer's bytes are asked of it, once the plane carries the request
(R338, R488), and come with the event. -/
def spaceRead (s : State) (tid q kind : Nat) (a : Word) (n : Nat) (pn : Nat) (peer : List MarkedByte) :
    Except XFail (State × List Byte × Bool) :=
  let t := s.team tid
  if kind == 0 then
    match s.engXlate t.core t.ctx false (s.queue tid q).srcPg a with
    | .error r => .error ⟨a, false, r⟩
    | .ok (s, tr, e) =>
      if s.engWaits t.core t.ctx tr n false then .error ⟨a, false, 0⟩
      else .ok (((s.keepPage tid q false e).chargeHomes (coreDie t.core) (s.ctx t.ctx).part (s.engNeeds t.core t.ctx tr n false)).engRead t.core t.ctx tr n)
  else if kind == 5 then
    let dev := (mget 0 (s.ctx t.ctx).peers pn).toNat % 256
    (if peer.length < n || s.heldTo dev true then .error ⟨a, false, 0⟩
     else .ok (s.transmit dev true (.peerRead pn a n), (peer.take n).map (·.1), (peer.take n).any (·.2)))
  else match s.engLoc tid (kind == 2) a n with
    | none => .error ⟨a, false, 4⟩
    | some (x, o) => let s := s.spInject x o n; let (bs, p) := s.spRead x o n; .ok (s, bs, p)

/-- An engine of a team writes bytes in a space of R333 for a queue; a write to a peer leaves the device, or waits for its plane
(R488). -/
def spaceWrite (s : State) (tid q kind : Nat) (a : Word) (bs : List Byte) (pois : Bool) (peer : Nat) : Except XFail State :=
  let t := s.team tid
  let dev := (mget 0 (s.ctx t.ctx).peers peer).toNat % 256
  if kind == 0 then
    match s.engXlate t.core t.ctx true (s.queue tid q).dstPg a with
    | .error r => .error ⟨a, true, r⟩
    | .ok (s, tr, e) =>
      if s.engWaits t.core t.ctx tr bs.length true then .error ⟨a, true, 0⟩
      else .ok (((s.keepPage tid q true e).chargeHomes (coreDie t.core) (s.ctx t.ctx).part (s.engNeeds t.core t.ctx tr bs.length true)).engWrite
        t.core t.ctx tr bs pois)
  else if kind == 5 then
    (if s.heldTo dev true then .error ⟨a, true, 0⟩ else .ok (s.transmit dev true (.peerWrite peer a (bs.map fun b => (b, pois)))))
  else match s.engLoc tid (kind == 2) a bs.length with
    | none => .error ⟨a, true, 4⟩
    | some (x, o) => .ok (s.spStore x o bs pois)

end State

/-- One entry of a FIFO takes bytes at offset `o`, R402, R426: the row of A or the column of B that they lie in is poisoned with
them. -/
def FifoEntry.put (e : FifoEntry) (o : Nat) (bs : List Byte) (pois : Bool) : FifoEntry :=
  { e with data := msetList 0 e.data o bs, written := e.written + bs.length,
           pois := if pois then setBit e.pois (o / (e.size / 32)) true else e.pois }

namespace State

/-- Free bytes of a team's FIFO, R401: a popped B entry keeps its space until its operation ends, R419. -/
def fifoFree (t : Team) (isB : Bool) : Nat :=
  let held := if isB then t.mmaQ.foldl (fun n m => n + (match m.b with | some e => e.size | none => 0)) 0 else 0
  (if isB then Config.fifoBBytes else Config.fifoABytes) -
    (held + (if isB then t.fifoB else t.fifoA).foldl (fun n e => n + e.size) 0)

/-- Reserve `n` entries of a FIFO copy at the tail, its parts from `first` on, R336, R403. -/
def fifoReserve (s : State) (tid : Nat) (isB : Bool) (id tag first n : Nat) : State :=
  let t := s.team tid
  let z := entryBytes tag
  let es := (List.range n).map fun k => (⟨tag, z, [], 0, 0, id, first + k⟩ : FifoEntry)
  s.setTeam tid (if isB then { t with fifoB := t.fifoB ++ es } else { t with fifoA := t.fifoA ++ es })

/-- Make sure that the entry of byte `pos` of a FIFO copy of `bytes` bytes is reserved, R336: the state and the entries reserved
by now, or `none` where the copy waits for space. All its entries are reserved when it starts; of a copy longer than the FIFO as
many as the FIFO holds, and each further one when it is reached (log 42). -/
def fifoSpace (s : State) (tid : Nat) (isB : Bool) (id tag resv bytes pos : Nat) : Option (State × Nat) :=
  let z := max 1 (entryBytes tag)
  let n := if resv == 0 then min (bytes / z) ((if isB then Config.fifoBBytes else Config.fifoABytes) / z) else 1
  if decide (pos / z < resv) || decide (bytes ≤ pos) then some (s, resv)
  else if fifoFree (s.team tid) isB < n * z then none
  else some (s.fifoReserve tid isB id tag resv n, resv + n)

/-- Bytes of a FIFO copy arrive at position `pos` of the copy; an entry that is gone drops them, R403, R420. -/
def fifoPut (s : State) (tid : Nat) (isB : Bool) (id tag pos : Nat) (bs : List Byte) (pois : Bool) : State :=
  let t := s.team tid
  let z := entryBytes tag
  let one := fun (e : FifoEntry) => if e.copy == id && e.part == pos / z then e.put (pos % z) bs pois else e
  s.setTeam tid (if isB then { t with fifoB := t.fifoB.map one } else { t with fifoA := t.fifoA.map one })

/-- The value delivered for one element read, R334, R501: bits unchanged, or converted with the queue's xorshift state. -/
def convert (s : State) (tid q : Nat) (c : CDesc) (x : Nat) : State × Nat :=
  if c.sf == c.df || decide (c.sf < 4) || decide (c.df < 4) then (s, x)
  else
    let u := s.queue tid q
    let ctl : FCtl := { mode := c.rm, ftz := c.ftz, ftzi := false, satf := c.satf, fen := 0 }
    let (v, _, xs) := ctl.round (efmtFp c.df) (unpackF (efmtFp c.sf) false x) u.xs
    (s.setQueue tid q { u with xs := xs }, v)

/-- The bytes of element `k` at the destination: read and converted, or a zero, R335. -/
def elemValue (s : State) (tid q : Nat) (c : CDesc) (k : Nat) (peer : List MarkedByte) : Except XFail (State × Nat × Bool) :=
  match c.elemSrc k with
  | none => .ok (s, 0, false)
  | some a =>
    match s.spaceRead tid q c.sk a c.ssz c.peer peer with
    | .error e => .error e
    | .ok (s, bs, p) => let (s, v) := s.convert tid q c (natOfBytes bs); .ok (s, v, p)

/-- Deliver the value of element `k` to the destination of a team. -/
def elemPut (s : State) (tid q : Nat) (c : CDesc) (id k v : Nat) (pois : Bool) : Except XFail State :=
  let bs := bytesOfNat c.dsz v
  if c.toFifo then .ok (s.fifoPut tid (c.dk == 4) id ((fifoTag c.df).getD 0) (k * c.dsz) bs pois)
  else s.spaceWrite tid q c.dk (c.elemDst k) bs pois c.peer

/-- One element of a copy: the state, and whether it is poisoned. -/
def copyElem (s : State) (tid q : Nat) (e : CopyEntry) (k : Nat) (peer : List MarkedByte) : Except XFail (State × Bool) :=
  let c := CDesc.of e.desc
  match s.elemValue tid q c k peer with
  | .error x => .error x
  | .ok (s, v, p) => (s.elemPut tid q c e.id k v p).map (·, p)

end State

/-- A gather descriptor, R351. -/
structure GDesc where
  tbase : Nat
  dst : Nat
  idx : Nat
  count : Nat
  rbytes : Nat
  nrows : Nat
  dk : Nat
  fmt : Nat
  cqe : Bool
  tag : Nat
  rstride : Int
  deriving DecidableEq, Repr

def GDesc.of (d : List Byte) : GDesc :=
  { tbase := du d 0 8, dst := du d 8 8, idx := du d 16 4, count := du d 20 4, rbytes := du d 24 4, nrows := du d 28 4,
    dk := du d 32 1 % 16, fmt := du d 32 1 / 16, cqe := du d 33 1 % 2 == 1, tag := du d 34 2, rstride := di d 36 8 }

def GDesc.toFifo (g : GDesc) : Bool := g.dk == 3 || g.dk == 4

/-- The gather descriptor is valid, R336, R351. DK[7:4] has a meaning for a FIFO alone; elsewhere a nonzero value is invalid (DESIGN CHOICE,
log 53). -/
def GDesc.valid (d : List Byte) : Bool :=
  let g := of d
  d.length == 64 && g.idx % 4 == 0 && decide (1 ≤ g.count) && decide (g.count ≤ 65535) && g.rbytes % 4 == 0 &&
    decide (4 ≤ g.rbytes) && decide (g.rbytes ≤ 4096) && decide (g.dk ≤ 4) && du d 33 1 < 2 && du d 44 20 == 0 &&
    (if g.toFifo then (match fifoTag g.fmt with | some t => g.count * g.rbytes % entryBytes t == 0 | none => false)
     else g.fmt == 0)

namespace State

/-- Byte `j` of output row `r` of a gather, R352: the state, and whether the byte is poisoned. -/
def gatherByte (s : State) (tid : Nat) (e : CopyEntry) (r j : Nat) : Except XFail (State × Bool) :=
  let g := GDesc.of e.desc
  let (ix, p0) := e.idx.getD r (0, false)
  let read : Except XFail (State × List Byte × Bool) :=
    if g.nrows ≤ ix then .ok (s, [0], p0)
    else s.spaceRead tid 4 0 (BitVec.ofInt 64 ((g.tbase : Int) + (ix : Int) * g.rstride + j)) 1 0 []
  match read with
  | .error x => .error x
  | .ok (s, bs, p) =>
    let o := r * g.rbytes + j
    if g.toFifo then .ok (s.fifoPut tid (g.dk == 4) e.id ((fifoTag g.fmt).getD 0) o bs (p || p0), p || p0)
    else (s.spaceWrite tid 4 g.dk (BitVec.ofNat 64 (g.dst + o)) bs (p || p0) 0).map (·, p || p0)

/-- The pages of an output row are touched before the row is begun, R339: it then goes on under these translations. -/
def gatherTouch (s : State) (tid : Nat) (e : CopyEntry) (r : Nat) : Except XFail State :=
  let g := GDesc.of e.desc
  let ix := (e.idx.getD r (0, false)).1
  let src := fun j => BitVec.ofInt 64 ((g.tbase : Int) + (ix : Int) * g.rstride + (j : Nat))
  let dst := fun j => BitVec.ofNat 64 (g.dst + r * g.rbytes + j)
  (List.range g.rbytes).foldl (fun acc j => match acc with
    | .error x => .error x
    | .ok s =>
      match if g.nrows ≤ ix then .ok s else (s.touchPage tid 4 false (src j)).mapError fun k => (⟨src j, false, k⟩ : XFail) with
      | .error x => .error x
      | .ok s => if g.dk == 0 then (s.touchPage tid 4 true (dst j)).mapError fun k => ⟨dst j, true, k⟩ else .ok s) (.ok s)

/-- A whole output row can be read and written: a failing row leaves none of its bytes, R341, R352. -/
def gatherRow (s : State) (tid : Nat) (e : CopyEntry) (r : Nat) : Except XFail State :=
  (List.range (GDesc.of e.desc).rbytes).foldl (fun acc j => match acc with
    | .ok s => (s.gatherByte tid e r j).map (·.1)
    | .error x => .error x) (.ok s)

/-- Element `k` of an entry: of a copy, or byte `k` of a gather. -/
def entryElem (s : State) (tid q : Nat) (e : CopyEntry) (k : Nat) (peer : List MarkedByte) : Except XFail (State × Bool) :=
  match e.kind with
  | .gather =>
    let n := (GDesc.of e.desc).rbytes
    if k % n == 0 then
      match s.gatherTouch tid e (k / n) with
      | .error x => .error x
      | .ok s => match s.gatherRow tid e (k / n) with
        | .error x => .error x
        | .ok _ => s.gatherByte tid e (k / n) 0
    else s.gatherByte tid e (k / n) (k % n)
  | _ => s.copyElem tid q e k peer

end State

namespace CopyEntry

/-- Elements of an entry, the bytes of each, and the address that batches divide by 256: the destination address, or the position
in a FIFO. -/
def total (e : CopyEntry) : Nat :=
  match e.kind with | .gather => (GDesc.of e.desc).count * (GDesc.of e.desc).rbytes | .stitch _ => 0 | _ => (CDesc.of e.desc).total
def size (e : CopyEntry) : Nat := match e.kind with | .gather => 1 | _ => (CDesc.of e.desc).dsz
def fifo (e : CopyEntry) : Bool := match e.kind with | .gather => (GDesc.of e.desc).toFifo | _ => (CDesc.of e.desc).toFifo
def place (e : CopyEntry) (k : Nat) : Nat :=
  match e.kind with
  | .gather => if (GDesc.of e.desc).toFifo then k else (GDesc.of e.desc).dst + k
  | _ => if (CDesc.of e.desc).toFifo then k * (CDesc.of e.desc).dsz else ((CDesc.of e.desc).elemDst k).toNat
/-- The destination space, R333. -/
def dkind (e : CopyEntry) : Nat := match e.kind with | .gather => (GDesc.of e.desc).dk | _ => (CDesc.of e.desc).dk
def descOk (e : CopyEntry) : Bool :=
  match e.kind with | .gather => GDesc.valid e.desc | .stitch _ => true | _ => CDesc.valid e.desc
/-- Which FIFO, and the tag of its entries. -/
def isB (e : CopyEntry) : Bool := e.dkind == 4
def tag (e : CopyEntry) : Nat :=
  (fifoTag (match e.kind with | .gather => (GDesc.of e.desc).fmt | _ => (CDesc.of e.desc).df)).getD 0

end CopyEntry

namespace State

/-- Deliver up to `n` elements from `k` on, within one 256-byte line and 256 bytes, R340: the state, the elements delivered, and the
places and marks of their bytes. -/
def batchFrom (s : State) (tid q : Nat) (e : CopyEntry) (line : Nat) (peer : List MarkedByte) (k : Nat) :
    Nat → Nat → List (Nat × Bool) → State × Nat × List (Nat × Bool)
  | 0, got, ws => (s, got, ws)
  | n + 1, got, ws =>
    if e.total ≤ k || e.place k / 256 != line || decide (256 < (got + 1) * e.size) then (s, got, ws)
    else match s.entryElem tid q e k (peer.drop (got * (CDesc.of e.desc).ssz)) with
      | .error _ => (s, got, ws)
      | .ok (s, p) => s.batchFrom tid q e line peer (k + 1) n (got + 1) (ws ++ (List.range e.size).map fun j => (e.place k + j, p))

/-- An engine has written whole sectors of global memory with clean data, R499. -/
def engClean (s : State) (tid q : Nat) (sects : List Nat) : State :=
  let t := s.team tid
  sects.foldl (fun s k => match s.engXlate t.core t.ctx true (s.queue tid q).dstPg (BitVec.ofNat 64 (64 * k)) with
    | .error _ => s
    | .ok (s, tr, _) => s.cleanSector t.core tr) s

/-- One batch of at most `n` elements, R340, R499: the state and the elements delivered. -/
def batch (s : State) (tid q : Nat) (e : CopyEntry) (n : Nat) (peer : List MarkedByte) : State × Nat :=
  let (s, got, ws) := s.batchFrom tid q e (e.place e.pos / 256) peer e.pos n 0 []
  (if e.dkind == 0 then s.engClean tid q (wholeSectors ws) else s, got)

/-- Replace the head entry of a queue. -/
def setHead (s : State) (tid q : Nat) (e : CopyEntry) : State :=
  let u := s.queue tid q
  s.setQueue tid q { u with entries := e :: u.entries.tail }

/-- The global addresses of element `k` of an entry: where it is read, and where it is written. -/
def elemPages (e : CopyEntry) (k : Nat) : Option Word × Option Word :=
  match e.kind with
  | .gather =>
    let g := GDesc.of e.desc
    let ix := (e.idx.getD (k / g.rbytes) (0, false)).1
    (if g.nrows ≤ ix then none else some (BitVec.ofInt 64 ((g.tbase : Int) + (ix : Int) * g.rstride + (k % g.rbytes : Nat))),
      if g.dk == 0 then some (BitVec.ofNat 64 (g.dst + k)) else none)
  | _ =>
    let c := CDesc.of e.desc
    (if c.sk == 0 then c.elemSrc k else none, if c.dk == 0 then some (c.elemDst k) else none)

/-- The elements of an entry that are not yet read. -/
def nextElem (e : CopyEntry) : Nat := match e.kind with | .multi _ _ buf => buf.length | _ => e.pos

/-- While an xinv is being performed a queue forgets the translations of the pages that it has finished, R339, R450. A copy whose next
element the xinv holds up at a first touch goes on under the new translations: it forgets the pages that the xinv covers too (log 22). -/
def tidyPages (s : State) (tid q : Nat) (e : CopyEntry) : State :=
  let u := s.queue tid q
  let t := s.team tid
  if s.xinvs.isEmpty || (u.srcPg.isEmpty && u.dstPg.isEmpty) then s
  else
    let on := fun (x : TlbEntry) (a : Word) => x.hits t.ctx (s.ctx t.ctx).part (pageOf a.toNat)
    let left := (List.range (e.total - nextElem e)).map fun j => elemPages e (nextElem e + j)
    let first := fun (l : List TlbEntry) (a : Option Word) => match a with
      | some a => !l.any (on · a) && s.xinvPending t.ctx (pageOf a.toNat)
      | none => false
    let stuck := match left with | x :: _ => first u.srcPg x.1 || first u.dstPg x.2 | [] => false
    let keep := fun (side : Option Word × Option Word → Option Word) (x : TlbEntry) =>
      (left.any fun p => (side p).any (on x)) &&
        !(stuck && s.xinvNow.any fun v => (s.ctx v.ctx).asid == (s.ctx t.ctx).asid && decide (v.lo < x.page + pagesOf x.level) && decide (x.page < v.hi))
    s.setQueue tid q { u with srcPg := u.srcPg.filter (keep (·.1)), dstPg := u.dstPg.filter (keep (·.2)) }

/-- A delivery counts in PEND, R207, R340. -/
def countBytes (s : State) (tid lid bar n : Nat) (ct : Ct) : State :=
  if ct == .bar then s.modRec tid lid bar fun r => r.deliver n else s

/-- The head entry of a queue that may be worked on: the queue is not stopped, nor its team saved (R361). -/
def qHead (s : State) (tid q : Nat) : Option CopyEntry :=
  let u := s.queue tid q
  if u.stop.isSome || (s.team tid).saved then none else u.entries.head?

/-- No entry that was enqueued in a named queue before the stitch is left, R357. -/
def stitchDone (s : State) (tid own : Nat) (e : CopyEntry) (mask : Nat) : Bool :=
  (List.range 5).all fun q => q == own || natBits mask q 1 == 0 || (s.queue tid q).entries.all fun x => decide (e.id < x.id)

/-- A FIFO destination belongs to the team, R403. -/
def tileOk (s : State) (tid : Nat) : Bool := (s.team tid).live && (s.team tid).accBudget != 0

/-- The index list of a gather with the poison of its words, R352. -/
def readIdx (s : State) (tid : Nat) (g : GDesc) : List (Nat × Bool) :=
  (List.range g.count).map fun k =>
    let (bs, p) := s.spRead tid (g.idx + 4 * k) 4
    (natOfBytes bs, p)

/-- Why an entry cannot start, R337, R351, R352, R403. -/
def startFail (s : State) (tid : Nat) (e : CopyEntry) : Option XFail :=
  if !e.descOk then some ⟨0, false, 1⟩
  else match e.kind with
    | .gather =>
      let g := GDesc.of e.desc
      if (s.team tid).scratch < g.idx + 4 * g.count then some ⟨BitVec.ofNat 64 g.idx, false, 4⟩
      else if g.toFifo && !s.tileOk tid then some ⟨0, true, 4⟩ else none
    | .copy => if e.fifo && !s.tileOk tid then some ⟨0, true, 4⟩ else none
    | _ => none

end State

/-- COPY_ENTRY_START, R336, R351, R357: the head entry of a queue starts; a stitch whose wait is over is performed; a FIFO copy
reserves its entries, or waits while there is no space; a gather reads its index list, unless a completion entry of its team
is held (R354). -/
def execCopyEntryStart (tid q : Nat) (s : State) : Host.Outcome State Fault Refusal :=
  match s.qHead tid q with
  | none => .next s
  | some e =>
    let u := s.queue tid q
    if e.started || (s.startFail tid e).isSome then .next s
    else match e.kind with
      | .stitch m => if s.stitchDone tid q e m then .next (s.setQueue tid q { u with entries := u.entries.tail }) else .next s
      | .multi _ _ _ => .next (s.setHead tid q { e with started := true })
      | _ =>
        let s := match e.kind with
          | .gather => s.spInject tid (GDesc.of e.desc).idx (4 * (GDesc.of e.desc).count)
          | _ => s
        let idx := match e.kind with | .gather => s.readIdx tid (GDesc.of e.desc) | _ => []
        let bytes := e.total * e.size
        if q == 4 && (s.team tid).held.any fun h => h.1 == 5 then .next s
        else if !e.fifo then .next (s.setHead tid q { e with started := true, idx := idx })
        else match s.fifoSpace tid e.isB e.id e.tag 0 bytes 0 with
          | none => .next s
          | some (s, r) => .next (s.setHead tid q { e with started := true, resv := r, idx := idx })

namespace State

/-- The value of element `k` of a multicast: read once for all destinations, R344, R501. -/
def mcValue (s : State) (tid q : Nat) (e : CopyEntry) (buf : List (Nat × Bool)) (k : Nat) (peer : List MarkedByte) :
    Except XFail (State × List (Nat × Bool) × Nat × Bool) :=
  match buf[k]? with
  | some (v, p) => .ok (s, buf, v, p)
  | none =>
    match s.elemValue tid q (CDesc.of e.desc) k peer with
    | .error x => .error x
    | .ok (s, v, p) => .ok (s, buf ++ [(v, p)], v, p)

/-- Deliver one value to a destination core of a multicast, R344: into its FIFO, or at its window address. A FIFO of a team that is no tile
team, or that ended before the copy reserved anything there, is a fault; of one that has ended since, the bytes are dropped (R403). -/
def mcPut (s : State) (e : CopyEntry) (d : McDest) (v : Nat) (pois : Bool) : Except XFail State :=
  let c := CDesc.of e.desc
  if c.toFifo then
    (if (s.team d.tid).accBudget == 0 || (!(s.team d.tid).live && d.reserved == 0) then .error ⟨0, true, 4⟩
     else .ok (s.fifoPut d.tid (c.dk == 4) e.id e.tag (d.pos * c.dsz) (bytesOfNat c.dsz v) pois))
  else
    let a := c.elemDst d.pos
    if 2 ^ 18 ≤ a.toNat || decide ((s.team d.tid).scratch < a.toNat + c.dsz) then .error ⟨a, true, 4⟩
    else .ok (s.spStore d.tid a.toNat (bytesOfNat c.dsz v) pois)

/-- Deliver up to `n` elements to one destination of a multicast. -/
def mcBatch (s : State) (tid q : Nat) (e : CopyEntry) (line : Nat) (peer : List MarkedByte) (buf : List (Nat × Bool)) (d : McDest) :
    Nat → Nat → State × List (Nat × Bool) × McDest × Nat
  | 0, got => (s, buf, d, got)
  | n + 1, got =>
    if e.total ≤ d.pos || e.place d.pos / 256 != line || decide (256 < (got + 1) * e.size) then (s, buf, d, got)
    else match s.mcValue tid q e buf d.pos (peer.drop (got * (CDesc.of e.desc).ssz)) with
      | .error _ => (s, buf, d, got)
      | .ok (s, buf, v, p) =>
        match s.mcPut e d v p with
        | .error _ => (s, buf, d, got)
        | .ok s => s.mcBatch tid q e line peer buf { d with pos := d.pos + 1 } n (got + 1)

/-- The completion of an entry performs, for its own writes, the release of its scope, R276, R340: updates of the regions that its core
publishes are delivered, and from device scope the context's dirty sectors are written back. -/
def entryRelease (s : State) (tid sc : Nat) : State :=
  let t := s.team tid
  let s := s.drainSubs t.core
  if 7 ≤ sc && sc != 15 then s.writeBackCtx (coreDie t.core) t.ctx else s

/-- That release waits for a home, R312. -/
def entryWaits (s : State) (tid sc : Nat) : Bool :=
  let t := s.team tid
  decide (7 ≤ sc) && sc != 15 && s.waitsAny (coreDie t.core) (s.ctx t.ctx).part (s.writeBackNeeds (coreDie t.core) fun c => c == t.ctx)

/-- One destination of a multicast takes a batch; its FIFO entries are reserved first, and wait for space, R336, R344; under CT 1 the
batch is released and then counted, R340. -/
def mcDeliver (s : State) (tid q : Nat) (e : CopyEntry) (dests : List McDest) (off : Nat) (buf : List (Nat × Bool)) (core n : Nat)
    (peer : List MarkedByte) : State :=
  match dests.find? fun d => d.core == core && !d.failed with
  | none => s
  | some d =>
    let bytes := e.total * e.size
    let isTile := s.tileOk d.tid
    match if e.fifo && isTile then s.fifoSpace d.tid e.isB e.id e.tag d.reserved bytes (d.pos * e.size)
      else some (s, d.reserved) with
    | none => s
    | some (s, r) =>
      let d := { d with reserved := r }
      let (s, buf, d, got) := s.mcBatch tid q e (e.place d.pos / 256) peer buf d n 0
      let s := if e.ct == .bar then s.entryRelease tid e.sc else s
      let s := s.countBytes d.tid 0 e.bar (got * e.size) e.ct
      s.setHead tid q { e with kind := .multi (dests.map fun x => if x.core == core then d else x) off buf }

end State

/-- COPY_BATCH_DELIVERY, R340: the next elements of a started entry are written, in element order (DESIGN CHOICE, log 53: R340 fixes no
order of the batches); under CT 1 they are released and then counted. The engine waits where an element does: for a home (R312, R480), a plane (R488), or an xinv (R450). -/
def execCopyBatchDelivery (tid q n : Nat) (peer : List MarkedByte) (s : State) : Host.Outcome State Fault Refusal :=
  match s.qHead tid q with
  | none => .next s
  | some e =>
    let s := s.tidyPages tid q e
    if !e.started || (e.ct == .bar && s.entryWaits tid e.sc) then .next s
    else match e.kind with
      | .stitch _ => .next s
      | .multi dests off buf => .next (s.mcDeliver tid q e dests off buf (n / 4096) (n % 4096) peer)
      | _ =>
        match if e.fifo && s.tileOk tid then s.fifoSpace tid e.isB e.id e.tag e.resv (e.total * e.size) (e.pos * e.size)
          else some (s, e.resv) with
        | none => .next s
        | some (s, r) =>
          let (s, got) := s.batch tid q e n peer
          let s := if e.ct == .bar then s.entryRelease tid e.sc else s
          let s := s.countBytes tid e.lid e.bar (got * e.size) e.ct
          .next (s.setHead tid q { e with pos := e.pos + got, resv := r, bytes := e.bytes + got * e.size })

namespace State

/-- An arm that waits for a continuation goes on there, R340; the completion is an acquire (R366). -/
def contWake (s : State) (b : Issuer) (id : Nat) : State :=
  match s.findUid b.uid with
  | none => s
  | some gid =>
    let g := s.grp gid
    let a := g.arm b.slot
    if a.park != some (.cont id) then s
    else
      let s := s.setGrp gid (g.setArm b.slot { a with park := none, clause := none, pc := b.cont, xfer := b.xfer, walkFaults := [], asks := none })
      ((s.l1Clear (gidCore gid)).closeChecks gid)

/-- An arm that waits for a continuation traps there, R341, R392. -/
def contTrap (s : State) (b : Issuer) (id : Nat) (t : TrapInfo) : State :=
  match s.findUid b.uid with
  | none => s
  | some gid =>
    if ((s.grp gid).arm b.slot).park != some (.cont id) then s
    else (s.contWake b id).takeTrapAt gid b.slot t b.cont

/-- The issuing group's copy count falls, R171, R340; `flag` sets its copy-fault flag. -/
def copyDone (s : State) (b : Issuer) (flag : Option (Nat × Word × Nat)) : State :=
  match s.findUid b.uid with
  | none => s
  | some gid =>
    let g := s.grp gid
    s.setGrp gid { g with copies := g.copies - 1, copyObs := true, copyFlag := if flag.isSome then flag else g.copyFlag }

/-- A unit posts an entry to a queue register of a team, or holds it while the queue is full, R354, R368. A team that has ended
takes none. -/
def postQ (s : State) (tid q : Nat) (e : QEntry) : State :=
  let t := s.team tid
  let n := match q with | 0 => t.q0.length | 1 => t.q1.length | 3 => t.q3.length | _ => t.q5.length
  if !t.live then s
  else if 256 ≤ n || t.held.any fun h => h.1 == q then s.setTeam tid { t with held := t.held ++ [(q, e)] }
  else match q with
    | 0 => s.setTeam tid { t with q0 := t.q0 ++ [e] }
    | 1 => s.setTeam tid { t with q1 := t.q1 ++ [e] }
    | 3 => s.setTeam tid { t with q3 := t.q3 ++ [e] }
    | _ => s.setTeam tid { t with q5 := t.q5 ++ [e] }

/-- The completion entry of a gather with CQE, R352. -/
def gatherPost (s : State) (tid : Nat) (e : CopyEntry) (rows : Nat) (fault : Option Nat) : State :=
  match e.kind with
  | .gather =>
    let g := GDesc.of e.desc
    if !g.cqe then s
    else
      let f := match fault with | some r => 2 ^ 32 + 2 ^ 36 * r | none => 0
      s.postQ tid 5 { word := BitVec.ofNat 64 (g.tag + 2 ^ 16 * (rows % 65536) + f), pay := [] }
  | _ => s

/-- The bits of a completion record, R345: a core that received every byte after a source fault had counted as its fault (R343, R344) has both
bits (log 48). -/
def recordBytes (dests : List McDest) : List Byte :=
  let m := fun (l : List McDest) => l.foldl (fun n d => n + 2 ^ d.core) 0
  bytesOfNat 16 (m (dests.filter fun d => !d.failed)) ++ bytesOfNat 16 (m (dests.filter fun d => d.failed || d.hit))

end State

/-- COPY_ENTRY_COMPLETE, R340, R344, R345: an entry whose every byte is delivered leaves its queue and signals its target. -/
def execCopyEntryComplete (tid q : Nat) (s : State) : Host.Outcome State Fault Refusal :=
  match s.qHead tid q with
  | none => .next s
  | some e =>
    let u := s.queue tid q
    let drop := fun (s : State) => s.setQueue tid q { s.queue tid q with entries := u.entries.tail, srcPg := [], dstPg := [] }
    if !e.started || s.entryWaits tid e.sc then .next s
    else match e.kind with
      | .stitch _ => .next s
      | .multi dests off _ =>
        if dests.any fun d => !d.failed && decide (d.pos < e.total) then .next s
        else
          let s := ((drop s).spStore tid off (State.recordBytes dests) false).entryRelease tid e.sc
          let bad := dests.any fun d => d.failed || d.hit
          (match e.ct, e.by_ with
           | .cnt, some b => .next (s.copyDone b (if bad then some (25, 0, q) else none))
           | _, _ => .next s)
      | _ =>
        if e.pos < e.total then .next s
        else
          let rows := match e.kind with | .gather => (GDesc.of e.desc).count | _ => 0
          let s := ((drop s).entryRelease tid e.sc).gatherPost tid e rows none
          (match e.ct, e.by_ with
           | .cnt, some b => .next (s.copyDone b none)
           | .cont, some b => .next (s.contWake b e.id)
           | _, _ => .next s)

namespace State

/-- The failure that the next element of a started entry meets; a peer's refusal comes with the event. -/
def nextFail (s : State) (tid q : Nat) (e : CopyEntry) (peer : Nat) : Option XFail :=
  if !e.started then s.startFail tid e
  else if e.total ≤ e.pos then none
  else
    let c := CDesc.of e.desc
    let atPeer := match e.kind with | .copy => (c.sk == 5 && (c.elemSrc e.pos).isSome) || c.dk == 5 | _ => false
    if atPeer && (peer == 6 || peer == 7) then
      some ⟨if c.sk == 5 then (c.elemSrc e.pos).getD (c.elemDst e.pos) else c.elemDst e.pos, c.dk == 5, peer⟩
    else match s.entryElem tid q e e.pos (List.replicate 8 (0, false)) with
      | .error x => if x.reason == 0 then none else some x
      | .ok _ => none

/-- The source failure of a multicast: an element that cannot be read, once every destination has those before it, R341. -/
def mcSourceFail (s : State) (tid q : Nat) (e : CopyEntry) (dests : List McDest) (buf : List (Nat × Bool)) (peer : Nat) :
    Option XFail :=
  if !e.started then s.startFail tid e
  else if !(dests.any fun d => !d.failed && d.pos == buf.length && decide (d.pos < e.total)) ||
      dests.any fun d => !d.failed && decide (d.pos < buf.length) then none
  else if (CDesc.of e.desc).sk == 5 && ((CDesc.of e.desc).elemSrc buf.length).isSome && (peer == 6 || peer == 7) then
    some ⟨((CDesc.of e.desc).elemSrc buf.length).getD 0, false, peer⟩
  else match s.elemValue tid q (CDesc.of e.desc) buf.length (List.replicate 8 (0, false)) with
    | .error x => if x.reason == 0 then none else some x
    | .ok _ => none

/-- The faulting entry's target is poisoned and its queue stops, R341; after its team has ended the queue is emptied, R502. -/
def entryFault (s : State) (tid q : Nat) (e : CopyEntry) (x : XFail) : State :=
  let s := if (s.team tid).live then s.setQueue tid q { s.queue tid q with stop := some ⟨x.ad, x.dst, x.reason⟩, srcPg := [], dstPg := [] }
    else
      let s := s.setQueue tid q { s.queue tid q with entries := [], stop := none, srcPg := [], dstPg := [] }
      let t := s.team tid
      if q == 3 then s.setTeam tid { t with pat := { t.pat with granted := t.pat.executed } } else s
  let info := q + 16 * x.reason
  let s := s.gatherPost tid e (e.pos / max 1 (GDesc.of e.desc).rbytes) (some x.reason)
  match e.ct, e.by_ with
  | .bar, _ => (match e.kind with | .multi _ _ _ => s | _ => s.modRec tid e.lid e.bar BarRec.poison)
  | .cnt, some b => (match s.findUid b.uid with
    | some gid => s.setGrp gid { s.grp gid with copyFlag := some (24, x.ad, info) }
    | none => s)
  | .cont, some b => s.contTrap b e.id (trapOf 24 x.ad (BitVec.ofNat 64 info))
  | _, _ => s

/-- Destinations of a multicast fault: under CT 1 the record of each is poisoned alone, R344. A fault of the source counts as theirs, and
they go on with the entry where it is restarted, R343. -/
def mcFail (s : State) (tid q : Nat) (e : CopyEntry) (dests : List McDest) (off : Nat) (buf : List (Nat × Bool))
    (hit : McDest → Bool) (source : Bool) : State :=
  let mark := fun (d : McDest) => if !hit d then d else if source then { d with hit := true } else { d with failed := true }
  let s := s.setHead tid q { e with kind := .multi (dests.map mark) off buf }
  if e.ct == .bar then (dests.filter hit).foldl (fun s d => s.modRec d.tid 0 e.bar BarRec.poison) s else s

end State

/-- COPY_ENTRY_FAULT, R341, R344: the head entry's next element fails. -/
def execCopyEntryFault (tid q peer : Nat) (s : State) : Host.Outcome State Fault Refusal :=
  match s.qHead tid q with
  | none => .next s
  | some e =>
    match e.kind with
    | .stitch _ => .next s
    | .multi dests off buf =>
      if 16 ≤ peer then
        match dests.find? fun d => d.core == peer / 16 - 1 && !d.failed && decide (d.pos < e.total) with
        | none => .next s
        | some d =>
          if !e.started then .next s
          else match s.mcValue tid q e buf d.pos (List.replicate 8 (0, false)) with
            | .error _ => .next s
            | .ok (s', _, v, p) =>
              (match s'.mcPut e d v p with
               | .ok _ => .next s
               | .error _ => .next (s.mcFail tid q e dests off buf (fun x => x.core == d.core) false))
      else match s.mcSourceFail tid q e dests buf peer with
        | none => .next s
        | some x =>
          let s := s.mcFail tid q e dests off buf (fun d => !d.failed && decide (d.pos < e.total)) true
          .next (s.entryFault tid q e x)
    | _ =>
      match s.nextFail tid q e peer with
      | none => .next s
      | some x => .next (s.entryFault tid q e x)

end Sys2Proof.Machine
end

