-- ==== Sys2Proof/Machine/Xfer.lean ====
section
/-! DEFINITION. The copy, pattern, gather and stitch instructions of row 0xA (R331, R343-R345, R350, R357-R360), and the pattern
engine (R346-R348). -/

namespace Sys2Proof.Machine

namespace State

/-- The descriptor of `n` bytes at SReg(S1) is read, R359, R380: poison traps UE_DATA. -/
def descRead (s : State) (reg n : Nat) (k : List Byte → Eff) : Eff :=
  let a := s.sreg reg
  let (d, p) := s.spRead s.cg.tid a.toNat n
  if p then .trap (trapOf 51 a 0) else k d

/-- The probe of an instruction that reads a descriptor of `n` bytes at SReg(S1), R359, R380: alignment to `al`, range, poison. -/
def descProbe (s : State) (reg n al : Nat) (act : BitVec 32) (k : List Byte → Eff) : Eff :=
  let a := s.sreg reg
  if a.toNat % al != 0 then .trap (trapOf 15 a (accessX (lowest act) .read 7))
  else if s.cteam.scratch < a.toNat + n then .trap (trapOf 16 a (accessX (lowest act) .read 7))
  else s.descRead reg n k

/-- An arm that has waited for space in a queue or a list goes on with what it read before, R359, R381; another begins. -/
def resumed (s : State) (k : List Byte → List Nat → Nat → Eff) (begin_ : Eff) : Eff :=
  match s.ca.park with
  | some (.queue d cores off) => k d cores off
  | _ => begin_

/-- An X-format record index beyond the team's records traps at decode step 4, R204, R358. -/
def xBar (s : State) (f : XF) (k : Eff) : Eff := if f.ct == .bar then s.barIndex f.bar.toNat k else k

/-- The continuation of an instruction with CT = 3, R340, R359. -/
def contAddr (s : State) (f : XF) : Word := s.hdr + BitVec.ofInt 64 (8 * f.imm.toInt)

/-- The executing arm as the issuer of an entry. -/
def issuer (s : State) (f : XF) : Issuer := ⟨s.cg.uid, s.slot, s.contAddr f, s.ipc⟩

/-- Enqueue an entry, R359: the issue is a release (R364); under CT = 2 the copy count rises, and under CT = 3 the arm parks. -/
def enqueue (s : State) (q : Nat) (kind : EntryKind) (d : List Byte) (f : XF) (cores : List Nat := []) (off : Nat := 0) : Eff :=
  let tid := s.cg.tid
  let u := s.queue tid q
  if 16 ≤ u.entries.length then .stay (s.park (.queue d cores off))
  else if f.ct == .cnt && decide (63 ≤ s.cg.copies) then .stay s
  else
    let s := s.releaseAct 5
    let id := s.uids
    let e : CopyEntry := { id := id, kind := kind, desc := d, ct := f.ct, bar := f.bar.toNat, lid := s.cg.lid, sc := f.sc.code,
                           by_ := if f.ct == .none then none else some (s.issuer f) }
    let s := { s.setQueue tid q { u with entries := u.entries ++ [e] } with uids := id + 1 }
    let s := if f.ct == .cnt then s.modG fun g => { g with copies := g.copies + 1 } else s
    if f.ct == .cont then .stay (s.park (.cont id)) else .retire s

/-- COPY_FAULT of an invalid descriptor, R359, R439. -/
def badDesc (q : Nat) : TrapInfo := trapOf 24 0 (BitVec.ofNat 64 (q + 16))

/-- cpy, R359. -/
def cpyEff (s : State) (f : XF) : Eff :=
  s.resumed (fun d _ _ => s.enqueue f.cq.toNat .copy d f) <|
  s.xBar f <| s.guarded f.g true [] (fun _ => [.s f.s1.toNat]) fun act =>
    s.descProbe f.s1.toNat 128 64 act fun d =>
      if CDesc.valid d then s.enqueue f.cq.toNat .copy d f else .trap (badDesc f.cq.toNat)

/-- gath, R351, R359. -/
def gathEff (s : State) (f : XF) : Eff :=
  s.resumed (fun d _ _ => s.enqueue 4 .gather d f) <|
  s.xBar f <| s.guarded f.g true [] (fun _ => [.s f.s1.toNat]) fun act =>
    s.descProbe f.s1.toNat 64 64 act fun d =>
      if GDesc.valid d then s.enqueue 4 .gather d f else .trap (badDesc 4)

/-- The distinct core numbers that a cpym names, R344. -/
def mcCores (s : State) (ls : List Nat) (v : Nat) : List Nat := (ls.map fun l => (s.cg.vlane v l).toNat).dedup

/-- The destinations of a cpym, R344. -/
def mcDests (s : State) (cores : List Nat) : List McDest :=
  cores.filterMap fun c => (s.panelTeam s.cteam.panel c).map fun tid => ⟨c, tid, 0, false, 0, false⟩

/-- A cpym joins its queue, R344. -/
def mcEnqueue (s : State) (f : XF) (d : List Byte) (cores : List Nat) (off : Nat) : Eff :=
  s.enqueue f.cq.toNat (.multi (s.mcDests cores) off []) d f cores off

/-- The descriptor of a cpym is valid, R337, R344. -/
def mcValid (d : List Byte) : Bool :=
  let c := CDesc.of d
  CDesc.valid d && (c.toFifo || (c.dk == 2 && c.dst / 2 ^ 18 % 128 == 0))

/-- The probe of a cpym in the order of step 6, R87, R89, R344, R345: alignment of the descriptor and of the record, the range of both and
of the core numbers, then the cores of the panel. -/
def mcProbe (s : State) (f : XF) (act : BitVec 32) : Option TrapInfo :=
  let ls := maskList (s.teamOnly act)
  let core := fun l => (s.cg.vlane f.v.toNat l).toNat
  let a := s.sreg f.s1.toNat
  let rec_ := s.sreg f.s2.toNat
  let at_ := fun (cause : Nat) (x : Word) (k : XKind) => some (trapOf cause x (accessX (lowest act) k 7))
  if a.toNat % 64 != 0 then at_ 15 a .read
  else if rec_.toNat % 32 != 0 then at_ 15 rec_ .write
  else if s.cteam.scratch < a.toNat + 128 then at_ 16 a .read
  else if s.cteam.scratch < rec_.toNat + 32 then at_ 16 rec_ .write
  else match ls.find? fun l => decide (128 ≤ core l) with
    | some l => some (trapOf 16 (BitVec.ofNat 64 (core l)) (accessX l .write 7))
    | none => (ls.find? fun l => (s.panelTeam s.cteam.panel (core l)).isNone).map fun l =>
        trapOf 17 (BitVec.ofNat 64 (core l)) (accessX l .write 7)

/-- cpym, R344, R345. -/
def cpymEff (s : State) (f : XF) : Eff :=
  let v := f.v.toNat
  s.resumed (s.mcEnqueue f) <|
  s.xBar f <| s.guarded f.g true [(v, 1)] (fun act => [.s f.s1.toNat, .s f.s2.toNat, .v v 1 (s.teamOnly act)]) fun act =>
    match s.mcProbe f act with
    | some t => .trap t
    | none => s.descRead f.s1.toNat 128 fun d =>
      if mcValid d then s.mcEnqueue f d (s.mcCores (maskList (s.teamOnly act)) v) (s.sreg f.s2.toNat).toNat
      else .trap (badDesc f.cq.toNat)

/-- patadv, R350, R358. -/
def patadvEff (s : State) (f : XF) : Eff :=
  let reg := f.imm == 0
  s.guarded f.g true [] (fun _ => if reg then [.s f.s2.toNat] else []) fun _ =>
    let n := if reg then (s.sreg f.s2.toNat).toNat else f.imm.toNat
    let t := s.cteam
    if 65535 < n then .trap (trapOf 2)
    else match (s.queue s.cg.tid 3).stop with
      | some r => .trap (trapOf 24 r.ad (BitVec.ofNat 64 (3 + 16 * r.reason)))
      | none =>
        if (s.launch t.launch).patT < t.pat.granted + n then .trap (trapOf 27 0 (BitVec.ofNat 64 n))
        else if n == 0 then .retire s
        else
          let s := s.releaseAct 5
          let t := s.cteam
          .retire (s.setTeam s.cg.tid { t with pat := { t.pat with granted := t.pat.granted + n } })

/-- The status word of a queue, R360. -/
def queueWord (s : State) (tid q : Nat) : Nat :=
  let u := s.queue tid q
  let pat := q == 3 && (s.launch (s.team tid).launch).lrec.patrows != 0
  u.entries.length + (if pat then 512 else 0) +
    match u.stop with
    | some r => 256 + (if r.dst then 4096 else 0) + 65536 * r.reason
    | none => 0

/-- patq, R360. -/
def patqEff (s : State) (f : XF) : Eff :=
  s.guarded f.g true [] (fun _ => []) fun _ =>
    match s.divergedScalar f.s1.toNat with
    | some t => .trap t
    | none =>
      let q := if bit f.imm 2 then 4 else f.cq.toNat
      let bound := q == 3 && (s.launch s.cteam.launch).lrec.patrows != 0
      let v : Word := match f.imm.toNat % 4 with
        | 0 => BitVec.ofNat 64 (s.queueWord s.cg.tid q)
        | 1 => if bound then BitVec.ofNat 64 s.cteam.pat.granted else 0
        | 2 => if bound then BitVec.ofNat 64 s.cteam.pat.executed else 0
        | _ => match (s.queue s.cg.tid q).stop with | some r => r.ad | none => 0
      .retire (s.setS f.s1.toNat v)

/-- qfence, R357, R358. -/
def qfenceEff (s : State) (f : XF) : Eff :=
  s.guarded f.g true [] (fun _ => []) fun _ =>
    let own := if bit f.imm 5 then 4 else f.cq.toNat
    let m := f.imm.toNat % 32
    if m == 0 || m == 2 ^ own then .trap (trapOf 62 0 (BitVec.ofNat 64 m)) else s.enqueue own (.stitch m) [] f

/-- cpyres, R343: the faulted entry goes on at its failing element, or is discarded. -/
def cpyresEff (s : State) (f : XF) : Eff :=
  s.guarded f.g true [] (fun _ => []) fun _ =>
    let q := if bit f.imm 1 then 4 else f.cq.toNat
    let tid := s.cg.tid
    let u := s.queue tid q
    if u.stop.isNone then .retire s
    else if !bit f.imm 0 then .retire (s.setQueue tid q { u with stop := none })
    else
      let s := s.setQueue tid q { u with stop := none, entries := u.entries.tail }
      match u.entries with
      | e :: _ => (match e.ct, e.by_ with
        | .cnt, some b => .retire (s.copyDone b none)
        | _, _ => .retire s)
      | [] => .retire s

end State

/-- cpy, R359. -/
def execCpy (f : XF) (s : State) : Host.Outcome State Fault Refusal := s.conclude (s.cpyEff f)
/-- cpym, R344. -/
def execCpym (f : XF) (s : State) : Host.Outcome State Fault Refusal := s.conclude (s.cpymEff f)
/-- patadv, R350. -/
def execPatadv (f : XF) (s : State) : Host.Outcome State Fault Refusal := s.conclude (s.patadvEff f)
/-- patq, R360. -/
def execPatq (f : XF) (s : State) : Host.Outcome State Fault Refusal := s.conclude (s.patqEff f)
/-- qfence, R357. -/
def execQfence (f : XF) (s : State) : Host.Outcome State Fault Refusal := s.conclude (s.qfenceEff f)
/-- gath, R359. -/
def execGath (f : XF) (s : State) : Host.Outcome State Fault Refusal := s.conclude (s.gathEff f)
/-- cpyres, R343. -/
def execCpyres (f : XF) (s : State) : Host.Outcome State Fault Refusal := s.conclude (s.cpyresEff f)

namespace State

/-- The 128 bytes of a template in global memory, read by the engine, R332, R348; an error where they cannot be read, of reason 0 where the
engine waits. -/
def readTemplate (s : State) (tid : Nat) (a : Nat) : Except Nat (State × List Byte) :=
  let one := fun (acc : Except Nat (State × List Byte)) k =>
    match acc with
    | .error r => .error r
    | .ok (s, d) =>
      match s.spaceRead tid 5 0 (BitVec.ofNat 64 (a + 64 * k)) 64 0 [] with
      | .ok (s, bs, p) => if p then .error 1 else .ok (s, d ++ bs)
      | .error x => .error x.reason
  (List.range 2).foldl one (.ok (s, []))

/-- Add a signed amount to the eight-byte field at `o` of a descriptor. -/
def addField (d : List Byte) (o : Nat) (x : Int) : List Byte :=
  d.take o ++ bytesOfNat 8 (BitVec.ofInt 64 ((du d o 8 : Int) + x)).toNat ++ d.drop (o + 8)

/-- The counter of the LOOP row that a COPY row names, R347, R348. -/
def loopCtr (p : PatState) (lix : Nat) : Int := if lix == 0xFFFF then 0 else (mget 0 p.ctrs lix : Nat)

/-- The offset of a COPY row on one side, R348: five signed weights at byte `o`. -/
def rowOffset (t : Team) (row : List Byte) (o : Nat) : Int :=
  (t.xidx.toNat : Int) * di row o 4 + (t.yidx.toNat : Int) * di row (o + 4) 4 + (t.zidx.toNat : Int) * di row (o + 8) 4 +
    loopCtr t.pat (du row 4 2) * di row (o + 12) 4 + loopCtr t.pat (du row 6 2) * di row (o + 16) 4

/-- Enqueue an entry for a pattern row on queue 3. -/
def rowEnqueue (s : State) (tid : Nat) (kind : EntryKind) (d : List Byte) (ct : Ct) (bar : Nat) : State :=
  let u := s.queue tid 3
  let e : CopyEntry := { id := s.uids, kind := kind, desc := d, ct := ct, bar := bar, lid := 0, sc := 15, by_ := none }
  { s.setQueue tid 3 { u with entries := u.entries ++ [e] } with uids := s.uids + 1 }

def setPat (s : State) (tid : Nat) (p : PatState) : State := s.setTeam tid { s.team tid with pat := p }

end State

/-- PATTERN_ROW_STEP, R348: while E < G, the row at the index is processed; an enqueue waits for a place in queue 3, and a saved
team's pattern waits for the resume (R361). -/
def execPatternRowStep (tid : Nat) (s : State) : Host.Outcome State Fault Refusal :=
  let t := s.team tid
  let p := t.pat
  let row := (s.launch t.launch).rows.getD p.index []
  let kind := du row 0 1
  if t.saved || decide (p.granted ≤ p.executed) then .next s
  else if kind == 2 then
    let c := mget 0 p.ctrs p.index + 1
    if c < du row 8 4 then .next (s.setPat tid { p with ctrs := mset 0 p.ctrs p.index c, index := p.index - du row 4 2 })
    else .next (s.setPat tid { p with ctrs := mset 0 p.ctrs p.index 0, index := p.index + 1 })
  else if 16 ≤ (s.queue tid 3).entries.length then .next s
  else if kind == 3 then
    .next ((s.rowEnqueue tid (.stitch (du row 1 1 % 32)) [] .none 0).setPat tid { p with index := p.index + 1 })
  else if kind == 1 then
    let put := fun (s : State) (d : List Byte) =>
      (s.rowEnqueue tid .copy d (if du row 1 1 % 2 == 1 then .bar else .none) (du row 2 1)).setPat tid
        { p with index := p.index + 1, executed := p.executed + 1 }
    match s.readTemplate tid (du row 8 8) with
    | .ok (s, d) => .next (put s (State.addField (State.addField d 0 (State.rowOffset t row 16)) 8 (State.rowOffset t row 36)))
    | .error r => .next (if r == 0 then s else put s [])
  else .next s

end Sys2Proof.Machine
end

