-- ==== Sys2Proof/Machine/Hook.lean ====
section
/-! DEFINITION. The hook and its messages (R368-R381), subscriptions (R382-R386), the shuffle (R387, R388) and collectives
(R389-R392). -/

namespace Sys2Proof.Machine

namespace State

/-- The hook and the collective engine read one byte of global memory at its home, R376, R392: translated in the context's
tables, with U and the read bit. -/
def hookRead1 (s : State) (ctx : Nat) (va : Word) : Option (State × MarkedByte) :=
  match s.ingressXlate ctx va with
  | (_, none) => none
  | (s, some e) =>
    if !(e.u && e.rd) then none
    else
      let t : Tr := ⟨e.pa va.toNat, e.coh, e.chk, e.smode, e.sliceNo⟩
      if t.hole then some ((s.holeLog t.pa).bump, Config.freeByte s.freeCtr 0, true)
      else if t.host then some (s, mget 0 s.hostMem t.pa, false)
      else let (s, bs, p) := s.devRead t.pa 1; some (s, bs.getD 0 0, p)

/-- They write one byte at its home, with U and W, R318, R376. -/
def hookWrite1 (s : State) (ctx : Nat) (va : Word) (b : Byte) (pois : Bool) : Option State :=
  match s.ingressXlate ctx va with
  | (_, none) => none
  | (s, some e) =>
    if !(e.u && e.w) then none
    else
      let t : Tr := ⟨e.pa va.toNat, e.coh, e.chk, e.smode, e.sliceNo⟩
      let s := if e.d then s else s.orPte e 128
      if t.hole then some (s.holeLog t.pa)
      else if t.host then some { s with hostMem := mset 0 s.hostMem t.pa b }
      else some (s.devWrite t.pa [b] pois)

/-- One address of every sector that `n` bytes from `va` on touch. -/
def sectorAddrs (va : Word) (n : Nat) : List Word :=
  if n == 0 then [] else va :: (List.range ((va.toNat % 64 + n - 1) / 64)).map fun k => BitVec.ofNat 64 (va.toNat / 64 * 64 + 64 * (k + 1))

/-- What the hook's accesses at these addresses ask of homes, R376, R392. -/
def hookAsks (s : State) (ctx : Nat) (vas : List Word) (write : Bool) : List (Nat × Bool) :=
  vas.filterMap fun va => match (s.ingressXlate ctx va).2 with
    | some e => if e.pa va.toNat < Config.deviceMemTop then some (e.pa va.toNat / 64, write) else none
    | none => none

/-- They wait for a home, R298, R312, or for the allowance of the context's partition there, R480. -/
def hookWaits (s : State) (ctx : Nat) (vas : List Word) (write : Bool) : Bool :=
  s.mayWait && s.waitsAny 25 (s.ctx ctx).part (s.hookAsks ctx vas write)

/-- The homes account them to that partition. -/
def hookCharge (s : State) (ctx : Nat) (vas : List Word) (write : Bool) : State :=
  if s.allow.isEmpty && s.dev.injctl.isEmpty then s else s.chargeHomes 25 (s.ctx ctx).part (s.hookAsks ctx vas write)

/-- Read `n` bytes from `va`; `none` where a byte cannot be read. -/
def hookRead (s : State) (ctx : Nat) (va : Word) (n : Nat) : Option (State × List MarkedByte) :=
  let s := s.hookCharge ctx (sectorAddrs va n) false
  (List.range n).foldl (fun acc k => match acc with
    | none => none
    | some (s, bs) =>
      match s.hookRead1 ctx (va + BitVec.ofNat 64 k) with
      | none => none
      | some (s, b) => some (s, bs ++ [b])) (some (s, []))

/-- A sector that the hook or the collective engine has written whole with clean data holds no poison, R499. -/
def hookClean (s : State) (ctx : Nat) (sects : List Nat) : State :=
  sects.foldl (fun s k => match s.ingressXlate ctx (BitVec.ofNat 64 (64 * k)) with
    | (_, none) => s
    | (s, some e) => let t : Tr := ⟨e.pa (64 * k), e.coh, e.chk, e.smode, e.sliceNo⟩
      if t.hole || t.host then s else { s with psn := mset false s.psn (t.pa / 64) false }) s

/-- Write bytes from `va` on, up to the first that cannot be written: the state and the bytes written. -/
def hookWriteFrom (s : State) (ctx : Nat) (va : Word) : Nat → List MarkedByte → State × Nat
  | k, [] => (s, k)
  | k, b :: bs =>
    match s.hookWrite1 ctx (va + BitVec.ofNat 64 k) b.1 b.2 with
    | none => (s, k)
    | some s => s.hookWriteFrom ctx va (k + 1) bs

/-- One write of bytes from `va` on. -/
def hookWrite (s : State) (ctx : Nat) (va : Word) (bs : List MarkedByte) : State × Nat :=
  let s := s.hookCharge ctx (sectorAddrs va bs.length) true
  let (s, n) := s.hookWriteFrom ctx va 0 bs
  (s.hookClean ctx (wholeSectors ((bs.take n).zipIdx.map fun b => ((va + BitVec.ofNat 64 b.2).toNat, b.1.2))), n)

/-- Valid entries of a context's peer table that name a device, rising, R373. -/
def peersOf (s : State) (ctx dev : Nat) : List Nat :=
  (List.range 256).filter fun p => let x := mget 0 (s.ctx ctx).peers p; bit x 31 && x.toNat % 256 == dev

/-- A message matches a spec, R373. -/
def specMatches (s : State) (ctx : Nat) (src : Nat) (tag mask : BitVec 32) (m : Message) : Bool :=
  (src == 0x100 || (s.peersOf ctx m.sdev).contains src) && (m.tag ^^^ tag) &&& mask == 0

end State

/-- A posted receive's fields, R378. -/
def Posted.src (r : Posted) : Nat := du r.desc 10 2 % 512
def Posted.tag (r : Posted) : BitVec 32 := BitVec.ofNat 32 (du r.desc 12 4)
def Posted.mask (r : Posted) : BitVec 32 := BitVec.ofNat 32 (du r.desc 16 4)
def Posted.dst (r : Posted) : Word := BitVec.ofNat 64 (du r.desc 0 8)
def Posted.dkind (r : Posted) : Nat := du r.desc 8 1 % 16
def Posted.ext (r : Posted) : List Nat := [du r.desc 20 4, du r.desc 24 4, du r.desc 28 4]
def Posted.capacity (r : Posted) : Nat := r.ext.foldl (fun a x => a * x) 1
def Posted.cookie (r : Posted) : Nat := du r.desc 48 2

/-- Address of byte `k` of a receive's tensor, dimension 0 fastest, R376. -/
def Posted.at (r : Posted) (k : Nat) : Word :=
  let ix := CDesc.unravel r.ext k
  r.dst + BitVec.ofInt 64 ((ix.getD 0 0 : Int) + (ix.getD 1 0 : Int) * di r.desc 32 8 + (ix.getD 2 0 : Int) * di r.desc 40 8)

/-- The word of a q0 or q1 entry, R369. -/
def msgWord (cookie peer status len : Nat) : Word := BitVec.ofNat 64 (2 ^ 48 * cookie + 2 ^ 40 * peer + 2 ^ 36 * status + len % 2 ^ 32)

namespace State

/-- Write one byte of a tensor, R376: global memory at its home, a scratchpad or window as a store of the owning core. -/
def tensorWrite1 (s : State) (r : Posted) (k : Nat) (b : Byte) (pois : Bool) : Option State :=
  if r.dkind == 0 then s.hookWrite1 r.ctx (r.at k) b pois
  else (s.engLoc r.tid (r.dkind == 2) (r.at k) 1).map fun x => s.spStore x.1 x.2 [b] pois

/-- One address of every sector that the first `n` bytes of a receive's tensor in global memory touch. -/
def tensorAddrs (r : Posted) (n : Nat) : List Word :=
  let at_ := (List.range n).map r.at
  (at_.map fun a => a.toNat / 64).dedup.filterMap fun k => at_.find? fun a => a.toNat / 64 == k

/-- Write the bytes of a payload that the tensor holds, up to a destination fault, R376: the state and the bytes written. -/
def tensorWriteFrom (s : State) (r : Posted) : Nat → List MarkedByte → State × Nat
  | k, [] => (s, k)
  | k, b :: bs =>
    match s.tensorWrite1 r k b.1 b.2 with
    | none => (s, k)
    | some s => s.tensorWriteFrom r (k + 1) bs

/-- One delivery into a tensor, R376; in global memory it may write whole sectors, R499. -/
def tensorWrite (s : State) (r : Posted) (bs : List MarkedByte) : State × Nat :=
  let s := if r.dkind == 0 && !s.allow.isEmpty then s.hookCharge r.ctx (tensorAddrs r bs.length) true else s
  let (s, n) := s.tensorWriteFrom r 0 bs
  if r.dkind != 0 then (s, n)
  else (s.hookClean r.ctx (wholeSectors ((bs.take n).zipIdx.map fun b => ((r.at b.2).toNat, b.1.2))), n)

/-- The completion entry of a receive, R369, R376: tag and full length in lanes 0 and 1. -/
def recvPost (s : State) (r : Posted) (m : Message) (status written : Nat) : State :=
  let peer := ((s.peersOf r.ctx m.sdev).head?).getD 0
  s.postQ r.tid 0 { word := msgWord r.cookie peer status written, dst := r.dst,
                    pay := m.tag :: BitVec.ofNat 32 m.len :: List.replicate 30 0 }

/-- A payload arrives for a receive, R375, R376. -/
def recvBytes (s : State) (r : Posted) (m : Message) (bs : List MarkedByte) : State :=
  let bs := bs.take r.capacity
  let (s, n) := s.tensorWrite r bs
  s.recvPost r m (if n < bs.length then 5 else if r.capacity < m.len then 1 else 0) n

/-- The delivery of a message into the receive must wait: its team is saved and its tensor a scratchpad (R395), an xinv of its address
space goes on (R450), a home of its tensor holds it up (R312, R480), or a receive completion of the team is held (R368). -/
def recvHeld (s : State) (r : Posted) (m : Message) : Bool :=
  ((s.team r.tid).saved && r.dkind != 0) || (r.dkind == 0 && s.xinvHolds r.ctx) || ((s.team r.tid).held.any fun h => h.1 == 0) ||
    (r.dkind == 0 && s.mayWait && s.hookWaits r.ctx (tensorAddrs r (min m.len r.capacity)) true)

/-- What follows a match must wait: the delivery of an eager message, or the request for the pull of another, which travels on the narrow
plane (R393, R488). -/
def takeHeld (s : State) (r : Posted) (m : Message) : Bool :=
  if m.eager then s.recvHeld r m else m.self.isNone && s.heldTo m.sdev false

/-- The completion entry of a send, R369. -/
def sendPost (s : State) (c : SendCmd) (status : Nat) : State :=
  s.postQ c.tid 1 { word := msgWord (du c.desc 20 2) (du c.desc 10 1) status (du c.desc 16 4), pay := [] }

/-- A send leaves the queue and completes. -/
def sendDone (s : State) (c : SendCmd) (status : Nat) : State :=
  { s with hook := { s.hook with sends := s.hook.sends.filter fun x => x.id != c.id } }.sendPost c status

def sendSet (s : State) (c : SendCmd) : State :=
  { s with hook := { s.hook with sends := s.hook.sends.map fun x => if x.id == c.id then c else x } }

/-- The payload of a send, R376, R377: global memory at its home, or the issuing team's scratchpad. -/
def sendPayload (s : State) (c : SendCmd) (n : Nat) : Option (State × List MarkedByte) :=
  let a := BitVec.ofNat 64 (du c.desc 0 8)
  if du c.desc 8 1 % 16 == 0 then s.hookRead c.ctx a n
  else if n != 0 && decide ((s.team c.tid).scratch < a.toNat + n) then none
  else some (s, s.spMarked c.tid a.toNat n)

/-- The payload of a matched message is written, or its pull starts, R375. -/
def takeNow (s : State) (r : Posted) (m : Message) : State :=
  if m.eager then s.recvBytes r m m.payload
  else
    let s := { s with hook := { s.hook with pulls := s.hook.pulls ++ [⟨s.uids, r, m⟩] }, uids := s.uids + 1 }
    if m.self.isSome then s else s.transmit m.sdev false (.pull m.sdev m.tag (min m.len r.capacity))

/-- A message matched: what follows is done now, or waits, R368, R375, R488. -/
def hookTake (s : State) (r : Posted) (m : Message) : State :=
  if s.takeHeld r m || s.hook.waiting.any fun p => p.recv.tid == r.tid && !s.takeHeld p.recv p.msg then
    { s with hook := { s.hook with waiting := s.hook.waiting ++ [⟨s.uids, r, m⟩] }, uids := s.uids + 1 }
  else s.takeNow r m

/-- Room for an unexpected message, R372, R375. -/
def hookRoom (s : State) (ctx : Nat) (m : Message) : Bool :=
  let u := s.hook.unexpected
  let share := (s.ctx ctx).hooksh.toNat / 65536
  let kept := u.foldl (fun n x => n + x.msg.payload.length) 0
  decide (u.length < Config.unexpectedMax) && (share == 0 || decide ((u.filter fun x => x.ctx == ctx).length < share)) &&
    (!m.eager || decide (kept + m.len ≤ Config.eagerBuffer))

/-- What the hook does with an arriving header, R371, R373, R375, and its answer. -/
def hookArrive (s : State) (m : Message) : State × PeerReply :=
  match s.binding m.sdev with
  | none => (s, .noBinding)
  | some ctx =>
    if (s.peersOf ctx m.sdev).isEmpty then (s, .noBinding)
    else
      let fits := fun (r : Posted) => r.ctx == ctx && s.specMatches ctx r.src r.tag r.mask m
      match s.hook.posted.find? fits with
      | some r =>
        let s := { s with hook := { s.hook with posted := s.hook.posted.eraseP fits } }
        (s.hookTake r m, if m.eager then .accepted else .pulling)
      | none =>
        if s.hookRoom ctx m then ({ s with hook := { s.hook with unexpected := s.hook.unexpected ++ [⟨ctx, m⟩] } }, .accepted)
        else (s, .refused)

/-- How a send goes on after its destination's answer, R371, R375. -/
def sendAnswer (s : State) (c : SendCmd) (eager : Bool) (o : PeerReply) : State :=
  match o with
  | .noBinding => s.sendDone c 2
  | .linkDown => s.sendDone c 4
  | .refused => s.sendSet { c with refused := true }
  | _ => if eager then s.sendDone c 0 else s.sendSet { c with refused := false, waiting := true }

/-- Transmit one send, R374-R376: an eager payload is read whole first; a message to this device is looped back. -/
def sendGo (s : State) (c : SendCmd) (o : PeerReply) : State :=
  let len := du c.desc 16 4
  let eager := decide (len ≤ 16384)
  match if eager then s.sendPayload c len else some (s, []) with
  | none => s.sendDone c 3
  | some (s, bs) =>
    let m : Message := ⟨s.self, BitVec.ofNat 32 (du c.desc 12 4), len, eager, bs, some c.id⟩
    if c.dev == s.self then
      let (s, o) := s.hookArrive m
      s.sendAnswer c eager o
    else (s.transmit c.dev (!bs.isEmpty) (.message c.dev m.tag len bs)).sendAnswer c eager o

/-- A send's header, or the payload of an eager one, waits for its plane, R393, R488. -/
def planeHeld (s : State) (c : SendCmd) : Bool :=
  let len := du c.desc 16 4
  c.dev != s.self && (s.heldTo c.dev false || (len != 0 && decide (len ≤ 16384) && s.heldTo c.dev true))

/-- The payload of a send waits for an xinv of its address space, R450, or for a home, R312, R480. -/
def payHeld (s : State) (c : SendCmd) (n : Nat) : Bool :=
  n != 0 && du c.desc 8 1 % 16 == 0 &&
    (s.xinvHolds c.ctx || (s.mayWait && s.hookWaits c.ctx (sectorAddrs (BitVec.ofNat 64 (du c.desc 0 8)) n) false))

/-- A send waits for its plane, or an eager one for its payload. -/
def sendHeld (s : State) (c : SendCmd) : Bool :=
  s.planeHeld c || (decide (du c.desc 16 4 ≤ 16384) && s.payHeld c (du c.desc 16 4))

/-- The next send that the hook may transmit, R374, R375: of each device's sends the oldest, where none to it is refused and it is not
held; the sends of a saved team are saved with it (R395). -/
def nextSend (s : State) : Option SendCmd :=
  let sends := s.hook.sends.filter fun c => !(s.team c.tid).saved
  let blocked := (sends.filter (·.refused)).map (·.dev)
  let new := sends.filter fun c => !c.refused && !c.waiting
  let first := fun (c : SendCmd) => (new.find? fun x => x.dev == c.dev).map (·.id) == some c.id
  new.find? fun c => !blocked.contains c.dev && first c && !s.sendHeld c

end State

/-- HOOK_SEND, R374: `o` is the answer of another device's hook. -/
def execHookSend (o : PeerReply) (s : State) : Host.Outcome State Fault Refusal :=
  match s.nextSend with
  | none => .next s
  | some c => .next (s.sendGo c o)

/-- HOOK_HEADER_ARRIVAL, R373, R375, R393: a message of another device, an eager one with its whole payload; the answer goes back to
it. -/
def execHookHeaderArrival (m : Message) (s : State) : Host.Outcome State Fault Refusal :=
  let eager := decide (m.len ≤ 16384)
  if (eager && m.payload.length != m.len) || decide (2 ^ 32 ≤ m.len) || s.heldTo m.sdev false then .next s
  else
    let (s, o) := s.hookArrive { m with self := none, eager := eager, payload := if eager then m.payload else [] }
    .next (s.transmit m.sdev false (.messageAnswer m.sdev m.tag o))

/-- MESSAGE_RETRY, R375: a refused message is sent again; where its plane is down it and the sends held behind it end. -/
def execMessageRetry (dest : Nat) (o : PeerReply) (s : State) : Host.Outcome State Fault Refusal :=
  let sends := s.hook.sends.filter fun c => c.dev == dest && !(s.team c.tid).saved
  match sends.find? (·.refused) with
  | none => .next s
  | some c =>
    if o == .linkDown && dest != s.self then .next ((sends.filter fun x => !x.waiting).foldl (fun s x => s.sendDone x 4) s)
    else if s.sendHeld c then .next s
    else .next (s.sendGo c o)

/-- HELD_COMPLETION_POST, R354, R368: the oldest held completion of a queue register is posted when there is space; with no
completion of q0 held, the oldest delivery into the team's receives that waited and may go on is made. -/
def execHeldCompletionPost (tid q : Nat) (s : State) : Host.Outcome State Fault Refusal :=
  let t := s.team tid
  let n := match q with | 0 => t.q0.length | 1 => t.q1.length | 3 => t.q3.length | _ => t.q5.length
  match t.held.find? fun h => h.1 == q with
  | none =>
    (match if q == 0 then s.hook.waiting.find? fun p => p.recv.tid == tid && !s.takeHeld p.recv p.msg else none with
     | none => .next s
     | some p =>
       let s := { s with hook := { s.hook with waiting := s.hook.waiting.filter fun x => x.id != p.id } }
       .next (s.takeNow p.recv p.msg))
  | some h =>
    if 256 ≤ n then .next s
    else
      let rest := t.held.eraseP fun x => x.1 == q
      let others := rest.filter fun x => x.1 == q
      let s := s.setTeam tid { t with held := rest.filter fun x => x.1 != q }
      let s := s.postQ tid q h.2
      .next (s.setTeam tid { s.team tid with held := (s.team tid).held ++ others })

/-- RENDEZVOUS_PULL_COMPLETE, R375, R376: of a pull of this device's hook, whose sender is this device or another; or of a send
that another device has pulled. -/
def execRendezvousPullComplete (id : Nat) (o : PullReply) (s : State) : Host.Outcome State Fault Refusal :=
  match s.hook.pulls.find? fun p => p.id == id with
  | some p =>
    if s.recvHeld p.recv p.msg then .next s
    else
      let held := s
      let s := { s with hook := { s.hook with pulls := s.hook.pulls.filter fun x => x.id != id } }
      let n := min p.msg.len p.recv.capacity
      (match p.msg.self with
       | some sid =>
         (match s.hook.sends.find? fun c => c.id == sid with
          | none => .next s
          | some c =>
            if s.payHeld c n then .next held
            else match s.sendPayload c n with
            | none => .next ((s.recvPost p.recv p.msg 3 0).sendDone c 3)
            | some (s, bs) => .next ((s.recvBytes p.recv p.msg bs).sendDone c 0))
       | none =>
         (match o with
          | .pulled _ => .next held
          | .data bs => .next (s.recvBytes p.recv p.msg (bs.take n))
          | .sourceFault => .next (s.recvPost p.recv p.msg 3 0)
          | .linkDown => .next (s.recvPost p.recv p.msg 4 0)))
  | none =>
    match s.hook.sends.find? fun c => c.id == id && c.waiting && c.dev != s.self with
    | none => .next s
    | some c =>
      (match o with
       | .linkDown => .next (s.sendDone c 4)
       | .data _ | .sourceFault => .next s
       | .pulled n =>
         if s.heldTo c.dev true || s.payHeld c (min n (du c.desc 16 4)) then .next s
         else match s.sendPayload c (min n (du c.desc 16 4)) with
         | none => .next (s.sendDone c 3)
         | some (s, bs) =>
           .next ((s.transmit c.dev true (.message c.dev (BitVec.ofNat 32 (du c.desc 12 4)) (du c.desc 16 4) bs)).sendDone c 0))

namespace State

/-- MSG_PEER, R380. -/
def msgPeer (x : Nat) : TrapInfo := trapOf 45 0 (BitVec.ofNat 64 x)

/-- A send descriptor without reserved bits or kinds, R377. -/
def sendValid (d : List Byte) : Bool := decide (du d 8 1 ≤ 1) && du d 9 1 == 0 && du d 11 1 == 0 && du d 22 42 == 0

/-- The scope of the release of a message or collective: the wider of device and SC, R381, R391. -/
def wideScope (sc : Nat) : Nat := if sc == 15 then 7 else max 7 sc

/-- msend, R380, R381; a send of helper lanes alone is suppressed, R13. -/
def msendEff (s : State) (f : XF) : Eff :=
  s.guarded f.g true [] (fun _ => [.s f.s1.toNat]) fun act =>
    if s.teamOnly act == 0 then .retire s
    else s.descProbe f.s1.toNat 64 64 act fun d =>
      let p := du d 10 1
      if !s.peerValid p then .trap (msgPeer 1)
      else if !sendValid d then .trap (msgPeer 2)
      else if s.peerDown p then .trap (trapOf 61 (s.sreg f.s1.toNat) (remoteX 0 p 0))
      else if s.relWaits (wideScope f.sc.code) then .stay (s.relStay (wideScope f.sc.code))
      else
        let s := s.releaseAct (wideScope f.sc.code)
        let c : SendCmd := ⟨s.uids, s.cg.ctx, s.cg.tid, d, (mget 0 s.cctx.peers p).toNat % 256, false, false⟩
        .retire { s with hook := { s.hook with sends := s.hook.sends ++ [c] }, uids := s.uids + 1 }

/-- A receive descriptor without reserved bits or kinds, extents and capacity in range, R378, R380. -/
def recvValid (r : Posted) : Bool :=
  decide (du r.desc 8 1 ≤ 2) && du r.desc 9 1 == 0 && decide (du r.desc 10 2 < 512) && du r.desc 50 14 == 0 && r.ext.all (0 < ·) &&
    decide (r.capacity < 2 ^ 32)

/-- The hook event of an mpost with the descriptor `d`, R373, R381, once the posted list and the context's share have room. -/
def mpostGo (s : State) (d : List Byte) : Eff :=
  let ctx := s.cg.ctx
  let r : Posted := ⟨ctx, s.cg.tid, d⟩
  let share := s.cctx.hooksh.toNat % 65536
  let fits := fun (u : Unexp) => u.ctx == ctx && s.specMatches ctx r.src r.tag r.mask u.msg
  if decide (Config.postedMax ≤ s.hook.posted.length) ||
      (share != 0 && decide (share ≤ (s.hook.posted.filter fun x => x.ctx == ctx).length)) then .stay (s.park (.queue d [] 0))
  else match s.hook.unexpected.find? fits with
    | some u => .retire ({ s with hook := { s.hook with unexpected := s.hook.unexpected.eraseP fits } }.hookTake r u.msg)
    | none => .retire { s with hook := { s.hook with posted := s.hook.posted ++ [r] } }

/-- mpost, R380, R381. -/
def mpostEff (s : State) (f : XF) : Eff :=
  s.resumed (fun d _ _ => s.mpostGo d) <|
  s.guarded f.g true [] (fun _ => [.s f.s1.toNat]) fun act =>
    s.descProbe f.s1.toNat 64 64 act fun d =>
      let r : Posted := ⟨s.cg.ctx, s.cg.tid, d⟩
      if r.src != 0x100 && !s.peerValid r.src then .trap (msgPeer 1)
      else if !recvValid r then .trap (msgPeer 2)
      else s.mpostGo d

/-- mcancel, R381. -/
def mcancelEff (s : State) (f : XF) : Eff :=
  s.guarded f.g true [] (fun _ => [.s f.s1.toNat]) fun _ =>
    match s.divergedScalar f.s2.toNat with
    | some t => .trap t
    | none =>
      let mine := fun (r : Posted) => r.tid == s.cg.tid && r.cookie == (s.sreg f.s1.toNat).toNat % 65536
      if s.hook.posted.any mine then
        .retire ({ s with hook := { s.hook with posted := s.hook.posted.eraseP mine } }.setS f.s2.toNat 1)
      else .retire (s.setS f.s2.toNat 0)

/-- mprobe, R381. -/
def mprobeEff (s : State) (f : XF) : Eff :=
  s.guarded f.g true [] (fun _ => [.s f.s1.toNat, .s f.s2.toNat]) fun _ =>
    let d := f.imm.toNat % 64
    match s.divergedScalar d with
    | some t => .trap t
    | none =>
      let spec := (s.sreg f.s1.toNat).toNat
      let mask := BitVec.ofNat 32 (s.sreg f.s2.toNat).toNat
      let ctx := s.cg.ctx
      if 2 ^ 41 ≤ spec then .trap (msgPeer 2)
      else match s.hook.unexpected.find? fun u => u.ctx == ctx && s.specMatches ctx (spec / 2 ^ 32) (BitVec.ofNat 32 spec) mask u.msg with
        | none => .retire ((s.setS d 0).setS (d + 1) 0)
        | some u =>
          let peer := ((s.peersOf ctx u.msg.sdev).head?).getD 0
          let w := 2 ^ 40 + (if u.msg.eager then 0 else 2 ^ 41) + 2 ^ 32 * peer + u.msg.len % 2 ^ 32
          .retire ((s.setS d (BitVec.ofNat 64 w)).setS (d + 1) (u.msg.tag.setWidth 64))

/-- A removed subscription traps SUB_RANGE at the subscriber's next subon or suboff, R382; in subon it is tested with the state-dependent
checks, after ALIGN, SP_RANGE and SP_REMOTE (R89). TRAPAD is the publisher region's window address (log 35). -/
def subLostTrap (s : State) (k : Eff) : Eff :=
  match s.cteam.subLost with
  | some a => .stay ((s.setTeam s.cg.tid { s.cteam with subLost := none }).takeTrap (trapOf 47 a))
  | none => k

/-- The live subscriptions whose subscriber, or whose publisher, lies on a core; the entries of a saved team are saved with it, R386. -/
def subsOn (s : State) (c : Nat) : List (Nat × Subscr) :=
  s.subs.filter fun p => p.2.live && (s.team p.2.sub).core == c && !(s.team p.2.sub).saved
def pubsOn (s : State) (c : Nat) : List (Nat × Subscr) :=
  s.subs.filter fun p => p.2.live && (s.team p.2.pub).core == c && !(s.team p.2.pub).saved

/-- A subscription finds its tables full, R382: subscriber entries of the core, publisher entries of core `c`, subscribers of the
region. -/
def subFull (s : State) (pub off len : Nat) : Bool :=
  let c := (s.team pub).core
  let same := fun (x : Subscr) => x.pub == pub && x.poff == off && x.len == len
  let regions := ((s.pubsOn c).map fun p => (p.2.pub, p.2.poff, p.2.len)).dedup
  decide (Config.subEntries ≤ (s.subsOn s.ccore).length) ||
    (!regions.contains (pub, off, len) && decide (Config.subEntries ≤ regions.length)) ||
    decide (Config.regionSubs ≤ ((s.pubsOn c).filter fun p => same p.2).length)

/-- subon, R382. -/
def subonEff (s : State) (f : XF) : Eff :=
  s.guarded f.g true [] (fun _ => [.s f.s1.toNat, .s f.s2.toNat]) fun act =>
    let lo := s.sreg f.s1.toNat
    let w := s.sreg f.s2.toNat
    let len := 64 * f.imm.toNat
    let t := s.cteam
    let bad := fun (cause : Nat) (a : Word) => Eff.trap (trapOf cause a (accessX (lowest act) .read 7))
    if lo.toNat % 64 != 0 then bad 15 lo
    else if w.toNat % 64 != 0 then bad 15 w
    else if t.scratch < lo.toNat + len then bad 16 lo
    else if 2 ^ 25 ≤ w.toNat || decide (t.scratch < w.toNat % 2 ^ 18 + len) then bad 16 w
    else match s.panelTeam t.panel (w.toNat / 2 ^ 18) with
      | none => bad 17 w
      | some pub => s.subLostTrap <|
        if (s.team pub).scratch < w.toNat % 2 ^ 18 + len || (s.ctx (s.team pub).ctx).part != s.cctx.part then .trap (trapOf 47 w)
        else if s.subFull pub (w.toNat % 2 ^ 18) len then .trap (trapOf 46 w)
        else
          let x : Subscr := ⟨true, s.cg.tid, lo.toNat, pub, w.toNat % 2 ^ 18, len, [], []⟩
          .retire { s with subs := mset {} s.subs (mfresh s.subs) x }

/-- suboff, R386: updates already forwarded are applied; nothing more is forwarded. -/
def suboffEff (s : State) (f : XF) : Eff :=
  s.guarded f.g true [] (fun _ => [.s f.s1.toNat]) fun _ => s.subLostTrap <|
    match s.subs.find? fun p => p.2.live && p.2.sub == s.cg.tid && p.2.soff == (s.sreg f.s1.toNat).toNat with
    | none => .retire s
    | some (k, x) =>
      let s := x.sent.foldl (fun s u => s.applyUpdate x u) s
      .retire { s with subs := merase s.subs k }

/-- subflush, R385. -/
def subflushEff (s : State) (f : XF) : Eff := s.guarded f.g true [] (fun _ => []) fun _ => .retire (s.drainSubs s.ccore)

end State

/-- msend, R381. -/
def execMsend (f : XF) (s : State) : Host.Outcome State Fault Refusal := s.conclude (s.msendEff f)
/-- mpost, R381. -/
def execMpost (f : XF) (s : State) : Host.Outcome State Fault Refusal := s.conclude (s.mpostEff f)
/-- mcancel, R381. -/
def execMcancel (f : XF) (s : State) : Host.Outcome State Fault Refusal := s.conclude (s.mcancelEff f)
/-- mprobe, R381. -/
def execMprobe (f : XF) (s : State) : Host.Outcome State Fault Refusal := s.conclude (s.mprobeEff f)
/-- subon, R382. -/
def execSubon (f : XF) (s : State) : Host.Outcome State Fault Refusal := s.conclude (s.subonEff f)
/-- suboff, R386. -/
def execSuboff (f : XF) (s : State) : Host.Outcome State Fault Refusal := s.conclude (s.suboffEff f)
/-- subflush, R385. -/
def execSubflush (f : XF) (s : State) : Host.Outcome State Fault Refusal := s.conclude (s.subflushEff f)

namespace State

/-- The updates at the head of a batch that lie in one sector of the region. -/
def leadRun : List Update → List Update × List Update
  | [] => ([], [])
  | u :: us => ((u :: us).takeWhile fun x => x.off / 64 == u.off / 64, (u :: us).dropWhile fun x => x.off / 64 == u.off / 64)

end State

/-- SUB_UPDATE_FORWARD, R384: the publisher core forwards, for each subscription of its regions, the oldest sector it has batched. -/
def execSubUpdateForward (core : Nat) (s : State) : Host.Outcome State Fault Refusal :=
  let one := fun (p : Nat × Subscr) =>
    if p.2.live && (s.team p.2.pub).core == core then
      let (a, b) := State.leadRun p.2.batch
      (p.1, { p.2 with batch := b, sent := p.2.sent ++ a })
    else p
  .next { s with subs := s.subs.map one }

/-- SUB_UPDATE_APPLY, R384: the subscriber of a subscription applies the oldest update on its way. -/
def execSubUpdateApply (sub : Nat) (s : State) : Host.Outcome State Fault Refusal :=
  let x := mget {} s.subs sub
  match x.sent with
  | [] => .next s
  | u :: rest => .next ({ s with subs := mset {} s.subs sub { x with sent := rest } }.applyUpdate x u)

namespace State

/-- The group that an xshfl names, and where it stands with an xshfl naming the executing group back, R387. -/
def xshflPartner (s : State) (w : Word) : Option (Nat × Nat × BitVec 32) :=
  match s.named w with
  | none => none
  | some g =>
    let x := s.grp g
    match x.sole.park with
    | some (.xshfl w' v' m') =>
      if g != s.gid && x.converged && w'.toNat < 2 ^ 16 && s.cg.vcluster == w'.toNat % 16 && s.cg.vcore == w'.toNat / 16 % 128 &&
          s.cg.vslot == w'.toNat / 2048 then some (g, v', m') else none
    | _ => none

/-- A group takes the register of its partner in the lanes that both masks hold, with its poison, R388, R500. -/
def xshflTake (s : State) (gid v : Nat) (m : BitVec 32) (row : Nat → Lane32) (pois : BitVec 32) : State :=
  s.setGrp gid (((s.grp gid).setV v m row).markV v m pois)

/-- xshfl, R387, R388. -/
def xshflEff (s : State) (f : XF) : Eff :=
  let v := f.v.toNat
  match s.rdTrap (.p f.g.ps.toNat s.armMask) with
  | some t => .trap t
  | none =>
    match s.winTrap [(v, 1)] with
    | some t => .trap t
    | none =>
      match s.rdTrap (.s f.s2.toNat) with
      | some t => .trap t
      | none => s.collective 0xB7 <|
        let m := s.active f.g
        let w := s.sreg f.s2.toNat
        match s.xshflPartner w with
        | none => .stay (s.park (.xshfl w v m))
        | some (g, v', m') =>
          let me := s.cg
          let it := s.grp g
          let both := m &&& m'
          let s := s.xshflTake s.gid v both (fun l => it.vlane v' l) (it.vpoison v')
          let s := s.xshflTake g v' both (fun l => me.vlane v l) (me.vpoison v)
          .retire (s.setGrp g ((s.grp g).setArm it.soleSlot it.sole.advance))

end State

/-- xshfl, R388. -/
def execXshfl (f : XF) (s : State) : Host.Outcome State Fault Refusal := s.conclude (s.xshflEff f)

/-- XSHFL_TIMEOUT, R387: an unpaired xshfl traps. -/
def execXshflTimeout (gid : Nat) (s : State) : Host.Outcome State Fault Refusal :=
  let g := s.grp gid
  match g.live, g.sole.park with
  | true, some (.xshfl w _ _) => .next (s.takeTrapAt gid g.soleSlot (trapOf 48 0 w) g.sole.ipc)
  | _, _ => .next s

/-- The fields of a collective descriptor, R390. -/
structure KDesc where
  src : Word
  dst : Word
  count : Nat
  op : Nat
  red : Nat
  ty : Nat
  crm : Nat
  comm : Nat
  root : Nat
  tag : Nat
  deriving DecidableEq, Repr

def KDesc.of (d : List Byte) : KDesc :=
  { src := BitVec.ofNat 64 (du d 0 8), dst := BitVec.ofNat 64 (du d 8 8), count := du d 16 4, op := du d 20 1, red := du d 21 1,
    ty := du d 22 1, crm := du d 23 1, comm := du d 24 2, root := du d 26 2, tag := du d 28 2 }

namespace KDesc

/-- Bytes of an element, R390. -/
def esz (k : KDesc) : Nat := [4, 2, 2, 4, 4, 8, 4, 8].getD k.ty 1

/-- Bytes read and written at rank `r` of `n`, R391. -/
def inBytes (k : KDesc) (r n : Nat) : Nat :=
  k.esz * k.count * (match k.op with | 1 => n | 3 => if r == k.root then 1 else 0 | _ => 1)
def outBytes (k : KDesc) (n : Nat) : Nat := k.esz * k.count * (if k.op == 2 then n else 1)

end KDesc

namespace State

def comm (s : State) (ctx c : Nat) : Comm := mget {} s.comms (4096 * ctx + c)

/-- The failed condition of R390's list, by position. -/
def collBad (s : State) (d : List Byte) : Option Nat :=
  let k := KDesc.of d
  let c := s.comm s.cg.ctx k.comm
  let bits := k.ty == 6 || k.ty == 7
  let a := k.src.toNat
  let b := k.dst.toNat
  let ia := k.inBytes c.rank c.n
  let ob := k.outBytes c.n
  if du d 30 34 != 0 || decide (3 < k.op) || decide (5 < k.red) || decide (7 < k.ty) || decide (4 < k.crm) || decide (4095 < k.comm) ||
      k.count == 0 || decide (2 ^ 28 < k.count) || (k.op != 3 && k.root != 0) then some 1
  else if 3 ≤ k.red && !bits then some 2
  else if k.red < 3 && bits then some 3
  else if !c.live then some 4
  else if c.n ≤ k.root then some 5
  else if a % k.esz != 0 || b % k.esz != 0 then some 6
  else if ia != 0 && ob != 0 && decide (a < b + ob) && decide (b < a + ia) && !(a == b && ia == ob) then some 7
  else none

/-- A command joins the team's q2 with the release of the wider of device and SC, once there is space, R379, R391. -/
def collGo (s : State) (d : List Byte) (ct : Ct) (sc : Nat) (b : Issuer) : Eff :=
  if 64 ≤ s.cteam.q2.length then .stay (s.park (.queue d [] 0))
  else if (ct == .cnt && decide (63 ≤ s.cg.copies)) || s.relWaits (wideScope sc) then
    .stay (s.relStay (wideScope sc))
  else
    let s := s.releaseAct (wideScope sc)
    let id := s.uids
    let s := { s.setTeam s.cg.tid { s.cteam with q2 := s.cteam.q2 ++ [⟨id, d, ct, b⟩] } with uids := id + 1 }
    let s := if ct == .cnt then s.modG fun g => { g with copies := g.copies + 1 } else s
    if ct == .cont then .stay (s.park (.cont id)) else .retire s

/-- coll with the descriptor `d`, R390. -/
def collIssue (s : State) (d : List Byte) (ct : Ct) (sc : Nat) (b : Issuer) : Eff :=
  match s.collBad d with
  | some k => .trap (trapOf 49 0 (BitVec.ofNat 64 k))
  | none => s.collGo d ct sc b

/-- coll, R380, R391. -/
def collEff (s : State) (f : XF) : Eff :=
  s.resumed (fun d _ _ => s.collGo d f.ct f.sc.code (s.issuer f)) <|
  s.guarded f.g true [] (fun _ => [.s f.s1.toNat]) fun act =>
    s.descProbe f.s1.toNat 64 64 act fun d => s.collIssue d f.ct f.sc.code (s.issuer f)

end State

/-- coll, R391. -/
def execColl (f : XF) (s : State) : Host.Outcome State Fault Refusal := s.conclude (s.collEff f)

/-- The floating-point format of a collective's type. -/
def collFp (ty : Nat) : Option FFmt := match ty with | 0 => some fmtF32 | 1 => some fmtBf16 | 2 => some fmtF16 | _ => none

/-- Combine the inputs of one reduction unit, R391: a float sum is exact and rounded once by CRM; integers wrap. -/
def collUnit (k : KDesc) (xs : List Nat) : Nat :=
  let w := 8 * k.esz
  match collFp k.ty with
  | some f =>
    (match xs with
     | [] => 0
     | x :: rest =>
       if k.red == 0 then (roundTo f k.crm false false 0 (sumFp (k.crm == 2) (xs.map (unpackF f false))).1).1
       else rest.foldl (fun a b => (pickFp f (k.red == 2) false false a b).1) (pickFp f (k.red == 2) false false x x).1)
  | none =>
    let sg := fun x : Nat => if k.ty == 4 then (x : Int) else toSigned w x
    match xs with
    | [] => 0
    | x :: rest => rest.foldl (fun a b => match k.red with
        | 0 => (a + b) % 2 ^ w
        | 1 => if sg b < sg a then b else a
        | 2 => if sg a < sg b then b else a
        | 3 => Nat.land a b
        | 4 => Nat.lor a b
        | _ => Nat.xor a b) x

/-- Evaluate the reduction tree over the ranks' values, R389, R391: postfix, a rank pushes its value, a unit combines the last
values. -/
def collTree (k : KDesc) (val : Nat → Nat) : List (Sum Nat Nat) → List Nat → Nat
  | [], st => st.headD 0
  | .inl r :: t, st => collTree k val t (val r :: st)
  | .inr n :: t, st => collTree k val t (collUnit k (st.take n).reverse :: st.drop n)

/-- Element `e` of a rank's input. -/
def collElem (k : KDesc) (bs : List MarkedByte) (e : Nat) : Nat := natOfBytes (((bs.drop (e * k.esz)).take k.esz).map (·.1))

/-- The output bytes of rank `r`, R391; `ins` gives each rank's input. An element is poisoned with any input of it. -/
def collOut (k : KDesc) (c : Comm) (ins : Nat → List MarkedByte) : List MarkedByte :=
  let marked := fun e => (List.range c.n).any fun r => (((ins r).drop (e * k.esz)).take k.esz).any (·.2)
  let red := fun e => (bytesOfNat k.esz (collTree k (fun r => collElem k (ins r) e) c.tree [])).map fun b => (b, marked e)
  match k.op with
  | 0 => (List.range k.count).flatMap red
  | 1 => (List.range k.count).flatMap fun e => red (c.rank * k.count + e)
  | 2 => (List.range c.n).flatMap fun r => (ins r).take (k.count * k.esz)
  | _ => (ins k.root).take (k.count * k.esz)

namespace State

/-- The command of a context's next collective on a communicator: the oldest in its teams' q2, R389. -/
def collNext (s : State) (ctx c : Nat) : Option (Nat × CollCmd) :=
  let all := s.teams.flatMap fun (p : Nat × Team) =>
    if p.2.ctx == ctx then (p.2.q2.filter fun k => (KDesc.of k.desc).comm == c).map fun k => (p.1, k) else []
  all.foldl (fun best x => match best with | some b => if x.2.id < b.2.id then some x else best | none => some x) none

/-- A collective's completion signals its target, R392. -/
def collSignal (s : State) (tid : Nat) (cmd : CollCmd) (status : Nat) : State :=
  let w := BitVec.ofNat 64 (65536 * status + (KDesc.of cmd.desc).tag)
  match cmd.ct with
  | .cnt => s.copyDone cmd.by_ (if status == 0 then none else some (24, 0, w.toNat))
  | .cont => if status == 0 then s.contWake cmd.by_ cmd.id else s.contTrap cmd.by_ cmd.id (trapOf 24 0 w)
  | _ => s.postQ tid 3 { word := w, pay := [] }

/-- Write a collective's output; where a byte cannot be written the status is FAULT, R392. -/
def collWrite (s : State) (ctx : Nat) (k : KDesc) (bs : List MarkedByte) : State × Bool :=
  let (s, n) := s.hookWrite ctx k.dst bs
  (s, n == bs.length)

/-- After FAULT or LINKDOWN the output bytes are undefined, R392: free values (log 9), on every page that can be written. -/
def collSpoil (s : State) (ctx : Nat) (k : KDesc) (n : Nat) : State :=
  ((s.freeBytes n).zipIdx.foldl (fun s b => (s.hookWrite1 ctx (k.dst + BitVec.ofNat 64 b.2) b.1 false).getD s) s).bump

/-- This rank's part in a collective travels to the devices of its tree, R392, R393: control on the narrow plane, data on the bulk
plane. -/
def collSend (s : State) (c : Comm) (data : Bool) : State :=
  c.devs.foldl (fun s d => let s := s.carry d false; if data then s.carry d true else s) s

/-- It waits for a plane, R488. -/
def collHeld (s : State) (c : Comm) : Bool := c.devs.any fun d => !(s.portsOf d).isEmpty && (s.heldTo d false || s.heldTo d true)

/-- A port that carried it has gone down, R489, or no port is left to a device of the tree. -/
def collLost (s : State) (c : Comm) : Bool := c.lost || c.devs.any fun d => !(mget [] s.portSets d).isEmpty && (s.portsOf d).isEmpty

/-- The status and effect of a collective on this rank, R391, R392, with what the other ranks brought. -/
def collRun (s : State) (ctx : Nat) (k : KDesc) (c : Comm) (r : CollPeers) : State × Nat :=
  let codes := (k.op, k.red, k.ty, k.count)
  if r.linkDown || s.collLost c then (s.collSpoil ctx k (k.outBytes c.n), 3)
  else match s.hookRead ctx k.src (k.inBytes c.rank c.n) with
    | none => ((s.collSend c false).collSpoil ctx k (k.outBytes c.n), 2)
    | some (s, mine) =>
      let s := { s with events := s.events ++ [DevEvent.collective k.comm mine] }.collSend c true
      if r.peerFault then (s.collSpoil ctx k (k.outBytes c.n), 2)
      else if r.ranks.any fun x => x.2.1 != codes then (s, 1)
      else
        let ins := fun q => if q == c.rank then mine else ((r.ranks.find? fun x => x.1 == q).map fun x => x.2.2).getD []
        let (s, ok) := s.collWrite ctx k (collOut k c ins)
        if ok then (s, 0) else (s.collSpoil ctx k (k.outBytes c.n), 2)

end State

/-- COLL_COMPLETE, R392: collective k of a context on a communicator completes with the other ranks' commands and inputs; a signal
to a group that is saved waits for the resume (R395), and the engine's first touches wait for an xinv (R450), its accesses for homes
(R312, R480), and its traffic for the planes (R488). A link of the tree between other devices may be down (`r.linkDown`). -/
def execCollComplete (ctx comm : Nat) (r : CollPeers) (s : State) : Host.Outcome State Fault Refusal :=
  let c := s.comm ctx comm
  match s.collNext ctx comm with
  | none => .next s
  | some (tid, cmd) =>
    let t := s.team tid
    let k := KDesc.of cmd.desc
    if !c.live || s.xinvHolds ctx || s.collHeld c ||
        (s.mayWait && (s.hookWaits ctx (State.sectorAddrs k.src (k.inBytes c.rank c.n)) false ||
          s.hookWaits ctx (State.sectorAddrs k.dst (k.outBytes c.n)) true)) then .next s
    else
      let s := { s.setTeam tid { t with q2 := t.q2.filter fun x => x.id != cmd.id } with
                 comms := mset {} s.comms (4096 * ctx + comm) { c with lost := false } }
      let (s, status) := s.collRun ctx (KDesc.of cmd.desc) c r
      if t.saved && (cmd.ct == .cnt || cmd.ct == .cont) then
        .next (s.setTeam tid { s.team tid with collDone := (s.team tid).collDone ++ [(cmd, status)] })
      else .next (s.collSignal tid cmd status)

end Sys2Proof.Machine
end

