-- ==== Sys2Proof/Machine/Queue.lean ====
section
/-! DEFINITION. The queue registers (R353-R356, R370): qpush, qpop and qtry. -/

namespace Sys2Proof.Machine

namespace State

/-- QUEUE_DIR, R355. -/
def queueDir (n : Nat) : TrapInfo := trapOf 26 0 (BitVec.ofNat 64 n)

/-- Push and pop registers, R353. -/
def isPush (n : Nat) : Bool := [2, 4, 6].contains n

/-- The instruction that a push of q4 stands for: gath with CT = 0, R353. -/
def gathForm (f : QF) : XF := { g := f.g, s1 := f.s, s2 := 0, v := 0xFF, cq := 0, ct := .none, bar := 0, sc := .none, imm := 0 }

/-- A push into the mailbox, R355, R356: a release at team scope; the payload carries its poison (R500). -/
def mailPush (s : State) (f : QF) (act : BitVec 32) : Eff :=
  if 64 ≤ s.cteam.mail.length then .stay (s.park .space)
  else
    let v := f.v.toNat
    let pay := if f.v == 0xFF then [] else (List.range 32).map fun l => if bit act l then s.cg.vlane v l else 0
    let pois := if f.v == 0xFF then 0 else s.cg.vpoison v &&& act
    let e : QEntry := { word := s.sreg f.s.toNat, pay := pay, ppois := pois }
    let s := s.releaseAct 4
    .retire (s.setTeam s.cg.tid { s.cteam with mail := s.cteam.mail ++ [e] })

/-- qpush, R355: q2 is the collective engine (R392), q4 the gather engine, q6 the mailbox. -/
def qpushEff (s : State) (f : QF) : Eff :=
  s.resumed (fun d _ _ => if f.qr.toNat == 2 then s.collGo d .none 15 (s.issuer (gathForm f))
    else s.enqueue 4 .gather d (gathForm f)) <|
  s.guarded f.g true (if f.v == 0xFF then [] else [(f.v.toNat, 1)]) (fun _ => [.s f.s.toNat]) fun act =>
    let n := f.qr.toNat
    if !isPush n then .trap (queueDir n)
    else if n == 2 then s.descProbe f.s.toNat 64 64 act fun d => s.collIssue d .none 15 (s.issuer (gathForm f))
    else if n == 4 then s.descProbe f.s.toNat 64 64 act fun d =>
      if GDesc.valid d then s.enqueue 4 .gather d (gathForm f) else .trap (badDesc 4)
    else s.mailPush f act

/-- The entries of a pop register, R353. -/
def popQueue (t : Team) (n : Nat) : List QEntry :=
  match n with | 0 => t.q0 | 1 => t.q1 | 3 => t.q3 | 5 => t.q5 | _ => t.mail

/-- The scope of the acquire of a pop: the mailbox synchronises at team scope (R356), q5 with the gather's completion (R366),
q0, q1 and q3 at device scope (R394). -/
def popScope (n : Nat) : Nat := match n with | 5 => 6 | 7 => 4 | _ => 7

/-- The oldest entry leaves its queue. -/
def popHead (s : State) (tid n : Nat) : State :=
  let t := s.team tid
  s.setTeam tid (match n with
    | 0 => { t with q0 := t.q0.tail } | 1 => { t with q1 := t.q1.tail } | 3 => { t with q3 := t.q3.tail }
    | 5 => { t with q5 := t.q5.tail } | _ => { t with mail := t.mail.tail })

/-- MSG_TRUNC of a receive completion at user level, R370. -/
def truncTrap (s : State) (n : Nat) (e : QEntry) : Option TrapInfo :=
  if n == 0 && natBits e.word.toNat 36 4 == 1 && !s.ca.handler then some (trapOf 44 e.dst e.word) else none

/-- The entry popped reaches its registers, R355. -/
def popWrite (s : State) (f : QF) (act : BitVec 32) (e : QEntry) : State :=
  let s := s.modG fun g => (g.setS s.slot f.s.toNat e.word).markS s.slot f.s.toNat e.wpois
  if f.v == 0xFF then s
  else s.modG fun g => (g.setV f.v.toNat act fun l => e.pay.getD l 0).markV f.v.toNat act e.ppois

/-- The predicate of qtry, R355. -/
def tryPred (s : State) (f : QF) (act : BitVec 32) (ok : Bool) : State :=
  s.modG fun g => (g.setPred f.pd.toNat act (if ok then act else 0)).markPred f.pd.toNat act 0

/-- qpop and qtry, R355, R370: `try_` says what an empty queue does. -/
def popEff (s : State) (f : QF) (try_ : Bool) : Eff :=
  s.guarded f.g true (if f.v == 0xFF then [] else [(f.v.toNat, 1)]) (fun _ => []) fun act =>
    let n := f.qr.toNat
    if isPush n then .trap (queueDir n)
    else match popQueue s.cteam n with
      | [] => if try_ then .retire (s.tryPred f act false) else .stay (s.park (.qpop n))
      | e :: _ =>
        match s.divergedScalar f.s.toNat with
        | some t => .trap t
        | none =>
          match s.truncTrap n e with
          | some t => .trap t
          | none =>
            let s := ((s.popHead s.cg.tid n).popWrite f act e).acquireAct (popScope n)
            .retire (if try_ then s.tryPred f act true else s)

end State

/-- qpush, R355. -/
def execQpush (f : QF) (s : State) : Host.Outcome State Fault Refusal := s.conclude (s.qpushEff f)
/-- qpop, R355. -/
def execQpop (f : QF) (s : State) : Host.Outcome State Fault Refusal := s.conclude (s.popEff f false)
/-- qtry, R355. -/
def execQtry (f : QF) (s : State) : Host.Outcome State Fault Refusal := s.conclude (s.popEff f true)

end Sys2Proof.Machine
end

