-- ==== Sys2Proof/Machine/Preempt.lean ====
section
/-! DEFINITION. Pre-emption and resume (R361, R395, R428, R452-R457), and the free resources of a core (R15, R16, R400). -/

namespace Sys2Proof.Machine

/-- The implicit points of R452: waits at which an arm stops and is saved as it stands. -/
def Park.implicitPoint : Park → Bool
  | .bar _ _ => true | .barDup _ _ _ => true | .barWait _ _ => true | .pbar _ => true | .join => true | .qpop _ => true
  | .sktake _ => true | .tret => true | .tcall _ => true | .tvote _ _ _ => true | .forkWait _ _ => true | .xshfl _ _ _ => true
  | .latch => true | .accQueue _ => true | .accFree => true | .cont _ => true | .space => true | .queue _ _ _ => true
  | _ => false

/-- The arm has stopped for pre-emption, R452. -/
def Arm.halted (a : Arm) : Bool :=
  !a.live || match a.park with
    | some (.stopped _) => true
    | some p => p.implicitPoint && !a.handler
    | none => false

namespace State

/-- A pre-emption request is pending for an arm of the group, and the arm is one that stops at a point, R452. -/
def stopDue (s : State) (gid : Nat) (a : Arm) : Bool := !a.handler && bit (s.ctx (s.grp gid).ctx).preq (gidDie gid)

/-- PDEADL has passed for the arm, R452. -/
def deadlineDue (s : State) (gid : Nat) (a : Arm) : Bool := !a.handler && bit (s.ctx (s.grp gid).ctx).pdue (gidDie gid)

/-- An ended team of a panel that goes on: its scratchpad stays, with the regions published and subscribed in it, R243, R386. -/
def keepsScratch (s : State) (tid : Nat) : Bool := !(s.team tid).live && (s.panel (s.team tid).panel).live && decide (tid ∈ (s.panel (s.team tid).panel).teams)

/-- Ended root teams of a context on those dies that are saved with it: their queues still hold entries (R361, R502), or their panel goes
on (R386). -/
def endedBusy (s : State) (c : Nat) : List Nat :=
  (s.teams.filter fun (p : Nat × Team) => !p.2.live && !p.2.saved && p.2.ctx == c && bit (s.ctx c).preq (coreDie p.2.core) &&
    (s.keepsScratch p.1 || p.2.queues.any (fun q => !q.entries.isEmpty) || p.2.pat.executed != p.2.pat.granted || !p.2.q2.isEmpty)).map (·.1)

/-- Live groups of a context on the dies of its pending request. -/
def preempted (s : State) (c : Nat) : List Nat :=
  (s.groups.filter fun (p : Nat × Group) => p.2.live && p.2.ctx == c && bit (s.ctx c).preq (gidDie p.1)).map (·.1)

/-- An arm has stopped, with its loads committed and its stores acknowledged, R452. -/
def armSettled (a : Arm) : Bool := a.halted && a.loads.isEmpty && a.stores == 0

/-- Every live arm of the group has stopped and nothing of the group's loads is still to come, R452, R453. -/
def groupSettled (g : Group) : Bool := armSettled g.arm0 && armSettled g.arm1 && g.orphans.isEmpty

/-- A started FIFO copy of a team waits for space, R361: the entry of its next element is not reserved, and the FIFO has no room for it; of
a multicast no destination can go on. -/
def fifoWait (s : State) (tid : Nat) (e : CopyEntry) : Bool :=
  let waits := fun (x pos resv : Nat) => e.fifo && s.tileOk x && decide (pos < e.total) &&
    (s.fifoSpace x e.isB e.id e.tag resv (e.total * e.size) (pos * e.size)).isNone
  match e.kind with
  | .multi dests _ _ =>
    let left := dests.filter fun d => !d.failed && decide (d.pos < e.total)
    !left.isEmpty && left.all fun d => waits d.tid d.pos d.reserved
  | _ => waits tid e.pos e.resv

/-- The matrix unit can go on with its head operation, R428. -/
def bandDue (t : Team) : Bool :=
  let ready := fun (l : List FifoEntry) => match l with | e :: _ => e.written == e.size | [] => false
  match t.mmaQ with
  | [] => false
  | op :: _ => if op.b.isSome then ready t.fifoA else ready t.fifoB

/-- A pull of the device's own hook reads the payload of a send of the team. -/
def pullFrom (s : State) (tid : Nat) (p : Pull) : Bool :=
  match p.msg.self with | some sid => s.hook.sends.any fun c => c.id == sid && c.tid == tid | none => false

/-- The team's engines and units have come to rest, R454 steps 3 and 4. -/
def teamSettled (s : State) (tid : Nat) : Bool :=
  let t := s.team tid
  (t.queues.all fun q => q.entries.all fun e => !e.started || q.stop.isSome || s.fifoWait tid e) && !bandDue t &&
    !(s.hook.pulls.any fun p => (p.recv.tid == tid || s.pullFrom tid p) && !s.recvHeld p.recv p.msg)

/-- Every group that the request stops has halted and its team has come to rest. -/
def saveReady (s : State) (c : Nat) : Bool :=
  let gs := s.preempted c
  (s.ctx c).preq != 0 && (gs.all fun g => groupSettled (s.grp g)) &&
    (gs.all fun g => s.teamSettled (s.grp g).tid) && (s.endedBusy c).all s.teamSettled

end State

/-- A liveness entry, R50: scalars, chunks, banks, predicates and scratchpad ranges (first KiB, KiB). -/
structure Liveness where
  smask : Word
  vmask : BitVec 32
  amask : BitVec 32
  pmask : BitVec 8
  ranges : List (Nat × Nat)
  deriving DecidableEq, Repr

/-- The fields of a 64-byte entry, R50. R50 gives NRANGE 0 to 4 and says nothing of a larger value in memory: four ranges are read then (DESIGN
CHOICE, log 11). -/
def Liveness.of (d : List Byte) : Liveness :=
  { smask := BitVec.ofNat 64 (du d 0 8), vmask := BitVec.ofNat 32 (du d 8 4), amask := BitVec.ofNat 32 (du d 12 4),
    pmask := BitVec.ofNat 8 (du d 16 1),
    ranges := (List.range (min 4 (du d 17 1))).map fun i => (du d (24 + 4 * i) 2, du d (26 + 4 * i) 2) }

/-- The union of two entries, R453. -/
def Liveness.union (x y : Liveness) : Liveness :=
  ⟨x.smask ||| y.smask, x.vmask ||| y.vmask, x.amask ||| y.amask, x.pmask ||| y.pmask, x.ranges ++ y.ranges⟩

namespace State

/-- The save engine reads a liveness entry, R452; `none` asks for a full save. -/
def liveEntry (s : State) (l : Nat) (idx : Nat) : Option Liveness :=
  let x := s.launch l
  if x.lrec.livecnt ≤ idx then none
  else
    let va := x.lrec.livetab.toNat + 64 * idx
    match s.walkPage x.ctx (pageOf va) with
    | .leaf e =>
      let pa := e.pa va
      let t : Tr := ⟨pa, e.coh, e.chk, e.smode, e.sliceNo⟩
      if !e.rd || t.hole then none
      else if t.host then some (Liveness.of (mgetList 0 s.hostMem pa 64))
      else let (bs, p) := s.devView pa 64; if p then none else some (Liveness.of bs)
    | _ => none

/-- The entry of an arm that stopped at a pmark. -/
def armEntry (s : State) (l : Nat) (a : Arm) : Option Liveness :=
  match a.park with
  | some (.stopped (some n)) => s.liveEntry l n
  | _ => none

/-- The liveness entries of a group's arms by slot, or `none` where the group is saved in full, R453. -/
def groupEntries (s : State) (g : Group) : Option (List (Nat × Liveness)) :=
  let open_ := g.frames.any fun (p : Nat × Option Frame) => match p.2 with | some f => f.spmask != 0 || !f.waiting.isEmpty | none => false
  let one := fun (slot : Nat) => if (g.arm slot).live then (s.armEntry g.launch (g.arm slot)).map fun x => [(slot, x)] else some []
  if open_ then none
  else match one 0, one 1 with
    | some a, some b => if (a ++ b).isEmpty then none else some (a ++ b)
    | _, _ => none

/-- Registers outside the saved set are undefined after resume, R457: free values of the counter `n` (log 9). -/
def spoilGroup (n : Nat) (es : List (Nat × Liveness)) (g : Group) : Group :=
  let all := es.foldl (fun (u : Liveness) e => u.union e.2) ⟨0, 0, 0, 0, []⟩
  let dead := (List.range g.window).filter fun v => !bit all.vmask (v / 8)
  let g := dead.foldl (fun (g : Group) v =>
    { g with vregs := mset zrow g.vregs v ((List.range 32).map fun l => Config.freeLane n (32 * v + l)), vpois := mset 0 g.vpois v 0 }) g
  let g := { g with scal := (List.range 32).map fun k => if bit all.smask k then g.scal.getD k 0 else Config.freeWord n k,
                    spois := g.spois &&& BitVec.ofNat 32 all.smask.toNat }
  let g := ((List.range 8).filter fun p => p != 0 && !bit all.pmask p).foldl (fun (g : Group) p =>
    { g with preds := mset 0 g.preds p (Config.freeLane n (8192 + p)), ppois := mset 0 g.ppois p 0 }) g
  es.foldl (fun (g : Group) e =>
    let a := g.arm e.1
    g.setArm e.1 { a with scal := (List.range 32).map fun k =>
                            if bit e.2.smask (32 + k) then a.scal.getD k 0 else Config.freeWord n (64 * (e.1 + 1) + k),
                          spois := a.spois &&& BitVec.ofNat 32 (e.2.smask.toNat / 2 ^ 32) }) g

/-- Scratchpad bytes and banks outside the saved set of a team none of whose groups is saved in full, R453, R428, R457. -/
def spoilTeam (n : Nat) (all : Liveness) (t : Team) : Team :=
  let inRange := fun k => all.ranges.any fun r => decide (1024 * r.1 ≤ k) && decide (k < 1024 * (r.1 + r.2))
  let dead := (List.range t.scratch).filter fun k => !inRange k
  { t with sp := dead.foldl (fun m k => mset 0 m k (Config.freeByte n k)) t.sp,
           spPois := t.spPois.filter fun p => inRange p.1,
           banks := t.banks.map fun (p : Nat × Bank) =>
             (p.1, if p.2.alloc && !bit all.amask p.1 then { p.2 with data := [], gen := n + 1 + p.1 } else p.2) }

/-- Entries 30 and 31 of a group's spill stack take its arm-slot records at a save, R176; the manual gives their layout nowhere, so their
256 bytes are free (log 11). A page without V, R or W takes nothing. -/
def armRecords (s : State) (gid : Nat) : State :=
  let g := s.grp gid
  let va := g.spill + 3840
  match s.walkPage g.ctx (pageOf va.toNat) with
  | .leaf e =>
    if !e.rd || !e.w then s
    else
      let put := fun (s : State) k =>
        s.gput (gidCore gid) g.ctx ⟨e.pa va.toNat + 64 * k, e.coh, e.chk, e.smode, e.sliceNo⟩
          ((List.range 64).map fun j => Config.freeByte s.freeCtr (64 * k + j)) false
      ((List.range 4).foldl put s).bump
  | _ => s

/-- The frames of a group are written to its spill region for the save engine, and its arm-slot records with them, R176, R177. -/
def saveFrames (s : State) (gid : Nat) : State :=
  let write := fun (s : State) pos => match (s.grp gid).frame pos with
    | some f => if f.out then s else (s.frameOut gid f).setGrp gid ((s.grp gid).setFrame pos (some { f with out := true }))
    | none => s
  ((List.range 10).foldl write s).armRecords gid

/-- The payloads of a team's sends that deliveries into saved receives still wait for leave the team before it is saved, R395. -/
def landPulls (s : State) (tid : Nat) : State :=
  (s.hook.pulls.filter (s.pullFrom tid)).foldl (fun s p =>
    match s.hook.sends.find? fun c => p.msg.self == some c.id with
    | none => s
    | some c =>
      let s := { s with hook := { s.hook with pulls := s.hook.pulls.filter fun x => x.id != p.id } }
      match s.sendPayload c (min p.msg.len p.recv.capacity) with
      | none => (s.recvPost p.recv p.msg 3 0).sendDone c 3
      | some (s, bs) => { s with hook := { s.hook with waiting := s.hook.waiting ++ [{ p with msg := { p.msg with payload := bs } }] } }.sendDone c 0) s

/-- One team is saved, R454 step 5: its groups leave the core for the image, with the ended groups of a root team, whose slots it
holds (R201). -/
def saveTeam (s : State) (tid : Nat) : State :=
  let gids := s.teamGroups tid
  let s := s.landPulls tid
  let s := gids.foldl (fun s g => s.saveFrames g) s
  let ended := (s.groups.filter fun (p : Nat × Group) => p.2.tid == tid && s.slotUsed p.1 && !p.2.live).map (·.2)
  let es := gids.map fun g => (g, s.groupEntries (s.grp g))
  let n := s.freeCtr
  let saved := es.map fun (x : Nat × Option (List (Nat × Liveness))) => match x.2 with
    | some l => spoilGroup (n + x.1) l (s.grp x.1)
    | none => s.grp x.1
  let t := s.team tid
  let t := { t with queues := t.queues.map fun q => { q with srcPg := [], dstPg := [] } }
  let t := if !es.isEmpty && es.all fun x => x.2.isSome then
      spoilTeam n ((es.flatMap fun x => x.2.getD []).foldl (fun (u : Liveness) e => u.union e.2) ⟨0, 0, 0, 0, []⟩) t
    else t
  let gone := (s.groups.filter fun (p : Nat × Group) => p.2.tid == tid).map (·.1)
  let s := gone.foldl (fun s g => s.setGrp g {}) (s.setTeam tid { t with saved := true, groups := saved ++ ended })
  { s with freeCtr := n + 65600 }

/-- The context leaves a die, R454 step 6: the software-managed lines that it allocated and the sectors that it dirtied are written back
and invalidated (R274), with the deltas of every update-only line there (R275), its L1 lines and translations freed. -/
def leaveDie (s : State) (c d : Nat) : State :=
  let s := (s.dieCores d).foldl (fun s k => s.mergeUpd k fun u => u.ctx == c) s
  let s := (s.die d).l2.foldl (fun s p => match p.2 with
    | some l =>
      if l.coh || !(l.ctx == c || l.sects.any fun x => x.tag == c) then s
      else ((List.range 4).foldl (fun s k =>
        let sect := p.1 * 4 + k
        if l.ctx == c || (l.sects.getD k {}).tag == c then (s.swWriteBack d sect).swDrop d sect else s) (s.mergeDie d p.1)).swTidy d p.1
    | none => s) s
  let s := s.setDie d { s.die d with tlb := (s.die d).tlb.filter fun e => e.ctx != c, walks := (s.die d).walks.filter fun w => w.1 != c,
                                     wcache := (s.die d).wcache.filter fun e => e.ctx != c }
  let s := (s.dieCores d).foldl (fun s k => s.setCore k { s.core k with l1 := [], tlb := (s.core k).tlb.filter fun e => e.ctx != c }) s
  s

/-- The save engine writes the images of a context's cores into its save area, R455: each at an offset that its virtual cluster and core
fix. The layout is the engine's own, so the bytes are free values (log 11). It writes at the home, as an agent outside every die, R298. -/
def saveImages (s : State) (c : Nat) (cores : List Nat) : State :=
  let x := s.ctx c
  let from_ := fun k => x.savea + 786432 * (Config.imageSlot k % max 1 (x.savesz / 768))
  let len := fun k => 64 * (Config.imageSects k % 12289)
  let bytes := fun k => (List.range (len k)).map fun j => Config.freeByte (s.freeCtr + k) j
  let inArea := fun sect => decide (x.savea / 64 ≤ sect) && decide (sect < x.savea / 64 + 16 * x.savesz)
  let lose := fun (n : Nat) (l : L2Line) => (List.range 4).map fun k =>
    let x := l.sects.getD k {}
    if l.coh && inArea (4 * n + k) then { x with cst := .i, drt := 0 } else x
  let give := fun (p : Nat × Option L2Line) => (p.1, p.2.map fun l => { l with sects := lose p.1 l })
  { s with mem := cores.foldl (fun m k => msetList 0 m (from_ k) (bytes k)) s.mem,
           psn := s.psn.filter fun p => !(cores.any fun k => decide (from_ k ≤ 64 * p.1) && decide (64 * p.1 < from_ k + len k)),
           dir := s.dir.filter fun p => !inArea p.1,
           diesSt := s.diesSt.map fun p => (p.1, { p.2 with l2 := p.2.l2.map give }),
           hits := s.hits.filter fun p => !inArea p.1, freeCtr := s.freeCtr + 2048 }

/-- Physical cores that hold something of a context on the dies of its pending request: teams that run, ended ones with entries in their
queues, and panels whose published regions stay until they end, R386. -/
def heldCores (s : State) (c : Nat) : List Nat :=
  ((s.teams.filter fun (p : Nat × Team) => !p.2.saved && p.2.ctx == c && bit (s.ctx c).preq (coreDie p.2.core)).map
    fun (p : Nat × Team) => p.2.core).dedup

/-- The save sequence of a halted context, R454. -/
def saveCtx (s : State) (c : Nat) : State :=
  let gids := s.preempted c
  let tids := ((gids.map fun g => (s.grp g).tid) ++ s.endedBusy c).dedup
  let cores := s.heldCores c
  let images := (tids.map fun t => 128 * (s.team t).vcluster + (s.team t).vcore).dedup
  let s := cores.foldl (fun s k => s.drainSubs k) s
  let s := tids.foldl (fun s t => s.saveTeam t) s
  let dies := maskList (s.ctx c).preq
  let s := dies.foldl (fun s d => s.leaveDie c d) s
  let s := s.saveImages c images
  s.setCtx c { s.ctx c with preq := 0, pdue := 0, away := true }

/-- Saved teams of a context. -/
def savedTeams (s : State) (c : Nat) : List Nat :=
  (s.teams.filter fun (p : Nat × Team) => p.2.saved && p.2.ctx == c).map (·.1)

/-- Scratchpad bytes of a core that no allocation holds: an allocation stays until its panel ends, R15, R243. -/
def freeScratch (s : State) (c : Nat) : Nat :=
  Config.scratchPerCore - s.teams.foldl (fun n (p : Nat × Team) =>
    if !p.2.saved && p.2.core == c && (p.2.live || (s.panel p.2.panel).live) then n + p.2.scratch else n) 0

/-- A core serves a tile team, R400. -/
def hasTile (s : State) (c : Nat) : Bool :=
  s.teams.any fun (p : Nat × Team) => (p.2.live || p.2.tileBusy) && !p.2.saved && p.2.core == c && p.2.accBudget != 0

/-- Slots, spill blocks, registers and records for a fork, R217. -/
def forkRoom (s : State) (n base : Nat) : Bool :=
  decide (n ≤ (s.freeSlots s.ccore).length) && decide (n ≤ (s.freeBlocks s.cg.launch).length) &&
    decide (n * base ≤ s.freeRegs s.ccore) && decide (4 ≤ s.freeRecs s.ccore)

/-- A parked fork.wait of the core could proceed now: it goes ahead of placements there, R217. -/
def forkFirst (s : State) (c : Nat) : Bool :=
  s.groups.any fun (p : Nat × Group) => p.2.live && gidCore p.1 == c && [p.2.arm0, p.2.arm1].any fun a =>
    a.live && !s.stopDue p.1 a && match a.park with
      | some (.forkWait n base) => { s with cur := (p.1, 0) }.forkRoom n base
      | _ => false

/-- A core has room for a team at once, R15, R16, R400: groups, their registers, skein chunks, scratchpad, records, tile unit. -/
def coreFits (s : State) (c groups regs skein scratch recs : Nat) (tile : Bool) : Bool :=
  decide (c < Config.clusters * Config.coresPerCluster) && decide (groups ≤ (s.freeSlots c).length) &&
    decide (regs + 8 * skein ≤ s.freeRegs c) && decide (scratch ≤ s.freeScratch c) && decide (recs ≤ s.freeRecs c) &&
    !(tile && s.hasTile c) && !(s.die (coreDie c)).fenced && !(s.die (coreDie c)).lost && !(s.die (coreDie c)).harvested

/-- The die has a tag for the context, R274: each context with groups there has one. -/
def tagFree (s : State) (c d : Nat) : Bool :=
  let held := ((s.teams.filter fun (p : Nat × Team) => p.2.live && !p.2.saved && coreDie p.2.core == d).map fun p => p.2.ctx).dedup
  held.contains c || decide (held.length < Config.dieTags)

/-- An arm goes on from its point, R456: a parked arm is parked again; one that waited for space issues its instruction again (R452). -/
def resumeArm (a : Arm) : Arm :=
  match a.park with
  | some (.stopped _) => { a with park := none, loads := [], stores := 0 }
  | some .space => { a with park := none, loads := [], stores := 0 }
  | some (.queue _ _ _) => { a with park := none, loads := [], stores := 0 }
  | _ => { a with loads := [], stores := 0 }

/-- The L1, the TLB and the instruction cache of a core hold nothing of a context, R456. The L1 keeps no line at all: none may be older
than what the context has read (R457). -/
def forgetCtx (s : State) (c k : Nat) : State :=
  s.setCore k { s.core k with l1 := [], tlb := (s.core k).tlb.filter fun e => e.ctx != c, icache := [], icPois := [] }

/-- No software-managed line of a die's L2 that the context may read is older than what it has read elsewhere, R291: clean copies there
go, once update-only lines have merged (R275). -/
def freshDie (s : State) (d : Nat) : State :=
  (s.die d).l2.foldl (fun s p => match p.2 with
    | some l => if l.coh then s else
        ((List.range 4).foldl (fun s k => s.swClean d (p.1 * 4 + k)) (s.mergeDie d p.1)).swTidy d p.1
    | none => s) s

/-- The virtual die of a physical one moves: a virtual die of the context takes physical die `d`, and the virtual die that had it takes
the other's; the context's unplaced teams follow, R19, R456. -/
def remapDie (s : State) (c v d : Nat) : State :=
  let x := s.ctx c
  let old := mget 0 x.vdies v
  if old == d + 1 then s
  else
    let other := (List.range 8).find? fun w => w != v && mget 0 x.vdies w == d + 1
    let m := mset 0 x.vdies v (d + 1)
    let m := match other with | some w => mset 0 m w old | none => m
    let swap := fun k => if k + 1 == old then d else if k == d && old != 0 then old - 1 else k
    let chunk := fun (l : Launch) => if l.ctx == c then
        { l with named := l.named.map swap,
                 chunks := l.chunks.foldl (fun n (p : Nat × List (Nat × Nat)) => mset [] n (2 * swap (p.1 / 2) + p.1 % 2) p.2) [] }
      else l
    { s.setCtx c { x with vdies := m } with launches := s.launches.map fun (p : Nat × Launch) => (p.1, chunk p.2) }

/-- An ended group of a root team keeps its slot, R201; a live one goes on from its points with its counts at zero, R456. -/
def resumeGroup (s : State) (g : Group) : Group :=
  if g.live then
    ({ g with arm0 := resumeArm g.arm0, arm1 := resumeArm g.arm1, place := .pending, since := s.tick, begun := 0, copies := 0, tiles := 0 } :
      Group).settlePlace
  else g

/-- One saved team is placed on a core with room for it, R456; the collectives that completed meanwhile signal their groups, R395. -/
def resumeTeam (s : State) (tid c : Nat) : Option State :=
  let t := s.team tid
  let recs := t.levels.foldl (fun k (l : Nat × Level) => k + l.2.recs.length) 0
  let regs := t.groups.foldl (fun k g => k + g.base) 0
  if !s.coreFits c t.groups.length regs t.skeinSize t.scratch recs (t.accBudget != 0) || !s.tagFree t.ctx (coreDie c) then none
  else
    let slots := s.freeSlots c
    let l := s.launch t.launch
    let s := (s.remapDie t.ctx (t.vcluster / 2) (coreDie c)).forgetCtx t.ctx c
    let s := s.freshDie (coreDie c)
    let s := s.setTeam tid { t with core := c, saved := false, groups := [], collDone := [] }
    let s := if l.live then s.setLaunch t.launch { s.launch t.launch with dies := setBit l.dies (coreDie c) true } else s
    let s := (t.groups.zip slots).foldl (fun s (x : Group × Nat) => s.setGrp x.2 (s.resumeGroup x.1)) s
    some (t.collDone.foldl (fun s x => s.collSignal tid x.1 x.2) s)

/-- The new core of a saved team; an ended team that holds nothing but queue entries may stay on its core where the map does not name
one. -/
def newCore (s : State) (m : List Placement) (tid : Nat) : Option Nat :=
  match m.find? fun p => p.fromCore == 128 * (s.team tid).vcluster + (s.team tid).vcore with
  | some p => some p.toCore
  | none => if (s.team tid).live || s.keepsScratch tid then none else some (s.team tid).core

/-- The core that a virtual core of a context will have: the new one of a saved team, that of a running one. -/
def coreOf (s : State) (m : List Placement) (tid : Nat) : Option Nat :=
  if (s.team tid).saved then s.newCore m tid else some (s.team tid).core

/-- Every team has a core; one virtual core has one physical core and shares it with no other; one virtual cluster has one cluster
and one virtual die one die, R18, R19, R456. -/
def placementOk (s : State) (m : List Placement) (c : Nat) : Bool :=
  let tids := (s.teams.filter fun (p : Nat × Team) => (p.2.live || s.keepsScratch p.1) && p.2.ctx == c).map (·.1)
  tids.all fun a => (s.coreOf m a).isSome && tids.all fun b =>
    let ka := (s.coreOf m a).getD 0
    let kb := (s.coreOf m b).getD 0
    let x := s.team a
    let y := s.team b
    ((x.vcluster == y.vcluster && x.vcore == y.vcore) == (ka == kb)) && ((x.vcluster == y.vcluster) == (coreCluster ka == coreCluster kb)) &&
      ((x.vcluster / 2 == y.vcluster / 2) == (coreDie ka == coreDie kb))

/-- Subscriptions whose ends no longer lie in one panel's partition after a resume end, and the subscriber learns of it, R382. -/
def checkSubs (s : State) : State :=
  let bad := fun (x : Subscr) => x.live && (s.ctx (s.team x.sub).ctx).part != (s.ctx (s.team x.pub).ctx).part
  let lost := s.subs.filter fun (p : Nat × Subscr) => bad p.2
  let first := fun (x : Subscr) => ((s.team x.sub).subLost).getD (BitVec.ofNat 64 (2 ^ 18 * (s.team x.pub).vcore + x.poff))
  let s := lost.foldl (fun s (p : Nat × Subscr) => s.setTeam p.2.sub { s.team p.2.sub with subLost := some (first p.2) }) s
  { s with subs := s.subs.filter fun (p : Nat × Subscr) => !lost.contains p }

end State

/-- PREEMPT_REQUEST, R452: the command processor names physical dies for a partition's contexts. -/
def execPreemptRequest (part dies : Nat) (s : State) : Host.Outcome State Fault Refusal :=
  .next { s with ctxs := s.ctxs.map fun (p : Nat × Ctx) =>
    (p.1, if p.2.live && p.2.part == part then { p.2 with preq := p.2.preq ||| BitVec.ofNat 8 dies } else p.2) }

/-- PREEMPT_DEADLINE, R452: running arms of the context stop at their next clause boundary. -/
def execPreemptDeadline (ctx : Nat) (s : State) : Host.Outcome State Fault Refusal :=
  .next (s.setCtx ctx { s.ctx ctx with pdue := (s.ctx ctx).preq })

/-- HANDLER_PREEMPT_LIMIT, R452: a group with an arm still at handler level 100 µs after the request ends with KILLED, TRAPX 1. -/
def execHandlerPreemptLimit (gid : Nat) (s : State) : Host.Outcome State Fault Refusal :=
  let g := s.grp gid
  let h := (g.arm0.live && g.arm0.handler) || (g.arm1.live && g.arm1.handler)
  if g.live && h && bit (s.ctx g.ctx).preq (gidDie gid) then
    .next (s.endAsync gid (trapOf 52 0 1))
  else .next s

/-- SAVE_SEQUENCE, R454: nothing while a group has not halted or a unit has not come to rest. -/
def execSaveSequence (ctx : Nat) (s : State) : Host.Outcome State Fault Refusal :=
  .next (if s.saveReady ctx then s.saveCtx ctx else s)

/-- CONTEXT_RESUME, R456: the saved teams of a context take new cores, all or none; an image that another agent has written into
is undefined (R455), and the model stops (log 11). -/
def execContextResume (ctx : Nat) (m : List Placement) (s : State) : Host.Outcome State Fault Refusal :=
  let tids := s.savedTeams ctx
  let x := s.ctx ctx
  if !x.away then .next s
  else if !s.unhit (x.savea / 64) (16 * x.savesz) then .fault .imageOverwritten
  else if !s.placementOk m ctx then .next s
  else
    let go := tids.foldl (fun (acc : Option State) t => match acc, (s.newCore m t) with
      | some s, some c => s.resumeTeam t c
      | _, _ => none) (some s)
    match go with
    | none => .next s
    | some s' => .next (s'.setCtx ctx { s'.ctx ctx with away := false }).checkSubs

end Sys2Proof.Machine
end

