-- ==== Sys2Proof/Machine/Launch.lean ====
section
/-! DEFINITION. Launch queues and records (R467-R470), the check of a pattern (R349), distribution and placement (R477-R480), edges
and completion (R471-R476), aborts (R505). -/

namespace Sys2Proof.Machine

/-- The fields of a launch record of 256 bytes, R469. -/
def LRec.of (d : List Byte) : LRec :=
  { entry := BitVec.ofNat 64 (du d 0 8), lanes := du d 8 2, base := du d 10 1, skein := du d 11 1, scratch := du d 12 4,
    acc := du d 16 1, bars := du d 17 1, panel := du d 18 1, aff := du d 19 1, part := du d 20 1, svc := du d 21 1 % 2 == 1,
    serial := du d 21 1 / 2 % 2 == 1, ctx := du d 22 2, xext := du d 24 4, yext := du d 28 2, zext := du d 30 2,
    patbase := BitVec.ofNat 64 (du d 32 8), patrows := du d 40 4, seed := BitVec.ofNat 32 (du d 44 4),
    hvec := BitVec.ofNat 64 (du d 48 8), spill := BitVec.ofNat 64 (du d 56 8), spillkb := du d 64 4,
    livetab := BitVec.ofNat 64 (du d 72 8), oute := BitVec.ofNat 64 (du d 80 8), nout := du d 88 4, livecnt := du d 92 4,
    compl := BitVec.ofNat 64 (du d 96 8), msix := du d 104 2 }

namespace LRec

/-- Groups of a team and teams placed together. -/
def groups (r : LRec) : Nat := (r.lanes + 31) / 32
def unit (r : LRec) : Nat := max 1 r.panel

/-- Indices of the launch, R14, R477. -/
def total (r : LRec) : Nat := r.xext * r.yext * r.zext

/-- Every field is in its range and every reserved byte zero, R469, R470. -/
def inRange (r : LRec) (d : List Byte) : Bool :=
  r.entry.toNat % 8 == 0 && decide (1 ≤ r.lanes) && decide (r.lanes ≤ 1024) && decide (2 ≤ r.base) && decide (r.base ≤ 32) &&
    decide (r.skein ≤ 128) && r.scratch % 1024 == 0 && decide (r.scratch ≤ 262144) && decide (r.acc ≤ 32) && decide (r.bars ≤ 64) &&
    decide (r.panel ≤ 128) && decide (r.part ≤ 15) && decide (du d 21 1 < 4) && decide (1 ≤ r.xext) && decide (1 ≤ r.yext) &&
    decide (1 ≤ r.zext) && r.patbase.toNat % 64 == 0 && r.hvec.toNat % 8 == 0 && r.spill.toNat % 4096 == 0 && r.spillkb % 4 == 0 &&
    du d 68 4 / 65536 % 32768 == 0 && r.oute.toNat % 256 == 0 && decide (r.nout ≤ 65535) && decide (r.livecnt ≤ 65536) &&
    r.compl.toNat % 64 == 0 && ((decide (1 ≤ r.msix) && decide (r.msix ≤ 2047)) || r.msix == 0xFFFF) && du d 106 150 == 0

/-- A team fits an empty core, R15, R16, R470; the liveness table is aligned; the spill region can hold one team or panel. -/
def fits (r : LRec) : Bool :=
  decide (r.groups * 8 * r.base + 8 * r.skein ≤ Config.vregsPerCore) && (r.livecnt == 0 || r.livetab.toNat % 64 == 0) &&
    decide (r.unit * r.groups ≤ r.spillkb / 4)

end LRec

/-- A pattern row's fields are legal: the kind, its zero fields, BACK and COUNT of at least 1, an aligned template, R347, R349. -/
def rowOk (row : List Byte) : Bool :=
  match du row 0 1 with
  | 0 => du row 1 63 == 0
  | 1 => decide (du row 1 1 ≤ 1) && du row 3 1 == 0 && du row 8 8 % 64 == 0 && du row 56 8 == 0
  | 2 => du row 1 3 == 0 && decide (1 ≤ du row 4 2) && du row 6 2 == 0 && decide (1 ≤ du row 8 4) && du row 12 52 == 0
  | 3 => decide (du row 1 1 < 32) && du row 2 62 == 0
  | _ => false

/-- The bodies of the LOOP rows of a pattern: index of the row and first row of its body, R349. -/
def loopsOf (rows : List (List Byte)) : List (Nat × Nat) :=
  (List.range rows.length).filterMap fun i =>
    let row := rows.getD i []
    if du row 0 1 == 2 then some (i, i - du row 4 2) else none

/-- Two LOOP bodies, the first of the lower row, are disjoint or nested, R349. -/
def bodiesOk (a b : Nat × Nat) : Bool := decide (a.1 - 1 < b.2) || decide (b.2 ≤ a.2)

/-- The loops whose body holds a row. -/
def holders (loops : List (Nat × Nat)) (k : Nat) : List (Nat × Nat) := loops.filter fun l => decide (l.2 ≤ k) && decide (k < l.1)

/-- T of a pattern whose rows stand before its first END, R349. -/
def patCount (rows : List (List Byte)) : Nat :=
  let loops := loopsOf rows
  (List.range rows.length).foldl (fun n k =>
    if du (rows.getD k []) 0 1 == 1 then n + (holders loops k).foldl (fun p l => p * du (rows.getD l.1 []) 8 4) 1 else n) 0

/-- The checks of R349: the rows up to the first END and T, or `none`. -/
def checkPattern (all : List (List Byte)) : Option (List (List Byte) × Nat) :=
  let rows := all.takeWhile fun r => du r 0 1 != 0
  let loops := loopsOf rows
  let back := (List.range rows.length).all fun i => du (rows.getD i []) 0 1 != 2 || decide (du (rows.getD i []) 4 2 ≤ i)
  let pairs := loops.all fun a => loops.all fun b => !decide (a.1 < b.1) || bodiesOk a b
  let lix := fun k o => du (rows.getD k []) o 2 == 0xFFFF || (holders loops k).any fun l => l.1 == du (rows.getD k []) o 2
  let names := (List.range rows.length).all fun k => du (rows.getD k []) 0 1 != 1 || (lix k 4 && lix k 6)
  let t := patCount rows
  match all.drop rows.length with
  | [] => none
  | e :: _ =>
    if rowOk e && rows.all rowOk && back && pairs && names && decide (loops.length ≤ 8) && decide (t < 2 ^ 32) then some (rows, t) else none

namespace State

/-- The command processor translates an address of a record, R469: with the read bit and, where asked, W. -/
def cpXlate (s : State) (ctx : Nat) (write : Bool) (va : Word) : Option Nat :=
  if 2 ^ 58 ≤ va.toNat then none
  else match s.walkPage ctx (pageOf va.toNat) with
    | .leaf e => if e.rd && (!write || e.w) then some (e.pa va.toNat) else none
    | _ => none

/-- It reads and writes bytes at their home, as an agent outside the dies' caches. -/
def cpRead (s : State) (pa n : Nat) : State × List Byte × Bool :=
  if Config.hostWindow ≤ pa then (s, mgetList 0 s.hostMem pa n, false)
  else if Config.deviceMemTop ≤ pa then ((s.holeLog pa).bump, s.freeBytes n, true)
  else s.devRead pa n

def cpWrite (s : State) (pa : Nat) (bs : List Byte) : State :=
  if Config.hostWindow ≤ pa then { s with hostMem := msetList 0 s.hostMem pa bs }
  else if Config.deviceMemTop ≤ pa then s.holeLog pa
  else s.devWrite pa bs false

/-- A device-scope atomic of the command processor on a 32-bit word. -/
def cpRmw (s : State) (pa : Nat) (f : Nat → Nat) : State :=
  if Config.deviceMemTop ≤ pa then let (s, bs, _) := s.cpRead pa 4; s.cpWrite pa (bytesOfNat 4 (f (natOfBytes bs)))
  else (s.homeRmw pa 4 f).1

def lqueue (s : State) (k : Nat) : LQueue := mget {} s.lqueues k
def setLqueue (s : State) (k : Nat) (q : LQueue) : State := { s with lqueues := mset {} s.lqueues k q }

/-- Address of the record in a slot of a ring, R467. -/
def slotAddr (q : LQueue) (k : Nat) : Nat := q.base + 256 * k

/-- The head record is startable, R468. A record whose bytes are poisoned is not. -/
def startable (s : State) (q : LQueue) : Bool :=
  let (d, p) := s.devView (slotAddr q q.head) 256
  let nin := du d 68 4
  let prev := match q.last with | some l => !(s.launch l).live | none => true
  q.head != q.tail && !p && (nin % 65536 == 0 || decide (2 ^ 31 ≤ nin)) && (!(LRec.of d).serial || prev)

/-- The head record may be taken: it is startable (R468) and its context is not being pre-empted (R454), or the host aborted it
(R505). -/
def headReady (s : State) (q : LQueue) : Bool :=
  let c := s.ctx (du (s.devView (slotAddr q q.head) 256).1 22 2)
  q.head != q.tail && (q.marked.contains q.head || (s.startable q && c.preq == 0 && !c.away))

/-- Priority of a queue with what it rose by waiting, R467. -/
def prioOf (q : LQueue) : Nat := min 7 (q.prio + q.aged)

/-- The queue that a command processor serves next: the highest priority, among equals in turn, R467. -/
def nextQueue (s : State) (die : Nat) : Option Nat :=
  let turn := (List.range 64).map fun k => (k + (s.die die).lastq + 1) % 64
  (turn.filter fun q => s.headReady (s.lqueue (64 * die + q))).foldl (fun best q => match best with
    | some b => if prioOf (s.lqueue (64 * die + b)) < prioOf (s.lqueue (64 * die + q)) then some q else best
    | none => some q) none

/-- Working dies in ascending order, R479. -/
def workingDies (s : State) : List Nat :=
  (List.range Config.dies).filter fun d => let x := s.die d; !x.fenced && !x.lost && !x.harvested

/-- The teams of a context that hold a place. -/
def ctxTeams (s : State) (c : Nat) : List (Nat × Team) := s.teams.filter fun (p : Nat × Team) => p.2.live && p.2.ctx == c

/-- Working dies that stand behind no virtual die of a context. -/
def freeDies (s : State) (c : Nat) : List Nat := s.workingDies.filter fun d => !(s.ctx c).vdies.any fun p => p.2 == d + 1

/-- The physical die behind a virtual die of a context, R19, R479: that of its remap table; a virtual die not yet used takes the working
die of its own place in order, or the first that no other virtual die of the context has (DESIGN CHOICE, log 40). -/
def dieOf (s : State) (c v : Nat) : Option Nat :=
  match mget 0 (s.ctx c).vdies v with
  | d + 1 => if s.workingDies.contains d then some d else none
  | 0 => match s.workingDies[v]? with
    | some d => if (s.freeDies c).contains d then some d else (s.freeDies c).head?
    | none => none

/-- The remap table of a context names the physical dies behind the virtual ones in use, R19. -/
def mapDies (s : State) (c : Nat) (vs : List Nat) : State :=
  vs.foldl (fun s v => match s.dieOf c v with
    | some d => s.setCtx c { s.ctx c with vdies := mset 0 (s.ctx c).vdies v (d + 1) }
    | none => s) s

/-- The virtual die that a physical die is for a context. -/
def vdieOf (s : State) (c d : Nat) : Nat :=
  match (List.range 8).find? fun v => mget 0 (s.ctx c).vdies v == d + 1 with
  | some v => v
  | none => ((List.range 8).find? fun v => mget 0 (s.ctx c).vdies v == 0).getD (s.workingDies.idxOf d)

/-- The virtual cluster that a cluster has for a context, R19: that of a team placed there; else one of the die's virtual die. -/
def vclusterOf (s : State) (c k : Nat) : Nat :=
  let ts := s.ctxTeams c
  match ts.find? fun p => !p.2.saved && coreCluster p.2.core == k with
  | some p => p.2.vcluster
  | none =>
    let used := ts.map fun (p : Nat × Team) => p.2.vcluster
    let d := s.vdieOf c (k / 2)
    if used.contains (2 * d + k % 2) then 2 * d + 1 - k % 2 else 2 * d + k % 2

/-- The virtual core that a core has for a context, R19. DESIGN CHOICE (log 40): where the context has no team on the core yet, the core's
own number in its cluster, or the lowest number not in use. -/
def vcoreOf (s : State) (c core : Nat) : Nat :=
  let ts := s.ctxTeams c
  match ts.find? fun p => !p.2.saved && p.2.core == core with
  | some p => p.2.vcore
  | none =>
    let v := s.vclusterOf c (coreCluster core)
    let used := (ts.filter fun (p : Nat × Team) => p.2.vcluster == v).map fun (p : Nat × Team) => p.2.vcore
    if used.contains (core % 128) then (((List.range 128).filter fun k => !used.contains k).head?).getD (core % 128) else core % 128

/-- How many teams of a launch's shape a core holds now, R477. -/
def coreCap (s : State) (r : LRec) (c : Nat) : Nat :=
  let by_ := fun (have_ need : Nat) => if need == 0 then 32 else have_ / need
  if s.coreFits c 1 0 0 0 0 (r.acc != 0) then
    let n := min (min (by_ (s.freeSlots c).length r.groups) (by_ (s.freeRegs c) (8 * r.base * r.groups + 8 * r.skein)))
      (min (by_ (s.freeScratch c) r.scratch) (by_ (s.freeRecs c) r.bars))
    if r.acc != 0 then min 1 n else n
  else 0

/-- How many teams, or panels on distinct cores, a cluster holds now. -/
def clusterCap (s : State) (r : LRec) (k : Nat) : Nat :=
  let caps := (List.range 128).map fun c => s.coreCap r (128 * k + c)
  let sum := fun (l : List Nat) => l.foldl (fun a x => a + x) 0
  if r.panel ≤ 1 then sum caps
  else ((List.range (sum caps / r.panel + 1)).filter fun p => decide (p * r.panel ≤ sum (caps.map fun c => min c p))).foldl max 0

end State

/-- Split `n` in proportion to weights, by largest remainder with ties to the lower place; equal weights where all are 0, R477. -/
def splitBy (w : List Nat) (n : Nat) : List Nat :=
  let w := if w.all (· == 0) then w.map fun _ => 1 else w
  let tot := w.foldl (fun a x => a + x) 0
  let fl := w.map fun x => n * x / tot
  let rem := w.map fun x => n * x % tot
  let left := n - fl.foldl (fun a x => a + x) 0
  (List.range w.length).map fun i =>
    let ahead := (List.range w.length).filter fun j =>
      decide (rem.getD i 0 < rem.getD j 0) || (rem.getD j 0 == rem.getD i 0 && decide (j < i))
    fl.getD i 0 + if ahead.length < left then 1 else 0

/-- Contiguous ranges of the given sizes from `lo` on. -/
def rangesFrom : Nat → List Nat → List (Nat × Nat)
  | _, [] => []
  | lo, n :: ns => (lo, lo + n) :: rangesFrom (lo + n) ns

namespace State

/-- The chunks of a launch by cluster, R477: over the named dies, then over each die's clusters. -/
def chunksOf (s : State) (r : LRec) (dies : List Nat) : SMap (List (Nat × Nat)) :=
  let cap := fun d => [s.clusterCap r (2 * d), s.clusterCap r (2 * d + 1)]
  let perDie := splitBy (dies.map fun d => (cap d).foldl (fun a x => a + x) 0) r.total
  let parts := (dies.zip (rangesFrom 0 perDie)).flatMap fun (x : Nat × Nat × Nat) =>
    let two := rangesFrom x.2.1 (splitBy (cap x.1) (x.2.2 - x.2.1))
    [(2 * x.1, two.getD 0 (0, 0)), (2 * x.1 + 1, two.getD 1 (0, 0))]
  parts.foldl (fun m (p : Nat × Nat × Nat) => if p.2.1 < p.2.2 then mset [] m p.1 [p.2] else m) []

/-- The rows of a record's pattern, read at launch, R349; `none` where one cannot be read. -/
def readRows (s : State) (r : LRec) : Option (List (List Byte)) :=
  (List.range r.patrows).foldl (fun acc k => match acc with
    | none => none
    | some rows =>
      match s.cpXlate r.ctx false (r.patbase + BitVec.ofNat 64 (64 * k)) with
      | none => none
      | some pa => let (_, bs, p) := s.cpRead pa 64; if p then none else some (rows ++ [bs])) (some [])

/-- The command processor's translations of a record: the completion record, each out-edge and its consumer, R469, R470. -/
def edgePas (s : State) (r : LRec) : List (Option (Nat × Nat)) :=
  (List.range r.nout).map fun i =>
    match s.cpXlate r.ctx true (r.oute + BitVec.ofNat 64 (256 * i)) with
    | none => none
    | some pa =>
      let (_, bs, _) := s.cpRead pa 256
      (s.cpXlate r.ctx true (BitVec.ofNat 64 (du bs 0 8))).map fun c => (pa, c)

/-- The conditions of RECORD_BAD, R470, but for the range of the fields. -/
def recordBad (s : State) (r : LRec) : Bool :=
  let c := s.ctx r.ctx
  !r.fits || !c.live || decide (c.savesz < 768) || (r.svc && !c.service) || (s.cpXlate r.ctx true r.compl).isNone ||
    (s.edgePas r).any (·.isNone) || (r.patrows != 0 && (s.cpXlate r.ctx false r.patbase).isNone) ||
    (r.livecnt != 0 && (s.cpXlate r.ctx false r.livetab).isNone)

end State

/-- A region of an out-edge is well formed, R473. -/
def regionOk (d : List Byte) (k : Nat) : Bool :=
  let o := 16 * k + 16
  du d o 8 % 256 == 0 && du d (o + 8) 4 % 256 == 0 && decide (du d (o + 12) 1 < 4) && decide (7 ≤ du d (o + 13) 1) &&
    decide (du d (o + 13) 1 ≤ 10) && du d (o + 14) 2 == 0

/-- An out-edge record is well formed, R473. -/
def edgeOk (d : List Byte) : Bool :=
  decide (du d 8 1 ≤ 8) && du d 9 7 == 0 && du d 144 112 == 0 && (List.range (du d 8 1)).all (regionOk d)

namespace State

/-- The lines of a virtual range, as physical line numbers; a page without a translation gives none. -/
def linesOf (s : State) (ctx base len : Nat) : List (Nat × Bool) :=
  (List.range (len / 256)).filterMap fun k =>
    let va := base + 256 * k
    match s.walkPage ctx (pageOf va) with
    | .leaf e => if e.pa va < Config.deviceMemTop then some (e.pa va / 256, e.smode == 3 || e.chk) else none
    | _ => none

/-- CLEAN on one die, R474: as a cwb. -/
def cleanLine (s : State) (d line : Nat) : State :=
  (List.range 4).foldl (fun s k => s.swWriteBack d (4 * line + k)) (s.mergeDie d line)

/-- INVAL on one die, R475: as a cinv of device scope, with the lines of the instruction caches (R60). -/
def invalLine (s : State) (d line : Nat) : State :=
  let s := s.mergeDie d line
  let s := (s.dieCores d).foldl (fun s c =>
    let x := s.core c
    s.setCore c { x with l1 := x.l1.filter (fun p => p.1 / 4 != line), icache := x.icache.filter (fun p => p.1 / 256 != line),
                         icPois := x.icPois.filter (fun p => p.1 / 256 != line) }) s
  ((List.range 4).foldl (fun s k => s.swClean d (4 * line + k)) s).swTidy d line

/-- One region of an out-edge of a launch that completed OK, R474: CLEAN on the dies where it placed a team, then the release
actions of the region's scope by its command processor; INVAL is kept for the consumer. -/
def edgeRegion (s : State) (x : Launch) (cons : Nat) (d : List Byte) (k : Nat) : State :=
  let o := 16 * k + 16
  let base := du d o 8
  let len := du d (o + 8) 4
  let fl := du d (o + 12) 1
  let lines := if fl % 2 == 1 then (s.linesOf x.ctx base len).filter fun l => !l.2 else []
  let s := (maskList x.dies).foldl (fun s d => lines.foldl (fun s l => s.cleanLine d l.1) s) s
  let s := s.writeBackCtx (x.queue / 64) x.ctx
  if fl / 2 == 1 then { s with invals := s.invals ++ [⟨cons, x.ctx, base, len⟩] } else s

/-- Every access of a producer happens-before its consumer's, R475: the update-only lines of its context merge on the dies where it placed
a team. -/
def mergeLaunch (s : State) (x : Launch) : State :=
  (maskList x.dies).foldl (fun s d => (s.dieCores d).foldl (fun s k => s.mergeUpd k fun u => u.ctx == x.ctx) s) s

/-- The command processor, or a die where the launch placed a team, waits for a home that the edges and the completion record need, R312,
R474, R480; a die that fenced itself holds nothing and waits no more. -/
def edgeWaits (s : State) (x : Launch) : Bool :=
  let part := (s.ctx x.ctx).part
  let cp := x.queue / 64
  let dies := if x.outePa.isEmpty then [] else (cp :: maskList x.dies).dedup
  let merges := fun d => (s.dieCores d).flatMap fun k => s.mergeNeeds k fun u => u.ctx == x.ctx
  let words := (x.complPa :: x.consPa).filter (· < Config.deviceMemTop)
  (dies.any fun d => !(s.die d).fenced && s.waitsAny d part (merges d ++ s.writeBackNeeds d fun t => t == x.ctx)) ||
    (!(s.die cp).fenced && s.waitsAny cp part (words.map fun a => (a / 64, true)))

/-- One out-edge, R474, R476: NIN falls by one, and FAIL is set where the producer or the edge failed. -/
def edgeGo (s : State) (x : Launch) (ok : Bool) (i : Nat) : State :=
  let pa := x.outePa.getD i 0
  let cons := x.consPa.getD i 0
  let (s, d, _) := s.cpRead pa 256
  let good := ok && edgeOk d
  let s := if good then s.mergeLaunch x else s
  let s := if good then (List.range (du d 8 1)).foldl (fun s k => s.edgeRegion x cons d k) s else s
  s.cpRmw (cons + 68) fun n =>
    let n' := n / 65536 * 65536 + (n + 65535) % 65536
    if good then n' else Nat.lor n' (2 ^ 31)

/-- The completion record, R471, STATUS last, and the interrupt. -/
def completeRec (s : State) (x : Launch) (status : Nat) : State :=
  let fe := x.first
  let who := match fe with | some f => f.vcluster + 16 * f.vcore + 2048 * f.vslot | none => 0
  let t := (fe.map FirstEnd.trap).getD {}
  let bs := bytesOfNat 2 (min 65535 x.nend) ++ bytesOfNat 1 t.cause.toNat ++ List.replicate 3 0 ++
    bytesOfNat 8 ((fe.map FirstEnd.pc).getD 0).toNat ++ bytesOfNat 8 t.ad.toNat ++ bytesOfNat 8 t.x.toNat ++ bytesOfNat 4 who ++
    bytesOfNat 4 ((fe.map FirstEnd.lin).getD 0) ++ List.replicate 24 0
  let s := (s.cpWrite (x.complPa + 2) bs).cpWrite x.complPa (bytesOfNat 2 status)
  if x.lrec.msix == 0xFFFF then s else s.sendMsix x.lrec.msix

/-- A launch completes with a status: its edges, its record, its interrupt, R471. -/
def complete (s : State) (x : Launch) (status : Nat) : State :=
  ((List.range x.outePa.length).foldl (fun s i => s.edgeGo x (status == 0) i) s).completeRec x status

/-- A record is rejected, R470: where COMPL does not translate, the host I/O die's log and vector 0 tell of it. -/
def reject (s : State) (x : Launch) (status : Nat) : State :=
  let es := (s.edgePas x.lrec).filterMap id
  let x := { x with outePa := es.map (·.1), consPa := es.map (·.2) }
  if !(s.ctx x.ctx).live then rejectLog s x
  else match s.cpXlate x.ctx true x.lrec.compl with
    | some pa => s.complete { x with complPa := pa } status
    | none => rejectLog ((List.range x.outePa.length).foldl (fun s i => s.edgeGo x false i) s) x
where
  rejectLog (s : State) (x : Launch) : State :=
    let e : LogEntry := ⟨x.lrec.compl, 0, x.ctx, 0⟩
    ({ s with hostLog := { s.hostLog with entries := (e :: s.hostLog.entries).take 8 } }).sendMsix 0

/-- The invalidations that the record's in-edges ask for, R475, on the dies its AFF names. -/
def edgeInvals (s : State) (addr : Nat) (dies : List Nat) : State :=
  let due := s.invals.filter fun e => e.cons == addr
  let s := due.foldl (fun s e => (s.linesOf e.ctx e.base e.len).foldl (fun s l => dies.foldl (fun s d => s.invalLine d l.1) s) s) s
  { s with invals := s.invals.filter fun e => e.cons != addr }

/-- A record that passed its checks becomes a launch, R469, R477. -/
def startLaunch (s : State) (x : Launch) (rows : List (List Byte)) (t : Nat) (dies : List Nat) (k : Nat) : State :=
  let r := x.lrec
  let es := (s.edgePas r).filterMap id
  let s := s.edgeInvals x.addr dies
  let id := s.uids
  let x := { x with live := true, hvec := r.hvec, complPa := (s.cpXlate r.ctx true r.compl).getD 0, outePa := es.map (·.1),
                    consPa := es.map (·.2), rows := rows, patT := t, named := dies, chunks := s.chunksOf r dies }
  let s := { (s.setLaunch id x).setCtx r.ctx { s.ctx r.ctx with part := r.part } with uids := id + 1 }
  s.setLqueue k { s.lqueue k with last := some id }

/-- The fate of a record taken from a queue, R470, R476, R479, R505. -/
def takeRecord (s : State) (k : Nat) (marked : Bool) (addr : Nat) (d : List Byte) : State :=
  let r := LRec.of d
  let x : Launch := { ctx := r.ctx, lrec := r, addr := addr, queue := k }
  if marked then s.reject { x with aborted := true } 7
  else if 2 ^ 31 ≤ du d 68 4 then s.reject x 4
  else if !r.inRange d || s.recordBad r then s.reject x 6
  else match (if r.patrows == 0 then some ([], 0) else (s.readRows r).bind checkPattern) with
    | none => s.reject x 5
    | some (rows, t) =>
      let vs := (List.range 8).filter fun v => natBits r.aff v 1 == 1 && decide (v < s.workingDies.length)
      let s := s.mapDies r.ctx vs
      let dies := vs.filterMap fun v => s.dieOf r.ctx v
      if dies.isEmpty then s.reject x 3 else s.startLaunch x rows t dies k

end State

/-- QTAIL, R467: the host's doorbell write; a queue without a ring has no slots to count. -/
def execQtail (die q : Nat) (v : BitVec 64) (s : State) : Host.Outcome State Fault Refusal :=
  let x := s.lqueue (64 * die + q)
  if die < 8 && decide (q < 64) && x.slots != 0 then .next (s.setLqueue (64 * die + q) { x with tail := v.toNat % 65536 % x.slots })
  else .next s

/-- QUEUE_PRIORITY_AGING, R467: a startable head that waits raises its queue by a level, up to 7, whatever keeps it from being taken. -/
def execQueuePriorityAging (die q : Nat) (s : State) : Host.Outcome State Fault Refusal :=
  let x := s.lqueue (64 * die + q)
  if (s.startable x || s.headReady x) && decide (x.prio + x.aged < 7) then .next (s.setLqueue (64 * die + q) { x with aged := x.aged + 1 }) else .next s

/-- LAUNCH_START, R467-R470, R475-R479: a command processor takes the head record that its queues' priorities name. -/
def execLaunchStart (die : Nat) (s : State) : Host.Outcome State Fault Refusal :=
  if !s.host.ready || (s.die die).fenced || decide (8 ≤ die) then .next s
  else match s.nextQueue die with
    | none => .next s
    | some q =>
      let k := 64 * die + q
      let x := s.lqueue k
      let addr := State.slotAddr x x.head
      let (d, _) := s.devView addr 256
      let s := s.setLqueue k { x with head := (x.head + 1) % x.slots, aged := 0, last := none,
                                      marked := x.marked.filter (· != x.head) }
      let s := s.setDie die { s.die die with lastq := q }
      .next (s.takeRecord k (x.marked.contains x.head) addr d)

namespace State

/-- Cores that hold a team of a partition, R480, and of a context, R455. -/
def partCores (s : State) (part : Nat) : List Nat :=
  ((s.teams.filter fun (p : Nat × Team) => p.2.live && !p.2.saved && (s.ctx p.2.ctx).part == part).map fun (p : Nat × Team) => p.2.core).dedup
def ctxCores (s : State) (c : Nat) : List Nat := ((s.ctxTeams c).map fun (p : Nat × Team) => 128 * p.2.vcluster + p.2.vcore).dedup


/-- The three budgets of a partition have room for teams on these cores, R480. -/
def budgetsOk (s : State) (part : Nat) (cores : List Nat) : Bool :=
  let quota := mget 2048 s.quotas part
  decide (((s.partCores part ++ cores).dedup).length ≤ quota) && (List.range 16).all (fun c => !s.isSpent 1 c part) &&
    cores.all fun c => !s.isSpent 2 (coreDie c) part

/-- Lanes of a group that belong to the team, and its helper lanes, R12. -/
def laneMask (lanes rank : Nat) : BitVec 32 := maskOf fun l => decide (32 * rank + l < lanes)
def helperMask (lanes rank : Nat) : BitVec 32 :=
  maskOf fun l => decide (lanes ≤ 32 * rank + l) && decide (32 * rank + l / 4 * 4 < lanes)

/-- One group of a new team starts converged at the entry clause, R109, R167, R176. -/
def newGroup (s : State) (lid : Nat) (x : Launch) (tid vcl vco : Nat) (blk : Word) (rank gid : Nat) : State :=
  let r := x.lrec
  let tl := laneMask r.lanes rank
  let hl := helperMask r.lanes rank
  let g : Group :=
    { live := true, ctx := x.ctx, launch := lid, tid := tid, vcluster := vcl, vcore := vco, vslot := s.freshSlot x.ctx vcl vco,
      teamLanes := tl, helpers := hl, base := 8 * r.base, seed := r.seed, xs := (List.range 32).map (fun l => seedLane r.seed (32 * rank + l)),
      arm0 := { live := true, pc := r.entry, mask := tl ||| hl }, spill := blk, uid := s.uids, place := .pending, since := s.tick }
  { s.setGrp gid g with uids := s.uids + 1 }

/-- One team is placed on a core, R15, R201, R477, R501. Every access of its launch's producers happens-before its own (R475), so the
core's L1 keeps no line from before. -/
def newTeam (s : State) (lid : Nat) (x : Launch) (lin panel tid core : Nat) : State :=
  let r := x.lrec
  let vcl := s.vclusterOf x.ctx (coreCluster core)
  let vco := s.vcoreOf x.ctx core
  let qs := (List.range 5).map fun k => ({ xs := if k < 4 then seedLane r.seed (2048 + k) else 0 } : CopyQueue)
  let t : Team :=
    { live := true, ctx := x.ctx, launch := lid, panel := panel, core := core, vcluster := vcl, vcore := vco,
      xidx := BitVec.ofNat 32 (lin % r.xext), yidx := BitVec.ofNat 16 (lin / r.xext % r.yext), zidx := BitVec.ofNat 16 (lin / (r.xext * r.yext)),
      lanes := r.lanes, scratch := r.scratch, skeinSize := r.skein, skeinFree := r.skein,
      levels := [(0, { live := true, recs := List.replicate r.bars {} })], accBudget := r.acc, lin := lin, queues := qs }
  let blocks := s.freeBlocks lid
  let slots := s.freeSlots core
  let s := (s.l1Clear core).setTeam tid t
  (List.range r.groups).foldl (fun s k => s.newGroup lid x tid vcl vco (blocks.getD k 0) k (slots.getD k 0)) s

/-- A new team or panel on the given cores, R210, R477. -/
def newPanel (s : State) (lid : Nat) (x : Launch) (lin : Nat) (cores : List Nat) : State :=
  let panel := s.uids
  let tids := (List.range cores.length).map fun k => panel + 1 + k
  let s := { s.setPanel panel { live := true, ctx := x.ctx, launch := lid, teams := tids } with uids := panel + 1 + cores.length }
  (tids.zip cores).foldl (fun s (p : Nat × Nat) => s.newTeam lid x lin panel p.1 p.2) s

/-- The lowest unplaced index of a chunk, and the chunk without it. -/
def chunkNext (l : List (Nat × Nat)) : Option (Nat × List (Nat × Nat)) :=
  match l.foldl (fun best r => match best with | some b => if r.1 < b.1 then some r else best | none => some r) (none : Option (Nat × Nat)) with
  | none => none
  | some r => some (r.1, (l.erase r) ++ if r.1 + 1 < r.2 then [(r.1 + 1, r.2)] else [])

/-- The conditions of a placement on the given cores, R15, R18, R274, R400, R454, R455, R469, R480. -/
def canPlace (s : State) (lid : Nat) (x : Launch) (cores : List Nat) : Bool :=
  let r := x.lrec
  let c := s.ctx x.ctx
  let virt := cores.map fun k => 128 * s.vclusterOf x.ctx (coreCluster k) + s.vcoreOf x.ctx k
  x.live && !x.aborted && s.host.ready && cores.length == r.unit && cores.dedup.length == cores.length &&
    (cores.map coreCluster).dedup.length == 1 && c.preq == 0 && !c.away &&
    cores.all (fun k => !s.forkFirst k && s.coreFits k r.groups (8 * r.base * r.groups) r.skein r.scratch r.bars (r.acc != 0)) &&
    decide (r.unit * r.groups ≤ (s.freeBlocks lid).length) && decide (((s.ctxCores x.ctx ++ virt).dedup).length ≤ c.savesz / 768) &&
    cores.all (fun k => s.tagFree x.ctx (coreDie k)) && s.budgetsOk c.part cores

/-- Unplaced indices of a chunk. -/
def chunkSize (l : List (Nat × Nat)) : Nat := l.foldl (fun n r => n + (r.2 - r.1)) 0

end State

/-- The indices at or above the `n`-th highest of a chunk's ranges, and those below: the upper half that stealing moves, R478. The
ranges are taken from the highest down. -/
def splitUpper : Nat → List (Nat × Nat) → List (Nat × Nat) × List (Nat × Nat)
  | _, [] => ([], [])
  | n, r :: rest =>
    let k := min (r.2 - r.1) n
    let (up, low) := splitUpper (n - k) rest
    ((if 0 < k then [(r.2 - k, r.2)] else []) ++ up, (if k < r.2 - r.1 then [(r.1, r.2 - k)] else []) ++ low)

/-- Ranges from the highest down. -/
def rangesDown (l : List (Nat × Nat)) : List (Nat × Nat) := (sortBy (fun i => (l.getD i (0, 0)).1) (List.range l.length)).reverse.map fun i => l.getD i (0, 0)

/-- TEAM_PLACEMENT, R477: the cluster of the named cores places the lowest unplaced index of its chunk on them. -/
def execTeamPlacement (launch : Nat) (cores : List Nat) (s : State) : Host.Outcome State Fault Refusal :=
  let x := s.launch launch
  let k := coreCluster (cores.headD 0)
  match State.chunkNext (mget [] x.chunks k) with
  | none => .next s
  | some (lin, rest) =>
    if !s.canPlace launch x cores then .next s
    else
      let x' := { x with chunks := mset [] x.chunks k rest, dies := setBit x.dies (k / 2) true }
      .next ((s.setLaunch launch x').newPanel launch x' lin cores)

/-- WORK_STEAL, R478: a cluster without unplaced teams takes the upper half of its sibling's remainder; where its die is dry, the upper
half of the largest remainder of another die of the launch moves to it, split between its clusters. -/
def execWorkSteal (launch cluster : Nat) (s : State) : Host.Outcome State Fault Refusal :=
  let x := s.launch launch
  let ch := fun k => mget [] x.chunks k
  let sib := 2 * (cluster / 2) + 1 - cluster % 2
  let half := fun (l : List (Nat × Nat)) => splitUpper ((State.chunkSize l + 1) / 2) (rangesDown l)
  if !x.live || !x.named.contains (cluster / 2) || !(ch cluster).isEmpty then .next s
  else if !(ch sib).isEmpty then
    let (up, low) := half (ch sib)
    .next (s.setLaunch launch { x with chunks := mset [] (mset [] x.chunks cluster up) sib low })
  else
    let whole := fun d => ch (2 * d) ++ ch (2 * d + 1)
    match (x.named.filter fun d => d != cluster / 2 && !(whole d).isEmpty).foldl (fun best d => match best with
        | some b => if State.chunkSize (whole b) < State.chunkSize (whole d) then some d else best
        | none => some d) (none : Option Nat) with
    | none => .next s
    | some d =>
      let (up, low) := half (whole d)
      let keep := fun k => low.filter fun r => (ch k).any fun q => decide (q.1 ≤ r.1) && decide (r.2 ≤ q.2)
      let caps := [s.clusterCap x.lrec (2 * (cluster / 2)), s.clusterCap x.lrec (2 * (cluster / 2) + 1)]
      let n := (splitBy caps (State.chunkSize up)).getD 0 0
      let (hi, lo) := splitUpper (State.chunkSize up - n) (rangesDown up)
      let m := mset [] (mset [] x.chunks (2 * d) (keep (2 * d))) (2 * d + 1) (keep (2 * d + 1))
      .next (s.setLaunch launch { x with chunks := mset [] (mset [] m (2 * (cluster / 2)) lo) (2 * (cluster / 2) + 1) hi })

namespace State

/-- Every group of a launch has ended and everything it issued has completed, faulted or been discarded, R471. -/
def launchDone (s : State) (lid : Nat) : Bool :=
  let x := s.launch lid
  let mine := s.teams.filter fun (p : Nat × Team) => p.2.launch == lid
  x.live && x.chunks.isEmpty && mine.all fun (p : Nat × Team) =>
    !p.2.live && (p.2.queues.all fun q => q.entries.isEmpty) && p.2.pat.executed == p.2.pat.granted && p.2.q2.isEmpty && !(s.hook.sends.any fun c => c.tid == p.1) &&
      !((s.hook.pulls ++ s.hook.waiting).any fun r => r.recv.tid == p.1)

/-- STATUS, R472: the highest of the codes that apply. -/
def launchStatus (x : Launch) : Nat := if x.aborted then 7 else if x.lost then 2 else if x.error then 1 else 0

/-- The records of a completed launch leave the state. -/
def dropLaunch (s : State) (lid : Nat) : State :=
  { s.setLaunch lid {} with
    teams := s.teams.filter (fun (p : Nat × Team) => p.2.launch != lid || p.2.live || p.2.tileBusy),
    panels := s.panels.filter (fun (p : Nat × Panel) => p.2.launch != lid || p.2.live) }

/-- Live groups that a predicate selects, and saved teams likewise, end with one cause, R437. -/
def endWhere (s : State) (t : TrapInfo) (p : Group → Bool) (q : Team → Bool) : State :=
  let gs := (s.groups.filter fun (x : Nat × Group) => x.2.live && p x.2).map (·.1)
  let s := s.endGroups gs t
  let ts := (s.teams.filter fun (x : Nat × Team) => x.2.saved && q x.2).map (·.1)
  ts.foldl (fun s tid => s.endSaved tid t fun _ => true) s

/-- Every context ends with MACHINE_CHECK, nothing more is placed, and only a cold reset restores service, R490, R498. -/
def machineDown (s : State) (cls : Nat) : State :=
  let s := s.endWhere (trapOf 63 0 (BitVec.ofNat 64 cls)) (fun _ => true) (fun _ => true)
  { s with launches := s.launches.map fun (p : Nat × Launch) => (p.1, { p.2 with chunks := [] }),
           host := { s.host with ready := false, dead := true } }

end State

/-- LAUNCH_COMPLETE, R471-R476. -/
def execLaunchComplete (launch : Nat) (s : State) : Host.Outcome State Fault Refusal :=
  let x := s.launch launch
  if s.launchDone launch && !s.edgeWaits x then .next ((s.complete x (State.launchStatus x)).dropLaunch launch) else .next s

/-- ABORT, R505: a running launch's groups end with LAUNCH_ABORT; a queued record is marked; any other address is ignored. -/
def execAbortLaunch (addr : BitVec 64) (s : State) : Host.Outcome State Fault Refusal :=
  let a := addr.toNat
  let waiting := fun (q : LQueue) => (List.range q.slots).filter fun k =>
    State.slotAddr q k == a && decide ((k + q.slots - q.head) % q.slots < (q.tail + q.slots - q.head) % q.slots)
  match s.launches.find? fun p => p.2.live && p.2.addr == a with
  | some (lid, x) =>
    let s := s.setLaunch lid { x with aborted := true, chunks := [] }
    .next (s.endWhere (trapOf 59) (fun g => g.launch == lid) (fun t => t.launch == lid))
  | none =>
    .next { s with lqueues := s.lqueues.map fun (p : Nat × LQueue) =>
      (p.1, { p.2 with marked := p.2.marked ++ (waiting p.2).filter fun k => !p.2.marked.contains k }) }

end Sys2Proof.Machine
end

