-- ==== Sys2Proof/Machine/HostEvents.lean ====
section
/-! DEFINITION. The host interface and the domain (R482-R490), reset (R491, R492), errors and spares (R458-R460, R493-R497), power
and heat (R498), and the status that the device reports (R484, R485). -/

namespace Sys2Proof.Machine

namespace State

/-- Retired cores are replaced from their cluster's spares, 8 of them, at a warm reset, R17, R496; a cluster without one left harvests
its die, and a die harvested while HARV stands raises vector 0 itself, R497. -/
def retireCores (s : State) : State :=
  let s := s.retiring.foldl (fun s c =>
    let k := coreCluster c
    let n := mget 0 s.sparesUsed k + 1
    let s := { s with sparesUsed := mset 0 s.sparesUsed k n }
    if n ≤ 8 || (s.die (coreDie c)).harvested then s
    else
      let again := s.host.harv
      let s := { s.setDie (coreDie c) { s.die (coreDie c) with harvested := true } with host := { s.host with harv := true } }
      if again then s.sendMsix 0 else s) s
  { s with retiring := [], host := { s.host with core := false } }

/-- What both resets do, R491: every context ends without a completion record, and queues, hook lists and images are emptied; caches,
memory, links, keys and routing registers stay. -/
def warm (s : State) : State :=
  let s := s.retireCores
  let die := fun (p : Nat × DieSt) =>
    (p.1, { p.2 with tlb := [], wcache := [], walks := [], fenced := false, lost := false, lastq := 63 })
  { s with
    groups := [], teams := [], panels := [], launches := [], ctxs := [], checks := [], invals := [], hook := {}, subs := [], comms := [],
    ingressTlb := [], lossSeen := [], hits := [], leafs := [],
    cores := s.cores.map (fun (p : Nat × CoreSt) => (p.1, { p.2 with tlb := [] })),
    diesSt := s.diesSt.map die,
    lqueues := s.lqueues.map (fun (p : Nat × LQueue) => (p.1, { p.2 with head := p.2.tail, aged := 0, last := none, marked := [] })),
    dev := { logs := s.dev.logs },
    host := { s.host with ready := !s.host.dead, powcap := 3200 } }

/-- The bytes that a discarded dirty line held are undefined, R492: free values (log 9). -/
def spoilBytes (s : State) (as : List Nat) : State :=
  { s with mem := as.foldl (fun m a => mset 0 m a (Config.freeByte s.freeCtr a)) s.mem }

/-- Addresses held by dirty lines: of the memory-side caches, the L2s and the update-only lines. -/
def dirtyBytes (s : State) : List Nat :=
  let line := fun k => (List.range 256).map fun b => 256 * k + b
  let l2 := s.diesSt.flatMap fun (p : Nat × DieSt) => p.2.l2.flatMap fun (l : Nat × Option L2Line) => match l.2 with
    | some x => if x.sects.any fun y => y.drt != 0 then line l.1 else []
    | none => []
  let upd := s.cores.flatMap fun (p : Nat × CoreSt) => p.2.upd.flatMap fun u => line u.line
  (mkeys s.dirty).flatMap line ++ l2 ++ upd

/-- A cold reset, R492. -/
def cold (s : State) : State :=
  let s := s.spoilBytes s.dirtyBytes
  let s := { s with host := { s.host with dead := false, therm := false } }.warm
  { s with freeCtr := s.freeCtr + 1, dirty := [], dir := [], mlines := [], cores := [], routes := [], planes := [],
           diesSt := s.diesSt.map (fun (p : Nat × DieSt) => (p.1, { harvested := p.2.harvested })), dev := {}, hostLog := {} }

/-- A physical core's tile team. -/
def tileTeam (s : State) (c : Nat) : Option Nat :=
  (s.teams.find? fun (p : Nat × Team) => p.2.live && !p.2.saved && p.2.core == c && p.2.accBudget != 0).map (·.1)

/-- Poison of two lanes of a vector register: a 64-bit word of the register file, R493, R500. -/
def poisonReg (g : Group) (v l : Nat) : Group :=
  g.markV v (maskOf fun k => k / 2 == l / 2) (maskOf fun k => k / 2 == l / 2)

/-- An uncorrected error in data sets poison, R459, R493. The manual gives the places of SRAM words no layout, so the address of the
report is read so (log 18): of a register file, lane in [4:0], register in [12:5], slot in [17:13]; of a scratchpad, the offset in
the allocation of the context's team on the core; of accumulator memory, row in [4:0] and bank in [9:5]; of a FIFO, A or B in [0],
row or column in [5:1], entry above; elsewhere the physical address. -/
def poisonAt (s : State) (e : ErrorReport) : State :=
  let a := e.addr.toNat
  let row := fun (f : FifoEntry) => { f with pois := setBit f.pois (natBits a 1 5) true }
  match e.cls with
  | 0 =>
    let gid := 32 * e.unit + natBits a 13 5
    s.setGrp gid (poisonReg (s.grp gid) (natBits a 5 8) (natBits a 0 5))
  | 1 =>
    (match s.teams.find? fun (p : Nat × Team) => p.2.live && !p.2.saved && p.2.core == e.unit && p.2.ctx == e.ctx with
     | some p => s.setTeam p.1 { p.2 with spPois := msetList false p.2.spPois (a / 8 * 8) (List.replicate 8 true) }
     | none => s)
  | 2 =>
    (match s.tileTeam e.unit with
     | some tid =>
       let t := s.team tid
       let b := mget {} t.banks (natBits a 5 5)
       s.setTeam tid { t with banks := mset {} t.banks (natBits a 5 5) { b with psn := setBit b.psn (natBits a 0 5) true } }
     | none => s)
  | 3 =>
    (match s.tileTeam e.unit with
     | some tid =>
       let t := s.team tid
       let k := a / 64
       if a % 2 == 0 then s.setTeam tid { t with fifoA := t.fifoA.modify k row } else s.setTeam tid { t with fifoB := t.fifoB.modify k row }
     | none => s)
  | 4 =>
    (match mget none (s.core e.unit).l1 (a / 64) with
     | some x => s.setCore e.unit { s.core e.unit with l1 := mset none (s.core e.unit).l1 (a / 64) (some { x with pois := true }) }
     | none => s)
  | 5 => s.setCore e.unit { s.core e.unit with icPois := mset false (s.core e.unit).icPois (a / 8 * 8) true }
  | 6 =>
    (match s.l2sect (e.unit / 32) (a / 64) with
     | some (coh, x) => s.l2put (e.unit / 32) e.ctx coh (a / 64) { x with psn := true }
     | none => s)
  | 7 =>
    let t := s.team e.unit
    let one := fun (g : Group) => if g.vslot == natBits a 13 5 then poisonReg g (natBits a 5 8) (natBits a 0 5) else g
    if t.saved then s.setTeam e.unit { t with groups := t.groups.map one } else s
  | 8 => { s with psn := mset false s.psn (a / 64) (decide (a < Config.deviceMemTop)) }
  | 9 => { s with psn := mset false s.psn (a / 64) (decide (a < Config.deviceMemTop)) }
  | _ => s

/-- An uncorrected error in control state, R460: core-wide control, which no context owns (CTX 0xFFFF in an array of a core, classes
0-5, by unit), ends every group of the core with UE_CORE, and the core is retired; state of one team, wherever it stands (the report
names the team by its number as address, log 18), ends the team's groups with MACHINE_CHECK and the class in TRAPX. -/
def controlError (s : State) (e : ErrorReport) : State :=
  if e.cls ≤ 5 && e.ctx == 0xFFFF then
    let here := (s.groups.filter fun (p : Nat × Group) => p.2.live && gidCore p.1 == e.unit).map (·.1)
    (s.endGroups here (trapOf 50)).markRetire e.unit
  else if e.cls ≤ 10 then
    let tid := e.addr.toNat
    let t := trapOf 63 0 (BitVec.ofNat 64 e.cls)
    if (s.team tid).saved then s.endSaved tid t (fun _ => true) else s.endGroups (s.teamGroups tid) t
  else s

/-- Whether an access or message to a device goes over a port of its set: the collective die spreads the traffic over those that work
(R486, R489), so with more than one it is a free choice (log 9). -/
def onPort (s : State) (port dev k : Nat) : Bool :=
  let set := s.portsOf dev
  set.contains port && (set.length == 1 || Config.freeNat (s.freeCtr + k) % set.length == 0)

/-- The device that a waiting replay goes to, be it sent or still waiting for its plane. -/
def replayDev (s : State) (gid slot : Nat) : Option Nat :=
  let s := { s with cur := (gid, slot) }
  match s.ca.park, s.ca.head with
  | some (.remote ((l, _) :: _) _), some i => some ((mget 0 s.cctx.peers (s.replayPeer i l)).toNat % 256)
  | _, _ => none

/-- The sends that a port's loss ends, R375, R489: those whose message or pull stands on it or waits for one of its planes, and those held
behind a refused one. -/
def lostSends (s : State) (port : Nat) : List SendCmd :=
  let on := fun (c : SendCmd) => (c.waiting || c.refused || s.planeHeld c) && c.dev != s.self && s.onPort port c.dev c.id
  let behind := ((s.hook.sends.filter fun c => c.refused && on c).map (·.dev))
  s.hook.sends.filter fun c => on c || (!c.waiting && behind.contains c.dev && !(s.team c.tid).saved)

/-- A port goes down, R489: replays that wait on it trap REMOTE_TIMEOUT, sends on it complete with STATUS 4, and a peer left without a
port is reported on vector 0. Collectives in progress over it will complete with LINKDOWN. -/
def portDown (s : State) (port : Nat) : State :=
  if !s.portUp port then s
  else
    let s0 := s
    let s := (s.setPlane port false { s.plane port false with down := true }).setPlane port true { s.plane port true with down := true }
    let hit := fun gid slot => match s.replayDev gid slot with | some d => s0.onPort port d (2 * gid + slot) | none => false
    let s := { s with comms := s.comms.map fun (p : Nat × Comm) =>
      (p.1, if p.2.live && (s0.collNext (p.1 / 4096) (p.1 % 4096)).isSome && p.2.devs.any fun d => s0.onPort port d (65536 + p.1) then
        { p.2 with lost := true } else p.2) }
    let arms := (mkeys s.groups).flatMap fun g => ([0, 1].filter fun k => hit g k).map fun k => (g, k)
    let cur := s.cur
    let sends := s0.lostSends port
    let cut := (mkeys s.portSets).filter fun d => let l := mget [] s.portSets d; l.contains port && l.all fun p => !s.portUp p
    let s := arms.foldl (fun s x => s.timeoutReplay x.1 x.2) s
    let s := sends.foldl (fun s c => s.sendDone c 4) { s with cur := cur, freeCtr := s.freeCtr + 131072 + s.uids }
    cut.foldl (fun s _ => s.sendMsix 0) s

/-- STATUS[5:0], R484. -/
def conditions (s : State) : BitVec 6 :=
  let h := s.host
  BitVec.ofBool h.therm ++ BitVec.ofBool h.harv ++ BitVec.ofBool h.rows ++ BitVec.ofBool (s.routes.any fun p => p.2.eff == 3) ++
    BitVec.ofBool (s.routes.any fun p => !p.2.aup || !p.2.bup) ++ BitVec.ofBool h.core

/-- STATUS[15], R484. -/
def svcReq (s : State) : Bool := s.conditions != 0

/-- A change of STATUS[15] raises vector 0, R485, and so does a condition that comes to hold, R497. -/
def reportSvc (s : State) : State :=
  let new := s.conditions
  let old := s.host.svc
  if new == old then s
  else
    let t := { s with host := { s.host with svc := new } }
    if new &&& ~~~old != 0 || new == 0 then t.sendMsix 0 else t

/-- The STATUS register, R484. -/
def statusWord (s : State) : Word :=
  let b := fun (x : Bool) n => if x then 2 ^ n else 0
  BitVec.ofNat 64 (2 ^ 28 * s.workingDies.length + b s.svcReq 15 + b s.host.ready 14 + s.conditions.toNat)

/-- An entry of the MSI-X table, R483, in PCIe's layout (log 49): address, data, and the mask in bit 0 of the vector control. -/
def vecWord (s : State) (v : Nat) (high : Bool) : Word :=
  let x := mget {} s.msix v
  if high then BitVec.ofNat 64 (x.data.toNat + if x.masked then 2 ^ 32 else 0) else x.addr

/-- The host writes half an entry of the MSI-X table; a pending message is sent once its vector is unmasked. -/
def setVec (s : State) (v : Nat) (high : Bool) (w : Word) : State :=
  let x := mget {} s.msix v
  let x := if high then { x with data := BitVec.ofNat 32 w.toNat, masked := bit w 32 } else { x with addr := w }
  let s := { s with msix := mset {} s.msix v x }
  if x.pending && !x.masked then s.sendMsix v else s

/-- 64 pending bits, of vectors 64 k to 64 k + 63. -/
def pendWord (s : State) (k : Nat) : Word :=
  (List.range 64).foldl (fun w j => setBit w j (mget {} s.msix (64 * k + j)).pending) 0

/-- What an aligned 8-byte read of BAR0 returns, R5, R483: write-only registers and unassigned offsets read as zero. -/
def barRead (s : State) (o : Nat) : Word :=
  if o == 0 then s.statusWord
  else if o == 0x18 then BitVec.ofNat 64 s.host.powcap
  else if 0x10000 ≤ o && decide (o < 0x12000) && decide (o % 1024 / 8 < 64) then
    BitVec.ofNat 64 (s.lqueue (64 * ((o - 0x10000) / 1024) + o % 1024 / 8)).tail
  else if 0x20000 ≤ o && decide (o < 0x28000) then s.vecWord ((o - 0x20000) / 16) (o % 16 == 8)
  else if 0x28000 ≤ o && decide (o < 0x28100) then s.pendWord ((o - 0x28000) / 8)
  else 0

end State

/-- WARM_RESET, R491. -/
def execWarmReset (s : State) : Host.Outcome State Fault Refusal := .next s.warm
/-- COLD_RESET, R492. -/
def execColdReset (s : State) : Host.Outcome State Fault Refusal := .next s.cold

/-- POWCAP, R483: a value outside 1,600-3,200 is ignored, and so are bits 63:12. -/
def execPowcap (v : BitVec 64) (s : State) : Host.Outcome State Fault Refusal :=
  let w := v.toNat % 4096
  if 1600 ≤ w && decide (w ≤ 3200) then .next { s with host := { s.host with powcap := w } } else .next s

/-- An aligned 8-byte write to BAR0, R483: RESET, POWCAP, ABORT, the doorbells and the MSI-X table; others are ignored. -/
def State.barWrite (s : State) (o : Nat) (w : Word) : Host.Outcome State Fault Refusal :=
  if o == 0x10 then
    match w.toNat % 4 with | 1 => execWarmReset s | 2 => execColdReset s | _ => .next s
  else if o == 0x18 then execPowcap w s
  else if o == 0x20 then execAbortLaunch w s
  else if 0x10000 ≤ o && decide (o < 0x12000) then execQtail ((o - 0x10000) / 1024) (o % 1024 / 8) w s
  else if 0x20000 ≤ o && decide (o < 0x28000) then .next (s.setVec ((o - 0x20000) / 16) (o % 16 == 8) w)
  else .next s

/-- A read of the host through CXL.mem, R298, R323: the host I/O die (bit 9) becomes a sharer of the sectors. -/
def State.cxlRead (s : State) (pa n : Nat) : State × List Byte × Bool :=
  let sects := (List.range ((pa % 64 + n + 63) / 64)).map fun k => pa / 64 + k
  let s := (sects.foldl (fun s k => s.homeReadShared 9 k) s).homeInject pa n 0xFFFF
  (s, mgetList 0 s.mem pa n, sects.any s.homePsn)

/-- HOST_CXL_ACCESS, R323, R482, R483: through CXL.mem performed at the home, within the range of device memory; from 2^52 up the
request stands for an access to BAR0 (log 49). -/
def execHostCxlAccess (r : HostReq) (s : State) : Host.Outcome State Fault Refusal :=
  let n := if r.write then r.data.length else r.len
  if 2 ^ 52 ≤ r.pa then
    let o := r.pa - 2 ^ 52
    if n != 8 || o % 8 != 0 || decide (2 ^ 20 ≤ o) then .next s
    else if r.write then s.barWrite o (BitVec.ofNat 64 (natOfBytes r.data))
    else .next { s with events := s.events ++ [.hostData r.pa (bytesOfNat 8 (s.barRead o).toNat) false] }
  else if decide (Config.deviceMemTop < r.pa + n) || s.rangeBusy r.pa n r.write then .next s
  else if r.write then .next (s.devWrite r.pa r.data false)
  else
    let (s, bs, p) := s.cxlRead r.pa r.len
    .next { s with events := s.events ++ [.hostData r.pa bs p] }

/-- BUDGET_PERIOD, R480: the allowance of a partition at an enforcer is whole again. -/
def execBudgetPeriod (kind unit part : Nat) (s : State) : Host.Outcome State Fault Refusal :=
  .next { s with used := mset 0 s.used (State.budgetKey kind unit part) 0 }

/-- KEY_EXHAUST, R487, R488: the plane's counter stands at its last usable value, it sends nothing further, and vector 0 tells of it. -/
def execKeyExhaust (port : Nat) (bulk : Bool) (s : State) : Host.Outcome State Fault Refusal :=
  let p := s.plane port bulk
  if p.exhausted || p.down then .next s else .next ((s.setPlane port bulk { p with exhausted := true, ctr := BitVec.allOnes 48 }).sendMsix 0)

/-- KEY_INSTALL, R487, R488: the new key takes effect, and its counter starts at 0; a plane that waited for it resumes with the flits that
wait. -/
def execKeyInstall (port : Nat) (bulk : Bool) (s : State) : Host.Outcome State Fault Refusal :=
  let p := s.plane port bulk
  .next (s.setPlane port bulk ({ p with keys := p.keys + 1, exhausted := false, ctr := 0, owed := 0 }.send p.owed))

/-- KEY_TIMEOUT, R488, R489: without a key within KEYTMO the plane goes down, and with it the port. -/
def execKeyTimeout (port : Nat) (bulk : Bool) (s : State) : Host.Outcome State Fault Refusal :=
  if (s.plane port bulk).exhausted then .next (s.portDown port) else .next s

/-- SCALE_UP_PORT_LOSS, R489. -/
def execScaleUpPortLoss (port : Nat) (s : State) : Host.Outcome State Fault Refusal :=
  if port < 32 then .next (s.portDown port) else .next s

/-- CORRECTED_ERROR, R458, R459, R461, R495, R496: the unit's log and count; hops and links have replayed a flit. What names no unit is no
report. -/
def execCorrectedError (e : ErrorReport) (s : State) : Host.Outcome State Fault Refusal :=
  if !State.unitExists e.cls e.unit then .next s else
  let link := decide (11 ≤ e.cls)
  let s := s.logError e.cls e.unit ⟨e.addr, e.syn, e.ctx, if link then 3 else 0⟩ true
  let s := if link then s.fireInj 3 e.cls e.unit none else s.fireInj 0 e.cls e.unit (some e.addr)
  .next (s.wearError e.cls e.unit e.addr.toNat)

/-- UNCORRECTED_ERROR, R459, R460, R461: data are poisoned, control state ends groups; an injection of type 2 writes poison without
detection. Hops and links replay instead (R493). -/
def execUncorrectedError (e : ErrorReport) (s : State) : Host.Outcome State Fault Refusal :=
  if decide (11 ≤ e.cls) || !State.unitExists e.cls e.unit then .next s
  else if e.control then .next ((s.logError e.cls e.unit ⟨e.addr, e.syn, e.ctx, 2⟩ false).controlError e)
  else if s.injArmed 2 e.cls e.unit (some e.addr) then .next ((s.fireInj 2 e.cls e.unit (some e.addr)).poisonAt e)
  else .next (((s.logError e.cls e.unit ⟨e.addr, e.syn, e.ctx, 1⟩ false).fireInj 1 e.cls e.unit (some e.addr)).poisonAt e)

/-- SCRUB_PASS, R495: a chiplet reads and corrects its DRAM; no program observes it. -/
def execScrubPass (_chip : Nat) (s : State) : Host.Outcome State Fault Refusal := .next s

/-- THERMAL_THROTTLE, R498. -/
def execThermalThrottle (die : Nat) (s : State) : Host.Outcome State Fault Refusal :=
  .next { s.setDie die { s.die die with throttled := true } with host := { s.host with therm := true } }
/-- THERMAL_RECOVER, R498. -/
def execThermalRecover (die : Nat) (s : State) : Host.Outcome State Fault Refusal :=
  .next (s.setDie die { s.die die with throttled := false })
/-- THERMAL_SHUTDOWN, R498. -/
def execThermalShutdown (s : State) : Host.Outcome State Fault Refusal :=
  .next { s.machineDown 14 with host := { (s.machineDown 14).host with therm := true } }

/-- CHIPLET_ROUTE_LOSS, R490: a memory chiplet that has had no route to port 24 or 25 for 20 µs. -/
def execChipletRouteLoss (chip : Nat) (s : State) : Host.Outcome State Fault Refusal :=
  let i := 8 + chip
  if chip < 16 && !(s.hasRoute i 24 && s.hasRoute 24 i && s.hasRoute i 25 && s.hasRoute 25 i) then .next (s.machineDown 15) else .next s

end Sys2Proof.Machine
end

