-- ==== Sys2Proof/Machine/Names.lean ====
section
/-! DEFINITION. The vector registers and scalars that an instruction names, field by field (R72-R83 and each instruction's description):
what its arm's scoreboard and a pending accld hold it for (R169, R422). Predicates are named too, but nothing that is pending writes one. -/

namespace Sys2Proof

/-- What an instruction names: the vector registers that it writes and those that it reads, as first number and count, and scalars. -/
structure Names where
  d : List (Nat × Nat) := []
  v : List (Nat × Nat) := []
  s : List Nat := []
  deriving DecidableEq, Repr

namespace Names

/-- The names of a V-format source of one register or a pair. -/
def src (wide : Bool) (x : Src) : Names := { v := x.regs wide, s := match x with | .s r => [r.toNat] | _ => [] }

def srcs (xs : List (Src × Bool)) : Names :=
  xs.foldr (fun x n => { v := (src x.2 x.1).v ++ n.v, s := (src x.2 x.1).s ++ n.s }) {}

/-- A V-format instruction: its destination and the sources it uses. -/
def ofV (f : VF) (wideD : Bool) (xs : List (Src × Bool)) : Names :=
  { srcs xs with d := [(f.d.toNat, if wideD then 2 else 1)] }

/-- Sources in TY. -/
def byTy (f : VF) (xs : List Src) : Names := ofV f f.ty.is64 (xs.map fun x => (x, f.ty.is64))

/-- The second operand of S format, R74. -/
def second (f : SF) : List Nat := if f.immf then [] else [f.b.toNat]

/-- Scalars alone. -/
def ofS (l : List Nat) : Names := { s := l }

/-- Scalar operations of R160 and R161. -/
def scalar (f : SF) : Names := ofS ([f.d.toNat, f.a.toNat] ++ second f)

/-- The condition of B format, R78. -/
def cond (f : BF) : List Nat := if f.ck == .always then [] else [f.cs.toNat]

/-- Per-lane accesses of M format: the data registers, BASE and OFF, R76, R247. -/
def loads (f : MF) : Names := ⟨[(f.t.toNat, Machine.sizeRegs f.sz)], Machine.offRegs f.off, [f.base.toNat]⟩
def stores (f : MF) : Names := ⟨[], (f.t.toNat, Machine.sizeRegs f.sz) :: Machine.offRegs f.off, [f.base.toNat]⟩

/-- A format's data registers: T, the operand, and the comparand of cas, R77. -/
def atomics (f : AF) (addr : List (Nat × Nat)) (base : List Nat) : Names :=
  let n := if f.sz == .b64 then 2 else 1
  ⟨if f.t == 0xFF then [] else [(f.t.toNat, n)],
   addr ++ [(f.opnd.toNat, n)] ++ (if f.aop == .cas then [(f.cmp.toNat, n)] else []), base⟩

/-- rld, rst and ratom: the peer in BASE and the address pair in OFF, R315, R316. -/
def peerAddr (base : BitVec 6) (off : BitVec 8) : List (Nat × Nat) := [(base.toNat, 1), (off.toNat, 2)]

/-- The payload of Q format, R82. -/
def payload (f : QF) : List (Nat × Nat) := if f.v == 0xFF then [] else [(f.v.toNat, 1)]

end Names

/-- The registers that an instruction names. An event has no word and names none. -/
def Instr.names : Instr → Names
  | .iadd f | .isub f | .imul f | .imulhi f | .imin f | .imax f | .vand f | .vor f | .vxor f | .sel f | .ishadd f => .byTy f [f.a, f.b]
  | .imad f | .blut f | .funnel f | .bytesel f => .byTy f [f.a, f.b, f.c]
  | .iabs f | .popc f | .clz f | .brev f | .mov f | .gred f | .gscan f | .qswap f | .qbcast f => .byTy f [f.a]
  | .shl f | .shr f | .sar f | .lxch f => .ofV f f.ty.is64 [(f.a, f.ty.is64), (f.b, false)]
  | .bfe f => .ofV f f.ty.is64 [(f.a, f.ty.is64), (f.b, false), (f.c, false)]
  | .bfi f => .ofV f f.ty.is64 [(f.a, f.ty.is64), (f.b, false), (f.c, f.ty.is64)]
  | .icmp f => .srcs [(f.a, f.ty.is64), (f.b, f.ty.is64)]
  | .fcmp f => .srcs [(f.a, false), (f.b, false)]
  | .fadd f | .fsub f | .fmul f | .fmin f | .fmax f | .lcdec f | .fscale f => .ofV f false [(f.a, false), (f.b, false)]
  | .fma f | .fdot2 f => .ofV f false [(f.a, false), (f.b, false), (f.c, false)]
  | .fclass f | .frcp f | .frsq f | .fsqrt f | .fexp2 f | .flog2 f | .frred f | .fsin f | .fcos f => .ofV f false [(f.a, false)]
  | .cvt f =>
    let sty := (Ty.ofCode (f.sub.toNat % 16)).getD .b32
    .ofV f f.ty.is64 ((f.a, sty.is64) :: if sty.elems < f.ty.elems then [(f.b, sty.is64)] else [])
  | .rand f => .ofV f false []
  | .movi f => { d := [(f.d.toNat, 1)] }
  | .vrd f => { v := f.a.regs f.ty.is64, s := f.d.toNat :: (Names.src false f.b).s }
  | .vwr f => .ofV f f.ty.is64 [(f.a, f.ty.is64), (f.b, false)]
  | .vote f => { d := if f.sub.toNat < 3 then [] else [(f.d.toNat, 1)] }
  | .tvote f => { d := if f.sub.toNat < 3 then [] else [(f.d.toNat, 1)] }
  | .sadd f | .ssub f | .smul f | .sand f | .sor f | .sxor f | .sshl f | .sshr f | .ssar f | .scmp f => .scalar f
  | .smovi f => .ofS [f.d.toNat]
  | .mfs f => if f.num == 0 then { d := [(f.vreg, 1)] } else .ofS [f.d.toNat]
  | .mts f | .mtsSeed f | .barwait f | .tcall f => .ofS [f.a.toNat]
  | .fmtset f | .barexp f | .skgive f | .sktake f => .ofS (Names.second f)
  | .gangset f => .ofS (if f.immf then [] else [f.a.toNat])
  | .jmp f => .ofS (f.a.toNat :: Names.second f)
  | .bwait f => .ofS (f.d.toNat :: Names.second f)
  | .bararr f => .ofS [f.d.toNat]
  | .fork _ => .ofS (List.range 64)
  | .bar _ | .pbar _ | .tret _ | .join _ => {}
  | .bra f => .ofS (Names.cond f)
  | .call f | .ret f => .ofS (63 :: Names.cond f)
  | .loop f => .ofS [f.cs.toNat]
  | .brp _ | .exitG _ | .yield _ | .nop _ => {}
  | .ld f | .lds f | .ldc f => .loads f
  | .st f | .sts f | .stc f => .stores f
  | .sld f | .sst f | .cwb f | .cinv f | .cwbi f => .ofS [f.t.toNat, f.base.toNat]
  | .pref f => { v := Machine.offRegs f.off, s := [f.base.toNat] }
  | .fence _ => {}
  | .atom f | .red f | .atoms f => .atomics f (Machine.offRegs f.off) [f.base.toNat]
  | .rld f => { d := [(f.t.toNat, Machine.sizeRegs f.sz)], v := Names.peerAddr f.base f.off }
  | .rst f => { v := Names.peerAddr f.base f.off ++ [(f.t.toNat, Machine.sizeRegs f.sz)] }
  | .ratom f => .atomics f (Names.peerAddr f.base f.off) []
  | .cpy f | .gath f | .msend f | .mpost f | .coll f | .suboff f | .patq f => .ofS [f.s1.toNat]
  | .cpym f => { v := [(f.v.toNat, 1)], s := [f.s1.toNat, f.s2.toNat] }
  | .patadv f => .ofS (if f.imm == 0 then [f.s2.toNat] else [])
  | .mcancel f | .subon f => .ofS [f.s1.toNat, f.s2.toNat]
  | .mprobe f => .ofS [f.s1.toNat, f.s2.toNat, f.imm.toNat, f.imm.toNat + 1]
  | .xshfl f => ⟨[(f.v.toNat, 1)], [(f.v.toNat, 1)], [f.s2.toNat]⟩
  | .qfence _ | .cpyres _ | .subflush _ => {}
  | .qpush f => { v := Names.payload f, s := [f.s.toNat] }
  | .qpop f | .qtry f => { d := Names.payload f, s := [f.s.toNat] }
  | .accalloc f | .fifodrop f | .fifostat f => .ofS [f.s1.toNat]
  | .mma f => .ofS [f.s1.toNat, f.s2.toNat]
  | .accld f => { d := [(f.v.toNat, 32)] }
  | .accst f => { v := [(f.v.toNat, 32)] }
  | .accfree _ | .acczero _ => {}
  | .sysrd f => .ofS [f.d.toNat]
  | .syswr f | .syswrRoute f | .syswrHvec f | .syswrInjctl f | .xinvPage f => .ofS [f.a.toNat]
  | .xinvRange f | .gkill f => .ofS [f.a.toNat, f.b.toNat]
  | .eret _ => .ofS ((List.range 8).map (56 + ·))
  | .trapSw _ | .pmark _ | .xinvCtx _ | .errinj _ | .brk _ => {}
  | _ => {}

/-- The scratchpad descriptor that an instruction reads: its guard, the scalar that names it, and its bytes, R355, R359, R380. -/
def Instr.descriptor : Instr → Option (Guard × BitVec 6 × Nat)
  | .cpy f | .cpym f => some (f.g, f.s1, 128)
  | .gath f | .msend f | .mpost f | .coll f => some (f.g, f.s1, 64)
  | .qpush f => if f.qr == 2 || f.qr == 4 then some (f.g, f.s, 64) else none
  | _ => none

end Sys2Proof
end

