-- ==== Sys2Proof/Machine/Sched.lean ====
section
/-! DEFINITION. The core scheduler (R169, R192-R197): when a parked arm may go on, which arms may issue, admission and swap-outs. -/

namespace Sys2Proof.Machine

namespace State

/-- Every live group of a level is parked as `p` says. -/
def allAt (s : State) (tid lid : Nat) (p : Park → Bool) : Bool :=
  (s.groupsOf tid lid).all fun g => ((s.grp g).sole.park.map p).getD false

/-- What the instructions that wait for queue or list space would do now, R336, R355, R372; the executing arm stands at them. -/
def spaceEff (s : State) : Instr → Option Eff
  | .cpy f => some (s.cpyEff f)
  | .cpym f => some (s.cpymEff f)
  | .gath f => some (s.gathEff f)
  | .qfence f => some (s.qfenceEff f)
  | .coll f => some (s.collEff f)
  | .qpush f => some (s.qpushEff f)
  | .mpost f => some (s.mpostEff f)
  | _ => none

/-- There is space now for the instruction at the arm's head. -/
def spaceFree (s : State) : Bool :=
  match (s.ca.head).bind s.spaceEff with
  | some (.stay t) => match t.ca.park with | some .space => false | some (.queue _ _ _) => false | _ => true
  | _ => true

/-- The latch of the executing arm's gang can act, R408-R410: a member ended, or every member has issued and an mma finds room. -/
def latchReady (s : State) : Bool :=
  s.cg.abort.isSome || ((s.members.all fun m => (s.grp m).latch.isSome) &&
    match s.ca.head with
    | some (.mma _) => decide (s.cteam.mmaQ.length < 4)
    | _ => true)

/-- The record's wait is over: another generation, or poison, R208, R209. -/
def recLeft (s : State) (b : Nat) (gen : BitVec 32) : Bool := (s.barRec b).gen != gen || (s.barRec b).psn

/-- The condition for which the executing arm parked is met. Parks that an event or another unit ends are never ready by
themselves. -/
def parkMet (s : State) : Park → Bool
  | .header => match s.ca.clause with
    | some c => waitsMet s.cg s.ca (headerOf c.head) || (flagTrap s.cg (headerOf c.head)).isSome || s.arrivesAgain
    | none => true
  | .brpLoads => s.ca.loads.isEmpty
  | .timed _ => false
  | .walk ks => ks.all fun k => !(s.die k.die).walks.contains (k.ctx, k.page)
  | .check _ => false
  | .remote lanes sent => !sent && match s.ca.head, lanes with
    | some i, (l, _) :: _ => !s.replayHeld i (s.replayPeer i l)
    | _, _ => false
  | .bar b gen => s.recLeft b gen
  | .barDup b gen _ => s.recLeft b gen || !bit (s.barRec b).arrset s.cg.vslot
  | .barWait b gen => s.recLeft b gen
  | .pbar gen => (s.panel s.cteam.panel).gen != gen ||
      (s.allAt s.cg.tid s.cg.lid (fun k => k == .pbar gen) && !(s.panel s.cteam.panel).arrived.contains s.cg.tid)
  | .tcall _ => s.allAt s.cg.tid s.cg.lid isTcall
  | .tret => match (s.level s.cg.tid (s.level s.cg.tid s.cg.lid).parent).call with
    | some e => s.strandsDone s.cg.tid e
    | none => false
  | .tvote _ _ _ => s.allAt s.cg.tid s.cg.lid isTvote
  | .forkWait n base => s.forkRoom n base
  | .join => s.cg.joins == 0
  | .sktake _ => !(s.cteam.skeinQ.any fun q => q.1 == s.cg.uid)
  | .qpop q => !(popQueue s.cteam q).isEmpty
  | .space => s.spaceFree
  | .queue _ _ _ => s.spaceFree
  | .cont _ => false
  | .latch => s.latchReady
  | .accQueue _ => false
  | .accFree => false
  | .fifoDrop seq => !s.cteam.mmaQ.any fun m => decide (m.seq < seq)
  | .xshfl w _ _ => (s.xshflPartner w).isSome
  | .subDrain _ => true
  | .xinv lo hi _ => !s.xinvWaits lo hi
  | .gkill ts => s.killDone ts
  | .trapWait => false
  | .stopped _ => false

/-- The arm may go on: it is not parked, or its park's condition is met and no pre-emption request holds it there, R192, R452. Of two
sides at handler level, that in slot 0 runs while it is not parked, R436 (log 47). -/
def ready (s : State) (gid slot : Nat) : Bool :=
  let a := (s.grp gid).arm slot
  let o := (s.grp gid).arm (1 - slot)
  let behind := a.handler && slot == 1 && o.live && o.handler && o.park.isNone
  (s.grp gid).live && a.live && !behind && match a.park with
    | none => true
    | some p => !(s.stopDue gid a && p.implicitPoint) && { s with cur := (gid, slot) }.parkMet p

/-- Some arm of the group may go on. -/
def groupReady (s : State) (gid : Nat) : Bool := s.ready gid 0 || s.ready gid 1

/-- The die's energy allowance of the group's partition is spent, R480; groups that run to their points for a pre-emption are not held by
it, R481. -/
def held (s : State) (gid : Nat) : Bool :=
  let c := s.ctx (s.grp gid).ctx
  s.isSpent 2 (gidDie gid) c.part && !bit c.preq (gidDie gid)

/-- A group with an arm at handler level, R197. -/
def isHandler (g : Group) : Bool := (g.arm0.live && g.arm0.handler) || (g.arm1.live && g.arm1.handler)

/-- Groups of a core in a place. -/
def inPlace (s : State) (core : Nat) (p : Place) : List Nat :=
  (s.groups.filter fun (x : Nat × Group) => x.2.live && gidCore x.1 == core && x.2.place == p).map (·.1)

/-- The waiting groups of a list that have an arm that may go on enter the pending set at its tail, R192. -/
def wake (s : State) (gids : List Nat) : State :=
  (gids.filter s.groupReady).foldl (fun t g => t.setGrp g { t.grp g with place := .pending, since := t.tick }) s

/-- Waiting groups of a core. -/
def wakeAll (s : State) (core : Nat) : State := s.wake (s.inPlace core .waiting)

/-- After every step the waiting table wakes the groups whose condition it has met, R192, R199. -/
def wakeReady (s : State) : State :=
  s.wake ((s.groups.filter fun (x : Nat × Group) => x.2.live && x.2.place == .waiting).map (·.1))

/-- The head of the pending set: handler groups first, then in order of becoming ready, R193, R197. -/
def pendingHead (s : State) (core : Nat) : Option Nat :=
  (s.inPlace core .pending).foldl (fun best g => match best with
    | some b =>
      let x := s.grp g
      let y := s.grp b
      if (isHandler x && !isHandler y) || (isHandler x == isHandler y && decide (x.since < y.since)) then some g else some b
    | none => some g) none

/-- An arm is between clauses, parked, or about to begin a clause with YH = 1, R194, R195. -/
def armAtBoundary (a : Arm) : Bool :=
  !a.live || a.park.isSome || match a.clause with | none => true | some c => c.idx == 0 && a.yielded

def atBoundary (g : Group) : Bool := armAtBoundary g.arm0 && armAtBoundary g.arm1

/-- An eligible group waits in the pending set, R195-R197. -/
def eligible (s : State) (gid : Nat) : Bool :=
  (s.inPlace (gidCore gid) .pending).any fun g => !isHandler (s.grp gid) || isHandler (s.grp g)

/-- The arm is about to begin a clause: it stands between clauses, or before the first instruction of one with YH = 1, R194, R195. -/
def begins (a : Arm) : Bool := match a.clause with | none => true | some c => c.idx == 0 && a.yielded

/-- The arm is at a yield point: the boundary before a clause with YH = 1, or after one in which yield had an active lane, R195. -/
def armAtYield (a : Arm) : Bool := a.live && a.yielded && begins a

/-- The group has reached a yield point, R195. -/
def atYield (g : Group) : Bool := armAtYield g.arm0 || armAtYield g.arm1

/-- A swap-out uses up a yield point that has been reached; the mark of a yield in mid-clause stays, R195. -/
def passYield (a : Arm) : Arm := { a with yielded := a.yielded && !begins a }

/-- A swapped-out group with a ready arm goes to the tail of the pending set, another to waiting, R194. -/
def swapGroup (s : State) (gid : Nat) : State :=
  let g := s.grp gid
  s.setGrp gid { g with place := if s.groupReady gid then .pending else .waiting, since := s.tick, begun := 0,
                        arm0 := passYield g.arm0, arm1 := passYield g.arm1 }

/-- When the group last issued: a group at a boundary has reached it with that issue. -/
def lastIssued (g : Group) : Nat := max g.arm0.lastIssue g.arm1.lastIssue

/-- No other ordinary active group of the core that is at a boundary reached it earlier, R197. -/
def firstThere (s : State) (gid : Nat) : Bool :=
  (s.inPlace (gidCore gid) .active).all fun x => isHandler (s.grp x) || !atBoundary (s.grp x) ||
    decide (lastIssued (s.grp gid) ≤ lastIssued (s.grp x))

/-- A swap-out at a yield point, or for a waiting handler group, is due, R195, R197. -/
def swapDue (s : State) (gid : Nat) : Bool :=
  let g := s.grp gid
  let core := gidCore gid
  let handlerWaits := (s.inPlace core .pending).any fun x => isHandler (s.grp x)
  g.live && g.place == .active && atBoundary g && s.eligible gid &&
    (atYield g || (handlerWaits && !isHandler g && s.firstThere gid && decide (Config.activeMax ≤ (s.inPlace core .active).length)))

/-- A swap-out for fairness is due, R196. -/
def fairDue (s : State) (gid : Nat) : Bool :=
  let g := s.grp gid
  g.live && g.place == .active && atBoundary g && s.eligible gid && decide (256 ≤ g.begun)

/-- The group has been chosen for a swap-out at its next boundary: an arm of it is at a yield point, or has begun its 256th clause, while
an eligible group waits, R194-R196. -/
def chosen (s : State) (gid : Nat) : Bool :=
  let g := s.grp gid
  s.eligible gid && (atYield g || decide (256 ≤ g.begun))

/-- The arm may not begin a clause: its group has been chosen for a swap-out, or its swap-out is due, R194, R197. -/
def barred (s : State) (gid slot : Nat) : Bool := begins ((s.grp gid).arm slot) && (s.chosen gid || s.swapDue gid)

/-- The arm may issue now: its group is active, it is ready, and neither a swap-out nor its partition's allowance holds it, R192, R194,
R480. -/
def canIssue (s : State) (gid slot : Nat) : Bool :=
  (s.grp gid).place == .active && s.ready gid slot && !s.held gid && !s.barred gid slot

/-- What the word at an arm's head names; a word that decode step 4 rejects names nothing. -/
def names (w : Word) : Names := match decodeWord w with | .ok i => i.names | .error _ => {}

/-- A pending write meets the registers that an instruction names. -/
def meetsW (n : Names) : RegW → Bool
  | .v r _ _ _ => (n.d ++ n.v).any fun x => decide (x.1 ≤ r) && decide (r < x.1 + x.2)
  | .s r _ _ => n.s.contains r

/-- The instruction at the arm's head waits for a result of its arm: a load reply, R169, or a bank load that will write a register it
names, R422. -/
def interlocked (s : State) (w : Word) : Bool :=
  let n := names w
  s.ca.loads.any (fun l => l.any (meetsW n)) ||
    s.cteam.accOps.any fun o => o.uid == s.cg.uid && o.kind == .ld && o.mask &&& s.armMask != 0 &&
      (n.d ++ n.v).any fun x => decide (x.1 < o.reg + 32) && decide (o.reg < x.1 + x.2)

/-- The privileged opcodes, R86, R445. -/
def isPrivileged (o : Nat) : Bool := [0xD1, 0xD3, 0xD4, 0xD5, 0xD6, 0xD8].contains o

/-- A word that decode step 4 rejects: a privileged opcode at user level traps at step 3 before, R87. -/
def rejectTrap (s : State) (o : Nat) : TrapInfo :=
  if isPrivileged o && !s.ca.handler then trapOf 5 0 (BitVec.ofNat 64 o) else trapOf 2

/-- What an issue does to the arm's own records: when it last issued (R198), and that a yield point it stood at has passed (R195). -/
def issued (s : State) (gid slot : Nat) : State :=
  let s := { s with cur := (gid, slot) }.charge 2 (gidDie gid) (s.ctx (s.grp gid).ctx).part (Config.energy s.tick)
  s.modA fun a => { a with lastIssue := s.tick, yielded := a.yielded && !begins a }

/-- An arm that a pre-emption request or an eret watches has moved on from where it stood. -/
def moved (a b : Arm) : Bool :=
  match a.clause with
  | some c => (b.clause.map fun d => (d.hdr, d.idx)) != some (c.hdr, c.idx)
  | none => false

/-- An arm that left its wait while a pre-emption request is pending stops before its next instruction, R452. -/
def stopWoken (s t : State) : State :=
  if t.ctxs.all fun p => p.2.preq == 0 then t
  else (mkeys t.groups).foldl (fun u g => [0, 1].foldl (fun u k =>
    let a := (s.grp g).arm k
    let b := (u.grp g).arm k
    if (u.grp g).live && (s.grp g).uid == (u.grp g).uid && a.park.isSome && b.live && b.park.isNone && u.stopDue g b then
      u.setGrp g ((u.grp g).setArm k { b with park := some (.stopped none) }).settlePlace
    else u) u) t

/-- An arm armed by eret traps STEP once an instruction of it has retired, R449. -/
def stepTraps (s t : State) : State :=
  if s.groups.all fun p => !p.2.arm0.step && !p.2.arm1.step then t
  else (mkeys t.groups).foldl (fun u g => [0, 1].foldl (fun u k =>
    let a := (s.grp g).arm k
    let b := (u.grp g).arm k
    if (u.grp g).live && (s.grp g).uid == (u.grp g).uid && a.step && b.step && b.live && !b.handler && moved a b then
      u.takeTrapAt g k (trapOf 56) b.ipc
    else u) u) t

/-- What follows every step from `s` to `t`: arms that stop, arms that trap STEP, groups that wake, and the service request, R192, R449,
R452, R485. -/
def after (s t : State) : State := (s.stepTraps (s.stopWoken t)).wakeReady.reportSvc

/-- A header without waits or YH that allows every class, for one instruction, R56. -/
def plainHeader : Word := BitVec.ofNat 64 (63 * 2 ^ 58 + 63 * 2 ^ 48 + 63 * 2 ^ 42 + 63 * 2 ^ 36 + 63 * 2 ^ 30 + 63 * 2 ^ 24)

/-- A converged group of 32 lanes of a running launch, active, with one word fetched in its clause (log 5). -/
def oneWordGroup (w : Word) : Group :=
  { live := true, teamLanes := BitVec.allOnes 32, place := .active, uid := 1,
    arm0 := { live := true, mask := BitVec.allOnes 32, clause := some ⟨0, plainHeader, [w], 0⟩ } }

/-- The word stands where the next step takes its instruction: in the clause that a group of a running launch has fetched, whose arm
issues next, held by no allowance (log 5). -/
def withWord (s : State) (w : Word) : State :=
  { s with agenda := [.issue 0 0], groups := [(0, oneWordGroup w)], uids := 2,
           teams := [(0, { live := true, lanes := 32, levels := [(0, { live := true })] })],
           panels := [(0, { live := true, teams := [0] })],
           launches := [(0, { live := true })], ctxs := [(0, { live := true })], allow := [] }

end State

/-- GROUP_ADMISSION, R192, R193: the groups that became ready are pending, and the head of the pending set is admitted when the active
set has room. -/
def execGroupAdmission (core : Nat) (s : State) : Host.Outcome State Fault Refusal :=
  let s := s.wakeAll core
  match s.pendingHead core with
  | none => .next s
  | some g =>
    if Config.activeMax ≤ (s.inPlace core .active).length then .next s
    else .next (s.setGrp g { s.grp g with place := .active, begun := 0 })

/-- SWAP_OUT, R194, R195, R197. -/
def execSwapOut (gid : Nat) (s : State) : Host.Outcome State Fault Refusal := .next (if s.swapDue gid then s.swapGroup gid else s)

/-- FAIRNESS_SWAP, R196. -/
def execFairnessSwap (gid : Nat) (s : State) : Host.Outcome State Fault Refusal := .next (if s.fairDue gid then s.swapGroup gid else s)

/-- A word with a reserved or unassigned opcode at the head of the executing arm traps at decode step 2, R90; TRAPX is the opcode byte. -/
def execIllegalOp (w : BitVec 64) (s : State) : Host.Outcome State Fault Refusal := .next (s.takeTrap (trapOf 1 0 (BitVec.ofNat 64 (opcOf w))))

end Sys2Proof.Machine
end

