-- ==== Sys2Proof/Machine/Fp.lean ====
section
/-! DEFINITION. Floating-point and conversion instructions of rows 0x2 and 0x3 (R146-R149, R152-R155). -/

namespace Sys2Proof.Machine

/-- A per-lane instruction that may round and raise: its sources, and each active lane's value, flags and xorshift state. -/
def State.fEff (s : State) (f : VF) (rounds wideD : Bool) (srcs : List (Src × Bool)) (own : BitVec 32 → List Rd)
    (fn : FCtl → Nat → BitVec 32 → Nat × FFlags × BitVec 32) : Eff :=
  s.guarded f.g false ((f.d.toNat, if wideD then 2 else 1) :: srcs.flatMap fun x => x.1.regs x.2)
    (fun act => (srcs.flatMap fun x => x.1.reads x.2 act) ++ own act) fun act =>
    match (if rounds then s.roundMode f.rm else .ok 0) with
    | .error t => .trap t
    | .ok mode =>
      let c := s.fctl mode
      match fpLanes c.fen (fn c) (maskList act) s.cg.xsRow [] with
      | .error t => .trap t
      | .ok (vals, xs) =>
        let val := fun l => ((vals.find? fun v => v.1 == l).map (·.2)).getD 0
        .retire (s.modG fun g => { g.putV f.d.toNat wideD act val with xs := xs })

/-- Run an element function over the elements in order, element 0 first, R110: packed value, flags, xorshift state. -/
def perElem (w : Nat) (fn : Nat → BitVec 32 → Nat × FFlags × BitVec 32) :
    List Nat → BitVec 32 → Nat × FFlags × BitVec 32
  | [], xs => (0, 0, xs)
  | k :: ks, xs =>
    let (v, fl, xs) := fn k xs
    let (r, fl', xs) := perElem w fn ks xs
    (v * 2 ^ (w * k) + r, orFl fl fl', xs)

/-- An element of a floating-point source after FTZI and the sign modifiers, R146. -/
def fpElem (c : FCtl) (ty : Ty) (xa na : Bool) (k x : Nat) : Fp :=
  unpackF (fmtOf ty) c.ftzi (signMod (fmtOf ty) xa na (elemAt ty.width k x))

/-- Floating-point arithmetic of R146, rounded once. -/
def State.fpArithEff (s : State) (f : VF) (useC : Bool) (op : FCtl → Fp → Fp → Fp → Fp × FFlags) : Eff :=
  s.fEff f true false ((f.a, false) :: (f.b, false) :: if useC then [(f.c, false)] else []) (fun _ => []) fun c l xs =>
    perElem f.ty.width (fun k xs =>
      let x := fpElem c f.ty f.xa f.na k (s.raw f.ty l f.a)
      let y := fpElem c f.ty f.xb f.nb k (s.raw f.ty l f.b)
      let z := fpElem c f.ty false false k (s.raw f.ty l f.c)
      let (v, fl) := op c x y z
      let (b, fl', xs) := c.round (fmtOf f.ty) v xs
      (b, orFl fl fl', xs)) (List.range f.ty.elems) xs

/-- The rounding mode is toward minus infinity. -/
def FCtl.rdn (c : FCtl) : Bool := c.mode == 2

/-- fadd, R146, R147. -/
def execFadd (f : VF) (s : State) : Host.Outcome State Fault Refusal :=
  s.conclude (s.fpArithEff f false fun c x y _ => sumFp c.rdn [x, y])
/-- fsub, R146, R147. -/
def execFsub (f : VF) (s : State) : Host.Outcome State Fault Refusal :=
  s.conclude (s.fpArithEff f false fun c x y _ => sumFp c.rdn [x, y.flip])
/-- fmul, R146, R147. -/
def execFmul (f : VF) (s : State) : Host.Outcome State Fault Refusal :=
  s.conclude (s.fpArithEff f false fun _ x y _ => mulFp x y)
/-- A fused multiply-add before its rounding, R147. -/
def fmaFp (rdn : Bool) (x y z : Fp) : Fp × FFlags :=
  let (p, fl) := mulFp x y
  let (v, fl') := sumFp rdn [p, z]
  (v, orFl fl fl')
/-- fma, R146, R147. -/
def execFma (f : VF) (s : State) : Host.Outcome State Fault Refusal :=
  s.conclude (s.fpArithEff f true fun c x y z => fmaFp c.rdn x y z)

/-- fmin and fmax, R147. -/
def State.fpickEff (s : State) (f : VF) (mx : Bool) : Eff :=
  let fm := fmtOf f.ty
  s.fEff f false false [(f.a, false), (f.b, false)] (fun _ => []) fun c l xs =>
    perElem f.ty.width (fun k xs =>
      let x := signMod fm f.xa f.na (elemAt f.ty.width k (s.raw f.ty l f.a))
      let y := signMod fm f.xb f.nb (elemAt f.ty.width k (s.raw f.ty l f.b))
      let (b, fl) := pickFp fm mx c.ftzi c.ftz x y
      (b, fl, xs)) (List.range f.ty.elems) xs

/-- fmin, R147. -/
def execFmin (f : VF) (s : State) : Host.Outcome State Fault Refusal := s.conclude (s.fpickEff f false)
/-- fmax, R147. -/
def execFmax (f : VF) (s : State) : Host.Outcome State Fault Refusal := s.conclude (s.fpickEff f true)

/-- fcmp, R148. -/
def State.fcmpEff (s : State) (f : VF) : Eff :=
  s.guarded f.g false (f.a.regs false ++ f.b.regs false) (fun act => f.a.reads false act ++ f.b.reads false act) fun act =>
    let c := s.fctl 0
    let one := fun (l : Nat) (xs : BitVec 32) =>
      let x := signMod fmtF32 f.xa f.na (s.raw .f32 l f.a)
      let y := signMod fmtF32 f.xb f.nb (s.raw .f32 l f.b)
      let (r, fl) := cmpFp fmtF32 c.ftzi f.sub.toNat x y
      ((if r then 1 else 0), fl, xs)
    match fpLanes c.fen one (maskList act) s.cg.xsRow [] with
    | .error t => .trap t
    | .ok (vals, _) =>
      let v := maskOf fun l => vals.contains (l, 1)
      .retire (s.modG fun g => (g.setPred (f.d.toNat % 8) act v).markPred (f.d.toNat % 8) act 0)
def execFcmp (f : VF) (s : State) : Host.Outcome State Fault Refusal := s.conclude (s.fcmpEff f)

/-- fclass, R149. -/
def State.fclassEff (s : State) (f : VF) : Eff :=
  s.vEff f false [(f.a, false)] fun l =>
    packElems 16 ((List.range f.ty.elems).map fun k => 2 ^ classFp (fmtOf f.ty) (elemAt f.ty.width k (s.raw f.ty l f.a)))
def execFclass (f : VF) (s : State) : Host.Outcome State Fault Refusal := s.conclude (s.fclassEff f)

/-- One element of cvt, R117-R121. -/
def cvtElem (c : FCtl) (sat : Bool) (dty sty : Ty) (x : Nat) (xs : BitVec 32) : Nat × FFlags × BitVec 32 :=
  if sty.isFloat then
    let v := unpackF (fmtOf sty) c.ftzi x
    if dty.isFloat then c.round (fmtOf dty) v xs
    else
      let xs := if c.mode == 5 then xorshift xs else xs
      let lo := clampInt dty (-(2 ^ 70 : Nat))
      let hi := clampInt dty (2 ^ 70 : Nat)
      let (n, fl) := toIntFp c.mode lo hi xs.toNat v
      (lowBits dty.width n, fl, xs)
  else
    let n := elemInt sty 0 x
    if dty.isFloat then c.round (fmtOf dty) (Fp.ofInt n) xs
    else (lowBits dty.width (if sat then clampInt dty n else n), 0, xs)

/-- Where element `k` of cvt's destination comes from, R152: A or B, and the element; `none` keeps the old value. -/
def cvtFrom (nd ns i : Nat) (hi : Bool) (k : Nat) : Option (Bool × Nat) :=
  if nd == ns then some (false, k)
  else if nd == 2 * ns then (if k < ns then some (false, k) else some (true, k - ns))
  else if nd == 4 * ns then
    let h := if hi then 1 else 0
    if k == 2 * h then some (false, 0) else if k == 2 * h + 1 then some (true, 0) else none
  else some (false, i * nd + k)

/-- cvt, R152. Where the destination keeps two of its elements, it is read, R131. A small integer or a scalar as A or B is read in the
source type, the type in which cvt reads it, although R65 lists no such exception to TY (DEDUCED, log 29). -/
def State.cvtEff (s : State) (f : VF) : Eff :=
  let sty := (Ty.ofCode (f.sub.toNat % 16)).getD .b32
  let nd := f.ty.elems
  let ns := sty.elems
  let i := match f.b with | .imm k => k.toNat - 32 | _ => 0
  let useB := decide (ns < nd)
  let w := sty.is64
  s.fEff f (f.ty.isFloat || sty.isFloat) f.ty.is64 ((f.a, w) :: if useB then [(f.b, w)] else [])
    (fun act => if nd == 4 * ns then [.v f.d.toNat 1 act] else []) fun c l xs =>
    perElem f.ty.width (fun k xs =>
      match cvtFrom nd ns i (bit f.sub 4) k with
      | some (fromB, j) => cvtElem c f.sat f.ty sty (elemAt sty.width j (s.raw sty l (if fromB then f.b else f.a))) xs
      | none => (elemAt f.ty.width k (s.cg.vlane f.d.toNat l).toNat, 0, xs)) (List.range nd) xs
def execCvt (f : VF) (s : State) : Host.Outcome State Fault Refusal := s.conclude (s.cvtEff f)

/-- fdot2, R153. C is read as f32, so a small integer there is placed as f32, although R65 lists no such exception to TY (DEDUCED,
log 29). -/
def State.fdot2Eff (s : State) (f : VF) : Eff :=
  s.fEff f true false [(f.a, false), (f.b, false), (f.c, false)] (fun _ => []) fun c l xs =>
    let term := fun k => mulFp (fpElem c f.ty false f.na k (s.raw f.ty l f.a)) (fpElem c f.ty false f.nb k (s.raw f.ty l f.b))
    let (p0, f0) := term 0
    let (p1, f1) := term 1
    let (v, f2) := sumFp c.rdn [p0, p1, unpackF fmtF32 c.ftzi (s.raw .f32 l f.c)]
    let (b, f3, xs) := c.round fmtF32 v xs
    (b, orFl (orFl f0 f1) (orFl f2 f3), xs)
def execFdot2 (f : VF) (s : State) : Host.Outcome State Fault Refusal := s.conclude (s.fdot2Eff f)

/-- lcdec, R154: only the range conversion to f16 raises exceptions. -/
def State.lcdecEff (s : State) (f : VF) : Eff :=
  s.fEff f true false [(f.a, false), (f.b, false)] (fun _ => []) fun c l xs =>
    let cw := elemAt 16 (if bit f.sub 3 then 1 else 0) (s.raw f.ty l f.a)
    let e := s.raw .i32 l f.b % 256
    perElem f.ty.width (fun k xs =>
      let j := if f.ty == .f32 then f.sub.toNat % 8 else 2 * (f.sub.toNat % 4) + k
      let (b, fl, xs) := c.round (fmtOf f.ty) (lc2Value cw j e) xs
      (b, if f.ty == .f16x2 then fl else 0, xs)) (List.range f.ty.elems) xs
def execLcdec (f : VF) (s : State) : Host.Outcome State Fault Refusal := s.conclude (s.lcdecEff f)

/-- The exponent of fscale for element `k`, R155, R65: B as an i32, or as an i16 element. Beyond 600 in magnitude every finite
source overflows or is tiny alike, so the exponent is held there. -/
def State.fscaleExp (s : State) (f : VF) (l k : Nat) : Int :=
  let n := if f.ty == .f32 then toSigned 32 (s.raw .i32 l f.b) else toSigned 16 (elemAt 16 k (s.raw .i16x2 l f.b))
  max (-600) (min 600 n)

/-- fscale, R155. -/
def State.fscaleEff (s : State) (f : VF) : Eff :=
  s.fEff f true false [(f.a, false), (f.b, false)] (fun _ => []) fun c l xs =>
    perElem f.ty.width (fun k xs =>
      c.round (fmtOf f.ty) ((fpElem c f.ty f.xa f.na k (s.raw f.ty l f.a)).scale (s.fscaleExp f l k)) xs)
      (List.range f.ty.elems) xs
def execFscale (f : VF) (s : State) : Host.Outcome State Fault Refusal := s.conclude (s.fscaleEff f)

end Sys2Proof.Machine
end

