-- ==== Sys2Proof/Machine/Trans.lean ====
section
/-! DEFINITION. The transcendental unit (R129, R150, R151): the special inputs exactly, and for every other input the results
within the bound of R129, of which the unit delivers one (log 8). Exact values are carried as integers at 256 fraction bits. -/

namespace Sys2Proof.Machine

/-- The exact result of a transcendental operation: a value that the manual gives exactly, with the exceptions it names; or a
magnitude in [n, n + 1) x 2^s, equal to n x 2^s where `exact`. -/
inductive TRes where
  | special (v : Fp) (fl : FFlags)
  | real (neg : Bool) (n : Nat) (s : Int) (exact : Bool)
  deriving DecidableEq, Repr

/-- ln 2, 2 pi at 256 fraction bits and 1/(2 pi) at 400, each rounded down. -/
def ln2Fix : Nat := 0xb17217f7d1cf79abc9e3b39803f2f6af40f343267298b62d8a0d175b8baafa2b
def twoPiFix : Nat := 0x6487ed5110b4611a62633145c06e0e68948127044533e63a0105df531d89cd912
def inv2PiFix : Nat :=
  0x28be60db9391054a7f09d5f47d4d377036d8a5664f10e4107f9458eaf7aef1586dc91b8e909374b801924bba827464873f87

/-- The integer square root, bit by bit. -/
def isqrt (n : Nat) : Nat → Nat → Nat
  | 0, acc => acc
  | b + 1, acc => isqrt n b (if (acc + 2 ^ b) * (acc + 2 ^ b) ≤ n then acc + 2 ^ b else acc)

/-- 1 / x, R129. -/
def trcp : Fp → TRes
  | .nan sig => .special (.nan false) (if sig then 1 else 0)
  | .inf neg => .special (.fin neg 0 0) 0
  | .fin neg m e => if m == 0 then .special (.inf neg) 2 else .real neg (2 ^ 280 / m) (-e - 280) (2 ^ 280 % m == 0)

/-- A mantissa with an even exponent. -/
def evenExp (m : Nat) (e : Int) : Nat × Int := if e % 2 == 0 then (m, e) else (2 * m, e - 1)

/-- 1 / sqrt x. -/
def trsq : Fp → TRes
  | .nan sig => .special (.nan false) (if sig then 1 else 0)
  | .inf neg => if neg then .special (.nan false) 1 else .special (.fin false 0 0) 0
  | .fin neg m e =>
    if m == 0 then .special (.inf neg) 2
    else if neg then .special (.nan false) 1
    else
      let (m, e) := evenExp m e
      let q := 2 ^ 512 / m
      let r := isqrt q 258 0
      .real false r (-(e / 2) - 256) (2 ^ 512 % m == 0 && r * r == q)

/-- sqrt x. -/
def tsqrt : Fp → TRes
  | .nan sig => .special (.nan false) (if sig then 1 else 0)
  | .inf neg => if neg then .special (.nan false) 1 else .special (.inf false) 0
  | .fin neg m e =>
    if m == 0 then .special (.fin neg 0 0) 0
    else if neg then .special (.nan false) 1
    else
      let (m, e) := evenExp m e
      let q := m * 2 ^ 512
      let r := isqrt q 272 0
      .real false r (e / 2 - 256) (r * r == q)

/-- The series of e^t at 256 fraction bits. -/
def expSeries (t : Nat) : Nat → Nat → Nat → Nat
  | 0, _, _ => 0
  | fuel + 1, k, term => term + expSeries t fuel (k + 1) (term * t / 2 ^ 256 / (k + 1))

/-- A finite value in units of 2^-256 (every FP32 value is a whole number of them). -/
def fix256 (v : Fp) : Int := v.units (-256)

/-- 2^x. -/
def texp2 : Fp → TRes
  | .nan sig => .special (.nan false) (if sig then 1 else 0)
  | .inf neg => if neg then .special (.fin false 0 0) 0 else .special (.inf false) 0
  | .fin neg m e =>
    if m == 0 then .special (.fin false 1 0) 0
    else if 8 ≤ (Nat.log2 m : Int) + e then .real false 1 (if neg then -300 else 300) false
    else
      let x := fix256 (.fin neg m e)
      let i := x / (2 ^ 256 : Nat)
      let f := (x % (2 ^ 256 : Nat)).toNat
      if f == 0 then .real false 1 i true
      else .real false (expSeries (f * ln2Fix / 2 ^ 256) 70 0 (2 ^ 256)) (i - 256) false

/-- The series of atanh z at 256 fraction bits, z2 = z squared. -/
def atanhSeries (z2 : Nat) : Nat → Nat → Nat → Nat
  | 0, _, _ => 0
  | fuel + 1, k, p => p / (2 * k + 1) + atanhSeries z2 fuel (k + 1) (p * z2 / 2 ^ 256)

/-- log2 x. -/
def tlog2 : Fp → TRes
  | .nan sig => .special (.nan false) (if sig then 1 else 0)
  | .inf neg => if neg then .special (.nan false) 1 else .special (.inf false) 0
  | .fin neg m e =>
    if m == 0 then .special (.inf true) 2
    else if neg then .special (.nan false) 1
    else
      let k := Nat.log2 m
      let ex : Int := (k : Int) + e
      if m == 2 ^ k then
        (if ex == 0 then .special (.fin false 0 0) 0 else .real (decide (ex < 0)) ex.natAbs 0 true)
      else
        let mm : Nat := m * 2 ^ 256 / 2 ^ k
        let z : Nat := (mm - 2 ^ 256) * 2 ^ 256 / (mm + 2 ^ 256)
        let l : Nat := 2 * atanhSeries (z * z / 2 ^ 256) 90 0 z * 2 ^ 256 / ln2Fix
        let t : Int := ex * (2 ^ 256 : Nat) + (l : Int)
        .real (decide (t < 0)) t.natAbs (-256) false

/-- Turns of an angle in radians, R151: correctly rounded, so the value carries a last bit that stands for the rest. -/
def trred : Fp → TRes
  | .nan sig => .special (.nan false) (if sig then 1 else 0)
  | .inf _ => .special (.nan false) 1
  | .fin neg m e =>
    if m == 0 then .special (.fin neg 0 0) 0
    else
      let sc := (400 - e).toNat
      let p : Int := (m * inv2PiFix : Nat)
      let y := if neg then -p else p
      let k := (y + (2 ^ (sc - 1) : Nat)) / (2 ^ sc : Nat)
      let r := 2 * (y - k * (2 ^ sc : Nat)) + (if neg then -1 else 1)
      .special (.fin (decide (r < 0)) r.natAbs (-(sc : Int) - 1)) 0

/-- The alternating series of sin (first term v) or cos (first term 1) at 256 fraction bits: `k` is the first factor of the next
denominator. -/
def sinSeries (v2 : Nat) : Nat → Nat → Nat → Bool → Int
  | 0, _, _, _ => 0
  | fuel + 1, k, term, neg =>
    (if neg then -(term : Int) else (term : Int)) + sinSeries v2 fuel (k + 2) (term * v2 / 2 ^ 256 / (k * (k + 1))) (!neg)

/-- u = t - floor(t + 0.5) in units of 2^-256, R151. -/
def turnsFrac (x : Fp) : Int := let t := fix256 x; t - (t + (2 ^ 255 : Nat)) / (2 ^ 256 : Nat) * (2 ^ 256 : Nat)

/-- sin and cos of turns, R150, R151. -/
def tsincos (cos : Bool) : Fp → TRes
  | .nan sig => .special (.nan false) (if sig then 1 else 0)
  | .inf _ => .special (.nan false) 1
  | .fin neg m e =>
    if m == 0 then .special (if cos then .fin false 1 0 else .fin neg 0 0) 0
    else
      let u := turnsFrac (.fin neg m e)
      if u == 0 then .special (.fin false (if cos then 1 else 0) 0) 0
      else if u == -(2 ^ 255 : Nat) then .special (if cos then .fin true 1 0 else .fin false 0 0) 0
      else if u.natAbs == 2 ^ 254 then
        (if cos then .special (.fin false 0 0) 0 else .real (decide (u < 0)) 1 0 true)
      else
        let v := u.natAbs * twoPiFix / 2 ^ 256
        let v2 := v * v / 2 ^ 256
        if cos then
          let c := sinSeries v2 64 1 (2 ^ 256) false
          .real (decide (c < 0)) c.natAbs (-256) false
        else .real (decide (u < 0)) (sinSeries v2 64 2 v false).natAbs (-256) false

/-- The magnitude `c` of FP32 lies within `k` ulp of the exact result, R129. -/
def withinUlp (k n : Nat) (s : Int) (exact : Bool) (c : Nat) : Bool :=
  let ex : Int := (Nat.log2 n : Int) + s
  let ulp := max ex (-126) - 23
  match unpackF fmtF32 false c with
  | .fin _ m e =>
    let e0 := min (min e s) ulp
    let z := n * 2 ^ (s - e0).toNat
    let z1 := if exact then z else (n + 1) * 2 ^ (s - e0).toNat
    let v := m * 2 ^ (e - e0).toNat
    let b := k * 2 ^ (ulp - e0).toNat
    decide (v ≤ z + b) && decide (z1 ≤ v + b)
  | _ => false

/-- The result of the unit and its flags: FTZ, SATF and the exceptions as for any other result, R129. -/
def deliverT (ulps : Nat) (c : FCtl) (pick : Nat) : TRes → Nat × FFlags
  | .special v fl => let (b, fl') := roundTo fmtF32 0 c.ftz c.satf 0 v; (b, orFl fl fl')
  | .real neg n s exact =>
    let m := if exact then n else 2 * n + 1
    let e := if exact then s else s - 1
    let (b, fl) := roundTo fmtF32 0 false c.satf 0 (.fin neg m e)
    let tiny := isTiny fmtF32 0 neg m e 0
    if fl &&& 4 != 0 then (b, fl)
    else if tiny && c.ftz then (fmtF32.signed neg 0, 24)
    else
      let mag := b % fmtF32.signBit
      let near := ((List.range 11).map fun k => mag + k - 5).dedup
      let ok := near.filter fun x => decide (x ≤ fmtF32.maxBits) && withinUlp ulps n s exact x
      let r := ok.getD (pick % ok.length) mag
      let inx := match unpackF fmtF32 false r with
        | .fin _ m' e' => !exact || m' * 2 ^ (e' - min e' s).toNat != n * 2 ^ (s - min e' s).toNat
        | _ => true
      (fmtF32.signed neg r, if inx then (if tiny then 24 else 16) else 0)

/-- A transcendental instruction, R150: its opcode, its bound in ulp, and its exact result. -/
def State.transEff (s : State) (f : VF) (opc : BitVec 8) (ulps : Nat) (op : Fp → TRes) : Eff :=
  s.fEff f false false [(f.a, false)] (fun _ => []) fun c l xs =>
    let x := flushIn fmtF32 c.ftzi (signMod fmtF32 f.xa f.na (s.raw .f32 l f.a))
    let pick := Config.transPick opc (BitVec.ofNat 32 x) c.ftz c.ftzi
    let (b, fl) := deliverT ulps c pick (op (unpackF fmtF32 false x))
    (b, fl, xs)

/-- frcp, R150. -/
def execFrcp (f : VF) (s : State) : Host.Outcome State Fault Refusal := s.conclude (s.transEff f 0x28 1 trcp)
/-- frsq, R150. -/
def execFrsq (f : VF) (s : State) : Host.Outcome State Fault Refusal := s.conclude (s.transEff f 0x29 1 trsq)
/-- fsqrt, R150. -/
def execFsqrt (f : VF) (s : State) : Host.Outcome State Fault Refusal := s.conclude (s.transEff f 0x2A 1 tsqrt)
/-- fexp2, R150. -/
def execFexp2 (f : VF) (s : State) : Host.Outcome State Fault Refusal := s.conclude (s.transEff f 0x2B 2 texp2)
/-- flog2, R150. -/
def execFlog2 (f : VF) (s : State) : Host.Outcome State Fault Refusal := s.conclude (s.transEff f 0x2C 2 tlog2)
/-- frred, R151. -/
def execFrred (f : VF) (s : State) : Host.Outcome State Fault Refusal := s.conclude (s.transEff f 0x2D 0 trred)
/-- fsin, R151. -/
def execFsin (f : VF) (s : State) : Host.Outcome State Fault Refusal := s.conclude (s.transEff f 0x2E 1 (tsincos false))
/-- fcos, R151. -/
def execFcos (f : VF) (s : State) : Host.Outcome State Fault Refusal := s.conclude (s.transEff f 0x2F 1 (tsincos true))

end Sys2Proof.Machine
end

