-- ==== Sys2Proof/Machine/Xlane.lean ====
section
/-! DEFINITION. Exchanges and reductions across lanes, and rand (R132, R156-R159). -/

namespace Sys2Proof.Machine

/-- Another lane's register, R132; absent lanes read zero. -/
def State.laneOf (s : State) (wide : Bool) (r l : Nat) : Nat :=
  if wide then (s.cg.vlane64 r l).toNat else (s.cg.vlane r l).toNat

/-- The vector register of an exchange's A field. -/
def srcV : Src → Nat
  | .v r => r.toNat
  | _ => 0

/-- An exchange: each active lane receives A of its source lane, R132, R156, R157. The lanes read must be clean, R131. -/
def State.exchEff (s : State) (f : VF) (b : List Src) (from_ : Nat → Nat) : Eff :=
  let w := f.ty.is64
  let n := if w then 2 else 1
  s.guarded f.g false ((f.d.toNat, n) :: (srcV f.a, n) :: b.flatMap fun x => x.regs false)
    (fun act => (b.flatMap fun x => x.reads false act) ++
      [.v (srcV f.a) n (maskOf fun j => (maskList act).any fun l => from_ l == j)]) fun act =>
    .retire (s.modG fun g => g.putV f.d.toNat w act fun l => s.laneOf w (srcV f.a) (from_ l))

/-- qswap, R156. -/
def execQswap (f : VF) (s : State) : Host.Outcome State Fault Refusal :=
  s.conclude (s.exchEff f [] fun l => l ^^^ (f.sub.toNat % 4))
/-- qbcast, R156. -/
def execQbcast (f : VF) (s : State) : Host.Outcome State Fault Refusal :=
  s.conclude (s.exchEff f [] fun l => 4 * (l / 4) + f.sub.toNat % 4)

/-- The source lane of lxch for control `c`, R157. -/
def lxchLane (mode l c : Nat) : Nat :=
  match mode with
  | 0 => c
  | 1 => (l + c) % 32
  | 2 => (l ^^^ c) % 32
  | _ => 8 * (l / 8) + c % 8

/-- lxch, R157. -/
def execLxch (f : VF) (s : State) : Host.Outcome State Fault Refusal :=
  s.conclude (s.exchEff f [f.b] fun l => lxchLane (f.sub.toNat % 4) l (s.raw .n32 l f.b % 32))

/-- An integer reduction, R158, R96. -/
def reduceInt (ty : Ty) (op : Nat) (sat : Bool) (xs : List Nat) : Nat :=
  let w := ty.width
  let big : Int := (2 ^ 70 : Nat)
  let vs := xs.map fun x => elemInt ty 0 x
  match op with
  | 0 => let e := vs.foldl (fun (a : Int) x => a + x) 0; lowBits w (if sat then clampInt ty e else e)
  | 1 => lowBits w (vs.foldl (fun a x => min a x) (clampInt ty big))
  | 2 => lowBits w (vs.foldl (fun a x => max a x) (clampInt ty (-big)))
  | 3 => xs.foldl (fun a x => a &&& x) (2 ^ w - 1)
  | 4 => xs.foldl (fun a x => a ||| x) 0
  | _ => xs.foldl (fun a x => a ^^^ x) 0

/-- An f32 .min or .max over a set, R147, R158: the identity for no members; NaNs give way to numbers. -/
def reducePick (c : FCtl) (mx : Bool) (xs : List Nat) : Nat × FFlags :=
  let sig := if xs.any fun x => (unpackF fmtF32 false x).isSig then 1 else 0
  let nums := xs.filter fun x => !(unpackF fmtF32 false x).isNan
  match xs, nums with
  | [], _ => (fmtF32.signed mx fmtF32.infBits, 0)
  | _, [] => (fmtF32.canonNan, sig)
  | _, y :: ys => ((ys.foldl (fun a x => (pickFp fmtF32 mx c.ftzi c.ftz a x).1) (pickFp fmtF32 mx c.ftzi c.ftz y y).1), sig)

/-- One lane's result of an f32 reduction, R158: .add is exact and rounded once; a set without members gives the identity and
rounds nothing (DEDUCED, log 26). -/
def reduceF (c : FCtl) (op : Nat) (xs : List Nat) (st : BitVec 32) : Nat × FFlags × BitVec 32 :=
  if op == 0 then
    if xs.isEmpty then (0, 0, st)
    else
      let (v, fl) := sumFp c.rdn (xs.map fun x => unpackF fmtF32 c.ftzi x)
      let (b, fl', st) := c.round fmtF32 v st
      (b, orFl fl fl', st)
  else
    let (b, fl) := reducePick c (op == 2) xs
    (b, fl, st)

/-- gred and gscan, R158: `members` says which contributors count for a lane. -/
def State.reduceEff (s : State) (f : VF) (members : Nat → Nat → Bool) : Eff :=
  let w := f.ty.is64
  let op := f.sub.toNat % 8
  s.guarded f.g false ((f.d.toNat, if w then 2 else 1) :: f.a.regs w) (fun act => f.a.reads w (s.teamOnly act)) fun act =>
    let con := (maskList (s.teamOnly act)).map fun j => (j, s.raw f.ty j f.a)
    let set := fun l => (con.filter fun x => members l x.1).map (·.2)
    if f.ty == .f32 then
      match s.roundMode f.rm with
      | .error t => .trap t
      | .ok mode =>
        let c := s.fctl mode
        match fpLanes c.fen (fun l xs => reduceF c op (set l) xs) (maskList act) s.cg.xsRow [] with
        | .error t => .trap t
        | .ok (vals, xs) =>
          let val := fun l => ((vals.find? fun v => v.1 == l).map (·.2)).getD 0
          .retire (s.modG fun g => { g.putV f.d.toNat w act val with xs := xs })
    else .retire (s.modG fun g => g.putV f.d.toNat w act fun l => reduceInt f.ty op f.sat (set l))

/-- gred, R158. -/
def execGred (f : VF) (s : State) : Host.Outcome State Fault Refusal := s.conclude (s.reduceEff f fun _ _ => true)
/-- gscan, R158. -/
def execGscan (f : VF) (s : State) : Host.Outcome State Fault Refusal :=
  s.conclude (s.reduceEff f fun l j => if bit f.sub 4 then decide (j < l) else decide (j ≤ l))

/-- rand, R159. -/
def State.randEff (s : State) (f : VF) : Eff :=
  s.guarded f.g false [(f.d.toNat, 1)] (fun _ => []) fun act =>
    let step := fun l => if bit act l then xorshift (s.cg.xs.getD l 0) else s.cg.xs.getD l 0
    .retire (s.modG fun g => { g.putV f.d.toNat false act fun l => (step l).toNat with xs := (List.range 32).map step })
def execRand (f : VF) (s : State) : Host.Outcome State Fault Refusal := s.conclude (s.randEff f)

end Sys2Proof.Machine
end

