-- ==== Sys2Proof/Machine/Dispatch.lean ====
section
/-! DEFINITION. The meaning of every instruction: one arm per constructor of Instr. -/

namespace Sys2Proof.Machine

def exec (i : Instr) (s : State) : Host.Outcome State Fault Refusal :=
  match i with
  | .iadd f => Sys2Proof.Machine.execIadd f s
  | .isub f => Sys2Proof.Machine.execIsub f s
  | .imul f => Sys2Proof.Machine.execImul f s
  | .imulhi f => Sys2Proof.Machine.execImulhi f s
  | .imad f => Sys2Proof.Machine.execImad f s
  | .imin f => Sys2Proof.Machine.execImin f s
  | .imax f => Sys2Proof.Machine.execImax f s
  | .iabs f => Sys2Proof.Machine.execIabs f s
  | .vand f => Sys2Proof.Machine.execVand f s
  | .vor f => Sys2Proof.Machine.execVor f s
  | .vxor f => Sys2Proof.Machine.execVxor f s
  | .blut f => Sys2Proof.Machine.execBlut f s
  | .shl f => Sys2Proof.Machine.execShl f s
  | .shr f => Sys2Proof.Machine.execShr f s
  | .sar f => Sys2Proof.Machine.execSar f s
  | .funnel f => Sys2Proof.Machine.execFunnel f s
  | .popc f => Sys2Proof.Machine.execPopc f s
  | .clz f => Sys2Proof.Machine.execClz f s
  | .brev f => Sys2Proof.Machine.execBrev f s
  | .bfe f => Sys2Proof.Machine.execBfe f s
  | .bfi f => Sys2Proof.Machine.execBfi f s
  | .icmp f => Sys2Proof.Machine.execIcmp f s
  | .sel f => Sys2Proof.Machine.execSel f s
  | .mov f => Sys2Proof.Machine.execMov f s
  | .movi f => Sys2Proof.Machine.execMovi f s
  | .ishadd f => Sys2Proof.Machine.execIshadd f s
  | .bytesel f => Sys2Proof.Machine.execBytesel f s
  | .fadd f => Sys2Proof.Machine.execFadd f s
  | .fsub f => Sys2Proof.Machine.execFsub f s
  | .fmul f => Sys2Proof.Machine.execFmul f s
  | .fma f => Sys2Proof.Machine.execFma f s
  | .fmin f => Sys2Proof.Machine.execFmin f s
  | .fmax f => Sys2Proof.Machine.execFmax f s
  | .fcmp f => Sys2Proof.Machine.execFcmp f s
  | .fclass f => Sys2Proof.Machine.execFclass f s
  | .frcp f => Sys2Proof.Machine.execFrcp f s
  | .frsq f => Sys2Proof.Machine.execFrsq f s
  | .fsqrt f => Sys2Proof.Machine.execFsqrt f s
  | .fexp2 f => Sys2Proof.Machine.execFexp2 f s
  | .flog2 f => Sys2Proof.Machine.execFlog2 f s
  | .frred f => Sys2Proof.Machine.execFrred f s
  | .fsin f => Sys2Proof.Machine.execFsin f s
  | .fcos f => Sys2Proof.Machine.execFcos f s
  | .cvt f => Sys2Proof.Machine.execCvt f s
  | .fdot2 f => Sys2Proof.Machine.execFdot2 f s
  | .lcdec f => Sys2Proof.Machine.execLcdec f s
  | .fscale f => Sys2Proof.Machine.execFscale f s
  | .qswap f => Sys2Proof.Machine.execQswap f s
  | .qbcast f => Sys2Proof.Machine.execQbcast f s
  | .lxch f => Sys2Proof.Machine.execLxch f s
  | .gred f => Sys2Proof.Machine.execGred f s
  | .gscan f => Sys2Proof.Machine.execGscan f s
  | .rand f => Sys2Proof.Machine.execRand f s
  | .sadd f => Sys2Proof.Machine.execSadd f s
  | .ssub f => Sys2Proof.Machine.execSsub f s
  | .smul f => Sys2Proof.Machine.execSmul f s
  | .sand f => Sys2Proof.Machine.execSand f s
  | .sor f => Sys2Proof.Machine.execSor f s
  | .sxor f => Sys2Proof.Machine.execSxor f s
  | .sshl f => Sys2Proof.Machine.execSshl f s
  | .sshr f => Sys2Proof.Machine.execSshr f s
  | .ssar f => Sys2Proof.Machine.execSsar f s
  | .scmp f => Sys2Proof.Machine.execScmp f s
  | .smovi f => Sys2Proof.Machine.execSmovi f s
  | .vrd f => Sys2Proof.Machine.execVrd f s
  | .vwr f => Sys2Proof.Machine.execVwr f s
  | .mfs f => Sys2Proof.Machine.execMfs f s
  | .mts f => Sys2Proof.Machine.execMts f s
  | .mtsSeed f => Sys2Proof.Machine.execMtsSeed f s
  | .fmtset f => Sys2Proof.Machine.execFmtset f s
  | .bra f => Sys2Proof.Machine.execBra f s
  | .brp f => Sys2Proof.Machine.execBrp f s
  | .jmp f => Sys2Proof.Machine.execJmp f s
  | .call f => Sys2Proof.Machine.execCall f s
  | .ret f => Sys2Proof.Machine.execRet f s
  | .bwait f => Sys2Proof.Machine.execBwait f s
  | .vote f => Sys2Proof.Machine.execVote f s
  | .exitG f => Sys2Proof.Machine.execExitG f s
  | .yield f => Sys2Proof.Machine.execYield f s
  | .nop f => Sys2Proof.Machine.execNop f s
  | .loop f => Sys2Proof.Machine.execLoop f s
  | .bar f => Sys2Proof.Machine.execBar f s
  | .bararr f => Sys2Proof.Machine.execBararr f s
  | .barwait f => Sys2Proof.Machine.execBarwait f s
  | .barexp f => Sys2Proof.Machine.execBarexp f s
  | .pbar f => Sys2Proof.Machine.execPbar f s
  | .tcall f => Sys2Proof.Machine.execTcall f s
  | .tret f => Sys2Proof.Machine.execTret f s
  | .tvote f => Sys2Proof.Machine.execTvote f s
  | .fork f => Sys2Proof.Machine.execFork f s
  | .join f => Sys2Proof.Machine.execJoin f s
  | .skgive f => Sys2Proof.Machine.execSkgive f s
  | .sktake f => Sys2Proof.Machine.execSktake f s
  | .gangset f => Sys2Proof.Machine.execGangset f s
  | .ld f => Sys2Proof.Machine.execLd f s
  | .st f => Sys2Proof.Machine.execSt f s
  | .lds f => Sys2Proof.Machine.execLds f s
  | .sts f => Sys2Proof.Machine.execSts f s
  | .ldc f => Sys2Proof.Machine.execLdc f s
  | .stc f => Sys2Proof.Machine.execStc f s
  | .sld f => Sys2Proof.Machine.execSld f s
  | .sst f => Sys2Proof.Machine.execSst f s
  | .pref f => Sys2Proof.Machine.execPref f s
  | .cwb f => Sys2Proof.Machine.execCwb f s
  | .cinv f => Sys2Proof.Machine.execCinv f s
  | .cwbi f => Sys2Proof.Machine.execCwbi f s
  | .atom f => Sys2Proof.Machine.execAtom f s
  | .red f => Sys2Proof.Machine.execRed f s
  | .atoms f => Sys2Proof.Machine.execAtoms f s
  | .fence f => Sys2Proof.Machine.execFence f s
  | .rld f => Sys2Proof.Machine.execRld f s
  | .rst f => Sys2Proof.Machine.execRst f s
  | .ratom f => Sys2Proof.Machine.execRatom f s
  | .cpy f => Sys2Proof.Machine.execCpy f s
  | .cpym f => Sys2Proof.Machine.execCpym f s
  | .patadv f => Sys2Proof.Machine.execPatadv f s
  | .patq f => Sys2Proof.Machine.execPatq f s
  | .qfence f => Sys2Proof.Machine.execQfence f s
  | .gath f => Sys2Proof.Machine.execGath f s
  | .qpush f => Sys2Proof.Machine.execQpush f s
  | .qpop f => Sys2Proof.Machine.execQpop f s
  | .qtry f => Sys2Proof.Machine.execQtry f s
  | .cpyres f => Sys2Proof.Machine.execCpyres f s
  | .msend f => Sys2Proof.Machine.execMsend f s
  | .mpost f => Sys2Proof.Machine.execMpost f s
  | .mcancel f => Sys2Proof.Machine.execMcancel f s
  | .mprobe f => Sys2Proof.Machine.execMprobe f s
  | .subon f => Sys2Proof.Machine.execSubon f s
  | .suboff f => Sys2Proof.Machine.execSuboff f s
  | .subflush f => Sys2Proof.Machine.execSubflush f s
  | .xshfl f => Sys2Proof.Machine.execXshfl f s
  | .coll f => Sys2Proof.Machine.execColl f s
  | .accalloc f => Sys2Proof.Machine.execAccalloc f s
  | .accfree f => Sys2Proof.Machine.execAccfree f s
  | .acczero f => Sys2Proof.Machine.execAcczero f s
  | .mma f => Sys2Proof.Machine.execMma f s
  | .accld f => Sys2Proof.Machine.execAccld f s
  | .accst f => Sys2Proof.Machine.execAccst f s
  | .fifodrop f => Sys2Proof.Machine.execFifodrop f s
  | .fifostat f => Sys2Proof.Machine.execFifostat f s
  | .trapSw f => Sys2Proof.Machine.execTrapSw f s
  | .eret f => Sys2Proof.Machine.execEret f s
  | .pmark f => Sys2Proof.Machine.execPmark f s
  | .sysrd f => Sys2Proof.Machine.execSysrd f s
  | .syswr f => Sys2Proof.Machine.execSyswr f s
  | .syswrRoute f => Sys2Proof.Machine.execSyswrRoute f s
  | .syswrHvec f => Sys2Proof.Machine.execSyswrHvec f s
  | .syswrInjctl f => Sys2Proof.Machine.execSyswrInjctl f s
  | .xinvPage f => Sys2Proof.Machine.execXinvPage f s
  | .xinvRange f => Sys2Proof.Machine.execXinvRange f s
  | .xinvCtx f => Sys2Proof.Machine.execXinvCtx f s
  | .errinj f => Sys2Proof.Machine.execErrinj f s
  | .brk f => Sys2Proof.Machine.execBrk f s
  | .gkill f => Sys2Proof.Machine.execGkill f s
  | .clauseEntry => Sys2Proof.Machine.execClauseEntry s
  | .bwaitTimeout g a => Sys2Proof.Machine.execBwaitTimeout g a s
  | .loadReplyCommit g a => Sys2Proof.Machine.execLoadReplyCommit g a s
  | .storeAck g a => Sys2Proof.Machine.execStoreAck g a s
  | .groupAdmission core => Sys2Proof.Machine.execGroupAdmission core s
  | .swapOut g => Sys2Proof.Machine.execSwapOut g s
  | .fairnessSwap g => Sys2Proof.Machine.execFairnessSwap g s
  | .skeinDeadlockDetect t => Sys2Proof.Machine.execSkeinDeadlockDetect t s
  | .pendingTrapDelivery g => Sys2Proof.Machine.execPendingTrapDelivery g s
  | .pageWalkComplete die ctx page => Sys2Proof.Machine.execPageWalkComplete die ctx page s
  | .l2WriteBack die sect => Sys2Proof.Machine.execL2WriteBack die sect s
  | .l2Recall die sect toShared => Sys2Proof.Machine.execL2Recall die sect toShared s
  | .homeReadShared req sect => Sys2Proof.Machine.execHomeReadShared req sect s
  | .homeReadForOwnership req sect => Sys2Proof.Machine.execHomeReadForOwnership req sect s
  | .homeWriteBackMerge b => Sys2Proof.Machine.execHomeWriteBackMerge b s
  | .homeAtomic r => Sys2Proof.Machine.execHomeAtomic r s
  | .checkPhase g a => Sys2Proof.Machine.execCheckPhase g a s
  | .checkCommit g a => Sys2Proof.Machine.execCheckCommit g a s
  | .checkAbort g a => Sys2Proof.Machine.execCheckAbort g a s
  | .checkClose g => Sys2Proof.Machine.execCheckClose g s
  | .remoteIngress r => Sys2Proof.Machine.execRemoteIngress r s
  | .remoteAnswer g a r => Sys2Proof.Machine.execRemoteAnswer g a r s
  | .remoteTimeout g a => Sys2Proof.Machine.execRemoteTimeout g a s
  | .colourFail chip port planeB => Sys2Proof.Machine.execColourFail chip port planeB s
  | .colourRecover chip port planeB => Sys2Proof.Machine.execColourRecover chip port planeB s
  | .routeDrainComplete chip port => Sys2Proof.Machine.execRouteDrainComplete chip port s
  | .flitCrcReplay chip port => Sys2Proof.Machine.execFlitCrcReplay chip port s
  | .routeLossDetect die port dieEnd => Sys2Proof.Machine.execRouteLossDetect die port dieEnd s
  | .dieFence die => Sys2Proof.Machine.execDieFence die s
  | .dieLostDeclare die => Sys2Proof.Machine.execDieLostDeclare die s
  | .chipletRouteLoss chip => Sys2Proof.Machine.execChipletRouteLoss chip s
  | .copyEntryStart t q => Sys2Proof.Machine.execCopyEntryStart t q s
  | .copyBatchDelivery t q n peer => Sys2Proof.Machine.execCopyBatchDelivery t q n peer s
  | .copyEntryComplete t q => Sys2Proof.Machine.execCopyEntryComplete t q s
  | .copyEntryFault t q peer => Sys2Proof.Machine.execCopyEntryFault t q peer s
  | .patternRowStep t => Sys2Proof.Machine.execPatternRowStep t s
  | .heldCompletionPost t q => Sys2Proof.Machine.execHeldCompletionPost t q s
  | .hookSend o => Sys2Proof.Machine.execHookSend o s
  | .hookHeaderArrival m => Sys2Proof.Machine.execHookHeaderArrival m s
  | .rendezvousPullComplete id o => Sys2Proof.Machine.execRendezvousPullComplete id o s
  | .messageRetry dest o => Sys2Proof.Machine.execMessageRetry dest o s
  | .subUpdateForward core => Sys2Proof.Machine.execSubUpdateForward core s
  | .subUpdateApply sub => Sys2Proof.Machine.execSubUpdateApply sub s
  | .xshflTimeout g => Sys2Proof.Machine.execXshflTimeout g s
  | .collComplete ctx comm r => Sys2Proof.Machine.execCollComplete ctx comm r s
  | .mmaBand t => Sys2Proof.Machine.execMmaBand t s
  | .preemptRequest part dies => Sys2Proof.Machine.execPreemptRequest part dies s
  | .preemptDeadline ctx => Sys2Proof.Machine.execPreemptDeadline ctx s
  | .handlerPreemptLimit g => Sys2Proof.Machine.execHandlerPreemptLimit g s
  | .saveSequence ctx => Sys2Proof.Machine.execSaveSequence ctx s
  | .contextResume ctx m => Sys2Proof.Machine.execContextResume ctx m s
  | .qtail die q v => Sys2Proof.Machine.execQtail die q v s
  | .queuePriorityAging die q => Sys2Proof.Machine.execQueuePriorityAging die q s
  | .launchStart die => Sys2Proof.Machine.execLaunchStart die s
  | .teamPlacement launch cores => Sys2Proof.Machine.execTeamPlacement launch cores s
  | .workSteal launch cluster => Sys2Proof.Machine.execWorkSteal launch cluster s
  | .launchComplete launch => Sys2Proof.Machine.execLaunchComplete launch s
  | .abortLaunch addr => Sys2Proof.Machine.execAbortLaunch addr s
  | .warmReset => Sys2Proof.Machine.execWarmReset s
  | .coldReset => Sys2Proof.Machine.execColdReset s
  | .powcap v => Sys2Proof.Machine.execPowcap v s
  | .hostCxlAccess r => Sys2Proof.Machine.execHostCxlAccess r s
  | .budgetPeriod kind unit part => Sys2Proof.Machine.execBudgetPeriod kind unit part s
  | .keyExhaust port bulk => Sys2Proof.Machine.execKeyExhaust port bulk s
  | .keyInstall port bulk => Sys2Proof.Machine.execKeyInstall port bulk s
  | .keyTimeout port bulk => Sys2Proof.Machine.execKeyTimeout port bulk s
  | .correctedError e => Sys2Proof.Machine.execCorrectedError e s
  | .uncorrectedError e => Sys2Proof.Machine.execUncorrectedError e s
  | .scrubPass chip => Sys2Proof.Machine.execScrubPass chip s
  | .thermalThrottle die => Sys2Proof.Machine.execThermalThrottle die s
  | .thermalRecover die => Sys2Proof.Machine.execThermalRecover die s
  | .thermalShutdown => Sys2Proof.Machine.execThermalShutdown s
  | .illegalOp w => Sys2Proof.Machine.execIllegalOp w s
  | .scaleUpPortLoss port => Sys2Proof.Machine.execScaleUpPortLoss port s

end Sys2Proof.Machine
end

