-- ==== Sys2Proof/Machine/Issue.lean ====
section
/-! DEFINITION. One issue of an arm (R87, R169, R170), and the order in which things happen where nothing says otherwise (log 4). -/

namespace Sys2Proof.Machine

/-- A machine event that may stand in the agenda; the meanings of words, CLAUSE_ENTRY and ILLEGAL_OP belong to an issue (an event
has no word: `encode` answers 0; so it does for one ill-formed iadd). -/
def isEvent (i : Instr) : Bool :=
  match i with
  | .clauseEntry => false
  | .illegalOp _ => false
  | .iadd _ => false
  | _ => encode i == 0

namespace State

/-- The word at the head of the executing arm's clause. -/
def headWord (s : State) : Word := match s.ca.clause with | some c => c.words.getD c.idx 0 | none => 0

/-- An instruction that reads registers or a scratchpad descriptor meets an injection there, R461: the places of a register file are lane,
register and slot (log 18), and the words of a register are read for every lane of the arm (log 38). -/
def readsInject (s : State) (i : Instr) : State :=
  if s.dev.injctl.isEmpty then s
  else
    let slot := s.gid % 32
    let meets := fun x => natBits x 13 5 == slot && decide (x < 2 ^ 18) && bit s.armMask (natBits x 0 5) &&
      i.names.v.any fun r => decide (r.1 ≤ natBits x 5 8) && decide (natBits x 5 8 < r.1 + r.2)
    let s := s.injectIf 0 s.ccore s.cg.ctx meets (BitVec.ofNat 64) fun x s =>
      s.modG fun g => poisonReg g (natBits x 5 8) (natBits x 0 5)
    match i.descriptor with
    | some (g, r, n) => if s.active g == 0 || s.ca.park.isSome then s else s.spInject s.cg.tid (s.sreg r.toNat).toNat n
    | none => s

/-- The decoded word is executed; a word that decode step 4 rejects traps, R87, R90. -/
def runWord (s : State) (w : Word) : Host.Outcome State Fault Refusal :=
  match decodeWord w with
  | .ok i => exec i (s.readsInject i)
  | .error (.illegalField o) => .next (s.takeTrap (s.rejectTrap o))

/-- The executing arm, between clauses, enters the next one, or stops there, R170, R452. -/
def enterNext (s : State) : Host.Outcome State Fault Refusal :=
  if s.ca.park.isNone && s.deadlineDue s.gid s.ca then .next (s.park (.stopped none)) else exec .clauseEntry s

/-- The executing arm goes on in its clause: it waits at the header, waits for a pending result, or executes the word at its head,
R169, R170. -/
def goOn (s : State) : Host.Outcome State Fault Refusal :=
  if s.ca.park == some .header then s.resumeHeader
  else if s.interlocked s.headWord then
    (if s.ca.loads.isEmpty then .next s else exec (.loadReplyCommit s.gid s.slot) s)
  else s.runWord s.headWord

/-- A synchronising operation, a merge and the end of the group among them, is not performed before the closes of the group's check
records are acknowledged, R305: it waits while a home that holds some is cut off (R312). -/
def closed (s : State) : Host.Outcome State Fault Refusal → Host.Outcome State Fault Refusal
  | .next t => .next (if s.closesCut t then s else t)
  | o => o

/-- An arm issues, if it can. -/
def issueStep (s : State) (gid slot : Nat) : Host.Outcome State Fault Refusal :=
  if s.canIssue gid slot then
    let s := s.issued gid slot
    s.closed (if s.ca.clause.isNone then s.enterNext else s.goOn)
  else .next s

/-- What one item of the agenda does. -/
def runItem (s : State) : Item → Host.Outcome State Fault Refusal
  | .issue gid slot => s.issueStep gid slot
  | .event i => if isEvent i then exec i s else .next s

/-- Events of the groups' arms that may be due. -/
def armEvents (s : State) : List Instr :=
  s.groups.flatMap fun (p : Nat × Group) => .pendingTrapDelivery p.1 ::
    (if p.2.orphans.isEmpty then [] else [.loadReplyCommit p.1 2]) ++ [0, 1].flatMap fun k =>
    let a := p.2.arm k
    (match a.park, a.chk with
     | some (.check _), none => [.checkPhase p.1 k]
     | some (.check _), some none => [.checkCommit p.1 k]
     | some (.check _), some (some _) => [.checkAbort p.1 k]
     | _, _ => []) ++ (if p.2.chkHomes == 0 then [] else [.checkClose p.1]) ++ (if a.loads.isEmpty then [] else [.loadReplyCommit p.1 k]) ++ (if a.stores == 0 then [] else [.storeAck p.1 k])

/-- Events of the engines and units of the teams. -/
def teamEvents (s : State) : List Instr :=
  s.teams.flatMap fun (p : Nat × Team) =>
    (List.range 5).flatMap (fun q => if (s.queue p.1 q).entries.isEmpty then [] else
      [.copyEntryStart p.1 q, .copyBatchDelivery p.1 q 64 [], .copyEntryComplete p.1 q, .copyEntryFault p.1 q 0]) ++
    [.patternRowStep p.1, .mmaBand p.1, .skeinDeadlockDetect p.1] ++ [0, 1, 3, 5].map fun q => .heldCompletionPost p.1 q

/-- Events of the dies, the fabric, the subscriptions and the hook's own messages. -/
def unitEvents (s : State) : List Instr :=
  s.diesSt.flatMap (fun (p : Nat × DieSt) => p.2.walks.map fun w => .pageWalkComplete p.1 w.1 w.2) ++
  (s.routes.filter fun p => p.2.busy).map (fun (p : Nat × Route) => .routeDrainComplete (p.1 / 32) (p.1 % 32)) ++
  s.subs.flatMap (fun (p : Nat × Subscr) => [.subUpdateForward (s.team p.2.pub).core, .subUpdateApply p.1]) ++
  (if s.hook.sends.any fun c => c.dev == s.self && !c.refused && !c.waiting then [.hookSend .accepted] else []) ++
  (if s.hook.sends.any fun c => c.dev == s.self && c.refused then [.messageRetry s.self .accepted] else []) ++
  (s.hook.pulls.filter fun p => p.msg.self.isSome).map fun p => .rendezvousPullComplete p.id .sourceFault

/-- Scheduling of the cores that hold groups. -/
def coreEvents (s : State) : List Instr :=
  let cores := ((mkeys s.groups).map gidCore).dedup
  (mkeys s.groups).map .swapOut ++ (mkeys s.groups).map .fairnessSwap ++ cores.map .groupAdmission

/-- Cores of a cluster that hold a team of a launch now. -/
def someCores (s : State) (x : Launch) (k : Nat) : List Nat :=
  let r := x.lrec
  (((List.range 128).map fun c => 128 * k + c).filter fun c =>
    !s.forkFirst c && s.coreFits c r.groups (8 * r.base * r.groups) r.skein r.scratch r.bars (r.acc != 0)).take r.unit

/-- Launches: a record is taken, teams are placed, a cluster that could place a team takes teams from elsewhere, a launch completes;
a pre-empted context is saved. -/
def launchEvents (s : State) : List Instr :=
  (List.range 8).map .launchStart ++
  (s.launches.flatMap fun (p : Nat × Launch) =>
    p.2.chunks.map (fun (c : Nat × List (Nat × Nat)) => .teamPlacement p.1 (s.someCores p.2 c.1)) ++
    (if p.2.chunks.all fun c => c.2.isEmpty then [] else
      ((List.range 16).filter fun k => p.2.named.contains (k / 2) && s.canPlace p.1 p.2 (s.someCores p.2 k)).map (.workSteal p.1)) ++
    [.launchComplete p.1]) ++
  (s.ctxs.filter fun p => p.2.preq != 0).map fun (p : Nat × Ctx) => .saveSequence p.1

/-- When a core last issued. -/
def coreLast (s : State) (core : Nat) : Nat :=
  s.groups.foldl (fun m p => if gidCore p.1 == core then max m (max p.2.arm0.lastIssue p.2.arm1.lastIssue) else m) 0

/-- The least element under a key, the first among equals. -/
def leastBy {α : Type} (key : α → Nat) (l : List α) : Option α :=
  l.foldl (fun best x => match best with | none => some x | some b => if key x < key b then some x else best) none

/-- The arm that issues next: of the core that issued least recently, an arm that has waited for long (R199), else one of a handler
group (R197), else any; among these the one that issued least recently, then the lower slot, R198. -/
def nextArm (s : State) : Option (Nat × Nat) :=
  let arms := (mkeys s.groups).flatMap fun g => ([0, 1].filter fun k => s.canIssue g k).map fun k => (g, k)
  let last := fun (x : Nat × Nat) => ((s.grp x.1).arm x.2).lastIssue
  match leastBy s.coreLast (arms.map fun x => gidCore x.1).dedup with
  | none => none
  | some core =>
    let own := arms.filter fun x => gidCore x.1 == core
    let late := own.filter fun x => decide (last x + Config.issueBound < s.tick)
    let hand := own.filter fun x => isHandler (s.grp x.1)
    leastBy last (if !late.isEmpty then late else if !hand.isEmpty then hand else own)

/-- The event changes something. -/
def isDue (s : State) (i : Instr) : Bool := match exec i s with | .next t => decide (t ≠ s) | _ => true

/-- What happens next where the agenda says nothing (log 4): an event of a unit, a core or a launch that is due, else an arm issues. -/
def defaultItem (s : State) : Option Item :=
  match (s.armEvents ++ s.unitEvents ++ s.teamEvents ++ s.coreEvents ++ s.launchEvents).find? s.isDue with
  | some i => some (.event i)
  | none => s.nextArm.map fun x => .issue x.1 x.2

/-- The item that moves next, and the state without it. -/
def takeItem (s : State) : State × Option Item :=
  let s := { s with tick := s.tick + 1 }
  match s.agenda with
  | x :: rest => ({ s with agenda := rest }, some x)
  | [] => (s, s.defaultItem)

/-- A next state with what follows every step (R449, R452, R485). -/
def finish (s : State) : Host.Outcome State Fault Refusal → Host.Outcome State Fault Refusal
  | .next t => .next (s.after t)
  | o => o

end State

end Sys2Proof.Machine
end

