-- ==== Sys2Proof/Machine/Step.lean ====
section
/-! DEFINITION. One step of the device: the next item of the agenda, or of the default order, takes place. -/

namespace Sys2Proof.Machine

/-- One step. -/
def step (s : State) : Host.Outcome State Fault Refusal :=
  match s.takeItem with
  | (t, none) => .next t
  | (t, some x) => t.finish (t.runItem x)

/-- `s` with the instruction of the table's bits `w` where the next step takes its instruction (log 5); every instruction is one
64-bit word, so `nbits` says nothing more. -/
def State.withFetchWord (s : State) (_nbits w : Nat) : State := s.withWord (BitVec.ofNat 64 w)

end Sys2Proof.Machine
end

