-- ==== Sys2Proof/Safety.lean ====
section
/-! DEFINITION. What counts as a safe state, and the terms in which statements say what an instruction does: when its checks
pass, what it leaves unchanged, and the value of a lane. -/

namespace Sys2Proof.Safety

open Sys2Proof.Machine

/-- Memory and host memory are in canonical form. -/
abbrev MemoryCanonical (s : State) : Prop := Memory.wf s.mem = true ∧ Memory.wf s.hostMem = true

/-- A step does not stop the model. -/
def Runs (s : State) : Prop := ∃ t, step s = .next t

/-- The checks before an effect pass (R62, R64, R131, R500): the guard holds no poison, every register named (first number and
count) is mapped, and no register that the instruction reads holds poison. -/
abbrev Passes (s : State) (g : Guard) (regs : List (Nat × Nat)) (reads : List Rd) : Prop :=
  s.rdTrap (.p g.ps.toNat s.armMask) = none ∧ (∀ r ∈ regs, r.1 + r.2 ≤ s.cg.window) ∧ ∀ r ∈ reads, s.rdTrap r = none

/-- An instruction that acts once for the arm acts when its guard leaves it a lane (R62). -/
abbrev Acts (s : State) (g : Guard) : Prop := s.active g ≠ 0

/-- The guard, which holds no poison, leaves an arm that waits for nothing without a lane (R62). -/
abbrev NoLane (s : State) (g : Guard) : Prop :=
  s.rdTrap (.p g.ps.toNat s.armMask) = none ∧ s.active g = 0 ∧ s.ca.park = none

/-- Lane `l` is one that the instruction writes: active and present (R62, R93). -/
abbrev Writes (s : State) (g : Guard) (l : Nat) : Prop := bit (s.active g &&& s.cg.present) l = true

/-- Registers that an instruction may write: lanes of vector registers, lanes of predicates, scalars, the xorshift states. -/
structure Dest where
  v : Nat → Nat → Bool := fun _ _ => false
  p : Nat → Nat → Bool := fun _ _ => false
  s : Nat → Bool := fun _ => false
  xs : Bool := false

/-- The arm but for where it stands: its pc, its clause, the transfer that brought it there, whether it stands at a yield point or
after a dissolved frame, and what it waited for, with what has come of it so far. -/
def SameArm (a b : Arm) : Prop :=
  { b with pc := a.pc, clause := a.clause, xfer := a.xfer, park := a.park, walkFaults := a.walkFaults, chk := a.chk,
           chkVals := a.chkVals, asks := a.asks, answers := a.answers, bw := a.bw, yielded := a.yielded, scal := a.scal, spois := a.spois } = a

/-- From `s` to `t` nothing changes but the executing arm, and of it no scalar: all of memory, every unit, every other group, the
group's registers, predicates, s0-s31, poison marks and xorshift states, and its other arm are as they were. -/
def ArmOnly (s t : State) : Prop :=
  { t with groups := s.groups } = s ∧ (∀ k, k ≠ s.gid → t.grp k = s.grp k) ∧ t.cg = s.cg.setArm s.slot t.ca ∧
    t.ca.scal = s.ca.scal ∧ t.ca.spois = s.ca.spois

/-- From `s` to `t` nothing changes but the executing arm's place and the destinations: every byte of memory reads as before,
every unit, team, accumulator, special register and exception register is the same, and so is every other register, with its
poison marks (the model's record of the values written into skein chunks, log 9, set aside). -/
def OnlyWrites (s t : State) (d : Dest) : Prop :=
  { t with groups := s.groups } = s ∧ (∀ a, mget 0 t.mem a = mget 0 s.mem a) ∧ (∀ k, k ≠ s.gid → t.grp k = s.grp k) ∧
    { t.cg with vregs := s.cg.vregs, vpois := s.cg.vpois, preds := s.cg.preds, ppois := s.cg.ppois, scal := s.cg.scal,
                spois := s.cg.spois, xs := s.cg.xs, skeinVals := s.cg.skeinVals, arm0 := s.cg.arm0, arm1 := s.cg.arm1 } = s.cg ∧
    (d.xs = false → t.cg.xs = s.cg.xs) ∧ (s.slot ≤ 1 → t.cg.arm (1 - s.slot) = s.cg.arm (1 - s.slot)) ∧ SameArm s.ca t.ca ∧
    (∀ r l, d.v r l = false → t.cg.vlane r l = s.cg.vlane r l ∧ bit (t.cg.vpoison r) l = bit (s.cg.vpoison r) l) ∧
    (∀ p l, d.p p l = false → bit (t.cg.pred p) l = bit (s.cg.pred p) l ∧ bit (t.cg.ppoison p) l = bit (s.cg.ppoison p) l) ∧
    ∀ n, n < 64 → d.s n = false → t.sreg n = s.sreg n ∧ t.cg.spoison t.slot n = s.cg.spoison s.slot n

/-- The value of a register, or of the even pair from it, in one lane. -/
def laneVal (g : Group) (wide : Bool) (r l : Nat) : Nat := if wide then (g.vlane64 r l).toNat else (g.vlane r l).toNat

/-- The lanes of the destination register, or pair. -/
def vDest (d : Nat) (wide : Bool) (m : BitVec 32) : Dest := { v := fun r l => (r == d || (wide && r == d + 1)) && bit m l }

/-- `t` is `s` after an instruction that writes `d` in the active lanes: the value of each lane written satisfies `R` and is
clean, and nothing else changes. -/
def WroteV (s t : State) (g : Guard) (d : Nat) (wide xs : Bool) (R : Nat → Nat → Prop) : Prop :=
  OnlyWrites s t { vDest d wide (s.active g) with xs := xs } ∧
    ∀ l, Writes s g l → R l (laneVal t.cg wide d l) ∧ bit (t.cg.vpoison d) l = false ∧
      (wide = true → bit (t.cg.vpoison (d + 1)) l = false)

/-- The registers that sources name, and the reads that must not meet poison. -/
def srcRegs (srcs : List (Src × Bool)) : List (Nat × Nat) := srcs.flatMap fun x => x.1.regs x.2
def srcReads (m : BitVec 32) (srcs : List (Src × Bool)) : List Rd := srcs.flatMap fun x => x.1.reads x.2 m

/-- A per-lane instruction on its sources completes, for every well-formed form: each active lane's result satisfies `R`. -/
def PerLane (mk : VF → Instr) (wide : VF → Bool) (srcs : VF → List (Src × Bool)) (R : State → VF → Nat → Nat → Prop) : Prop :=
  ∀ s f, (mk f).wf = true →
    Passes s f.g ((f.d.toNat, if wide f then 2 else 1) :: srcRegs (srcs f)) (srcReads (s.active f.g) (srcs f)) →
    ∃ t, exec (mk f) s = .next t ∧ WroteV s t f.g f.d.toNat (wide f) false (R s f)

/-- A per-lane instruction that writes a predicate completes: the bit of each active lane is `R`. -/
def PerLaneP (s t : State) (g : Guard) (d : Nat) (R : Nat → Bool) : Prop :=
  OnlyWrites s t { p := fun p l => p == d && bit (s.active g) l } ∧
    ∀ l, l < 32 → bit (s.active g) l = true → d ≠ 0 → bit (t.cg.pred d) l = R l ∧ bit (t.cg.ppoison d) l = false

/-- `t` is `s` after an instruction that writes scalar `d` with `x`, clean. -/
def WroteS (s t : State) (d : Nat) (x : Word) : Prop :=
  OnlyWrites s t { s := fun n => n == d } ∧ t.sreg d = x ∧ t.cg.spoison t.slot d = false

end Sys2Proof.Safety

namespace Sys2Proof.Safety

open Sys2Proof.Machine

/-- Element `k` of each source in lane `l` as a number of the type, with the modifiers of R66. -/
def aElem (s : State) (f : VF) (l k : Nat) : Int := absNeg f.ty f.xa f.na (elemInt f.ty k (s.raw f.ty l f.a))
def bElem (s : State) (f : VF) (l k : Nat) : Int := absNeg f.ty f.xb f.nb (elemInt f.ty k (s.raw f.ty l f.b))
def cElem (s : State) (f : VF) (l k : Nat) : Int := elemInt f.ty k (s.raw f.ty l f.c)

/-- Every element of `r` is the exact value `e`, wrapped to the type or, under SAT, clamped to its range (R96, R135). -/
def IntResult (f : VF) (e : Nat → Int) (r : Nat) : Prop :=
  ∀ k, k < f.ty.elems → elemAt f.ty.width k r = lowBits f.ty.width (if f.sat then clampInt f.ty (e k) else e k)

/-- The sources A and B, or A, B and C, at the type's own width. -/
def srcAB (f : VF) : List (Src × Bool) := [(f.a, f.ty.is64), (f.b, f.ty.is64)]
def srcABC (f : VF) : List (Src × Bool) := [(f.a, f.ty.is64), (f.b, f.ty.is64), (f.c, f.ty.is64)]

/-- The type's lane is 64 bits wide. -/
def wideTy (f : VF) : Bool := f.ty.is64

/-- The lane's xorshift state after `n` roundings under SR; under any other mode it does not move (R109, R110). -/
def srState (s : State) (c : FCtl) (l n : Nat) : BitVec 32 :=
  if c.mode = 5 then xorshift^[n] (s.cg.xs.getD l 0) else s.cg.xs.getD l 0

/-- Every element of `r` is the exact value `v`, rounded once to the type's format (R93, R106-R108). -/
def FpResult (s : State) (f : VF) (c : FCtl) (l : Nat) (v : Nat → Fp) (r : Nat) : Prop :=
  ∀ k, k < f.ty.elems → elemAt f.ty.width k r =
    (roundTo (fmtOf f.ty) c.mode c.ftz c.satf (srState s c l (k + 1)).toNat (v k)).1

/-- The sources of a floating-point instruction. -/
def fAB (f : VF) : List (Src × Bool) := [(f.a, false), (f.b, false)]
def fABC (f : VF) : List (Src × Bool) := [(f.a, false), (f.b, false), (f.c, false)]

/-- Element `k` of each source in lane `l`, with FTZI and the sign modifiers (R66, R104). -/
def aFp (s : State) (f : VF) (c : FCtl) (l k : Nat) : Fp := fpElem c f.ty f.xa f.na k (s.raw f.ty l f.a)
def bFp (s : State) (f : VF) (c : FCtl) (l k : Nat) : Fp := fpElem c f.ty f.xb f.nb k (s.raw f.ty l f.b)
def cFp (s : State) (f : VF) (c : FCtl) (l k : Nat) : Fp := fpElem c f.ty false false k (s.raw f.ty l f.c)

/-- What an instruction that may round is given: its checks pass, and its rounding mode is usable (R68, R123). -/
abbrev FpReady (s : State) (f : VF) (rounds : Bool) (wide : Bool) (srcs : List (Src × Bool)) (own : List Rd) (mode : Nat) : Prop :=
  Passes s f.g ((f.d.toNat, if wide then 2 else 1) :: srcRegs srcs) (srcReads (s.active f.g) srcs ++ own) ∧
    (if rounds then s.roundMode f.rm = .ok mode else mode = 0)

/-- Under SR the xorshift state of each active lane has stepped once for each of `n` values rounded; no other lane's state has moved,
and under any other mode none (R109, R110). -/
def Stepped (s t : State) (g : Guard) (c : FCtl) (n : Nat → Nat) : Prop :=
  ∀ l, l < 32 → t.cg.xs.getD l 0 = if bit (s.active g) l then srState s c l (n l) else s.cg.xs.getD l 0

/-- A floating-point instruction with no exception enabled (FEN = 0) completes in every form: each active lane's result satisfies `R`, its
xorshift state steps for `n` values rounded, and only the destination and these states change. -/
def FpCompletes (mk : VF → Instr) (rounds : Bool) (n : VF → Nat) (wide : VF → Bool) (srcs : VF → List (Src × Bool))
    (own : VF → BitVec 32 → List Rd) (R : State → VF → FCtl → Nat → Nat → Prop) : Prop :=
  ∀ s f mode, (mk f).wf = true → FpReady s f rounds (wide f) (srcs f) (own f (s.active f.g)) mode → (s.fctl mode).fen = 0 →
    ∃ t, exec (mk f) s = .next t ∧ WroteV s t f.g f.d.toNat (wide f) true (R s f (s.fctl mode)) ∧ Stepped s t f.g (s.fctl mode) fun _ => n f

/-- The flags of a lane: those that the operation raises for each element with its exact value, and those of the value's rounding
(R102, R103, R105). -/
def elemFlags (s : State) (f : VF) (c : FCtl) (l : Nat) (op : Nat → Fp × FFlags) : FFlags :=
  (List.range f.ty.elems).foldl (fun fl k => fl ||| (op k).2 |||
    (roundTo (fmtOf f.ty) c.mode c.ftz c.satf (srState s c l (k + 1)).toNat (op k).1).2) 0

/-- The flags that fdot2 raises in a lane, R153: of its two products, of their sum with C, and of the rounding to f32. -/
def dotFlags (s : State) (f : VF) (c : FCtl) (l : Nat) : FFlags :=
  let p := fun k => mulFp (fpElem c f.ty false f.na k (s.raw f.ty l f.a)) (fpElem c f.ty false f.nb k (s.raw f.ty l f.b))
  let v := sumFp (c.mode == 2) [(p 0).1, (p 1).1, unpackF fmtF32 c.ftzi (s.raw .f32 l f.c)]
  (p 0).2 ||| (p 1).2 ||| v.2 ||| (roundTo fmtF32 c.mode c.ftz c.satf (srState s c l 1).toNat v.1).2

/-- With exceptions enabled, it takes FP_EXC exactly where some active lane's flags meet FEN: for the lowest such lane, with that lane's
flags in TRAPX and nothing written; otherwise it writes its destination (R92, R105, R439). -/
def FpTrapsOrWrites (mk : VF → Instr) (rounds wide : VF → Bool) (srcs : VF → List (Src × Bool))
    (own : VF → BitVec 32 → List Rd) (flags : State → VF → FCtl → Nat → FFlags) : Prop :=
  ∀ s f mode, (mk f).wf = true → FpReady s f (rounds f) (wide f) (srcs f) (own f (s.active f.g)) mode →
    let raises := fun l => bit (s.active f.g) l = true ∧ flags s f (s.fctl mode) l &&& (s.fctl mode).fen ≠ 0
    (∀ l, raises l → (∀ j, j < l → ¬ raises j) →
      exec (mk f) s = .next (s.takeTrap ⟨57, 0, BitVec.ofNat 64 (l + 32 * flags s f (s.fctl mode) l)⟩)) ∧
    ((∀ l, ¬ raises l) → ∃ t, exec (mk f) s = .next t ∧ WroteV s t f.g f.d.toNat (wide f) true fun _ _ => True)

/-- The sources of cvt: A, and B where the destination has more elements than the source (R152). -/
def cvtSrc (f : VF) : Ty := (Ty.ofCode (f.sub.toNat % 16)).getD .b32
def cvtSrcs (f : VF) : List (Src × Bool) :=
  (f.a, (cvtSrc f).is64) :: if (cvtSrc f).elems < f.ty.elems then [(f.b, (cvtSrc f).is64)] else []
def cvtOwn (f : VF) (m : BitVec 32) : List Rd := if f.ty.elems = 4 * (cvtSrc f).elems then [.v f.d.toNat 1 m] else []
def cvtRounds (f : VF) : Bool := f.ty.isFloat || (cvtSrc f).isFloat

/-- Where element `k` of its result comes from (B or A, and the element of it), and how many elements before it are converted. -/
def cvtAt (f : VF) (k : Nat) : Option (Bool × Nat) :=
  cvtFrom f.ty.elems (cvtSrc f).elems (match f.b with | .imm k => k.toNat - 32 | _ => 0) (bit f.sub 4) k
def cvtDone (f : VF) (k : Nat) : Nat := ((List.range k).filter fun j => (cvtAt f j).isSome).length

/-- Element `k` of lane `l` that cvt converts from element `j` of B or A: its value and its flags (R117-R121). -/
def cvtOne (s : State) (f : VF) (c : FCtl) (l k : Nat) (x : Bool × Nat) : Nat × FFlags :=
  let y := cvtElem c f.sat f.ty (cvtSrc f) (elemAt (cvtSrc f).width x.2 (s.raw (cvtSrc f) l (if x.1 then f.b else f.a))) (srState s c l (cvtDone f k))
  (y.1, y.2.1)

/-- The flags that cvt raises in a lane. -/
def cvtFlags (s : State) (f : VF) (c : FCtl) (l : Nat) : FFlags :=
  (List.range f.ty.elems).foldl (fun fl k => fl ||| ((cvtAt f k).map fun x => (cvtOne s f c l k x).2).getD 0) 0

/-- The order of f32 encodings in which fmin and fmax choose: by value, with -0 below +0 (R147). -/
def f32Key (x : Nat) : Int := 2 * orderKey fmtF32 x - (x / 2 ^ 31 % 2 : Nat)

/-- What the transcendental unit delivers in a lane, and its flags (R129, R150, R151). -/
def transOut (opc : BitVec 8) (ulps : Nat) (op : Fp → TRes) (s : State) (f : VF) (c : FCtl) (l : Nat) : Nat × FFlags :=
  let x := flushIn fmtF32 c.ftzi (signMod fmtF32 f.xa f.na (s.raw .f32 l f.a))
  deliverT ulps c (Config.transPick opc (BitVec.ofNat 32 x) c.ftz c.ftzi) (op (unpackF fmtF32 false x))

/-- The contributors of gred (every one) and gscan that count for lane `l` (R158). -/
def members (s : State) (f : VF) (scan : Bool) (l : Nat) : List Nat :=
  (List.range 32).filter fun j => bit (s.teamOnly (s.active f.g)) j && (!scan || if bit f.sub 4 then decide (j < l) else decide (j ≤ l))

/-- The condition of a branch holds, R185. -/
abbrev Cond (s : State) (f : BF) : Prop :=
  f.ck = .always ∨ (f.ck = .nonzero ∧ s.sreg f.cs.toNat ≠ 0) ∨ (f.ck = .zero ∧ s.sreg f.cs.toNat = 0)

/-- The arm is at `pc`, between clauses, brought there by a transfer at the executing instruction's address (R185). -/
def At (s t : State) (pc : Word) : Prop := t.ca.clause = none ∧ t.ca.pc = pc ∧ t.ca.xfer = s.ipc

/-- The arm goes on behind the executing instruction (R55). -/
def GoesOn (s t : State) : Prop :=
  t.ca.clause = s.ca.advance.clause ∧ t.ca.pc = s.ca.advance.pc ∧ t.ca.park = none

/-- The executing arm goes on behind the instruction, and nothing else of any group changes. -/
def Advances (s t : State) : Prop :=
  (∀ k, k ≠ s.gid → t.grp k = s.grp k) ∧ t.cg = s.cg.setArm s.slot t.ca ∧ t.ca.scal = s.ca.scal ∧ t.ca.spois = s.ca.spois ∧
    SameArm s.ca t.ca ∧ GoesOn s t

/-- The per-lane instructions of rows 0x0 to 0x2 with two or three sources, with what they read. -/
def laneKinds : List ((VF → Instr) × (VF → Bool) × (VF → List (Src × Bool))) :=
  [(.iadd, wideTy, srcAB), (.isub, wideTy, srcAB), (.imul, wideTy, srcAB), (.imulhi, wideTy, srcAB), (.imin, wideTy, srcAB),
   (.imax, wideTy, srcAB), (.imad, wideTy, srcABC), (.vand, wideTy, srcAB), (.vor, wideTy, srcAB), (.vxor, wideTy, srcAB),
   (.blut, wideTy, srcABC), (.ishadd, wideTy, srcAB), (.fadd, fun _ => false, fAB), (.fsub, fun _ => false, fAB),
   (.fmul, fun _ => false, fAB), (.fma, fun _ => false, fABC), (.fmin, fun _ => false, fAB), (.fmax, fun _ => false, fAB)]

end Sys2Proof.Safety

namespace Sys2Proof.Safety

open Sys2Proof.Machine

/-- Values of `n` bytes are stored at their addresses in order: where they meet the later one stays, and no other byte changes. -/
def StoredTo (n : Nat) (ws : List (Nat × List Byte)) (m m' : SMap Byte) : Prop :=
  (∀ a, (∀ w ∈ ws, ¬ (w.1 ≤ a ∧ a < w.1 + n)) → mget 0 m' a = mget 0 m a) ∧
  ∀ (i : Nat) (w : Nat × List Byte), ws[i]? = some w → ∀ k, k < n →
    (∀ (j : Nat) (w' : Nat × List Byte), i < j → ws[j]? = some w' → ¬ (w'.1 ≤ w.1 + k ∧ w.1 + k < w'.1 + n)) → mget 0 m' (w.1 + k) = w.2.getD k 0

/-- The bytes of the same stores take the mark of the data of the last one that covers them, R500, and no other mark changes. -/
def MarkedBy (n : Nat) (ws : List (Nat × Bool)) (m m' : SMap Bool) : Prop :=
  (∀ a, (∀ w ∈ ws, ¬ (w.1 ≤ a ∧ a < w.1 + n)) → mget false m' a = mget false m a) ∧
  ∀ (i : Nat) (w : Nat × Bool), ws[i]? = some w → ∀ k, k < n →
    (∀ (j : Nat) (w' : Nat × Bool), i < j → ws[j]? = some w' → ¬ (w'.1 ≤ w.1 + k ∧ w.1 + k < w'.1 + n)) → mget false m' (w.1 + k) = w.2

/-- The masked bytes of a sector are written, and no other byte changes (R300). -/
def SectorWritten (sect : Nat) (mask : BitVec 64) (data : List Byte) (m m' : SMap Byte) : Prop :=
  (∀ a, ¬ (sect * 64 ≤ a ∧ a < sect * 64 + 64) → mget 0 m' a = mget 0 m a) ∧
  ∀ k, k < 64 → mget 0 m' (sect * 64 + k) = if bit mask k then data.getD k 0 else mget 0 m (sect * 64 + k)

/-- A sector whose home serves it without a recall: no copy of its line is recorded, and its line is in the memory-side cache or can enter
it in the place of one without copies (R296-R299). -/
abbrev Quiet (s : State) (sect : Nat) : Prop :=
  s.dirEnt sect = {} ∧ s.hasCopies (sect / 4) = false ∧ s.homeRoom (sect / 4) = true

/-- A translated address of device memory that is cached in no die, at a quiet home (R268, R294). -/
abbrev AtHome (s : State) (t : Tr) : Prop :=
  t.uncached = true ∧ t.host = false ∧ t.hole = false ∧ Quiet s (t.pa / 64)

/-- Every register of the executing group and arm is the same, and so are its masks and FMT. -/
def SameRegs (s t : State) : Prop :=
  t.cg.vregs = s.cg.vregs ∧ t.cg.vpois = s.cg.vpois ∧ t.cg.preds = s.cg.preds ∧ t.cg.ppois = s.cg.ppois ∧ t.cg.scal = s.cg.scal ∧
    t.cg.spois = s.cg.spois ∧ t.cg.xs = s.cg.xs ∧ t.ca.scal = s.ca.scal ∧ t.ca.spois = s.ca.spois ∧ t.ca.mask = s.ca.mask ∧
    t.ca.fmt = s.ca.fmt

/-- The state after the release actions of an order (R276), and after the uses of translations (R234, R237). -/
def released (s : State) (o : Order) (sc : Scope) : State := if o.isRel then s.releaseAct sc.code else s
def used (s : State) (k : XKind) (trs : List (Nat × Tr × TlbEntry)) : State :=
  trs.foldl (fun s r => s.useEntry s.ccore k r.2.2) s

/-- Lanes and translations of a probe. -/
def lanesOf (trs : List (Nat × Tr × TlbEntry)) : List (Nat × Tr) := trs.map fun r => (r.1, r.2.1)

/-- The state in which a global access is performed: its translations are used, and the homes that it asks have accounted its
sectors to the partition (R480). -/
def asked (s : State) (i : Instr) (trs : List (Nat × Tr × TlbEntry)) : State :=
  let v := used s (accessOf i).2.1 trs
  v.chargeHomes v.cdie v.cctx.part (v.memNeeds i (lanesOf trs))

/-- A global access passes its probe with the translations `trs` (R240, R233, R449), and may be performed now: the homes that it needs
can serve it (R312, R480), none of it is race-checked (R302), and the counters have room (R171). -/
abbrev Accesses (s : State) (i : Instr) (lanes : List Lane) (trs : List (Nat × Tr × TlbEntry)) : Prop :=
  let k := (accessOf i).2.1
  let n := (accessOf i).1
  alignTrap k n lanes = none ∧ s.probe s.ccore s.cg.ctx (!s.ca.handler) k lanes = .ok trs ∧ s.watchTrap k n lanes = none ∧
    s.armWaits (bitsNeeds k (trs.map fun r => r.2.2)) = false ∧ (used s k trs).blocked i (lanesOf trs) = false ∧
    (∀ r ∈ trs, r.2.1.checked = false) ∧ s.ca.loads.length < 63 ∧ s.ca.stores < 63

/-- Everything outside the memory hierarchy and the groups: what an access to global memory leaves as it is (caches, homes, their
directory, logs and allowances set aside). Where an injection register has been written, so is what an injected error brings: the logs,
the reports to the host and the spares (R461, R495-R497). -/
def outside (s : State) : State :=
  let u := { s with mem := [], psn := [], dir := [], dirty := [], mlines := [], checks := [], hits := [], hostMem := [], hostLog := {}, cores := [],
                    diesSt := [], used := [], freeCtr := 0, groups := [] }
  if s.dev.injctl = [] then u
  else { u with dev := { s.dev with logs := [], injctl := [] }, host := {}, msix := [], events := [], retiring := [], rowErrs := [],
                spareRows := [] }

/-- No error injection has been set up, R461. -/
abbrev NoInjection (s : State) : Prop := s.dev.injctl = []

/-- From `s` to `t` no register, predicate, mask, status, exception register or anything else of a group changes but the executing arm's
place, its counts of loads and stores, and the homes that keep check records of the group (R171, R305). -/
def OnlyCounts (s t : State) : Prop :=
  (∀ k, k ≠ s.gid → t.grp k = s.grp k) ∧
    { t.cg with arm0 := s.cg.arm0, arm1 := s.cg.arm1, chkHomes := s.cg.chkHomes } = s.cg ∧
    (s.slot ≤ 1 → t.cg.arm (1 - s.slot) = s.cg.arm (1 - s.slot)) ∧ t.ca.scal = s.ca.scal ∧ t.ca.spois = s.ca.spois ∧
    SameArm { s.ca with loads := t.ca.loads, stores := t.ca.stores } t.ca

/-- The table of a team-call, read through the core's L1 by the translations of its two sectors, R211: the state after, the bytes, and
whether one is poisoned. -/
def tableOf (s : State) (trs : List (Nat × Tr × TlbEntry)) : State × List Byte × Bool :=
  trs.foldl (fun acc r =>
    let x := acc.1.gread acc.1.ccore acc.1.cg.ctx r.2.1 64
    (x.1, acc.2.1 ++ x.2.1, acc.2.2 || x.2.2)) (used s .read trs, [], false)

/-- A scratchpad access passes its probe with the teams and offsets of its lanes (R240, R244), and the counters have room. -/
abbrev SpAccesses (s : State) (window : Bool) (k : XKind) (n : Nat) (lanes : List Lane) (tid off : Nat → Nat) : Prop :=
  (∀ l ∈ lanes, l.2.toNat % n = 0 ∧ s.spLoc window l.2 = .at (tid l.1) (off l.1)) ∧ s.watchTrap k n lanes = none ∧
    s.ca.loads.length < 63 ∧ s.ca.stores < 63

/-- A descriptor of `n` bytes stands where a scalar says, aligned, in the scratchpad and clean (R359, R380). -/
abbrev DescAt (s : State) (reg n al : Nat) (d : List Byte) : Prop :=
  (s.sreg reg).toNat % al = 0 ∧ (s.sreg reg).toNat + n ≤ s.cteam.scratch ∧ s.spRead s.cg.tid (s.sreg reg).toNat n = (d, false)

/-- The guard that is true in every lane (R62), and the V-format fields of a word that is zero but for its opcode. -/
def noGuard : Guard := ⟨false, 0⟩
def plainV : VF :=
  { g := noGuard, d := 0, a := .v 0, b := .v 0, c := .v 0, ty := .b32, rm := .rne, sat := false, na := false, nb := false, xa := false,
    xb := false, sub := 0 }

/-- No other side of the arm's group is at handler level, R436: neither the other arm, nor a side that is spilled or waits at a frame. -/
abbrev NoOtherHandler (g : Group) (slot : Nat) : Prop :=
  ¬ ((g.arm (1 - slot)).live = true ∧ (g.arm (1 - slot)).handler = true) ∧
    ∀ p ∈ g.frames, ∀ f ∈ p.2, ¬ (f.sphandler = true ∧ f.spmask ≠ 0) ∧ ∀ w ∈ f.waiting, w.handler = false

/-- An arm at user level whose group traps into a handler: not ended, not held pending (R435-R438). -/
abbrev TakesHandler (s : State) (gid slot : Nat) : Prop :=
  slot ≤ 1 ∧ ((s.grp gid).arm slot).handler = false ∧ s.hvec gid ≠ 0 ∧ NoOtherHandler (s.grp gid) slot

/-- The arm has entered its handler with this trap (R435). -/
def InHandler (s t : State) (gid slot : Nat) (x : TrapInfo) : Prop :=
  let b := (t.grp gid).arm slot
  b.handler = true ∧ b.pc = s.hvec gid ∧ b.trapc = x.cause ∧ b.trapad = x.ad ∧ b.trapx = x.x

end Sys2Proof.Safety
end

