-- ==== Sys2Proof/Certificates/Slice0/Obligations.lean ====
section
/-! DEFINITION. The statements for the provers. Each says which rules of spec/ it formalises; OBLIGATIONS.json quotes them. -/

open Sys2Proof Sys2Proof.Machine Sys2Proof.Safety

/-! ### Integers, logic, shifts (rows 0x0 and 0x1) -/

/-- iadd, isub, imul, imulhi, imin, imax, imad and iabs complete in every form and write each element's exact result, wrapped or
saturated, R135, R96. -/
def Obligations.IntegerArithmeticCompletes : Prop :=
  PerLane .iadd wideTy srcAB (fun s f l r => IntResult f (fun k => aElem s f l k + bElem s f l k) r) ∧
  PerLane .isub wideTy srcAB (fun s f l r => IntResult f (fun k => aElem s f l k - bElem s f l k) r) ∧
  PerLane .imul wideTy srcAB (fun s f l r => IntResult f (fun k => aElem s f l k * bElem s f l k) r) ∧
  PerLane .imulhi wideTy srcAB (fun s f l r =>
    IntResult f (fun k => (aElem s f l k * bElem s f l k) / (2 ^ f.ty.width : Nat)) r) ∧
  PerLane .imin wideTy srcAB (fun s f l r => IntResult f (fun k => min (aElem s f l k) (bElem s f l k)) r) ∧
  PerLane .imax wideTy srcAB (fun s f l r => IntResult f (fun k => max (aElem s f l k) (bElem s f l k)) r) ∧
  PerLane .imad wideTy srcABC (fun s f l r => IntResult f (fun k => aElem s f l k * bElem s f l k + cElem s f l k) r) ∧
  PerLane .iabs wideTy (fun f => [(f.a, f.ty.is64)]) (fun s f l r =>
    IntResult f (fun k => ((elemInt f.ty k (s.raw f.ty l f.a)).natAbs : Int)) r)

/-- A 32-bit iadd without modifiers is the sum modulo 2^32 (R96, R135), and a 64-bit one the sum of the pairs modulo 2^64 (R64). -/
def Obligations.IntegerAddWraps : Prop :=
  (∀ s (f : VF), (Instr.iadd f).wf = true → (f.ty = .i32 ∨ f.ty = .n32) → f.sat = false → f.noSign = true →
    Passes s f.g ((f.d.toNat, 1) :: srcRegs [(f.a, false), (f.b, false)]) (srcReads (s.active f.g) [(f.a, false), (f.b, false)]) →
    ∃ t, exec (.iadd f) s = .next t ∧ ∀ l, Writes s f.g l →
      t.cg.vlane f.d.toNat l = BitVec.ofNat 32 (s.raw f.ty l f.a) + BitVec.ofNat 32 (s.raw f.ty l f.b)) ∧
  (∀ s (f : VF), (Instr.iadd f).wf = true → (f.ty = .i64 ∨ f.ty = .n64) → f.sat = false → f.noSign = true →
    Passes s f.g ((f.d.toNat, 2) :: srcRegs [(f.a, true), (f.b, true)]) (srcReads (s.active f.g) [(f.a, true), (f.b, true)]) →
    ∃ t, exec (.iadd f) s = .next t ∧ ∀ l, Writes s f.g l →
      t.cg.vlane64 f.d.toNat l = BitVec.ofNat 64 (s.raw f.ty l f.a) + BitVec.ofNat 64 (s.raw f.ty l f.b))

/-- and, or, xor and blut complete: every bit of the result is the function of the sources' bits at its place, R136, R137. shl, shr,
sar and funnel complete; a count of the width or more leaves zeros, or copies of the sign, R138, R139. The first three accept no
modifiers and a SUB of 0 only, and funnel TY b32. -/
def Obligations.LogicAndShiftsComplete : Prop :=
  let src := fun (f : VF) => [(f.a, f.ty.is64), (f.b, false)]
  PerLane .vand wideTy srcAB (fun s f l r =>
    ∀ i, i < f.ty.width → r.testBit i = ((s.raw f.ty l f.a).testBit i && (s.raw f.ty l f.b).testBit i)) ∧
  PerLane .vor wideTy srcAB (fun s f l r =>
    ∀ i, i < f.ty.width → r.testBit i = ((s.raw f.ty l f.a).testBit i || (s.raw f.ty l f.b).testBit i)) ∧
  PerLane .vxor wideTy srcAB (fun s f l r =>
    ∀ i, i < f.ty.width → r.testBit i = ((s.raw f.ty l f.a).testBit i ^^ (s.raw f.ty l f.b).testBit i)) ∧
  PerLane .blut wideTy srcABC (fun s f l r =>
    ∀ i, i < f.ty.width → r.testBit i = (blutTable f).testBit
      (boolCode ((s.raw f.ty l f.a).testBit i) + 2 * boolCode ((s.raw f.ty l f.b).testBit i) +
        4 * boolCode ((s.raw f.ty l f.c).testBit i))) ∧
  PerLane .shl wideTy src (fun s f l r => ∀ k, k < f.ty.elems → ∀ i, i < f.ty.width →
    (elemAt f.ty.width k r).testBit i =
      (decide (s.shiftCount f l k ≤ i) && (elemAt f.ty.width k (s.raw f.ty l f.a)).testBit (i - s.shiftCount f l k))) ∧
  PerLane .shr wideTy src (fun s f l r => ∀ k, k < f.ty.elems → ∀ i, i < f.ty.width →
    (elemAt f.ty.width k r).testBit i = (elemAt f.ty.width k (s.raw f.ty l f.a)).testBit (i + s.shiftCount f l k)) ∧
  PerLane .sar wideTy src (fun s f l r => ∀ k, k < f.ty.elems → ∀ i, i < f.ty.width →
    (elemAt f.ty.width k r).testBit i =
      (elemAt f.ty.width k (s.raw f.ty l f.a)).testBit (min (i + s.shiftCount f l k) (f.ty.width - 1))) ∧
  PerLane .funnel (fun _ => false) (fun f => [(f.a, false), (f.b, false), (f.c, false)]) (fun s f l r =>
    let x : BitVec 64 := BitVec.ofNat 32 (s.raw .b32 l f.b) ++ BitVec.ofNat 32 (s.raw .b32 l f.a)
    let n := s.raw .n32 l f.c % 32
    r = if bit f.sub 0 then ((x <<< n) >>> 32).toNat % 2 ^ 32 else (x >>> n).toNat % 2 ^ 32) ∧
  (∀ f : VF, (Instr.vand f).wf = true ∨ (Instr.vor f).wf = true ∨ (Instr.vxor f).wf = true →
    (f.ty = .b32 ∨ f.ty = .b64) ∧ f.sub = 0 ∧ f.noSign = true ∧ f.sat = false ∧ f.rm = .rne) ∧
  (∀ f : VF, (Instr.funnel f).wf = true → f.ty = .b32 ∧ f.sub.toNat < 2)

/-- popc, clz, brev, bfe, bfi, bytesel and ishadd complete, R140, R141, R145: bfe takes LEN bits from POS, reading the sign above the
width under a signed type; bfi puts LEN bits of A at POS into C; each byte of bytesel comes from the eight bytes of B:A. -/
def Obligations.BitOperationsComplete : Prop :=
  let src := fun (f : VF) => [(f.a, f.ty.is64)]
  PerLane .popc wideTy src (fun s f l r => r = (List.range f.ty.width).countP fun i => (s.raw f.ty l f.a).testBit i) ∧
  PerLane .clz wideTy src (fun s f l r => r ≤ f.ty.width ∧ s.raw f.ty l f.a < 2 ^ (f.ty.width - r) ∧
    (r < f.ty.width → 2 ^ (f.ty.width - r - 1) ≤ s.raw f.ty l f.a)) ∧
  PerLane .brev wideTy src (fun s f l r =>
    ∀ i, i < f.ty.width → r.testBit i = (s.raw f.ty l f.a).testBit (f.ty.width - 1 - i)) ∧
  PerLane .bfe wideTy (fun f => [(f.a, f.ty.is64), (f.b, false), (f.c, false)]) (fun s f l r =>
    let w := f.ty.width
    let pos := s.raw .n32 l f.b % 256
    let len := min (s.raw .n32 l f.c % 256) w
    let a := fun i => if i < w then (s.raw f.ty l f.a).testBit i else f.ty.signed && (s.raw f.ty l f.a).testBit (w - 1)
    ∀ i, i < w → r.testBit i = if i < len then a (pos + i) else f.ty.signed && decide (0 < len) && a (pos + len - 1)) ∧
  PerLane .bfi wideTy (fun f => [(f.a, f.ty.is64), (f.b, false), (f.c, f.ty.is64)]) (fun s f l r =>
    let pos := s.raw .n32 l f.b % 256
    let len := s.raw .n32 l f.b / 256 % 256
    ∀ i, i < f.ty.width → r.testBit i =
      if pos ≤ i ∧ i < pos + len then (s.raw f.ty l f.a).testBit (i - pos) else (s.raw f.ty l f.c).testBit i) ∧
  PerLane .bytesel (fun _ => false) (fun f => [(f.a, false), (f.b, false), (f.c, false)]) (fun s f l r =>
    ∀ k, k < 4 → elemAt 8 k r =
      byteselByte (s.raw .b32 l f.a) (s.raw .b32 l f.b) (elemAt 8 k (s.raw .b32 l f.c)) % 256) ∧
  PerLane .ishadd wideTy srcAB (fun s f l r =>
    let t : Int := s.raw f.ty l f.a * 2 ^ f.sub.toNat
    let b : Int := s.raw f.ty l f.b
    (r : Int) = ((if f.na then -t else t) + (if f.nb then -b else b)) % (2 ^ f.ty.width : Nat))

/-- icmp, sel, mov and movi complete, R142-R144; sel is well formed under TY b32 or b64 alone, with a predicate in C and SUB 0. -/
def Obligations.SelectAndMoveComplete : Prop :=
  (∀ s (f : VF), (Instr.icmp f).wf = true →
    Passes s f.g (f.a.regs f.ty.is64 ++ f.b.regs f.ty.is64)
      (f.a.reads f.ty.is64 (s.active f.g) ++ f.b.reads f.ty.is64 (s.active f.g)) →
    ∃ t, exec (.icmp f) s = .next t ∧ PerLaneP s t f.g f.d.toNat fun l =>
      let x := aElem s f l 0
      let y := bElem s f l 0
      (f.sub = 0 && x == y) || (f.sub = 1 && x != y) || (f.sub = 2 && decide (x < y)) || (f.sub = 3 && decide (x ≤ y)) ||
        (f.sub = 4 && decide (x > y)) || (f.sub = 5 && decide (x ≥ y))) ∧
  (∀ s (f : VF) (p : BitVec 8), (Instr.sel f).wf = true → f.c = .v p →
    Passes s f.g ((f.d.toNat, if f.ty.is64 then 2 else 1) :: f.a.regs f.ty.is64 ++ f.b.regs f.ty.is64)
      (f.a.reads f.ty.is64 (s.active f.g) ++ f.b.reads f.ty.is64 (s.active f.g) ++ [.p p.toNat (s.active f.g)]) →
    ∃ t, exec (.sel f) s = .next t ∧ WroteV s t f.g f.d.toNat f.ty.is64 false fun l r =>
      r = if bit (s.cg.pred p.toNat) l then s.raw f.ty l f.a else s.raw f.ty l f.b) ∧
  PerLane .mov wideTy (fun f => [(f.a, f.ty.is64)]) (fun s f l r => r = s.raw f.ty l f.a) ∧
  (∀ s (f : MoviF), (Instr.movi f).wf = true → Passes s f.g [(f.d.toNat, 1)] [] →
    ∃ t, exec (.movi f) s = .next t ∧ WroteV s t f.g f.d.toNat false false fun _ r => r = f.imm.toNat) ∧
  (∀ f : VF, (Instr.sel f).wf = true → (f.ty = .b32 ∨ f.ty = .b64) ∧ f.sub = 0 ∧ ∃ p : BitVec 8, f.c = .v p ∧ p.toNat < 8)

/-! ### Floating point (rows 0x2 and 0x3) -/

/-- fadd, fsub, fmul and fma complete: the exact result of the operands, rounded once, R146, R147; under SR the lane's xorshift state steps
once for each element, R110. -/
def Obligations.FloatArithmeticCompletes : Prop :=
  let no := fun (_ : VF) => false
  let own := fun (_ : VF) (_ : BitVec 32) => ([] : List Rd)
  let n := fun (f : VF) => f.ty.elems
  FpCompletes .fadd true n no fAB own (fun s f c l r =>
    FpResult s f c l (fun k => (sumFp (c.mode == 2) [aFp s f c l k, bFp s f c l k]).1) r) ∧
  FpCompletes .fsub true n no fAB own (fun s f c l r =>
    FpResult s f c l (fun k => (sumFp (c.mode == 2) [aFp s f c l k, (bFp s f c l k).flip]).1) r) ∧
  FpCompletes .fmul true n no fAB own (fun s f c l r => FpResult s f c l (fun k => (mulFp (aFp s f c l k) (bFp s f c l k)).1) r) ∧
  FpCompletes .fma true n no fABC own (fun s f c l r =>
    FpResult s f c l (fun k => (sumFp (c.mode == 2) [(mulFp (aFp s f c l k) (bFp s f c l k)).1, cFp s f c l k]).1) r)

/-- fmin, fmax, fcmp and fclass complete, R147-R149. -/
def Obligations.FloatComparesComplete : Prop :=
  let own := fun (_ : VF) (_ : BitVec 32) => ([] : List Rd)
  let pick := fun (mx : Bool) (s : State) (f : VF) (c : FCtl) (l r : Nat) =>
    ∀ k, k < f.ty.elems → elemAt f.ty.width k r = (pickFp (fmtOf f.ty) mx c.ftzi c.ftz
      (signMod (fmtOf f.ty) f.xa f.na (elemAt f.ty.width k (s.raw f.ty l f.a)))
      (signMod (fmtOf f.ty) f.xb f.nb (elemAt f.ty.width k (s.raw f.ty l f.b)))).1
  FpCompletes .fmin false (fun _ => 0) (fun _ => false) fAB own (pick false) ∧
  FpCompletes .fmax false (fun _ => 0) (fun _ => false) fAB own (pick true) ∧
  (∀ s (f : VF), (Instr.fcmp f).wf = true → (s.fctl 0).fen = 0 →
    Passes s f.g (f.a.regs false ++ f.b.regs false) (f.a.reads false (s.active f.g) ++ f.b.reads false (s.active f.g)) →
    ∃ t, exec (.fcmp f) s = .next t ∧ PerLaneP s t f.g f.d.toNat fun l =>
      (cmpFp fmtF32 (s.fctl 0).ftzi f.sub.toNat (signMod fmtF32 f.xa f.na (s.raw .f32 l f.a))
        (signMod fmtF32 f.xb f.nb (s.raw .f32 l f.b))).1) ∧
  PerLane .fclass (fun _ => false) (fun f => [(f.a, false)]) (fun s f l r =>
    ∀ k, k < f.ty.elems → elemAt 16 k r = 2 ^ classFp (fmtOf f.ty) (elemAt f.ty.width k (s.raw f.ty l f.a)))

/-- frcp, frsq, fsqrt, fexp2, flog2, frred, fsin and fcos complete, and give the special results that R150 and R151 name exactly;
any other result is the one that the unit delivers within its bound (R129, log 8). -/
def Obligations.TranscendentalsComplete : Prop :=
  let no := fun (_ : VF) => false
  let src := fun (f : VF) => [(f.a, false)]
  let own := fun (_ : VF) (_ : BitVec 32) => ([] : List Rd)
  let x := fun (s : State) (f : VF) (c : FCtl) (l : Nat) => flushIn fmtF32 c.ftzi (signMod fmtF32 f.xa f.na (s.raw .f32 l f.a))
  let R := fun (opc : BitVec 8) (ulps : Nat) (op : Fp → TRes) (s : State) (f : VF) (c : FCtl) (l r : Nat) =>
    r = (transOut opc ulps op s f c l).1
  FpCompletes .frcp false (fun _ => 0) no src own (fun s f c l r => R 0x28 1 trcp s f c l r ∧
    (x s f c l = 0 → c.satf = false → r = 0x7F800000) ∧ (x s f c l = 0x80000000 → c.satf = false → r = 0xFF800000) ∧
    (x s f c l = 0x7F800000 → r = 0) ∧ (x s f c l = 0xFF800000 → r = 0x80000000)) ∧
  FpCompletes .frsq false (fun _ => 0) no src own (fun s f c l r => R 0x29 1 trsq s f c l r ∧
    (x s f c l = 0 → c.satf = false → r = 0x7F800000) ∧ (x s f c l = 0x7F800000 → r = 0)) ∧
  FpCompletes .fsqrt false (fun _ => 0) no src own (fun s f c l r => R 0x2A 1 tsqrt s f c l r ∧
    (x s f c l = 0 → r = 0) ∧ (x s f c l = 0x80000000 → r = 0x80000000)) ∧
  FpCompletes .fexp2 false (fun _ => 0) no src own (fun s f c l r => R 0x2B 2 texp2 s f c l r ∧
    (x s f c l = 0 → r = 0x3F800000) ∧ (x s f c l = 0xFF800000 → r = 0)) ∧
  FpCompletes .flog2 false (fun _ => 0) no src own (fun s f c l r => R 0x2C 2 tlog2 s f c l r ∧ (x s f c l = 0x3F800000 → r = 0)) ∧
  FpCompletes .frred false (fun _ => 0) no src own (fun s f c l r => R 0x2D 0 trred s f c l r ∧ (x s f c l = 0 → r = 0)) ∧
  FpCompletes .fsin false (fun _ => 0) no src own (fun s f c l r => R 0x2E 1 (tsincos false) s f c l r ∧ (x s f c l = 0 → r = 0)) ∧
  FpCompletes .fcos false (fun _ => 0) no src own (fun s f c l r => R 0x2F 1 (tsincos true) s f c l r ∧ (x s f c l = 0 → r = 0x3F800000))

/-- cvt, fdot2, lcdec and fscale complete, R152-R155: each element of cvt is its source's element converted, and an element that has no
source keeps its value; fdot2 rounds the sum of its products and C once; under SR each value rounded takes the lane's xorshift state
after one more step, R110. A scalar or a small integer is read by cvt in the source type and as fdot2's C in f32, and as lcdec's A
in the type of the instruction: the model's reading (log 29). -/
def Obligations.ConversionsComplete : Prop :=
  let own := fun (_ : VF) (_ : BitVec 32) => ([] : List Rd)
  let n := fun (f : VF) => f.ty.elems
  (∀ s f mode, (Instr.cvt f).wf = true →
    FpReady s f (cvtRounds f) f.ty.is64 (cvtSrcs f) (cvtOwn f (s.active f.g)) mode → (s.fctl mode).fen = 0 →
    ∃ t, exec (.cvt f) s = .next t ∧ Stepped s t f.g (s.fctl mode) (fun _ => cvtDone f f.ty.elems) ∧
      WroteV s t f.g f.d.toNat f.ty.is64 true fun l r => ∀ k, k < f.ty.elems →
        elemAt f.ty.width k r = match cvtAt f k with
          | some x => (cvtOne s f (s.fctl mode) l k x).1
          | none => elemAt f.ty.width k (s.cg.vlane f.d.toNat l).toNat) ∧
  FpCompletes .fdot2 true (fun _ => 1) (fun _ => false) fABC own (fun s f c l r =>
    let p := fun k => (mulFp (fpElem c f.ty false f.na k (s.raw f.ty l f.a)) (fpElem c f.ty false f.nb k (s.raw f.ty l f.b))).1
    r = (roundTo fmtF32 c.mode c.ftz c.satf (srState s c l 1).toNat
      (sumFp (c.mode == 2) [p 0, p 1, unpackF fmtF32 c.ftzi (s.raw .f32 l f.c)]).1).1) ∧
  FpCompletes .lcdec true n (fun _ => false) fAB own (fun s f c l r => FpResult s f c l (fun k =>
    lc2Value (elemAt 16 (if bit f.sub 3 then 1 else 0) (s.raw f.ty l f.a))
      (if f.ty = .f32 then f.sub.toNat % 8 else 2 * (f.sub.toNat % 4) + k) (s.raw .i32 l f.b % 256)) r) ∧
  FpCompletes .fscale true n (fun _ => false) fAB own (fun s f c l r =>
    FpResult s f c l (fun k => (aFp s f c l k).scale (s.fscaleExp f l k)) r)

/-- With exceptions enabled each instruction that can raise one (fadd, fsub, fmul, fma, fmin, fmax, fcmp, cvt, fdot2, fscale, lcdec, the
eight transcendentals, and gred and gscan under f32) takes FP_EXC with nothing written exactly where an active lane raises an enabled
exception: the lowest such lane and its flags are in TRAPX; otherwise it writes its destination, R92, R105, R439. The flags are those of
the operation and of the rounding; fmin, fmax and fcmp raise invalid for a signalling NaN alone (R147, R148), lcdec under f32 none (R154).
cvt's and fdot2's sources are read as log 29 says. -/
def Obligations.FloatExceptionsTrap : Prop :=
  let no := fun (_ : VF) => false
  let yes := fun (_ : VF) => true
  let own := fun (_ : VF) (_ : BitVec 32) => ([] : List Rd)
  let pick := fun (mx : Bool) (s : State) (f : VF) (c : FCtl) (l : Nat) => (List.range f.ty.elems).foldl (fun fl k => fl |||
    (pickFp (fmtOf f.ty) mx c.ftzi c.ftz (signMod (fmtOf f.ty) f.xa f.na (elemAt f.ty.width k (s.raw f.ty l f.a)))
      (signMod (fmtOf f.ty) f.xb f.nb (elemAt f.ty.width k (s.raw f.ty l f.b)))).2) 0
  let trans := fun (mk : VF → Instr) (opc : BitVec 8) (ulps : Nat) (op : Fp → TRes) =>
    FpTrapsOrWrites mk no no (fun f => [(f.a, false)]) own fun s f c l => (transOut opc ulps op s f c l).2
  let reduce := fun (mk : VF → Instr) (scan : Bool) => ∀ s (f : VF) mode, (mk f).wf = true → f.ty = .f32 → s.roundMode f.rm = .ok mode →
    Passes s f.g ((f.d.toNat, 1) :: f.a.regs false) (f.a.reads false (s.teamOnly (s.active f.g))) →
    let c := s.fctl mode
    let flags := fun l =>
      let xs := (members s f scan l).map fun j => s.raw .f32 j f.a
      let v := sumFp (mode == 2) (xs.map fun x => unpackF fmtF32 c.ftzi x)
      if f.sub.toNat % 8 = 0 then
        (if xs = [] then 0 else v.2 ||| (roundTo fmtF32 mode c.ftz c.satf (srState s c l 1).toNat v.1).2)
      else if xs.any fun x => (unpackF fmtF32 false x).isSig then 1 else 0
    let raises := fun l => bit (s.active f.g) l = true ∧ flags l &&& c.fen ≠ 0
    (∀ l, raises l → (∀ j, j < l → ¬ raises j) → exec (mk f) s = .next (s.takeTrap ⟨57, 0, BitVec.ofNat 64 (l + 32 * flags l)⟩)) ∧
    ((∀ l, ¬ raises l) → ∃ t, exec (mk f) s = .next t ∧ WroteV s t f.g f.d.toNat false true fun _ _ => True)
  FpTrapsOrWrites .fadd yes no fAB own (fun s f c l =>
    elemFlags s f c l fun k => sumFp (c.mode == 2) [aFp s f c l k, bFp s f c l k]) ∧
  FpTrapsOrWrites .fsub yes no fAB own (fun s f c l =>
    elemFlags s f c l fun k => sumFp (c.mode == 2) [aFp s f c l k, (bFp s f c l k).flip]) ∧
  FpTrapsOrWrites .fmul yes no fAB own (fun s f c l => elemFlags s f c l fun k => mulFp (aFp s f c l k) (bFp s f c l k)) ∧
  FpTrapsOrWrites .fma yes no fABC own (fun s f c l => elemFlags s f c l fun k =>
    let p := mulFp (aFp s f c l k) (bFp s f c l k)
    let v := sumFp (c.mode == 2) [p.1, cFp s f c l k]
    (v.1, p.2 ||| v.2)) ∧
  FpTrapsOrWrites .fmin no no fAB own (pick false) ∧ FpTrapsOrWrites .fmax no no fAB own (pick true) ∧
  FpTrapsOrWrites .fdot2 yes no fABC own dotFlags ∧
  FpTrapsOrWrites .fscale yes no fAB own (fun s f c l => elemFlags s f c l fun k => ((aFp s f c l k).scale (s.fscaleExp f l k), 0)) ∧
  FpTrapsOrWrites .lcdec yes no fAB own (fun s f c l => if f.ty = .f16x2 then elemFlags s f c l fun k =>
    (lc2Value (elemAt 16 (if bit f.sub 3 then 1 else 0) (s.raw f.ty l f.a)) (2 * (f.sub.toNat % 4) + k) (s.raw .i32 l f.b % 256), 0)
    else 0) ∧
  FpTrapsOrWrites .cvt cvtRounds (fun f => f.ty.is64) cvtSrcs cvtOwn cvtFlags ∧
  trans .frcp 0x28 1 trcp ∧ trans .frsq 0x29 1 trsq ∧ trans .fsqrt 0x2A 1 tsqrt ∧ trans .fexp2 0x2B 2 texp2 ∧ trans .flog2 0x2C 2 tlog2 ∧
  trans .frred 0x2D 0 trred ∧ trans .fsin 0x2E 1 (tsincos false) ∧ trans .fcos 0x2F 1 (tsincos true) ∧
  reduce .gred false ∧ reduce .gscan true ∧
  (∀ s (f : VF), (Instr.fcmp f).wf = true →
    Passes s f.g (f.a.regs false ++ f.b.regs false) (f.a.reads false (s.active f.g) ++ f.b.reads false (s.active f.g)) →
    let r := fun l => cmpFp fmtF32 (s.fctl 0).ftzi f.sub.toNat (signMod fmtF32 f.xa f.na (s.raw .f32 l f.a))
      (signMod fmtF32 f.xb f.nb (s.raw .f32 l f.b))
    let raises := fun l => bit (s.active f.g) l = true ∧ (r l).2 &&& (s.fctl 0).fen ≠ 0
    (∀ l, raises l → (∀ j, j < l → ¬ raises j) → exec (.fcmp f) s = .next (s.takeTrap ⟨57, 0, BitVec.ofNat 64 (l + 32 * (r l).2)⟩)) ∧
    ((∀ l, ¬ raises l) → ∃ t, exec (.fcmp f) s = .next t ∧ PerLaneP s t f.g f.d.toNat fun l => (r l).1))

/-- Rounding of a magnitude `m` to a multiple `a` of 2^d, R106: to nearest, ties to even; toward zero; to nearest, ties away. -/
def Obligations.RoundingIsNearest : Prop :=
  ∀ neg m d x, (let a := (roundMag 0 neg m 0 (d : Nat) x).1
      2 * m ≤ (2 * a + 1) * 2 ^ d ∧ 2 * a * 2 ^ d ≤ 2 * m + 2 ^ d ∧
        ((2 * m = (2 * a + 1) * 2 ^ d ∨ 2 * a * 2 ^ d = 2 * m + 2 ^ d) → a % 2 = 0)) ∧
    (let a := (roundMag 1 neg m 0 (d : Nat) x).1; a * 2 ^ d ≤ m ∧ m < (a + 1) * 2 ^ d) ∧
    (let a := (roundMag 4 neg m 0 (d : Nat) x).1; 2 * a * 2 ^ d ≤ 2 * m + 2 ^ d ∧ 2 * m < (2 * a + 1) * 2 ^ d) ∧
    ((roundMag 0 neg m 0 (d : Nat) x).2 = decide (m % 2 ^ d ≠ 0))

/-! ### Across lanes (R156-R159) -/

/-- qswap, qbcast and lxch complete: each active lane receives A of its source lane, an absent lane giving 0, R132, R156, R157. -/
def Obligations.ExchangesComplete : Prop :=
  let one := fun (mk : VF → Instr) (b : VF → List Src) (src : State → VF → Nat → Nat) =>
    ∀ s (f : VF) (a : BitVec 8), (mk f).wf = true → f.a = .v a →
      Passes s f.g ((f.d.toNat, if f.ty.is64 then 2 else 1) :: (a.toNat, if f.ty.is64 then 2 else 1) :: (b f).flatMap fun x => x.regs false)
        (((b f).flatMap fun x => x.reads false (s.active f.g)) ++
          [.v a.toNat (if f.ty.is64 then 2 else 1) (maskOf fun j => (maskList (s.active f.g)).any fun l => src s f l == j)]) →
      ∃ t, exec (mk f) s = .next t ∧ WroteV s t f.g f.d.toNat f.ty.is64 false fun l r => r = laneVal s.cg f.ty.is64 a.toNat (src s f l)
  one .qswap (fun _ => []) (fun _ f l => l ^^^ (f.sub.toNat % 4)) ∧
  one .qbcast (fun _ => []) (fun _ f l => l / 4 * 4 + f.sub.toNat % 4) ∧
  one .lxch (fun f => [f.b]) (fun s f l =>
    let c := s.raw .n32 l f.b % 32
    if f.sub = 0 then c else if f.sub = 1 then (l + c) % 32 else if f.sub = 2 then (l ^^^ c) % 32 else l / 8 * 8 + c % 8)

/-- gred and gscan over the contributing lanes complete, R158: under the integer and bit types a sum (wrapped or saturated), a least or a
greatest element, or a bitwise function of the members, and of no members the identity; under f32 the exact sum, rounded once (no
member: +0, with nothing rounded, log 26), or the least or the greatest of the numbers among the members (R147), the canonical NaN where
there are only NaNs, and an infinity where there is no member; under SR a lane whose sum is rounded steps its xorshift state once, R110.
rand completes: each active lane steps its xorshift state once and receives it, R109, R159. -/
def Obligations.ReductionsAndRandComplete : Prop :=
  let one := fun (mk : VF → Instr) (scan : Bool) => ∀ s (f : VF), (mk f).wf = true → f.ty ≠ .f32 →
    Passes s f.g ((f.d.toNat, if f.ty.is64 then 2 else 1) :: f.a.regs f.ty.is64) (f.a.reads f.ty.is64 (s.teamOnly (s.active f.g))) →
    ∃ t, exec (mk f) s = .next t ∧ WroteV s t f.g f.d.toNat f.ty.is64 false fun l r =>
      let js := members s f scan l
      let val := fun j => elemInt f.ty 0 (s.raw f.ty j f.a)
      let bits := fun i => js.countP fun j => (s.raw f.ty j f.a).testBit i
      let sum := (js.map val).sum
      (f.sub.toNat % 8 = 0 → r = lowBits f.ty.width (if f.sat then clampInt f.ty sum else sum)) ∧
      (f.sub.toNat % 8 = 1 → (∀ j ∈ js, elemInt f.ty 0 r ≤ val j) ∧ (js ≠ [] → ∃ j ∈ js, elemInt f.ty 0 r = val j) ∧
        (js = [] → ∀ x, elemInt f.ty 0 x ≤ elemInt f.ty 0 r)) ∧
      (f.sub.toNat % 8 = 2 → (∀ j ∈ js, val j ≤ elemInt f.ty 0 r) ∧ (js ≠ [] → ∃ j ∈ js, elemInt f.ty 0 r = val j) ∧
        (js = [] → ∀ x, elemInt f.ty 0 r ≤ elemInt f.ty 0 x)) ∧
      (f.sub.toNat % 8 = 3 → ∀ i, i < f.ty.width → (r.testBit i = true ↔ bits i = js.length)) ∧
      (f.sub.toNat % 8 = 4 → ∀ i, i < f.ty.width → (r.testBit i = true ↔ bits i ≠ 0)) ∧
      (f.sub.toNat % 8 = 5 → ∀ i, i < f.ty.width → (r.testBit i = true ↔ bits i % 2 = 1))
  let two := fun (mk : VF → Instr) (scan : Bool) => ∀ s (f : VF) mode, (mk f).wf = true → f.ty = .f32 →
    s.roundMode f.rm = .ok mode → (s.fctl mode).fen = 0 →
    Passes s f.g ((f.d.toNat, 1) :: f.a.regs false) (f.a.reads false (s.teamOnly (s.active f.g))) →
    let c := s.fctl mode
    ∃ t, exec (mk f) s = .next t ∧
      Stepped s t f.g c (fun l => if f.sub.toNat % 8 = 0 ∧ members s f scan l ≠ [] then 1 else 0) ∧
      WroteV s t f.g f.d.toNat false true fun l r =>
        let xs := (members s f scan l).map fun j => s.raw .f32 j f.a
        let nums := xs.filter fun x => !(unpackF fmtF32 false x).isNan
        let key := fun x => f32Key (flushIn fmtF32 c.ftzi x)
        let chosen := fun x => flushIn fmtF32 c.ftz (flushIn fmtF32 c.ftzi x)
        (f.sub.toNat % 8 = 0 → r = if xs = [] then 0 else (roundTo fmtF32 mode c.ftz c.satf (srState s c l 1).toNat
          (sumFp (mode == 2) (xs.map fun x => unpackF fmtF32 c.ftzi x)).1).1) ∧
        (f.sub.toNat % 8 = 1 → (xs = [] → r = 0x7F800000) ∧ (xs ≠ [] → nums = [] → r = 0x7FC00000) ∧
          (nums ≠ [] → ∃ x ∈ nums, r = chosen x ∧ ∀ y ∈ nums, key x ≤ key y)) ∧
        (f.sub.toNat % 8 = 2 → (xs = [] → r = 0xFF800000) ∧ (xs ≠ [] → nums = [] → r = 0x7FC00000) ∧
          (nums ≠ [] → ∃ x ∈ nums, r = chosen x ∧ ∀ y ∈ nums, key y ≤ key x))
  one .gred false ∧ two .gred false ∧ one .gscan true ∧ two .gscan true ∧
  (∀ s (f : VF), (Instr.rand f).wf = true → Passes s f.g [(f.d.toNat, 1)] [] →
    ∃ t, exec (.rand f) s = .next t ∧ (WroteV s t f.g f.d.toNat false true fun l r => r = (xorshift (s.cg.xs.getD l 0)).toNat) ∧
      ∀ l, l < 32 → t.cg.xs.getD l 0 = if bit (s.active f.g) l then xorshift (s.cg.xs.getD l 0) else s.cg.xs.getD l 0)

/-! ### The scalar unit and the state registers (row 0x4) -/

/-- sadd, ssub, smul, sand, sor and sxor complete: the function of the operands at 64 or 32 bits, zero-extended, R160. -/
def Obligations.ScalarArithmeticCompletes : Prop :=
  let one := fun (mk : SF → Instr) (op64 : Word → Word → Word) (op32 : BitVec 32 → BitVec 32 → BitVec 32) =>
    ∀ s (f : SF), (mk f).wf = true → Acts s f.g → (f.d.toNat < 32 → s.cg.converged = true) →
      Passes s f.g [] (.s f.a.toNat :: if f.immf then [] else [.s f.b.toNat]) →
      let a := s.sreg f.a.toNat
      let b := if f.immf then f.imm.signExtend 64 else s.sreg f.b.toNat
      ∃ t, exec (mk f) s = .next t ∧
        WroteS s t f.d.toNat (if f.w64 then op64 a b else (op32 (a.setWidth 32) (b.setWidth 32)).setWidth 64)
  one .sadd (· + ·) (· + ·) ∧ one .ssub (· - ·) (· - ·) ∧ one .smul (· * ·) (· * ·) ∧ one .sand (· &&& ·) (· &&& ·) ∧
  one .sor (· ||| ·) (· ||| ·) ∧ one .sxor (· ^^^ ·) (· ^^^ ·)

/-- sshl, sshr, ssar, scmp and smovi complete; a shift count is the low six bits of the second operand, R160, R161. -/
def Obligations.ScalarShiftsAndComparesComplete : Prop :=
  let one := fun (mk : SF → Instr) (useA : Bool) (R : SF → Word → Word → Word) =>
    ∀ s (f : SF), (mk f).wf = true → Acts s f.g → (f.d.toNat < 32 → s.cg.converged = true) →
      Passes s f.g [] ((if useA then [.s f.a.toNat] else []) ++ if f.immf then [] else [.s f.b.toNat]) →
      ∃ t, exec (mk f) s = .next t ∧
        WroteS s t f.d.toNat (R f (s.sreg f.a.toNat) (if f.immf then f.imm.signExtend 64 else s.sreg f.b.toNat))
  one .sshl true (fun f a b => if f.w64 then a <<< (b.toNat % 64) else (a.setWidth 32 <<< (b.toNat % 64)).setWidth 64) ∧
  one .sshr true (fun f a b => if f.w64 then a >>> (b.toNat % 64) else (a.setWidth 32 >>> (b.toNat % 64)).setWidth 64) ∧
  one .ssar true (fun f a b =>
    if f.w64 then a.sshiftRight (b.toNat % 64) else ((a.setWidth 32).sshiftRight (b.toNat % 64)).setWidth 64) ∧
  one .scmp true (fun f a b =>
    let w := if f.w64 then 64 else 32
    let x := a.toNat % 2 ^ w
    let y := b.toNat % 2 ^ w
    BitVec.ofNat 64 (boolCode (decide (x = y)) + 2 * boolCode (decide (toSigned w x < toSigned w y)) +
      4 * boolCode (decide (x < y)) + 8 * boolCode (decide (toSigned w y < toSigned w x)) + 16 * boolCode (decide (y < x)))) ∧
  one .smovi false (fun f _ b => if f.w64 then b else (b.setWidth 32).setWidth 64)

/-- vrd, vwr and mfs complete, R162, R163: vrd takes the lane that B names, zero-extended or the pair; vwr writes that lane alone,
and only when the arm holds it; mfs writes LANE to each active lane, and any other state register to a scalar; a read of CYCLE gives the
core's count of clocks, which has gone on by a free amount since the last read (R20, log 6). -/
def Obligations.LaneAndStateReadsComplete : Prop :=
  (∀ s (f : VF) (a : BitVec 8), (Instr.vrd f).wf = true → f.a = .v a → Acts s f.g → (f.d.toNat < 32 → s.cg.converged = true) →
    Passes s f.g [(a.toNat, if f.ty.is64 then 2 else 1)]
      (f.b.reads false 0 ++ [.v a.toNat (if f.ty.is64 then 2 else 1) (maskOf fun l => l == s.laneArg f)]) →
    ∃ t, exec (.vrd f) s = .next t ∧
      WroteS s t f.d.toNat (BitVec.ofNat 64 (laneVal s.cg f.ty.is64 a.toNat (s.raw .n32 0 f.b % 32)))) ∧
  (∀ s (f : VF), (Instr.vwr f).wf = true → Acts s f.g →
    Passes s f.g [(f.d.toNat, if f.ty.is64 then 2 else 1)] (f.a.reads f.ty.is64 0 ++ f.b.reads false 0) →
    let l := s.raw .n32 0 f.b % 32
    ∃ t, exec (.vwr f) s = .next t ∧
      OnlyWrites s t { v := fun r k => (r == f.d.toNat || (f.ty.is64 && r == f.d.toNat + 1)) && k == l && bit s.armMask l } ∧
      (bit (s.armMask &&& s.cg.present) l = true → laneVal t.cg f.ty.is64 f.d.toNat l = s.raw f.ty 0 f.a)) ∧
  (∀ s (f : SF), (Instr.mfs f).wf = true → f.num = 0 → Passes s f.g [(f.vreg, 1)] [] →
    ∃ t, exec (.mfs f) s = .next t ∧ WroteV s t f.g f.vreg false false fun l r => r = l) ∧
  (∀ s (f : SF), (Instr.mfs f).wf = true → f.num ≠ 0 → f.num ≠ 0x10 → Acts s f.g → (f.d.toNat < 32 → s.cg.converged = true) →
    Passes s f.g [] [] →
    ∃ t, exec (.mfs f) s = .next t ∧ WroteS s t f.d.toNat (BitVec.ofNat 64 (s.stateReg f.num)) ∧
      (f.num = 0x0B → t.sreg f.d.toNat = s.ca.mask.setWidth 64) ∧ (f.num = 0x0C → t.sreg f.d.toNat = s.ca.fmt.setWidth 64) ∧
      (f.num = 0x12 → t.sreg f.d.toNat = s.ca.trappc) ∧ (f.num = 0x14 → t.sreg f.d.toNat = s.ca.trapx)) ∧
  (∀ s (f : SF), (Instr.mfs f).wf = true → f.num = 0x10 → Acts s f.g → (f.d.toNat < 32 → s.cg.converged = true) → Passes s f.g [] [] →
    let c := (s.core s.ccore).cycle + BitVec.ofNat 64 s.free
    let u := (s.setCore s.ccore { s.core s.ccore with cycle := c }).bump
    ∃ t, exec (.mfs f) s = .next t ∧ WroteS u t f.d.toNat c)

/-- mts, mts of SEED and fmtset complete, R109, R163, R164: FMT or the trap register takes the scalar; SEED reseeds every lane from its
number; fmtset replaces only the fields selected. No other register, predicate, scalar, poison mark or arm changes, nor anything else. -/
def Obligations.StateWritesComplete : Prop :=
  (∀ s (f : SF), (Instr.mts f).wf = true → (f.num = 0x0C ∨ s.ca.handler = true) → Acts s f.g → Passes s f.g [] [.s f.a.toNat] →
    ∃ t, exec (.mts f) s = .next t ∧ ArmOnly s t ∧ GoesOn s t ∧
      SameArm { s.ca with fmt := t.ca.fmt, trapc := t.ca.trapc, trappc := t.ca.trappc, trapad := t.ca.trapad, trapx := t.ca.trapx } t.ca ∧
      t.ca.fmt = (if f.num = 0x0C then (s.sreg f.a.toNat).setWidth 32 &&& 0x7FFFFF else s.ca.fmt) ∧
      t.ca.trapc = (if f.num = 0x11 then (s.sreg f.a.toNat).setWidth 6 else s.ca.trapc) ∧
      t.ca.trappc = (if f.num = 0x12 then s.sreg f.a.toNat else s.ca.trappc) ∧
      t.ca.trapad = (if f.num = 0x13 then s.sreg f.a.toNat else s.ca.trapad) ∧
      t.ca.trapx = (if f.num = 0x14 then s.sreg f.a.toNat else s.ca.trapx)) ∧
  (∀ s (f : SF), (Instr.mtsSeed f).wf = true → s.cg.converged = true → Acts s f.g → Passes s f.g [] [.s f.a.toNat] →
    ∃ t, exec (.mtsSeed f) s = .next t ∧ { t with groups := s.groups } = s ∧ (∀ k, k ≠ s.gid → t.grp k = s.grp k) ∧
      t.cg = { s.cg with seed := t.cg.seed, xs := t.cg.xs }.setArm s.slot t.ca ∧ SameArm s.ca t.ca ∧ t.ca.scal = s.ca.scal ∧
      t.ca.spois = s.ca.spois ∧ GoesOn s t ∧ t.cg.seed = (s.sreg f.a.toNat).setWidth 32 ∧
      ∀ l, l < 32 → t.cg.xs.getD l 0 = seedLane ((s.sreg f.a.toNat).setWidth 32) (32 * s.rank + l)) ∧
  (∀ s (f : SF), (Instr.fmtset f).wf = true → Acts s f.g → Passes s f.g [] (if f.immf then [] else [.s f.b.toNat]) →
    ∃ t, exec (.fmtset f) s = .next t ∧ ArmOnly s t ∧ GoesOn s t ∧ SameArm { s.ca with fmt := t.ca.fmt } t.ca ∧
      let v := if f.immf then f.imm else (s.sreg f.b.toNat).setWidth 32
      let field := fun (n : Nat) => if n < 8 then bit f.d 0 else if n < 12 then bit f.d 1 else if n < 15 then bit f.d 2
        else if n < 18 then bit f.d 3 else if n < 23 then bit f.d 4 else false
      ∀ n, n < 32 → bit t.ca.fmt n = if field n then bit v n else bit s.ca.fmt n)

/-! ### Control (row 0x5) -/

/-- bra, call, ret, loop and jmp complete, R185, R186: a branch whose condition holds goes to its target, 8 bytes a word from the
clause's header; call leaves the link in s63; loop counts its register down and branches while it is not 0. -/
def Obligations.BranchesComplete : Prop :=
  let target := fun (s : State) (f : BF) => s.hdr + 8 * f.disp.signExtend 64
  (∀ s (f : BF), (Instr.bra f).wf = true → Acts s f.g → Passes s f.g [] (condReads f) →
    ∃ t, exec (.bra f) s = .next t ∧ OnlyWrites s t {} ∧ (Cond s f → At s t (target s f)) ∧ (¬ Cond s f → GoesOn s t)) ∧
  (∀ s (f : BF), (Instr.call f).wf = true → Acts s f.g → Passes s f.g [] (condReads f) →
    ∃ t, exec (.call f) s = .next t ∧
      (Cond s f → At s t (target s f) ∧ WroteS s t 63 (s.hdr + BitVec.ofNat 64 (8 * (s.nwords + 1)))) ∧
      (¬ Cond s f → GoesOn s t ∧ OnlyWrites s t {})) ∧
  (∀ s (f : BF), (Instr.ret f).wf = true → Acts s f.g → Passes s f.g [] (condReads f) → (Cond s f → s.rdTrap (.s 63) = none) →
    ∃ t, exec (.ret f) s = .next t ∧ OnlyWrites s t {} ∧ (Cond s f → At s t (s.sreg 63)) ∧ (¬ Cond s f → GoesOn s t)) ∧
  (∀ s (f : BF), (Instr.loop f).wf = true → Acts s f.g → (f.cs.toNat < 32 → s.cg.converged = true) →
    Passes s f.g [] [.s f.cs.toNat] →
    ∃ t, exec (.loop f) s = .next t ∧ WroteS s t f.cs.toNat (s.sreg f.cs.toNat - 1) ∧
      (s.sreg f.cs.toNat ≠ 1 → At s t (target s f)) ∧ (s.sreg f.cs.toNat = 1 → GoesOn s t)) ∧
  (∀ s (f : SF), (Instr.jmp f).wf = true → Acts s f.g → Passes s f.g [] (.s f.a.toNat :: if f.immf then [] else [.s f.b.toNat]) →
    ∃ t, exec (.jmp f) s = .next t ∧ OnlyWrites s t {} ∧
      At s t (s.sreg f.a.toNat + if f.immf then f.imm.signExtend 64 else s.sreg f.b.toNat))

/-- brp completes, R173-R178, R187: a uniform arm jumps or goes on; a divergent one pushes a frame that expects its mask and keeps its
FMT and s32-s63, and keeps the fall-through lanes; the taken lanes are the other arm at the target, or, where that slot is in use, the
frame's spilled side, and the group's registers and other frames stay. Memory stays as it was while at most four frames are held; the push
of a fifth writes the 384 bytes of the oldest at its place in the spill region. It waits for the arm's loads; a stack without a free
position traps STACK_OVF, and a spill region without read and write permission SPILL_FAULT. The model's choices in it: SPILL_FAULT tells
of a write of lane 0 (log 28), the new side keeps the handler level of the old (log 47), and only a frame that is no longer held on the
die lies in the spill region (log 11). -/
def Obligations.PredicatedBranchCompletes : Prop :=
  let target := fun (s : State) (d : BitVec 20) => s.hdr + 8 * d.signExtend 64
  let splits := fun (s : State) (f : PF) => s.rdTrap (.p f.g.ps.toNat s.armMask) = none ∧ s.active f.g ≠ s.armMask ∧ s.active f.g ≠ 0
  let place := fun (s : State) (pos : Nat) => s.cg.spill + BitVec.ofNat 64 (384 * pos)
  (∀ s (f : PF), s.rdTrap (.p f.g.ps.toNat s.armMask) = none → s.active f.g = s.armMask →
    ∃ t, exec (.brp f) s = .next t ∧ OnlyWrites s t {} ∧ At s t (target s f.tdisp)) ∧
  (∀ s (f : PF), s.rdTrap (.p f.g.ps.toNat s.armMask) = none → s.active f.g = 0 → s.armMask ≠ 0 →
    ∃ t, exec (.brp f) s = .next t ∧ OnlyWrites s t {} ∧ GoesOn s t) ∧
  (∀ s (f : PF) pos x e, splits s f → s.slot ≤ 1 → s.ca.loads = [] → s.cg.freePos = some pos →
    s.xlate s.ccore s.cg.ctx s.ca.walkFaults (place s pos) = .ok x e → e.rd = true → e.w = true →
    let spill := (s.cg.arm (1 - s.slot)).live
    ∃ t fr, exec (.brp f) s = .next t ∧ t.cg.frame pos = some fr ∧ fr.raddr = target s f.rdisp ∧ fr.expect = s.ca.mask ∧
      fr.arrived = 0 ∧ fr.parent = s.ca.top ∧ fr.sfmt = s.ca.fmt ∧ fr.sscl = s.ca.scal ∧ fr.dissolved = false ∧ fr.waiting = [] ∧
      fr.spmask = (if spill then s.active f.g else 0) ∧ fr.sppc = (if spill then target s f.tdisp else 0) ∧
      GoesOn s t ∧ SameArm { s.ca with mask := s.ca.mask &&& ~~~(s.active f.g), top := some pos } t.ca ∧
      t.ca.scal = s.ca.scal ∧ t.ca.spois = s.ca.spois ∧
      (let b := t.cg.arm (1 - s.slot)
       (spill = true → b = s.cg.arm (1 - s.slot)) ∧
       (spill = false → b.live = true ∧ b.mask = s.active f.g ∧ b.pc = target s f.tdisp ∧ b.clause = none ∧ b.xfer = s.ipc ∧
         b.top = some pos ∧ b.fmt = s.ca.fmt ∧ b.scal = s.ca.scal ∧ b.spois = s.ca.spois ∧ b.loads = [] ∧ b.stores = 0 ∧
         b.park = none ∧ b.handler = s.ca.handler)) ∧
      (∀ q, q ≠ pos → (t.cg.frame q).map Frame.bytes = (s.cg.frame q).map Frame.bytes) ∧
      { t.cg with arm0 := s.cg.arm0, arm1 := s.cg.arm1, frames := s.cg.frames } = s.cg ∧
      (∀ k, k ≠ s.gid → t.grp k = s.grp k) ∧ outside t = outside s ∧ (s.cg.frames.length < 4 → e.d = true → t.mem = s.mem) ∧
      (∀ f0 f1 f2 f3, s.cg.frames = [(0, some f0), (1, some f1), (2, some f2), (3, some f3)] → f0.seq < f1.seq → f1.seq < f2.seq →
        f2.seq < f3.seq → f0.out = false → f1.out = false → f2.out = false → f3.out = false → e.d = true → f0.tr.pa % 64 = 0 →
        (∀ k, k < 6 → AtHome s { f0.tr with pa := f0.tr.pa + 64 * k }) → StoredTo 384 [(f0.tr.pa, f0.bytes)] s.mem t.mem)) ∧
  (∀ s (f : PF), splits s f → s.ca.loads ≠ [] → ∃ t, exec (.brp f) s = .next t ∧ t.ca.park = some .brpLoads ∧ SameRegs s t ∧
    { t with groups := s.groups } = s ∧ ∀ k, k ≠ s.gid → t.grp k = s.grp k) ∧
  (∀ s (f : PF), splits s f → s.ca.loads = [] →
    (s.cg.freePos = none → exec (.brp f) s = .next (s.takeTrap ⟨9, 0, 10⟩)) ∧
    (∀ pos x e, s.cg.freePos = some pos → s.xlate s.ccore s.cg.ctx s.ca.walkFaults (place s pos) = .ok x e →
      e.rd = false ∨ e.w = false → exec (.brp f) s = .next (s.takeTrap ⟨10, place s pos, accessX 0 .write 7⟩)) ∧
    (∀ pos c level, s.cg.freePos = some pos → s.xlate s.ccore s.cg.ctx s.ca.walkFaults (place s pos) = .fault c level →
      exec (.brp f) s = .next (s.takeTrap ⟨10, place s pos, accessX 0 .write level⟩)))

/-- bwait, vote, yield and nop complete, R188-R190. An instruction that acts once for the arm and whose guard leaves it no lane is a no-op,
R62: the arm goes on behind it, and nothing else changes, whatever its operands hold. -/
def Obligations.VotesAndMarksComplete : Prop :=
  (∀ s (f : SF), (Instr.bwait f).wf = true → Acts s f.g → Passes s f.g [] (if f.immf then [] else [.s f.b.toNat]) →
    ∃ t, exec (.bwait f) s = .next t ∧
      WroteS s t f.d.toNat (if (∃ c, s.ca.clause = some c ∧ c.idx = 0) ∧ s.ca.bw = false then 0 else 1)) ∧
  (∀ s (f : VF) (p : BitVec 8), (Instr.vote f).wf = true → f.a = .v p →
    Passes s f.g (if 3 ≤ f.sub.toNat then [(f.d.toNat, 1)] else []) [.p p.toNat (s.active f.g)] →
    let con := s.active f.g &&& s.cg.teamLanes
    let one := con &&& s.cg.pred p.toNat
    ∃ t, exec (.vote f) s = .next t ∧
      (f.sub.toNat < 3 → PerLaneP s t f.g f.d.toNat fun _ =>
        if f.sub = 0 then one != 0 else if f.sub = 1 then one == con else one == 0 || one == con) ∧
      (f.sub = 3 → WroteV s t f.g f.d.toNat false false fun _ r => r = one.toNat) ∧
      (f.sub = 7 → WroteV s t f.g f.d.toNat false false fun _ r => r = (con &&& ~~~one).toNat)) ∧
  (∀ s (f : BF), Acts s f.g → Passes s f.g [] [] →
    ∃ t, exec (.yield f) s = .next t ∧ OnlyWrites s t {} ∧ GoesOn s t ∧ t.ca.yielded = true) ∧
  (∀ s (f : BF), Passes s f.g [] [] → ∃ t, exec (.nop f) s = .next t ∧ OnlyWrites s t {} ∧ GoesOn s t) ∧
  (∀ mk ∈ ([.sadd, .ssub, .smul, .sand, .sor, .sxor, .sshl, .sshr, .ssar, .scmp, .smovi, .mtsSeed, .fmtset, .jmp, .bwait, .fork, .join] :
      List (SF → Instr)), ∀ s f, NoLane s f.g → exec (mk f) s = .next s.retire) ∧
  (∀ s (f : SF), NoLane s f.g → (f.num ≠ 0 → exec (.mfs f) s = .next s.retire) ∧
    (f.num = 0x0C ∨ s.ca.handler = true → exec (.mts f) s = .next s.retire) ∧
    (f.imm.toNat < (s.level s.cg.tid s.cg.lid).recs.length → exec (.barwait f) s = .next s.retire) ∧
    (f.d.toNat < (s.level s.cg.tid s.cg.lid).recs.length → exec (.barexp f) s = .next s.retire)) ∧
  (∀ mk ∈ ([.vrd, .vwr] : List (VF → Instr)), ∀ s f, NoLane s f.g → exec (mk f) s = .next s.retire) ∧
  (∀ mk ∈ ([.bra, .call, .ret, .loop, .exitG, .yield, .nop] : List (BF → Instr)), ∀ s f, NoLane s f.g → exec (mk f) s = .next s.retire) ∧
  (∀ mk ∈ ([.sld, .sst, .cwb, .cinv, .cwbi, .fence] : List (MF → Instr)), ∀ s f, NoLane s f.g → exec (mk f) s = .next s.retire) ∧
  (∀ mk ∈ ([.cpy, .gath, .cpym] : List (XF → Instr)), ∀ s f, NoLane s f.g →
    (f.ct = .bar → f.bar.toNat < (s.level s.cg.tid s.cg.lid).recs.length) → exec (mk f) s = .next s.retire) ∧
  (∀ mk ∈ ([.patadv, .patq, .cpyres, .qfence, .msend, .mpost, .mcancel, .mprobe, .subon, .suboff, .subflush, .coll] : List (XF → Instr)),
    ∀ s f, NoLane s f.g → exec (mk f) s = .next s.retire) ∧
  (∀ mk ∈ ([.qpush, .qpop, .qtry] : List (QF → Instr)), ∀ s f, NoLane s f.g → exec (mk f) s = .next s.retire) ∧
  (∀ mk ∈ ([.acczero, .fifodrop, .fifostat] : List (TF → Instr)), ∀ s f, NoLane s f.g → exec (mk f) s = .next s.retire) ∧
  (∀ mk ∈ ([.trapSw, .brk, .pmark] : List (YF → Instr)), ∀ s f, NoLane s f.g → exec (mk f) s = .next s.retire) ∧
  ∀ s (f : YF), NoLane s f.g → s.ca.handler = true → let n := f.imm.toNat
    exec (.xinvPage f) s = .next s.retire ∧ exec (.xinvRange f) s = .next s.retire ∧ exec (.xinvCtx f) s = .next s.retire ∧
    exec (.gkill f) s = .next s.retire ∧ (s.serviceCtx = true → exec (.errinj f) s = .next s.retire) ∧
    (sysHandler n = true ∨ (sysService n = true ∧ s.serviceCtx = true) → exec (.sysrd f) s = .next s.retire) ∧
    (sysHandlerRw n = true → exec (.syswr f) s = .next s.retire ∧ exec (.syswrHvec f) s = .next s.retire) ∧
    (s.serviceCtx = true → (n < 0x304 ∧ 0x100 ≤ n ∨ n = 0x380 ∨ 0x390 ≤ n ∧ n ≤ 0x3AF ∨ (routePorts n).isSome = true →
      exec (.syswr f) s = .next s.retire ∧ exec (.syswrInjctl f) s = .next s.retire ∧ exec (.syswrRoute f) s = .next s.retire))

/-- exit completes where the group has no open frame, R179, R190, R191: the active lanes leave the arm for good and the arm goes on with
those left; an arm without lanes ends and leaves the other arm as it was; a group whose last lanes leave ends, with no cause. -/
def Obligations.ExitCompletes : Prop :=
  ∀ s (f : BF), s.slot ≤ 1 → Passes s f.g [] [] → Acts s f.g → s.cg.live = true → s.cg.frames = [] →
    let left := s.armMask &&& ~~~(s.active f.g)
    let other := s.cg.arm (1 - s.slot)
    let kept := fun (t : State) => t.cg.live = true ∧ t.cg.exited = s.cg.exited ||| s.active f.g ∧ t.cg.arm (1 - s.slot) = other ∧
      { t.cg with arm0 := s.cg.arm0, arm1 := s.cg.arm1, exited := s.cg.exited, orphans := s.cg.orphans, place := s.cg.place } = s.cg ∧
      { t with groups := s.groups } = s ∧ ∀ k, k ≠ s.gid → t.grp k = s.grp k
    (left ≠ 0 → ∃ t, exec (.exitG f) s = .next t ∧ kept t ∧ GoesOn s t ∧ SameArm { s.ca with mask := left } t.ca ∧
      t.ca.scal = s.ca.scal ∧ t.ca.spois = s.ca.spois ∧ t.cg.orphans = s.cg.orphans) ∧
    (left = 0 → other.live = true → ∃ t, exec (.exitG f) s = .next t ∧ kept t ∧ t.ca.live = false ∧ t.ca.mask = 0) ∧
    (left = 0 → other.live = false → ∃ t, exec (.exitG f) s = .next t ∧ t.cg.live = false ∧ t.cg.cause = none ∧
      (t.launch s.cg.launch).nend = (s.launch s.cg.launch).nend)

/-! ### Traps (R64, R75, R86-R92, R435-R443) -/

/-- Trap entry of an arm at user level, R435: the trap registers take the cause, the address and the information; the shadow keeps
FMT, s56-s63, the top frame and the clause; FMT is 0, the arm is at handler level at HVEC, its mask, scalars and counts as before; of
the group nothing but this arm changes, and of the machine nothing but this group. -/
def Obligations.TrapEntrySavesAndEnters : Prop :=
  ∀ (s : State) gid slot (t : TrapInfo) pc, slot ≤ 1 → let a := (s.grp gid).arm slot
    a.handler = false → State.endsGroups t.cause = false → s.hvec gid ≠ 0 →
    NoOtherHandler (s.grp gid) slot →
    let u := s.takeTrapAt gid slot t pc
    let b := (u.grp gid).arm slot
    b.trapc = t.cause ∧ b.trappc = pc ∧ b.trapad = t.ad ∧ b.trapx = t.x ∧ b.handler = true ∧ b.pc = s.hvec gid ∧ b.clause = none ∧
      b.fmt = 0 ∧ b.shadow.fmt = a.fmt ∧ b.shadow.s56 = a.scal.drop 24 ∧ b.shadow.top = a.top ∧ b.mask = a.mask ∧ b.scal = a.scal ∧
      b.spois = a.spois ∧ b.loads = a.loads ∧ b.stores = a.stores ∧ b.top = a.top ∧ b.shadow.clause = a.clause ∧
      b.shadow.pois = BitVec.ofNat 8 (a.spois.toNat / 2 ^ 24) ∧ b.live = a.live ∧ b.done = a.done ∧
      u.grp gid = (s.grp gid).setArm slot b ∧ { u with groups := s.groups } = s ∧ ∀ k, k ≠ gid → u.grp k = s.grp k

/-- A trap met while another side of the group is at handler level waits, and is delivered to its arm when none is, R435, R436; that a
side which is spilled or waits at a frame holds it back as the other arm does is the model's choice (log 47), and so is that of two arms
with a trap held the one in slot 0 comes first (log 4). -/
def Obligations.PendingTrapWaitsAndIsDelivered : Prop :=
  (∀ (s : State) gid slot (t : TrapInfo) pc, slot ≤ 1 → ((s.grp gid).arm slot).handler = false → State.endsGroups t.cause = false → s.hvec gid ≠ 0 →
    ¬ NoOtherHandler (s.grp gid) slot →
    let b := ((s.takeTrapAt gid slot t pc).grp gid).arm slot
    b.pend = true ∧ b.park = some .trapWait ∧ b.handler = false ∧ b.trapc = t.cause ∧ b.trappc = pc ∧ b.trapad = t.ad ∧ b.trapx = t.x) ∧
  (∀ (s : State) gid slot, slot ≤ 1 → let a := (s.grp gid).arm slot
    let other := (s.grp gid).arm (1 - slot)
    (s.grp gid).live = true → a.live = true → a.pend = true → NoOtherHandler (s.grp gid) slot → s.hvec gid ≠ 0 →
    (slot = 1 → ¬ (other.live = true ∧ other.pend = true)) →
    ∃ t, exec (.pendingTrapDelivery gid) s = .next t ∧ let b := (t.grp gid).arm slot
      b.handler = true ∧ b.pend = false ∧ b.pc = s.hvec gid ∧ b.shadow.fmt = a.fmt ∧ b.trapc = a.trapc ∧ b.trappc = a.trappc ∧
      b.trapad = a.trapad ∧ b.trapx = a.trapx ∧ b.mask = a.mask ∧ b.scal = a.scal ∧ (t.grp gid).arm (1 - slot) = other)

/-- A trap at handler level ends the group with DOUBLE, R438: TRAPX holds the second cause and the first TRAPC; a cause of R437, or
a launch without a handler, ends the group with its cause; each end counts in the launch. -/
def Obligations.TrapsThatEndGroups : Prop :=
  ∀ (s : State) gid slot (t : TrapInfo) pc, (s.grp gid).live = true →
    let a := (s.grp gid).arm slot
    let u := s.takeTrapAt gid slot t pc
    let l := (s.grp gid).launch
    (a.handler = true → (u.grp gid).live = false ∧ (u.grp gid).cause =
      some ⟨53, 0, BitVec.ofNat 64 (t.cause.toNat + 256 * a.trapc.toNat)⟩) ∧
    (a.handler = false → (State.endsGroups t.cause = true ∨ s.hvec gid = 0) → (u.grp gid).live = false ∧ (u.grp gid).cause = some t) ∧
    ((a.handler = true ∨ State.endsGroups t.cause = true ∨ s.hvec gid = 0) → (u.launch l).nend = (s.launch l).nend + 1)

/-- eret completes, R443: FMT and s56-s63 with their poison come back from the shadow, the level is user, the arm goes on at TRAPPC inside
the clause that the shadow names, or enters the clause there where TRAPPC names no instruction word of it; the mask and every other
register of the arm and the group are as before; the done mask stays for the causes 20-23 and 61 alone; at user level it
traps PRIV, and a top frame that differs from the shadow's is a second trap. -/
def Obligations.EretCompletes : Prop :=
  ∀ s (f : YF), (s.ca.handler = false → exec (.eret f) s = .next (s.takeTrap (trapOf 5 0 0xD1))) ∧
    (s.ca.handler = true → s.ca.top ≠ s.ca.shadow.top → exec (.eret f) s = .next (s.takeTrap (trapOf 2))) ∧
    (s.ca.handler = true → s.ca.top = s.ca.shadow.top →
      ∃ t, exec (.eret f) s = .next t ∧ { t with groups := s.groups } = s ∧ (∀ k, k ≠ s.gid → t.grp k = s.grp k) ∧
        t.cg = s.cg.setArm s.slot t.ca ∧ SameArm { s.ca with handler := false, fmt := s.ca.shadow.fmt, done := t.ca.done, step := t.ca.step } t.ca ∧
        t.ca.handler = false ∧ t.ca.fmt = s.ca.shadow.fmt ∧ t.ca.mask = s.ca.mask ∧
        t.ca.scal = s.ca.scal.take 24 ++ s.ca.shadow.s56 ∧ t.ca.park = none ∧ t.ca.bw = s.ca.shadow.bw ∧
        (∀ n, n < 32 → bit t.ca.spois n = if n < 24 then bit s.ca.spois n else bit s.ca.shadow.pois (n - 24)) ∧
        t.ca.step = bit s.cctx.dbgctl 0 ∧
        t.ca.done = (if s.ca.trapc.toNat ∈ [20, 21, 22, 23, 61] then s.ca.trapx.setWidth 32 else 0) ∧
        (∀ c k, s.ca.shadow.clause = some c → k < c.words.length → 8 * c.words.length + 8 < 2 ^ 64 →
          s.ca.trappc = c.hdr + BitVec.ofNat 64 (8 * (k + 1)) → t.ca.clause = some { c with idx := k }) ∧
        ((∀ c k, s.ca.shadow.clause = some c → k < c.words.length → s.ca.trappc ≠ c.hdr + BitVec.ofNat 64 (8 * (k + 1))) →
          t.ca.clause = none ∧ t.ca.pc = s.ca.trappc))

/-- trap, brk and an unassigned opcode take TRAP_SW, BREAK and ILLEGAL_OP, R90, R442: at user level with a handler, the arm enters it
with the code in TRAPX and its own address in TRAPPC. -/
def Obligations.SoftwareTrapsTaken : Prop :=
  let taken := fun (i : Instr) (s : State) (cause : Cause) (x : Word) =>
    exec i s = .next (s.takeTrap ⟨cause, 0, x⟩) ∧
    (TakesHandler s s.gid s.slot → ∃ t, exec i s = .next t ∧ t.ca.handler = true ∧ t.ca.pc = s.hvec s.gid ∧ t.ca.trapc = cause ∧ t.ca.trappc = s.ipc ∧ t.ca.trapx = x)
  (∀ s (f : YF), Acts s f.g → Passes s f.g [] [] → taken (.trapSw f) s 0 (f.imm.setWidth 64)) ∧
  (∀ s (f : YF), Acts s f.g → Passes s f.g [] [] → taken (.brk f) s 55 (f.imm.setWidth 64)) ∧
  (∀ s (w : Word), taken (.illegalOp w) s 1 (w >>> 56))

/-- A vector register beyond the window traps REG_UNMAPPED, R64, with a register beyond it that an operand names (where several operands
name one, any), and where all are mapped a poisoned source traps UE_DATA, R500, the order of the two being the model's choice (log 50);
a write of s0-s31 in a diverged group traps DIVERGED_SCALAR with the scalar's number, R75; nothing of the instruction takes place (R92). -/
def Obligations.RegisterChecksTrap : Prop :=
  (∀ k ∈ laneKinds, ∀ s (f : VF), s.rdTrap (.p f.g.ps.toNat s.armMask) = none →
    let regs := (f.d.toNat, if k.2.1 f then 2 else 1) :: srcRegs (k.2.2 f)
    ((∃ r ∈ regs, s.cg.window < r.1 + r.2) → ∃ r ∈ regs, s.cg.window < r.1 + r.2 ∧
      exec (k.1 f) s = .next (s.takeTrap ⟨6, 0, BitVec.ofNat 64 (max r.1 s.cg.window)⟩)) ∧
    ((∀ r ∈ regs, r.1 + r.2 ≤ s.cg.window) → (∃ r ∈ srcReads (s.active f.g) (k.2.2 f), s.rdTrap r ≠ none) →
      ∃ x, exec (k.1 f) s = .next (s.takeTrap ⟨51, 0, x⟩))) ∧
  (let kinds : List (SF → Instr) := [.sadd, .ssub, .smul, .sand, .sor, .sxor, .sshl, .sshr, .ssar, .scmp]
  ∀ mk ∈ kinds, ∀ s (f : SF), Acts s f.g → Passes s f.g [] (.s f.a.toNat :: if f.immf then [] else [.s f.b.toNat]) →
    f.d.toNat < 32 → s.cg.converged = false → exec (mk f) s = .next (s.takeTrap ⟨7, 0, f.d.setWidth 64⟩))

/-! ### Privileged instructions (row 0xD) -/

/-- sysrd, syswr, errinj and xinv at user level trap PRIV with their opcode, R86, and so does gkill. -/
def Obligations.PrivilegedTrapAtUserLevel : Prop :=
  ∀ s (f : YF), s.ca.handler = false →
    exec (.sysrd f) s = .next (s.takeTrap ⟨5, 0, 0xD3⟩) ∧ exec (.syswr f) s = .next (s.takeTrap ⟨5, 0, 0xD4⟩) ∧
    exec (.syswrRoute f) s = .next (s.takeTrap ⟨5, 0, 0xD4⟩) ∧ exec (.syswrHvec f) s = .next (s.takeTrap ⟨5, 0, 0xD4⟩) ∧
    exec (.syswrInjctl f) s = .next (s.takeTrap ⟨5, 0, 0xD4⟩) ∧ exec (.xinvPage f) s = .next (s.takeTrap ⟨5, 0, 0xD5⟩) ∧
    exec (.xinvRange f) s = .next (s.takeTrap ⟨5, 0, 0xD5⟩) ∧ exec (.xinvCtx f) s = .next (s.takeTrap ⟨5, 0, 0xD5⟩) ∧
    exec (.errinj f) s = .next (s.takeTrap ⟨5, 0, 0xD6⟩) ∧ exec (.gkill f) s = .next (s.takeTrap ⟨5, 0, 0xD8⟩)

/-- sysrd completes for every register that the context reaches, and syswr for every one that it may write: a value in the register's
range takes effect there and nowhere else, any other traps ILLEGAL_FIELD with the register unchanged, and so does a number that
the context does not reach, R434, R445, R447, R461, R504. The ranges of a value wider than its field, of WCTL's size (2-36), the alignment
of WADDR to that size, the reserved bits of ROUTE and the poison of a shadow scalar are the model's reading (log 33). -/
def Obligations.PrivilegedRegistersComplete : Prop :=
  let wr := fun (n : Nat) (mk : YF → Instr) (svc : Bool) (ok : State → Nat → Prop) (R : State → Nat → State → Prop) =>
    ∀ s (f : YF), s.ca.handler = true → (svc = true → s.serviceCtx = true) → f.imm = BitVec.ofNat 16 n → Acts s f.g →
      Passes s f.g [] [.s f.a.toNat] →
      let v := (s.sreg f.a.toNat).toNat
      (ok s v → ∃ t, exec (mk f) s = .next t ∧ R s v t) ∧ (¬ ok s v → exec (mk f) s = .next (s.takeTrap ⟨2, 0, 0⟩))
  let inCtx := fun (c : Ctx → Nat → Ctx) (s : State) v (t : State) => { t with groups := s.groups, ctxs := s.ctxs } = s ∧
    t.cctx = c s.cctx v ∧ (∀ k, k ≠ s.cg.ctx → t.ctx k = s.ctx k) ∧ Advances s t
  let inDev := fun (d : DevRegs → Nat → DevRegs) (s : State) v (t : State) => { t with groups := s.groups, dev := s.dev } = s ∧
    t.dev = d s.dev v ∧ Advances s t
  let inArm := fun (h : Shadow → Nat → Shadow) (s : State) v (t : State) => { t with groups := s.groups } = s ∧
    (∀ k, k ≠ s.gid → t.grp k = s.grp k) ∧ t.cg = s.cg.setArm s.slot t.ca ∧ t.ca.scal = s.ca.scal ∧ t.ca.spois = s.ca.spois ∧
    SameArm { s.ca with shadow := h s.ca.shadow v } t.ca ∧ GoesOn s t
  let below := fun (w : Nat) (_ : State) (v : Nat) => v < 2 ^ w
  (∀ s (f : YF), s.ca.handler = true → let n := f.imm.toNat
    (sysHandler n = true ∨ (sysService n = true ∧ s.serviceCtx = true) → Acts s f.g → (f.d.toNat < 32 → s.cg.converged = true) →
      Passes s f.g [] [] → ∃ t, exec (.sysrd f) s = .next t ∧ OnlyWrites s t { s := fun k => k == f.d.toNat } ∧ GoesOn s t ∧
        t.sreg f.d.toNat = s.sysReg n ∧
        (t.cg.spoison t.slot f.d.toNat = true ↔ 0x28 ≤ n ∧ n ≤ 0x2F ∧ bit s.ca.shadow.pois (n - 0x28) = true)) ∧
    (sysHandler n = false → sysService n = false ∨ s.serviceCtx = false → exec (.sysrd f) s = .next (s.takeTrap ⟨2, 0, 0⟩))) ∧
  wr 3 .syswr false (fun _ v => v < 2 ^ 52 ∧ v % 2 ^ 14 = 0) (inCtx fun c v => { c with ptbase := v }) ∧
  wr 6 .syswr false (fun _ v => 10 ≤ v ∧ v ≤ 1000000) (inCtx fun c v => { c with rtmo := v }) ∧
  wr 7 .syswr false (below 58) (inCtx fun c v => { c with hsave := v }) ∧
  wr 8 .syswr false (below 8) (inCtx fun c v => { c with dbgctl := BitVec.ofNat 8 (v % 2) }) ∧
  (∀ k, k < 4 → wr (0x10 + k) .syswr false (fun s v => v < 2 ^ 58 ∧ v % 2 ^ ((s.cctx.wctl.getD k 0).toNat / 4) = 0)
    (inCtx fun c v => { c with waddr := c.waddr.set k v })) ∧
  (∀ k, k < 4 → wr (0x14 + k) .syswr false (fun _ v => v < 2 ^ 8 ∧ 2 ≤ v / 4 ∧ v / 4 ≤ 36)
    (inCtx fun c v => { c with wctl := c.wctl.set k (BitVec.ofNat 8 v) })) ∧
  wr 0x20 .syswr false (below 32) (inArm fun h v => { h with fmt := BitVec.ofNat 32 (v % 2 ^ 23) }) ∧
  (∀ k, k < 8 → wr (0x28 + k) .syswr false (fun _ _ => True)
    (inArm fun h v => { h with s56 := h.s56.set k (BitVec.ofNat 64 v), pois := setBit h.pois k false })) ∧
  (∀ k, k < 256 → wr (0x100 + k) .syswr true (fun _ v => v < 2 ^ 32 ∧ v / 2 ^ 8 % 2 ^ 22 = 0)
    (inCtx fun c v => { c with peers := mset 0 c.peers k (if 2 ^ 31 ≤ v then BitVec.ofNat 64 v else 0) })) ∧
  (∀ k, k < 256 → wr (0x200 + k) .syswr true (below 16) (inDev fun d v => { d with expb := mset 0xFFFF d.expb k v })) ∧
  wr 0x300 .syswr true (fun _ v => v < 2 ^ 52 ∧ v % 2 ^ 13 = 0) (inDev fun d v => { d with flogbase := v }) ∧
  wr 0x301 .syswr true (below 32) (inDev fun d v => { d with flogOver := d.flogOver &&& (65535 - v / 65536) }) ∧
  wr 0x302 .syswr true (below 32) (inCtx fun c v => { c with hooksh := BitVec.ofNat 32 v }) ∧
  wr 0x303 .syswr true (fun _ v => 1 ≤ v ∧ v ≤ 1000) (inDev fun d v => { d with keytmo := v }) ∧
  wr 0x380 .syswr true (below 32) (inDev fun d v => { d with elsel := BitVec.ofNat 32 (v / 16 * 16 + v % 8) }) ∧
  (∀ k, k < 16 → wr (0x3A0 + k) .syswr true (fun _ _ => True)
    (inDev fun d v => { d with injadr := mset 0 d.injadr k (BitVec.ofNat 64 v) })) ∧
  (∀ s (f : YF), s.ca.handler = true → sysHandlerRw f.imm.toNat = false →
    s.serviceCtx = false ∨ f.imm.toNat ∈ [0, 1, 2, 5, 9, 10, 11, 0x381, 0x382, 0x383] → exec (.syswr f) s = .next (s.takeTrap ⟨2, 0, 0⟩)) ∧
  wr 4 .syswrHvec false (fun _ v => v < 2 ^ 58 ∧ v % 8 = 0) (fun s v t => { t with groups := s.groups, launches := s.launches } = s ∧
    t.launch s.cg.launch = { s.launch s.cg.launch with hvec := BitVec.ofNat 64 v } ∧
    (∀ k, k ≠ s.cg.launch → t.launch k = s.launch k) ∧ Advances s t) ∧
  (∀ i j, i < 26 → j < 26 → i ≠ j → wr (0x4000 + 32 * i + j) .syswrRoute true (below 32) fun s v t =>
    let r := t.route i j
    let bad := v % 4 = 3 ∧ (26 ≤ v / 4 % 32 ∨ v / 4 % 32 = i ∨ v / 4 % 32 = j)
    { t with groups := s.groups, routes := s.routes } = s ∧ Advances s t ∧ r.eff = (s.route i j).eff ∧
    (bad → r.err = true ∧ r.mode = (s.route i j).mode ∧ r.relay = (s.route i j).relay ∧ r.busy = (s.route i j).busy) ∧
    (¬ bad → r.mode = v % 4 ∧ r.relay = v / 4 % 32 ∧ (r.err = true ↔ (s.route i j).err = true ∧ v.testBit 9 = false) ∧
      (r.busy = true ↔ (s.route i j).busy = true ∨ v % 4 ≠ (s.route i j).mode ∨ v / 4 % 32 ≠ (s.route i j).relay)) ∧
    (r.evt = true ↔ (s.route i j).evt = true ∧ v.testBit 14 = false)) ∧
  (∀ k, k < 16 → wr (0x390 + k) .syswrInjctl true (fun _ _ => True) fun s v t =>
    let w := mget 0 t.dev.injctl k
    { t with groups := s.groups, dev := s.dev } = s ∧ { t.dev with injctl := s.dev.injctl } = s.dev ∧ Advances s t ∧
    bit w 62 = false ∧ bit w 63 = bit (mget 0 s.dev.injctl k) 63 ∧ (∀ b, 28 ≤ b → b < 58 → bit w b = v.testBit b) ∧
    ∀ q, q ≠ k → mget 0 t.dev.injctl q = mget 0 s.dev.injctl q) ∧
  (∀ s (f : YF), s.ca.handler = true → s.serviceCtx = true → f.imm.toNat < 16 → Acts s f.g → Passes s f.g [] [] →
    let k := f.imm.toNat
    ∃ t, exec (.errinj f) s = .next t ∧ { t with groups := s.groups, dev := s.dev } = s ∧
      { t.dev with injctl := s.dev.injctl } = s.dev ∧ Advances s t ∧ bit (mget 0 t.dev.injctl k) 62 = true ∧
      bit (mget 0 t.dev.injctl k) 63 = false ∧ (∀ b, b < 62 → bit (mget 0 t.dev.injctl k) b = bit (mget 0 s.dev.injctl k) b) ∧
      ∀ q, q ≠ k → mget 0 t.dev.injctl q = mget 0 s.dev.injctl q) ∧
  (∀ s (f : YF), s.ca.handler = true → s.serviceCtx = false → exec (.errinj f) s = .next (s.takeTrap ⟨2, 0, 0⟩))

/-- xinv.page, xinv.range and xinv.ctx complete, R450, once the homes that the release needs can serve it, no checked access or copy
still uses the old entries, and no xinv that arrived earlier is still to be done: no core, no die and not the ingress MMU keeps a translation of the named pages for the context's
address space or partition, what walks had told waiting probes of the pages is forgotten, and no register changes; until then the arm is
parked with the step of its arrival, and goes on from there. A range that is no multiple
of 16 KiB, or above 2^44, traps ALIGN, and an empty one does nothing. -/
def Obligations.TranslationInvalidatesComplete : Prop :=
  let gone := fun (s t : State) (lo hi : Nat) =>
    GoesOn s t ∧ SameRegs s t ∧ OnlyCounts (s.untold s.cctx.asid lo hi) t ∧
    (∀ p ∈ t.cores, ∀ e ∈ p.2.tlb, ¬ (s.xinvOwn s.cctx.asid s.cctx.part e = true ∧ e.meets lo hi = true)) ∧
    (∀ p ∈ t.diesSt, ∀ e ∈ p.2.tlb, ¬ (s.xinvOwn s.cctx.asid s.cctx.part e = true ∧ e.meets lo hi = true)) ∧
    ∀ e ∈ t.ingressTlb, ¬ (s.xinvOwn s.cctx.asid s.cctx.part e = true ∧ e.meets lo hi = true)
  let fresh := fun (s : State) => (∀ a b n, s.ca.park ≠ some (.xinv a b n)) ∧ s.relWaits 7 = false
  let quiet := fun (u : State) (f : YF) (lo hi : Nat) => u.xinvWaits lo hi = false ∧
    (bit f.sub 2 = true → u.flushWaits (u.xinvSpans lo hi false) = false)
  let waits := fun (i : Instr) (s : State) (lo hi : Nat) => ∃ t, exec i s = .next t ∧
    t.ca.park = some (.xinv lo hi (match s.ca.park with | some (.xinv _ _ n) => n | _ => s.tick)) ∧ SameRegs s t ∧
    ∀ k, k ≠ s.gid → t.grp k = s.grp k
  (∀ s (f : YF), s.ca.handler = true → Acts s f.g → Passes s f.g [] [.s f.a.toNat] → let p := pageOf (s.sreg f.a.toNat).toNat
    let r := s.xinvReach p
    r.1 ≤ p ∧ p < r.2 ∧
    (fresh s → quiet (s.releaseAct 7) f r.1 r.2 → ∃ t, exec (.xinvPage f) s = .next t ∧ gone s t r.1 r.2) ∧
    (fresh s → (s.releaseAct 7).xinvWaits r.1 r.2 = true → waits (.xinvPage f) s r.1 r.2) ∧
    ∀ lo hi n, s.ca.park = some (.xinv lo hi n) → (quiet s f lo hi → ∃ t, exec (.xinvPage f) s = .next t ∧ gone s t lo hi) ∧
      (s.xinvWaits lo hi = true → waits (.xinvPage f) s lo hi)) ∧
  (∀ s (f : YF), s.ca.handler = true → Acts s f.g → Passes s f.g [] [.s f.a.toNat, .s f.b.toNat] →
    let a := s.sreg f.a.toNat
    let n := (s.sreg f.b.toNat).toNat
    let lo := a.toNat / 16384
    let hi := (a.toNat + n) / 16384
    (a.toNat % 16384 ≠ 0 ∨ n % 16384 ≠ 0 ∨ 2 ^ 44 < n →
      exec (.xinvRange f) s = .next (s.takeTrap ⟨15, a, accessX (lowest (s.active f.g)) .read 7⟩)) ∧
    (a.toNat % 16384 = 0 → n % 16384 = 0 → n ≤ 2 ^ 44 →
      (n = 0 → ∃ t, exec (.xinvRange f) s = .next t ∧ OnlyWrites s t {} ∧ GoesOn s t) ∧
      (n ≠ 0 → (fresh s → quiet (s.releaseAct 7) f lo hi → ∃ t, exec (.xinvRange f) s = .next t ∧ gone s t lo hi) ∧
        (fresh s → (s.releaseAct 7).xinvWaits lo hi = true → waits (.xinvRange f) s lo hi) ∧
        (∀ n, s.ca.park = some (.xinv lo hi n) → quiet s f lo hi → ∃ t, exec (.xinvRange f) s = .next t ∧ gone s t lo hi)))) ∧
  (∀ s (f : YF), s.ca.handler = true → Acts s f.g → Passes s f.g [] [] →
    ((fresh s ∧ (s.releaseAct 7).xinvWaits 0 (2 ^ 44) = false) ∨ ((∃ n, s.ca.park = some (.xinv 0 (2 ^ 44) n)) ∧ s.xinvWaits 0 (2 ^ 44) = false) →
      ∃ t, exec (.xinvCtx f) s = .next t ∧ gone s t 0 (2 ^ 44) ∧ ∀ p ∈ t.cores, p.2.icache = []) ∧
    (fresh s → (s.releaseAct 7).xinvWaits 0 (2 ^ 44) = true → waits (.xinvCtx f) s 0 (2 ^ 44)))

/-- gkill and pmark complete, R444, R452: a name that is no live group of the context answers 0 and ends nothing; a named group, or with
.team every group of its team, ends with KILLED; the answer is 1 once they have no tile operation left, until then gkill waits;
the issuing group ends itself where it is one of them. pmark goes on, but stops a user-level arm for which a pre-emption is pending. -/
def Obligations.KillAndMarkComplete : Prop :=
  let answers := fun (s t : State) (f : YF) =>
    GoesOn s t ∧ t.sreg f.d.toNat = 1 ∧ t.cg.spoison t.slot f.d.toNat = false
  (∀ s (f : YF), s.ca.handler = true → (∀ ts, s.ca.park ≠ some (.gkill ts)) → Acts s f.g → (f.d.toNat < 32 → s.cg.converged = true) →
    Passes s f.g [] [.s f.a.toNat] →
    (s.named (s.sreg f.a.toNat) = none → s.namedSaved (s.sreg f.a.toNat) = none →
      ∃ t, exec (.gkill f) s = .next t ∧ WroteS s t f.d.toNat 0) ∧
    (∀ g, s.named (s.sreg f.a.toNat) = some g →
      let targets := if bit f.sub 0 then s.teamGroups (s.grp g).tid else [g]
      (∀ x ∈ targets, (s.grp x).live = true) →
      ∃ t, exec (.gkill f) s = .next t ∧ t.mem = s.mem ∧
        (∀ x ∈ targets, (t.grp x).live = false ∧ (t.grp x).cause = some ⟨52, 0, 0⟩) ∧
        (s.gid ∉ targets → (s.team (s.grp g).tid).accQ = [] → (∀ x ∈ targets, ∀ p ∈ s.groups, p.2.uid = (s.grp x).uid → p.1 = x) →
          ((∀ x ∈ targets, (s.grp x).tiles = 0) → answers s t f) ∧
          ((∃ x ∈ targets, (s.grp x).tiles ≠ 0) → t.ca.park = some (.gkill (targets.map fun x => (s.grp x).uid))))) ∧
    (∀ tid, s.named (s.sreg f.a.toNat) = none → s.namedSaved (s.sreg f.a.toNat) = some tid → s.gid < 32 * 65536 →
      (s.team tid).accQ = [] → ∃ t, exec (.gkill f) s = .next t ∧ t.mem = s.mem ∧ answers s t f)) ∧
  (∀ s (f : YF) ts, s.ca.handler = true → s.ca.park = some (.gkill ts) →
    (s.killDone ts = true → ∃ t, exec (.gkill f) s = .next t ∧ WroteS s t f.d.toNat 1) ∧
    (s.killDone ts = false → exec (.gkill f) s = .next s)) ∧
  (∀ s (f : YF), Acts s f.g → Passes s f.g [] [] →
    ((s.preq = false ∨ s.ca.handler = true) → ∃ t, exec (.pmark f) s = .next t ∧ OnlyWrites s t {} ∧ GoesOn s t) ∧
    (s.preq = true → s.ca.handler = false → ∃ t, exec (.pmark f) s = .next t ∧ t.ca.park = some (.stopped (some f.imm.toNat)) ∧
      SameRegs s t ∧ { t with groups := s.groups } = s ∧ (∀ k, k ≠ s.gid → t.grp k = s.grp k) ∧ SameArm s.ca t.ca ∧
      t.ca.clause = s.ca.advance.clause ∧ t.ca.pc = s.ca.advance.pc ∧
      { t.cg with place := s.cg.place, arm0 := s.cg.arm0, arm1 := s.cg.arm1 } = s.cg ∧
      (s.slot ≤ 1 → t.cg.arm (1 - s.slot) = s.cg.arm (1 - s.slot))))

/-! ### Teams (row 0x6) -/

/-- bar, bararr, barwait and barexp complete, R204, R206-R209: an arrival adds the group to the record; with the last live group's
arrival and PEND = 0 the generation rises and the record is empty again; bar then goes on and otherwise waits on the generation;
bararr goes on with the generation in its scalar; a group that arrives twice in a generation waits; barwait goes on once the generation
has passed; barexp adds to PEND, and barexp.clear clears PEND and the poison. A poisoned record traps its cause (a group's second bararr
of a generation too: the model's choice, log 47), a sum that PEND
cannot hold BAR_OVF, an index without a record ILLEGAL_FIELD. No other record, level, team or group changes, no byte of memory, and no
register but bararr's. -/
def Obligations.BarriersComplete : Prop :=
  let onlyRec := fun (s t : State) (b : Nat) => t.mem = s.mem ∧ (∀ k, k ≠ s.gid → t.grp k = s.grp k) ∧
    { outside t with teams := s.teams } = outside s ∧ (∀ x, x ≠ s.cg.tid → t.team x = s.team x) ∧
    { t.team s.cg.tid with levels := s.cteam.levels } = s.cteam ∧
    (∀ l, l ≠ s.cg.lid → t.level s.cg.tid l = s.level s.cg.tid l) ∧
    { t.level s.cg.tid s.cg.lid with recs := (s.level s.cg.tid s.cg.lid).recs } = s.level s.cg.tid s.cg.lid ∧
    ∀ k, k ≠ b → t.barRec k = s.barRec k
  let arrived := fun (s : State) (b : Nat) (t : State) =>
    let r := s.barRec b
    let n := ((s.releaseAct 4).groupsOf s.cg.tid s.cg.lid).length
    let last := r.arr + 1 = n ∧ r.pend = 0
    (last → (t.barRec b).gen = r.gen + 1 ∧ (t.barRec b).arr = 0 ∧ (t.barRec b).arrset = 0) ∧
    (¬ last → (t.barRec b).gen = r.gen ∧ (t.barRec b).arr = r.arr + 1 ∧ (t.barRec b).arrset = setBit r.arrset s.cg.vslot true) ∧
    (t.barRec b).pend = r.pend ∧ (t.barRec b).psn = false ∧ onlyRec s t b ∧ t.ca.stores = 0
  let there := fun (s : State) (b : Nat) => b < (s.level s.cg.tid s.cg.lid).recs.length
  let ready := fun (s : State) (b : Nat) => s.cg.converged = true ∧ there s b ∧
    (s.barRec b).psn = false ∧ bit (s.barRec b).arrset s.cg.vslot = false
  let twice := fun (s : State) (b : Nat) => s.cg.converged = true ∧ there s b ∧
    (s.barRec b).psn = false ∧ bit (s.barRec b).arrset s.cg.vslot = true
  let poisoned := fun (s : State) (b : Nat) => there s b ∧ (s.barRec b).psn = true
  let trap := fun (s : State) (b : Nat) => s.takeTrap ⟨(s.barRec b).pcause, 0, BitVec.ofNat 64 b⟩
  (∀ s (f : SF), let b := f.imm.toNat
    (ready s b → (∀ k g, s.ca.park ≠ some (.bar k g)) →
      ∃ t, exec (.bar f) s = .next t ∧ arrived s b t ∧ SameRegs s t ∧
        ((t.barRec b).gen ≠ (s.barRec b).gen → GoesOn s t) ∧
        ((t.barRec b).gen = (s.barRec b).gen → t.ca.park = some (.bar b (s.barRec b).gen))) ∧
    (∀ k g, s.cg.converged = true → there s b → (s.barRec b).psn = false → s.ca.park = some (.bar k g) →
      ((s.barRec b).gen = g → exec (.bar f) s = .next s) ∧
      ((s.barRec b).gen ≠ g → ∃ t, exec (.bar f) s = .next t ∧ GoesOn s t ∧ SameRegs s t ∧ onlyRec s t b ∧ t.barRec b = s.barRec b)) ∧
    (twice s b → (∀ k g, s.ca.park ≠ some (.bar k g)) →
      ∃ t, exec (.bar f) s = .next t ∧ t.ca.park = some (.barDup b (s.barRec b).gen false) ∧ SameRegs s t ∧ { t with groups := s.groups } = s) ∧
    (s.cg.converged = true → poisoned s b → exec (.bar f) s = .next (trap s b)) ∧
    (¬ there s b → exec (.bar f) s = .next (s.takeTrap ⟨2, 0, 0⟩))) ∧
  (∀ s (f : SF), let b := f.imm.toNat
    (ready s b → ∃ t, exec (.bararr f) s = .next t ∧ arrived s b t ∧ GoesOn s t ∧
      t.sreg f.d.toNat = (s.barRec b).gen.setWidth 64 ∧ t.cg.spoison t.slot f.d.toNat = false ∧
      (∀ r l, t.cg.vlane r l = s.cg.vlane r l) ∧ (∀ p, t.cg.pred p = s.cg.pred p) ∧ t.ca.mask = s.ca.mask ∧ t.ca.fmt = s.ca.fmt ∧
      ∀ n, n < 64 → n ≠ f.d.toNat → t.sreg n = s.sreg n) ∧
    (twice s b → ∃ t, exec (.bararr f) s = .next t ∧ t.ca.park = some (.barDup b (s.barRec b).gen true) ∧ SameRegs s t ∧
      { t with groups := s.groups } = s) ∧
    (s.cg.converged = true → poisoned s b → exec (.bararr f) s = .next (trap s b)) ∧
    (¬ there s b → exec (.bararr f) s = .next (s.takeTrap ⟨2, 0, 0⟩))) ∧
  (∀ s (f : SF), let b := f.imm.toNat
    Acts s f.g → Passes s f.g [] [.s f.a.toNat] →
    (there s b → (s.barRec b).psn = false →
      ∃ t, exec (.barwait f) s = .next t ∧ SameRegs s t ∧ onlyRec s t b ∧ t.barRec b = s.barRec b ∧
        ((s.barRec b).gen ≠ (s.sreg f.a.toNat).setWidth 32 → GoesOn s t) ∧
        ((s.barRec b).gen = (s.sreg f.a.toNat).setWidth 32 → t.ca.park = some (.barWait b (s.barRec b).gen))) ∧
    (poisoned s b → exec (.barwait f) s = .next (trap s b)) ∧
    (¬ there s b → exec (.barwait f) s = .next (s.takeTrap ⟨2, 0, 0⟩))) ∧
  (∀ s (f : SF), let b := f.d.toNat
    let v : Int := if f.immf then f.imm.toInt else (s.sreg f.b.toNat).toInt
    let n := (s.groupsOf s.cg.tid s.cg.lid).length
    Acts s f.g → Passes s f.g [] (if f.immf then [] else [.s f.b.toNat]) →
    let done := fun (r : BarRec) => ∃ t, exec (.barexp f) s = .next t ∧ GoesOn s t ∧ SameRegs s t ∧ onlyRec s t b ∧
      ((r.arr = n ∧ n ≠ 0 ∧ r.pend = 0 ∧ r.psn = false) → (t.barRec b).gen = r.gen + 1 ∧ (t.barRec b).arr = 0 ∧ (t.barRec b).arrset = 0 ∧
        (t.barRec b).pend = 0 ∧ (t.barRec b).psn = false) ∧
      (¬ (r.arr = n ∧ n ≠ 0 ∧ r.pend = 0 ∧ r.psn = false) → t.barRec b = r)
    (there s b → f.a ≠ 1 → pendFits ((s.barRec b).pend + v) = true → done { s.barRec b with pend := (s.barRec b).pend + v }) ∧
    (there s b → f.a ≠ 1 → pendFits ((s.barRec b).pend + v) = false → exec (.barexp f) s = .next (s.takeTrap ⟨28, 0, BitVec.ofNat 64 b⟩)) ∧
    (there s b → f.a = 1 → done { s.barRec b with pend := 0, psn := false, pcause := 0 }) ∧
    (¬ there s b → exec (.barexp f) s = .next (s.takeTrap ⟨2, 0, 0⟩)))

/-- A group-collective instruction of a diverged group traps DIVERGED_COLLECTIVE with its opcode: those of row 0x6 (R203), the latched
tile instructions at stage 1 (R409), and xshfl (R387); that the opcode is in TRAPX is R439's. -/
def Obligations.DivergedCollectivesTrap : Prop :=
  ∀ s, s.cg.converged = false →
    (∀ f : SF, f.imm.toNat < (s.level s.cg.tid s.cg.lid).recs.length →
      exec (.bar f) s = .next (s.takeTrap ⟨8, 0, 0x60⟩) ∧ exec (.bararr f) s = .next (s.takeTrap ⟨8, 0, 0x61⟩)) ∧
    (∀ f : SF, exec (.pbar f) s = .next (s.takeTrap ⟨8, 0, 0x64⟩) ∧ exec (.tret f) s = .next (s.takeTrap ⟨8, 0, 0x66⟩)) ∧
    (∀ f : SF, Acts s f.g → Passes s f.g [] [.s f.a.toNat] → exec (.tcall f) s = .next (s.takeTrap ⟨8, 0, 0x65⟩)) ∧
    (∀ f : SF, Acts s f.g → Passes s f.g [] (if f.immf then [] else [.s f.b.toNat]) → (∀ n, s.ca.park ≠ some (.sktake n)) →
      exec (.skgive f) s = .next (s.takeTrap ⟨8, 0, 0x6A⟩) ∧ exec (.sktake f) s = .next (s.takeTrap ⟨8, 0, 0x6B⟩)) ∧
    (∀ f : SF, Acts s f.g → Passes s f.g [] (if f.immf then [] else [.s f.a.toNat]) →
      exec (.gangset f) s = .next (s.takeTrap ⟨8, 0, 0x6C⟩)) ∧
    (∀ (f : VF) (p : BitVec 8), (Instr.tvote f).wf = true → f.a = .v p → Acts s f.g →
      Passes s f.g (if f.sub = 3 then [(f.d.toNat, 1)] else []) [.p p.toNat (s.active f.g)] →
      exec (.tvote f) s = .next (s.takeTrap ⟨8, 0, 0x67⟩)) ∧
    (∀ f : TF, s.ca.park ≠ some .latch → s.cg.tileFlag = none → exec (.accalloc f) s = .next (s.takeTrap ⟨8, 0, 0xC0⟩) ∧
      exec (.accfree f) s = .next (s.takeTrap ⟨8, 0, 0xC1⟩) ∧ exec (.mma f) s = .next (s.takeTrap ⟨8, 0, 0xC3⟩)) ∧
    (∀ f : XF, Passes s f.g [(f.v.toNat, 1)] [.s f.s2.toNat] → exec (.xshfl f) s = .next (s.takeTrap ⟨8, 0, 0xB7⟩))

/-- pbar, tvote, tcall and tret complete, R210-R216. When the last group of the team is at pbar the team has arrived, and with the
panel's last team the generation rises; until then the groups wait. A tvote that every group has issued gives each group the vote
over the team's lanes, and all go on. A tcall whose groups have all come starts a strand for every callee of nonzero weight, with the
groups that the deal gives it, each at the callee's entry. A tret joins the groups that returned, and the parent resumes where its entry
says when every strand is done. No register changes but those the votes write, and no byte of memory that the release does not. That the
entry's address is that of the group whose issue lets the deal take place is the model's choice (log 47). -/
def Obligations.TeamCallsComplete : Prop :=
  let sameVals := fun (g h : Group) =>
    (∀ r l, h.vlane r l = g.vlane r l) ∧ (∀ p, h.pred p = g.pred p) ∧ h.scal = g.scal ∧ h.sole.scal = g.sole.scal ∧ h.sole.mask = g.sole.mask
  (∀ s (f : SF), s.cg.converged = true → (s.level s.cg.tid s.cg.lid).depth = 0 → (∀ g, s.ca.park ≠ some (.pbar g)) →
    s.relWaits 6 = false →
    let u := s.releaseAct 6
    let p := s.cteam.panel
    let g := (s.panel p).gen
    ∃ t, exec (.pbar f) s = .next t ∧ SameRegs s t ∧ (∀ k, k ≠ s.gid → t.grp k = s.grp k) ∧
      (u.othersAt (fun k => k == .pbar g) = false → t.ca.park = some (.pbar g) ∧ t.panels = s.panels) ∧
      (u.othersAt (fun k => k == .pbar g) = true → (u.panel p).arrived.contains s.cg.tid = false →
        ((∀ x ∈ (u.panel p).teams, x ≠ s.cg.tid → (u.team x).live = true → x ∈ (u.panel p).arrived) →
          (t.panel p).gen = g + 1 ∧ (t.panel p).arrived = [] ∧ GoesOn s t) ∧
        ((∃ x ∈ (u.panel p).teams, x ≠ s.cg.tid ∧ (u.team x).live = true ∧ x ∉ (u.panel p).arrived) →
          (t.panel p).gen = g ∧ s.cg.tid ∈ (t.panel p).arrived ∧ t.ca.park = some (.pbar g)))) ∧
  (∀ s (f : SF) g, s.cg.converged = true → s.ca.park = some (.pbar g) → g < (s.panel s.cteam.panel).gen →
    ∃ t, exec (.pbar f) s = .next t ∧ GoesOn s t ∧ SameRegs s t) ∧
  (∀ s (f : VF) (p : BitVec 8), (Instr.tvote f).wf = true → f.a = .v p → s.cg.converged = true → Acts s f.g →
    Passes s f.g (if f.sub = 3 then [(f.d.toNat, 1)] else []) [.p p.toNat (s.active f.g)] →
    let u := if (s.ca.park.map State.isTvote).getD false then s else s.releaseAct 4
    let gs := u.groupsOf s.cg.tid s.cg.lid
    let own := (p.toNat, f.sub.toNat, f.d.toNat)
    let asked := fun x => if x = s.gid then own else match (u.grp x).sole.park with | some (.tvote a b c) => (a, b, c) | _ => own
    let con := fun x => (u.grp x).sole.mask &&& (u.grp x).teamLanes
    let total := (gs.map fun x => popcount (con x)).sum
    let count := (gs.map fun x => popcount (con x &&& (u.grp x).pred (asked x).1)).sum
    ∃ t, exec (.tvote f) s = .next t ∧
      (u.othersAt State.isTvote = false → t.ca.park = some (.tvote p.toNat f.sub.toNat f.d.toNat) ∧ SameRegs s t) ∧
      (u.othersAt State.isTvote = true → gs.Nodup → s.gid ∈ gs → { t with groups := s.groups, checks := s.checks } = s ∧
        (∀ k, k ∉ gs → t.grp k = s.grp k) ∧ ∀ x ∈ gs,
          let g := u.grp x
          let h := t.grp x
          let m := (asked x).2.1
          let d := (asked x).2.2
          h.sole.clause = g.sole.advance.clause ∧ h.sole.pc = g.sole.advance.pc ∧ h.sole.park = none ∧ h.scal = g.scal ∧
          h.sole.mask = g.sole.mask ∧
          (m < 3 → d % 8 ≠ 0 → ∀ l, l < 32 → bit g.sole.mask l = true → bit (h.pred (d % 8)) l =
            (if m = 0 then count != 0 else if m = 1 then count == total else count == 0 || count == total)) ∧
          (m = 3 → ∀ l, bit (g.sole.mask &&& g.present) l = true → h.vlane d l = BitVec.ofNat 32 count) ∧
          (∀ r l, m ≠ 3 ∨ r ≠ d ∨ bit g.sole.mask l = false → h.vlane r l = g.vlane r l) ∧
          ∀ q l, m = 3 ∨ q ≠ d % 8 ∨ bit g.sole.mask l = false → bit (h.pred q) l = bit (g.pred q) l)) ∧
  (∀ s (f : SF) trs, s.cg.converged = true → Acts s f.g → Passes s f.g [] [.s f.a.toNat] → s.cg.lid < s.uids →
    let u := if (s.ca.park.map State.isTcall).getD false then s else s.releaseAct 4
    let addr := s.sreg f.a.toNat
    (u.othersAt State.isTcall = false → ∃ t, exec (.tcall f) s = .next t ∧ t.ca.park = some (.tcall addr) ∧ SameRegs s t) ∧
    (u.othersAt State.isTcall = true → (∀ g ∈ u.groupsOf u.cg.tid u.cg.lid, g ≠ u.gid → (u.grp g).sole.park = some (.tcall addr)) →
    addr.toNat % 64 = 0 → u.probe u.ccore u.cg.ctx (!u.ca.handler) .read [(0, addr), (0, addr + 64)] = .ok trs →
    let x := (tableOf u trs).1
    let bs := (tableOf u trs).2.1
    let w := (List.range 8).map fun i => (bs.getD (16 * i + 8) 0).toNat
    let entry := fun i => BitVec.ofNat 64 (natOfBytes ((List.range 8).map fun k => bs.getD (16 * i + k) 0))
    let m := (w.filter (· != 0)).length
    let gs := x.ranked
    (tableOf u trs).2.2 = false → 0 < m → m ≤ gs.length → gs.Nodup → s.gid ∈ gs →
    (x.level s.cg.tid s.cg.lid).depth ≠ 8 → 4 * m ≤ x.freeRecs x.ccore →
    ∃ t e, exec (.tcall f) s = .next t ∧ t.mem = x.mem ∧ (∀ k, k ∉ gs → t.grp k = s.grp k) ∧
      (t.level s.cg.tid s.cg.lid).call = some e ∧ e.resume = s.hdr + BitVec.ofNat 64 (8 * (s.nwords + 1)) ∧ e.returned = [] ∧
      e.strands.length = m ∧
      (∀ g ∈ gs, ((x.grp g).uid, (x.grp g).sole.fmt, (x.grp g).gang) ∈ e.saved) ∧
      ∀ (r g i : Nat), gs[r]? = some g → (dealRanks (dealCounts w gs.length))[r]? = some i →
        w.getD i 0 ≠ 0 ∧ (t.grp g).lid ∈ e.strands ∧ sameVals (x.grp g) (t.grp g) ∧ (t.grp g).gang = 0 ∧
        (t.grp g).sole.pc = entry i ∧ (t.grp g).sole.clause = none ∧ (t.grp g).sole.park = none ∧
        let l := t.level s.cg.tid (t.grp g).lid
        l.live = true ∧ l.kind = .strand i ∧ l.depth = (x.level s.cg.tid s.cg.lid).depth + 1 ∧ l.parent = s.cg.lid ∧
          l.recs = List.replicate 4 {})) ∧
  (∀ s (f : SF) callee e, s.cg.converged = true → s.ca.park ≠ some .tret → (s.level s.cg.tid s.cg.lid).kind = .strand callee →
    let l := (s.level s.cg.tid s.cg.lid).parent
    (s.level s.cg.tid l).call = some e → let n := f.imm.toNat
    n ≤ s.cg.chunks → (n = 0 ∨ s.topPending n = false) → s.cteam.skeinQ = [] →
    let u := (if n = 0 then s else s.giveChunks n).releaseAct 4
    let e' := { e with returned := e.returned ++ [s.cg.uid] }
    let v := (u.setLevel s.cg.tid l { u.level s.cg.tid l with call := some e' }).park .tret
    ∃ t, exec (.tret f) s = .next t ∧ t.mem = s.mem ∧ t.cg.chunks = s.cg.chunks - n ∧ t.cteam.skeinFree = s.cteam.skeinFree + n ∧
      (v.strandsDone s.cg.tid e' = false → t.ca.park = some .tret ∧ (t.level s.cg.tid l).call = some e' ∧ SameRegs s t ∧
        ∀ k, k ≠ s.gid → t.grp k = s.grp k) ∧
      (v.strandsDone s.cg.tid e' = true → (t.level s.cg.tid l).call = none ∧ ∀ uid ∈ e'.returned, ∀ g, v.findUid uid = some g →
        (t.grp g).lid = l ∧ sameVals (v.grp g) (t.grp g) ∧ (t.grp g).sole.pc = e.resume ∧ (t.grp g).sole.clause = none ∧
        (t.grp g).sole.park = none ∧ ∀ y, e.saved.find? (fun y => y.1 == (v.grp g).uid) = some y →
          (t.grp g).sole.fmt = y.2.1 ∧ (t.grp g).gang = y.2.2))

/-- fork, join, skgive, sktake and gangset complete, R217-R225: fork starts its children in a brood of their own, with copies of the
forking arm's FMT and scalars and every other register zero; without the slots, registers or records, or without a free block of the
launch's spill region for each child (the model's choice, log 31), it parks or traps. join goes on at
a count of 0. Chunks given back go to the skein; a request joins the queue's tail, and is granted where the free chunks suffice, each
lane of a new chunk holding zero or a value that the launch wrote into the skein. Nothing else changes. -/
def Obligations.ForksAndSkeinsComplete : Prop :=
  let others := fun (s t : State) => ∀ k, k ≠ s.gid → t.grp k = s.grp k
  let teams := fun (s t : State) (c : Team) => (∀ x, x ≠ s.cg.tid → t.team x = s.team x) ∧ t.team s.cg.tid = c
  (∀ s (f : SF), s.cg.live = true → Acts s f.g → Passes s f.g [] [] →
    let n := f.d.toNat
    let d := (s.level s.cg.tid s.cg.lid).depth
    let kids := (s.freeSlots s.ccore).take n
    let room := n ≤ (s.freeSlots s.ccore).length ∧ n ≤ (s.freeBlocks s.cg.launch).length ∧ n * (8 * f.a.toNat) ≤ s.freeRegs s.ccore ∧
      4 ≤ s.freeRecs s.ccore
    (d ≠ 8 → room →
    ∃ t, exec (.fork f) s = .next t ∧ GoesOn s t ∧ SameRegs s t ∧ t.mem = s.mem ∧ t.cg.joins = s.cg.joins + n ∧
      { t.cg with arm0 := s.cg.arm0, arm1 := s.cg.arm1, joins := s.cg.joins, chkHomes := s.cg.chkHomes } = s.cg ∧
      (∀ k, k ≠ s.gid → k ∉ kids → t.grp k = s.grp k) ∧ { outside t with teams := s.teams, uids := s.uids } = outside s ∧
      (∀ x, x ≠ s.cg.tid → t.team x = s.team x) ∧ { t.team s.cg.tid with levels := s.cteam.levels } = s.cteam ∧
      ∃ lid, (∀ l, l ≠ lid → t.level s.cg.tid l = s.level s.cg.tid l) ∧
        t.level s.cg.tid lid = { live := true, kind := .brood s.cg.uid, depth := d + 1, parent := s.cg.lid, recs := List.replicate 4 {} } ∧
        ∀ g ∈ kids, let c := t.grp g
          c.live = true ∧ c.forker = some s.cg.uid ∧ c.ctx = s.cg.ctx ∧ c.launch = s.cg.launch ∧ c.tid = s.cg.tid ∧ c.lid = lid ∧
          c.base = 8 * f.a.toNat ∧ c.chunks = 0 ∧ c.teamLanes = BitVec.allOnes 32 ∧ c.joins = 0 ∧ c.gang = 0 ∧ c.frames = [] ∧
          c.arm0.live = true ∧ c.arm1.live = false ∧ c.arm0.mask = BitVec.allOnes 32 ∧ c.arm0.clause = none ∧
          c.arm0.pc = s.hdr + 8 * f.imm.signExtend 64 ∧ c.arm0.fmt = s.ca.fmt ∧ c.arm0.handler = false ∧ c.scal = s.cg.scal ∧
          c.arm0.scal = s.ca.scal ∧ (∀ r l, c.vlane r l = 0) ∧ (∀ p, p ≠ 0 → c.pred p = 0) ∧ c.seed = s.cg.seed) ∧
    (d = 8 → exec (.fork f) s = .next (s.takeTrap ⟨30, 0, 8⟩)) ∧
    (d ≠ 8 → ¬ room → f.b ≠ 1 → exec (.fork f) s = .next (s.takeTrap ⟨33, 0, BitVec.ofNat 64 n⟩)) ∧
    (d ≠ 8 → ¬ room → f.b = 1 → ∃ t, exec (.fork f) s = .next t ∧ t.ca.park = some (.forkWait n (8 * f.a.toNat)) ∧ SameRegs s t ∧
      { t with groups := s.groups } = s ∧ others s t)) ∧
  (∀ s (f : SF), Acts s f.g → Passes s f.g [] [] → ∃ t, exec (.join f) s = .next t ∧ SameRegs s t ∧ others s t ∧ t.mem = s.mem ∧
    outside t = outside s ∧ (s.cg.joins = 0 → GoesOn s t ∧ OnlyCounts s t) ∧ (s.cg.joins ≠ 0 → t.ca.park = some .join)) ∧
  (∀ s (f : SF), s.cg.converged = true → Acts s f.g → Passes s f.g [] (if f.immf then [] else [.s f.b.toNat]) →
    let n := s.skeinCount f
    (n = 0 → ∃ t, exec (.skgive f) s = .next t ∧ OnlyWrites s t {} ∧ GoesOn s t) ∧
    (s.cg.chunks < n → exec (.skgive f) s = .next (s.takeTrap ⟨35, 0, BitVec.ofNat 64 n⟩)) ∧
    (0 < n → n ≤ s.cg.chunks → s.topPending n = true → exec (.skgive f) s = .next s) ∧
    (0 < n → n ≤ s.cg.chunks → s.topPending n = false → s.cteam.skeinQ = [] →
      ∃ t, exec (.skgive f) s = .next t ∧ GoesOn s t ∧ SameRegs s t ∧ SameArm s.ca t.ca ∧ others s t ∧
        { t with groups := s.groups, teams := s.teams } = s ∧
        t.cg = { s.cg with chunks := s.cg.chunks - n }.setArm s.slot t.ca ∧
        teams s t { s.cteam with skeinFree := s.cteam.skeinFree + n })) ∧
  (∀ s (f : SF), s.cg.converged = true → Acts s f.g → Passes s f.g [] (if f.immf then [] else [.s f.b.toNat]) →
    (∀ k, s.ca.park ≠ some (.sktake k)) →
    let n := s.skeinCount f
    let fits := n ≤ s.cteam.skeinSize ∧ s.cg.window + 8 * n ≤ 256
    (n = 0 → ∃ t, exec (.sktake f) s = .next t ∧ OnlyWrites s t {} ∧ GoesOn s t) ∧
    (0 < n → ¬ fits → exec (.sktake f) s = .next (s.takeTrap ⟨35, 0, BitVec.ofNat 64 n⟩)) ∧
    (0 < n → fits → s.cteam.skeinQ = [] → n ≤ s.cteam.skeinFree → s.findUid s.cg.uid = some s.gid →
      ∃ t, exec (.sktake f) s = .next t ∧ GoesOn s t ∧ SameArm s.ca t.ca ∧ t.ca.scal = s.ca.scal ∧ others s t ∧
        { t with groups := s.groups, teams := s.teams, freeCtr := s.freeCtr } = s ∧
        teams s t { s.cteam with skeinFree := s.cteam.skeinFree - n } ∧ t.cg.chunks = s.cg.chunks + n ∧
        { t.cg with chunks := s.cg.chunks, vregs := s.cg.vregs, vpois := s.cg.vpois, arm0 := s.cg.arm0, arm1 := s.cg.arm1 } = s.cg ∧
        (∀ r l, r < s.cg.window ∨ t.cg.window ≤ r → t.cg.vlane r l = s.cg.vlane r l ∧ t.cg.vpoison r = s.cg.vpoison r) ∧
        ∀ r l, s.cg.window ≤ r → r < t.cg.window → t.cg.vlane r l ∈ 0 :: s.skeinPool s.cg.launch ∧ t.cg.vpoison r = 0) ∧
    (∀ u k rest, 0 < n → fits → s.cteam.skeinQ ++ [(s.cg.uid, n)] = (u, k) :: rest → s.cteam.skeinFree < k →
      ∃ t, exec (.sktake f) s = .next t ∧ t.ca.park = some (.sktake n) ∧ SameRegs s t ∧ others s t ∧
        { t with groups := s.groups, teams := s.teams } = s ∧
        teams s t { s.cteam with skeinQ := s.cteam.skeinQ ++ [(s.cg.uid, n)] })) ∧
  (∀ s (f : SF) k, s.ca.park = some (.sktake k) →
    ((∃ q ∈ s.cteam.skeinQ, q.1 = s.cg.uid) → exec (.sktake f) s = .next s) ∧
    ((∀ q ∈ s.cteam.skeinQ, q.1 ≠ s.cg.uid) → ∃ t, exec (.sktake f) s = .next t ∧ OnlyWrites s t {} ∧ GoesOn s t)) ∧
  (∀ s (f : SF), s.cg.converged = true → Acts s f.g → Passes s f.g [] (if f.immf then [] else [.s f.a.toNat]) →
    let v := if f.immf then f.imm else (s.sreg f.a.toNat).setWidth 32
    let good := v = 0 ∨ (2 ≤ popcount v ∧ popcount v ≤ 6 ∧ bit v s.cg.vslot = true ∧
      ∀ k ∈ maskList v, ∃ g ∈ s.groupsOf s.cg.tid s.cg.lid, (s.grp g).vslot = k)
    (good → ∃ t, exec (.gangset f) s = .next t ∧ GoesOn s t ∧ SameRegs s t ∧ SameArm s.ca t.ca ∧ others s t ∧
      { t with groups := s.groups } = s ∧ t.cg = { s.cg with gang := v }.setArm s.slot t.ca) ∧
    (¬ good → exec (.gangset f) s = .next (s.takeTrap ⟨36, 0, 0⟩)))

/-! ### Memory (rows 0x7 to 0x9) -/

/-- lds, ldc, sts, stc and atoms complete, R244, R245, R248, R251, R500: a load waits to be committed with each active lane's bytes of
the scratchpad that its address names, and their poison (after the injected errors that its lanes met, of which there are none where no
injection register has been written, R461); a store writes each team lane's bytes with their marks, the higher lane last,
and no other byte of any scratchpad; atoms over distinct places returns the old values and leaves the new ones. Beside its counts
nothing of the arm changes, nor of its group, and nothing outside the actions of the order. That a store or atoms which no team lane
performs retires without its order's actions is DEDUCED (log 46). -/
def Obligations.ScratchpadAccessesComplete : Prop :=
  let regs := fun (f : MF) => (f.t.toNat, sizeRegs f.sz) :: offRegs f.off
  let same := fun (s u t : State) => GoesOn s t ∧ SameRegs s t ∧ OnlyCounts s t ∧ t.mem = u.mem
  let load := fun (mk : MF → Instr) (window : Bool) => ∀ s (f : MF) tid off,
    Passes s f.g (regs f) (addrReads f.base f.off (s.active f.g)) →
    SpAccesses s window .read f.sz.bytes (s.eas f.base f.off f.disp.toInt (s.active f.g)) tid off →
    (f.ord = .sc → s.relWaits f.sc.code = false) →
    let lanes := maskList (s.active f.g)
    let u := if s.active f.g = 0 then s else lanes.foldl (fun u l => u.spInject (tid l) (off l) f.sz.bytes) (s.beforeLoad f)
    ∃ t ws, exec (mk f) s = .next t ∧ same s u t ∧ outside t = outside u ∧ t.ca.stores = u.ca.stores ∧
      t.ca.loads = s.ca.loads ++ (if s.active f.g = 0 then [] else [ws]) ∧ ws.length = sizeRegs f.sz ∧
      ∀ k, k < sizeRegs f.sz → ∃ vals p, ws[k]? = some (RegW.v (f.t.toNat + k) (s.active f.g) vals p) ∧
        ∀ l, bit (s.active f.g) l = true →
          (vals.getD l 0).toNat = natOfBytes (mgetList 0 (u.team (tid l)).sp (off l + 4 * k) (min 4 f.sz.bytes)) ∧
          bit p l = (List.range f.sz.bytes).any fun j => mget false (u.team (tid l)).spPois (off l + j)
  let store := fun (mk : MF → Instr) (window : Bool) => ∀ s (f : MF) tid off,
    Passes s f.g (regs f) (addrReads f.base f.off (s.active f.g)) →
    let lanes := s.eas f.base f.off f.disp.toInt (s.teamOnly (s.active f.g))
    SpAccesses s window .write f.sz.bytes lanes tid off → (f.ord.isRel = true → s.relWaits f.sc.code = false) →
    let u := if s.teamOnly (s.active f.g) = 0 then s else released s f.ord f.sc
    let data := fun l => s.dataOf f.t.toNat (sizeRegs f.sz) f.sz.bytes l
    ∃ t, exec (mk f) s = .next t ∧ same s u t ∧ t.ca.loads = s.ca.loads ∧
      t.ca.stores = (if s.teamOnly (s.active f.g) = 0 then s.ca.stores else u.ca.stores + 1) ∧
      { outside t with teams := (outside u).teams, subs := (outside u).subs } = outside u ∧
      t.subs = (lanes.foldl (fun v l => v.spStore (tid l.1) (off l.1) (data l.1).1 (data l.1).2) u).subs ∧ ∀ x,
      { t.team x with sp := (u.team x).sp, spPois := (u.team x).spPois } = u.team x ∧
      StoredTo f.sz.bytes ((lanes.filter fun l => tid l.1 == x).map fun l => (off l.1, (data l.1).1)) (u.team x).sp (t.team x).sp ∧
      MarkedBy f.sz.bytes ((lanes.filter fun l => tid l.1 == x).map fun l => (off l.1, (data l.1).2)) (u.team x).spPois (t.team x).spPois
  load .lds false ∧ load .ldc true ∧ store .sts false ∧ store .stc true ∧ (∀ s tid off n, NoInjection s → s.spInject tid off n = s) ∧
  (∀ s (f : AF) tid off, (Instr.atoms f).wf = true →
    let n := if f.sz = .b64 then 2 else 1
    let cas := f.aop = .cas
    let act := s.teamOnly (s.active f.g)
    Passes s f.g (offRegs f.off ++ [(f.opnd.toNat, n)] ++ (if cas then [(f.cmp.toNat, n)] else []) ++
        (if f.t = 0xFF then [] else [(f.t.toNat, n)]))
      (addrReads f.base f.off (s.active f.g) ++ [.v f.opnd.toNat n (s.active f.g)] ++
        (if cas then [.v f.cmp.toNat n (s.active f.g)] else [])) →
    let lanes := s.eas f.base f.off 0 act
    SpAccesses s true .rmw f.sz.bytes lanes tid off → atomTrap f.aop f.sz f.sc.code [] = none →
    (act = 0 → exec (.atoms f) s = .next s.retire) ∧ (act ≠ 0 → (f.ord.isRel = true → s.relWaits f.sc.code = false) →
    let u := released s f.ord f.sc
    let get := fun (r : BitVec 8) l => laneVal s.cg (f.sz == .b64) r.toNat l
    let old := fun l => natOfBytes (mgetList 0 (u.team (tid l)).sp (off l) f.sz.bytes)
    ∃ t, exec (.atoms f) s = .next t ∧ same s u t ∧
      t.ca.loads.length = s.ca.loads.length + (if f.t = 0xFF then 0 else 1) ∧
      t.ca.stores = u.ca.stores + (if f.t = 0xFF then 1 else 0) ∧
      { outside t with teams := (outside u).teams, subs := (outside u).subs } = outside u ∧
      ((∀ l ∈ lanes, ∀ m ∈ lanes, l.1 ≠ m.1 → (tid l.1, off l.1) ≠ (tid m.1, off m.1)) → NoInjection u →
      (∀ l ∈ lanes, (u.spRead (tid l.1) (off l.1) f.sz.bytes).2 = false) →
      t.ca.loads = s.ca.loads ++ (if f.t = 0xFF then [] else
        [oldWrites f.t.toNat (f.sz == .b64) (lanes.map fun l => (l.1, old l.1, false))]) ∧
      (∀ l ∈ lanes, mgetList 0 (t.team (tid l.1)).sp (off l.1) f.sz.bytes = bytesOfNat f.sz.bytes
        (aopNew f.aop (f.sz == .b64) (old l.1) (get f.opnd l.1) (if cas then get f.cmp l.1 else 0))) ∧
      ∀ x, { t.team x with sp := (u.team x).sp, spPois := (u.team x).spPois } = u.team x ∧
        ∀ a, (∀ l ∈ lanes, ¬ (tid l.1 = x ∧ off l.1 ≤ a ∧ a < off l.1 + f.sz.bytes)) →
          mget 0 (t.team x).sp a = mget 0 (u.team x).sp a ∧ mget false (t.team x).spPois a = mget false (u.team x).spPois a)))

/-- ld, st, sld, sst, atom and red complete, R248, R278-R282, R294: what each lane's access finds at its translated address is
outstanding for its registers; a store to a page that is cached nowhere, or to the host window, changes the bytes stored to
and no other; a store of one lane to a coherent sector that the die owns, or that no die has a copy of, changes the bytes in its L2, which
owns the sector then, and none of memory; a load that hits the L1 reads it, and one of a coherent page that misses reads the die's L2, or
where the L2 has no copy and no other die has, the home. Without a lane a load or store does nothing, and atom and red perform the
actions of their order alone (DEDUCED, log 46). Beside its counts nothing of
the arm changes, nor of its group, and outside the memory hierarchy nothing but what the release does. -/
def Obligations.GlobalAccessesComplete : Prop :=
  let same := fun (s u t : State) => GoesOn s t ∧ SameRegs s t ∧ OnlyCounts s t ∧ outside t = outside u
  let put := fun (u t : State) (n : Nat) (trs : List (Nat × Tr × TlbEntry)) (ws : List (Nat × List Byte)) =>
    ((∀ r ∈ trs, AtHome u r.2.1) → StoredTo n ws u.mem t.mem ∧ t.hostMem = u.hostMem) ∧
    ((∀ r ∈ trs, r.2.1.host = true ∧ r.2.1.hole = false) → StoredTo n ws u.hostMem t.hostMem ∧ t.mem = u.mem)
  (∀ s (f : MF) trs,
    Passes s f.g ((f.t.toNat, sizeRegs f.sz) :: offRegs f.off) (addrReads f.base f.off (s.active f.g)) →
    Accesses s (.ld f) (s.eas f.base f.off f.disp.toInt (s.active f.g)) trs →
    let u := (asked s (.ld f) trs).beforeLoad f
    let vals := (u.readLanes (lanesOf trs) f.sz.bytes).2
    (trs = [] → exec (.ld f) s = .next s.retire) ∧ (trs ≠ [] → ∃ t, exec (.ld f) s = .next t ∧ same s u t ∧ t.ca.stores = u.ca.stores ∧
      t.ca.loads = s.ca.loads ++ [loadWrites f.t.toNat (sizeRegs f.sz) vals] ∧
      ((∀ r ∈ trs, AtHome u r.2.1) → t.mem = u.mem ∧ (u.dev.injctl = [] → vals =
        trs.map fun r => (r.1, mgetList 0 u.mem r.2.1.pa f.sz.bytes, u.homePsn (r.2.1.pa / 64)))) ∧
      ∀ l tr e, trs = [(l, tr, e)] → tr.uncached = false → tr.host = false → tr.hole = false → u.dev.injctl = [] →
        let reads := fun (data : List Byte) (pois : Bool) => t.mem = u.mem ∧
          vals = [(l, (List.range f.sz.bytes).map fun k => data.getD (tr.pa % 64 + k) 0, pois)]
        let l1 := mget none (u.core u.ccore).l1 (tr.pa / 64)
        (∀ x, l1 = some x → reads x.data x.pois) ∧ (l1 = none → (u.core u.ccore).upd = [] → tr.coh = true →
          (∀ x, u.l2sect u.cdie (tr.pa / 64) = some (true, x) → x.cst ≠ .i → reads x.data x.psn) ∧
          (u.l2sect u.cdie (tr.pa / 64) = none → Quiet u (tr.pa / 64) → reads (u.homeData (tr.pa / 64)) (u.homePsn (tr.pa / 64)))))) ∧
  (∀ s (f : MF) trs,
    Passes s f.g ((f.t.toNat, sizeRegs f.sz) :: offRegs f.off) (addrReads f.base f.off (s.active f.g)) →
    Accesses s (.st f) (s.eas f.base f.off f.disp.toInt (s.teamOnly (s.active f.g))) trs →
    let u := released (asked s (.st f) trs) f.ord f.sc
    let n := f.sz.bytes
    (trs = [] → exec (.st f) s = .next s.retire) ∧ (trs ≠ [] → ∃ t, exec (.st f) s = .next t ∧ same s u t ∧ t.ca.loads = s.ca.loads ∧
      t.ca.stores = u.ca.stores + 1 ∧
      put u t n trs (trs.map fun r => (r.2.1.pa, (s.dataOf f.t.toNat (sizeRegs f.sz) n r.1).1)) ∧
      (∀ l tr e old, trs = [(l, tr, e)] → tr.uncached = false → tr.host = false → tr.hole = false → (u.core u.ccore).upd = [] →
        tr.coh = true → ((∃ x, u.l2sect u.cdie (tr.pa / 64) = some (true, x) ∧ x.cst = .o ∧ old = x.data) ∨
          (u.l2sect u.cdie (tr.pa / 64) = none ∧ Quiet u (tr.pa / 64) ∧ old = u.homeData (tr.pa / 64))) →
        t.mem = u.mem ∧ ∃ y, t.l2sect u.cdie (tr.pa / 64) = some (true, y) ∧ y.cst = .o ∧ ∀ k, k < 64 →
          y.data.getD k 0 = if tr.pa % 64 ≤ k ∧ k < tr.pa % 64 + n then
            (s.dataOf f.t.toNat (sizeRegs f.sz) n l).1.getD (k - tr.pa % 64) 0 else old.getD k 0))) ∧
  (∀ s (f : MF) trs, Acts s f.g → Passes s f.g [] (addrReads f.base f.off (s.active f.g)) → (f.t.toNat < 32 → s.cg.converged = true) →
    Accesses s (.sld f) [(lowest (s.active f.g), s.ea f.base f.off f.disp.toInt 0)] trs →
    let u := (asked s (.sld f) trs).beforeLoad f
    let vals := (u.readLanes (lanesOf trs) f.sz.bytes).2
    ∃ t, exec (.sld f) s = .next t ∧ same s u t ∧ t.ca.stores = u.ca.stores ∧
      t.ca.loads = s.ca.loads ++ [vals.map fun r => RegW.s f.t.toNat (BitVec.ofNat 64 (natOfBytes r.2.1)) r.2.2] ∧
      ((∀ r ∈ trs, AtHome u r.2.1) → t.mem = u.mem ∧ (u.dev.injctl = [] → vals =
        trs.map fun r => (r.1, mgetList 0 u.mem r.2.1.pa f.sz.bytes, u.homePsn (r.2.1.pa / 64))))) ∧
  (∀ s (f : MF) trs, Acts s f.g → Passes s f.g [] (addrReads f.base f.off (s.active f.g)) →
    (s.teamOnly (s.active f.g) = 0 → exec (.sst f) s = .next s.retire) ∧ (s.teamOnly (s.active f.g) ≠ 0 →
    Accesses s (.sst f) [(lowest (s.teamOnly (s.active f.g)), s.ea f.base f.off f.disp.toInt 0)] trs →
    let u := released (asked s (.sst f) trs) f.ord f.sc
    ∃ t, exec (.sst f) s = .next t ∧ same s u t ∧ t.ca.loads = s.ca.loads ∧ t.ca.stores = u.ca.stores + 1 ∧
      put u t f.sz.bytes trs (trs.map fun r => (r.2.1.pa, bytesOfNat f.sz.bytes (s.sreg f.t.toNat).toNat)))) ∧
  (∀ s (f : AF) trs,
    let n := if f.sz = .b64 then 2 else 1
    let regs := offRegs f.off ++ [(f.opnd.toNat, n)] ++ (if f.aop = .cas then [(f.cmp.toNat, n)] else []) ++
      (if f.t = 0xFF then [] else [(f.t.toNat, n)])
    let reads := addrReads f.base f.off (s.active f.g) ++ [.v f.opnd.toNat n (s.active f.g)] ++
      (if f.aop = .cas then [.v f.cmp.toNat n (s.active f.g)] else [])
    let lanes := s.eas f.base f.off 0 (s.teamOnly (s.active f.g))
    Passes s f.g regs reads → atomTrap f.aop f.sz f.sc.code (lanesOf trs) = none →
    let wide := f.sz == .b64
    let ops := s.aopOperands f (lanesOf trs)
    let after := fun (i : Instr) (red : Bool) => (released (asked s i trs) f.ord f.sc).rmwLanes f.sc.code red f.aop wide ops
    (Accesses s (.atom f) lanes trs → let u := released (asked s (.atom f) trs) f.ord f.sc
      ∃ t, exec (.atom f) s = .next t ∧ same s u t ∧ t.mem = (after (.atom f) false).1.mem ∧
      t.ca.loads = s.ca.loads ++ (if f.t = 0xFF ∨ trs = [] then [] else [oldWrites f.t.toNat wide (after (.atom f) false).2]) ∧
      t.ca.stores = u.ca.stores + (if f.t = 0xFF ∧ trs ≠ [] then 1 else 0)) ∧
    (Accesses s (.red f) lanes trs → let u := released (asked s (.red f) trs) f.ord f.sc
      ∃ t, exec (.red f) s = .next t ∧ same s u t ∧ t.mem = (after (.red f) true).1.mem ∧ t.ca.loads = s.ca.loads ∧
      t.ca.stores = u.ca.stores + (if trs = [] then 0 else 1))) ∧
  (∀ (s : State) l (t : Tr) v c sc aop wide, AtHome s t → t.coh = true → s.homePsn (t.pa / 64) = false → s.dev.injctl = [] →
    (s.core s.ccore).upd = [] → let n := if wide then 8 else 4
    t.pa % 64 + n ≤ 64 →
    let old := natOfBytes (mgetList 0 s.mem t.pa n)
    let r := s.rmwLanes sc false aop wide [(l, t, v, c)]
    r.2 = [(l, old, false)] ∧ StoredTo n [(t.pa, bytesOfNat n (aopNew aop wide old v c))] s.mem r.1.mem) ∧
  (∀ (s : State) l (t : Tr) v c sc aop wide es coh sl, t.hole = false → t.host = false → State.usesUpdLine t sc aop = true →
    (s.core s.ccore).upd = [⟨t.pa / 256, s.cg.ctx, coh, sl, aop, wide, es⟩] →
    let n := if wide then 8 else 4
    let k := t.pa % 256 / n
    let r := s.rmwLanes sc true aop wide [(l, t, v, c)]
    r.2 = [] ∧ r.1.mem = s.mem ∧ (r.1.core s.ccore).l1 = (s.core s.ccore).l1 ∧ (r.1.core s.ccore).upd =
      [⟨t.pa / 256, s.cg.ctx, coh, sl, aop, wide, mset none es k (some (match mget none es k with | some o => aopInt aop (8 * n) o v 0 | none => v))⟩])

/-- pref, cwb, cinv, cwbi and fence complete, R250, R276, R283, R285, R286, and change no register and nothing outside the memory
hierarchy but what a release applies (R385): after cwb of device scope no
byte of the line is dirty in the die's L2, after cwbi none is valid, after cinv only dirty ones are, and the L1 holds the line no
longer, where the homes that the line needs can serve it (R312); an address or a length that is no multiple of 256, or a length above
512 KiB, traps ALIGN; a release acknowledges the stores, and from device scope leaves no dirty byte of the context in the die's L2; an
acquire from cluster scope empties the L1. -/
def Obligations.CacheControlsComplete : Prop :=
  let same := fun (s t : State) => GoesOn s t ∧ SameRegs s t ∧ OnlyCounts s t
  let range := fun (mk : MF → Instr) (op : RangeOp) (R : L2Sect → Prop) (inv : Bool) => ∀ s (f : MF) l tr e, Acts s f.g →
    Passes s f.g [] [.s f.base.toNat, .s f.t.toNat] →
    let a := s.sreg f.base.toNat + BitVec.ofInt 64 f.disp.toInt
    let n := (s.sreg f.t.toNat).toNat
    (a.toNat % 256 ≠ 0 ∨ n % 256 ≠ 0 ∨ 524288 < n →
      exec (mk f) s = .next (s.takeTrap ⟨15, a, accessX (lowest (s.active f.g)) .read 7⟩)) ∧
    (a.toNat % 256 = 0 → n = 0 → ∃ t, exec (mk f) s = .next t ∧ OnlyWrites s t {} ∧ GoesOn s t) ∧
    (a.toNat % 256 = 0 → n = 256 → s.probe s.ccore s.cg.ctx (!s.ca.handler) .read [(lowest (s.active f.g), a)] = .ok [(l, tr, e)] →
      let u := used s .read [(l, tr, e)]
      u.armWaits (u.rangeNeeds op f.sc.code { tr with pa := e.pa a.toNat }) = false →
      ∃ t, exec (mk f) s = .next t ∧ same s t ∧ outside t = outside s ∧
        (tr.uncached = false → 7 ≤ f.sc.code → ∀ k, k < 4 → ∀ x,
          t.l2sect s.cdie (e.pa a.toNat / 256 * 4 + k) = some (false, x) → R x) ∧
        (tr.uncached = false → inv = true → ∀ k, k < 4 → mget none (t.core s.ccore).l1 (e.pa a.toNat / 256 * 4 + k) = none))
  (∀ s (f : MF), Passes s f.g (offRegs f.off) (addrReads f.base f.off (s.active f.g)) →
    ∃ t, exec (.pref f) s = .next t ∧ same s t ∧ outside t = outside s) ∧
  range .cwb .wb (fun x => x.drt = 0) false ∧ range .cinv .inv (fun x => x.val = x.val &&& x.drt) true ∧
  range .cwbi .wbi (fun x => x.val = 0) true ∧
  (∀ s (f : MF), Acts s f.g → Passes s f.g [] [] → (f.ord.isRel = true → s.relWaits f.sc.code = false) →
    ∃ t, exec (.fence f) s = .next t ∧ same s t ∧ { outside t with teams := s.teams, subs := s.subs } = outside s ∧
      (f.sc.code < 6 → t.teams = s.teams ∧ t.subs = s.subs ∧ t.mem = s.mem) ∧
      (f.ord.isRel = true → t.ca.stores = 0 ∧ t.cg.chkHomes = 0 ∧ (7 ≤ f.sc.code → ∀ sect x,
        t.l2sect s.cdie sect = some (false, x) → x.tag = s.cg.ctx → x.drt = 0)) ∧
      (f.ord.isAcq = true → t.cg.chkHomes = 0 ∧ (6 ≤ f.sc.code → (t.core s.ccore).l1 = [])))

/-- rld, rst and ratom complete, R317: an instruction with lanes left sends its lowest peer the replay of every lane that names it, after
the release of its order, and waits for the answer (where the planes are used up it waits unsent, R488); the last answer commits the
values and the instruction retires, and until every lane has its value the answers are kept; a refusal or a timeout traps for its lane with
the done mask as it stood (R319, R320, R440). At the target an access is performed and answered, or refused and logged, R318, R319. -/
def Obligations.RemoteAccessesComplete : Prop :=
  let form := fun (i : Instr) (k : XKind) => ∀ s F, remoteForm i = some F →
    let act := s.teamOnly (s.active F.g)
    let left := act &&& ~~~s.ca.done
    let ls := s.remoteLanes F left
    Passes s F.g ([(F.base.toNat, 1), (F.off.toNat, 2)] ++ F.regs) ([.v F.base.toNat 1 left, .v F.off.toNat 2 left] ++ F.reads left) →
    s.remoteProbe F k ls = none → F.trap = none →
    ((∀ l, bit act l = true → bit s.ca.done l = true) → ∃ t, exec i s = .next t ∧ GoesOn s t ∧ SameRegs s t ∧ t.ca.done = 0) ∧
    (∀ p, (∃ l, bit left l = true ∧ (s.cg.vlane F.base.toNat l).toNat = p) →
      (∀ l, bit left l = true → p ≤ (s.cg.vlane F.base.toNat l).toNat) → s.peerDown p = false →
      (F.ord.isRel = true → s.relWaits F.sc.code = false) →
      let u := released s F.ord F.sc
      let dev := (mget 0 s.cctx.peers p).toNat % 256
      ∃ t lanes, exec i s = .next t ∧ t.ca.park = some (.remote lanes (!s.replayHeld i p)) ∧ SameRegs s t ∧ t.ca.clause = s.ca.clause ∧
        (s.replayHeld i p = false → t.mem = u.mem ∧ t.ca.answers = [] ∧
          ∃ es, t.events = u.events ++ .remoteReplay dev i (lanes.map (s.remoteLane i)) :: es) ∧
        ∀ l, l < 32 → ((∃ a, (l, a) ∈ lanes) ↔ bit left l = true ∧ (s.cg.vlane F.base.toNat l).toNat = p))
  (∀ f, form (.rld f) .read) ∧ (∀ f, form (.rst f) .write) ∧ (∀ f, form (.ratom f) .rmw) ∧
  (∀ s gid slot lanes i F (r : RemoteAns), let s0 := { s with cur := (gid, slot) }
    s0.ca.park = some (.remote lanes true) → s0.ca.head = some i → remoteForm i = some F → r.refusedLane = none →
    (∀ x ∈ lanes, x.1 < 32) → let got := s0.ca.answers ++ r.vals
    ((∀ x ∈ lanes, ∃ v ∈ got, v.1 = x.1) →
    (∀ l, bit (s0.teamOnly (s0.active F.g)) l = true → bit s0.ca.done l = true ∨ ∃ a, (l, a) ∈ lanes) →
    ∃ t, exec (.remoteAnswer gid slot r) s = .next t ∧ GoesOn s0 t ∧ t.ca.done = 0 ∧
      ∀ f, i = .rld f → ∀ l bs p, (∃ a, (l, a) ∈ lanes) →
        got.find? (fun v => v.1 == l) = some (l, bs, p) → bit s0.cg.present l = true →
        ∀ k, k < sizeRegs f.sz → t.cg.vlane (f.t.toNat + k) l = (laneWords bs (sizeRegs f.sz)).getD k 0) ∧
    ((∃ f, i = .rld f) → (∃ x ∈ lanes, ∀ v ∈ got, v.1 ≠ x.1) → ∃ t, exec (.remoteAnswer gid slot r) s = .next t ∧ t.ca.park = s0.ca.park ∧
      t.ca.done = s0.ca.done ∧ SameRegs s0 t ∧ t.ca.answers = s0.ca.answers ++ r.vals.filter fun v => lanes.any fun x => x.1 == v.1)) ∧
  (∀ (s : State) gid slot l va rest i F (r : RemoteAns), let s0 := { s with cur := (gid, slot) }
    s0.ca.head = some i → remoteForm i = some F → TakesHandler s gid slot →
    let x := remoteX s0.ca.done (s0.cg.vlane F.base.toNat l).toNat l
    (s0.ca.park = some (.remote ((l, va) :: rest) true) → r.refusedLane = some l →
      ∃ t, exec (.remoteAnswer gid slot r) s = .next t ∧ InHandler s t gid slot ⟨if r.perm then 20 else 21, va, x⟩) ∧
    ∀ sent, s0.ca.park = some (.remote ((l, va) :: rest) sent) →
      ∃ t, exec (.remoteTimeout gid slot) s = .next t ∧ InHandler s t gid slot ⟨22, va, x⟩) ∧
  (∀ (s : State) (r : RemoteReq), s.binding r.sdev = none → s.heldTo r.sdev false = false →
    s.rangeBusy (s.dev.flogbase + 32 * s.dev.flogIdx) 32 true = false →
    ∃ t es es', exec (.remoteIngress r) s = .next t ∧ t.events = es ++ .remoteAnswer r.sdev (some 20) [] false :: es' ∧
      t.dev.flogIdx = (s.dev.flogIdx + 1) % 256) ∧
  (∀ (s : State) (r : RemoteReq) c u e, s.binding r.sdev = some c → s.xinvHolds c = false → s.heldTo r.sdev false = false →
    s.heldTo r.sdev (decide (8 < r.len)) = false → s.rangeBusy (s.dev.flogbase + 32 * s.dev.flogIdx) 32 true = false →
    s.ingressXlate c r.va = (u, some e) → u.ingressWaits c r e = false → e.exp = true → e.u = true →
    let pa := e.pa r.va.toNat
    pa + r.len ≤ Config.deviceMemTop → pa % 64 + r.len ≤ 64 → 0 < r.len → Quiet u (pa / 64) → u.dev.injctl = [] →
    let old := mgetList 0 u.mem pa r.len
    (r.kind = .read → e.rd = true → ∃ t es, exec (.remoteIngress r) s = .next t ∧ t.mem = u.mem ∧
      t.events = u.events ++ .remoteAnswer r.sdev none old (u.homePsn (pa / 64)) :: es) ∧
    (r.kind = .write → e.w = true → e.d = true → r.data.length = r.len → ∃ t es, exec (.remoteIngress r) s = .next t ∧
      StoredTo r.len [(pa, r.data)] u.mem t.mem ∧ t.events = u.events ++ .remoteAnswer r.sdev none [] false :: es) ∧
    (r.kind = .rmw → e.rd = true → e.w = true → e.d = true → u.homePsn (pa / 64) = false → ∃ t es, exec (.remoteIngress r) s = .next t ∧
      StoredTo r.len [(pa, bytesOfNat r.len (aopNew r.aop (r.len == 8) (natOfBytes old) (natOfBytes r.data) r.cmp.toNat))] u.mem t.mem ∧
      t.events = u.events ++ .remoteAnswer r.sdev none (bytesOfNat r.len (natOfBytes old)) false :: es))

/-! ### Copies and queues (row 0xA) -/

/-- cpy, gath, cpym and qfence complete, R331, R340, R344, R351, R357-R359: a queue with a free place takes an entry with the descriptor
as it stands in the scratchpad, or as it was read before the arm had to wait for a place, and the completion target of the instruction; under CT 2 the copy count rises, under CT 3 the arm
waits for its continuation; memory, registers, other queues, teams and groups do not change. An invalid descriptor traps COPY_FAULT with the queue and reason
1. A full queue parks the arm with what it has read, and a full count makes it wait. -/
def Obligations.CopyIssuesComplete : Prop :=
  let ready := fun (s : State) (f : XF) => Acts s f.g ∧ (f.ct = .bar → f.bar.toNat < (s.level s.cg.tid s.cg.lid).recs.length) ∧
    ∀ d cs o, s.ca.park ≠ some (.queue d cs o)
  let queued := fun (s : State) (i : Instr) (f : XF) (q : Nat) (d : List Byte) (R : CopyEntry → Prop) =>
    s.cteam.queues.length = 5 → q < 5 → let n := (s.queue s.cg.tid q).entries.length
    (16 ≤ n → ∃ t cs o, exec i s = .next t ∧ t.ca.park = some (.queue d cs o) ∧ SameRegs s t ∧ { t with groups := s.groups } = s ∧
      ∀ k, k ≠ s.gid → t.grp k = s.grp k) ∧
    (n < 16 → f.ct = .cnt → 63 ≤ s.cg.copies → exec i s = .next s) ∧
    (n < 16 → (f.ct = .cnt → s.cg.copies < 63) →
    ∃ t e, exec i s = .next t ∧ (t.queue s.cg.tid q).entries = (s.queue s.cg.tid q).entries ++ [e] ∧ R e ∧ e.desc = d ∧ e.ct = f.ct ∧
      e.bar = f.bar.toNat ∧ e.lid = s.cg.lid ∧ e.started = false ∧ e.pos = 0 ∧ SameRegs s t ∧ t.mem = s.mem ∧
      { outside t with teams := s.teams, uids := s.uids } = outside s ∧ (∀ x, x ≠ s.cg.tid → t.team x = s.team x) ∧
      { t.team s.cg.tid with queues := s.cteam.queues } = s.cteam ∧ (∀ r, r ≠ q → t.queue s.cg.tid r = s.queue s.cg.tid r) ∧
      (∀ k, k ≠ s.gid → t.grp k = s.grp k) ∧
      (f.ct = .cnt → t.cg.copies = s.cg.copies + 1) ∧ (f.ct ≠ .cnt → t.cg.copies = s.cg.copies) ∧
      (f.ct = .cont → t.ca.park = some (.cont e.id) ∧ ∃ b, e.by_ = some b ∧ b.cont = s.hdr + BitVec.ofInt 64 (8 * f.imm.toInt)) ∧
      (f.ct ≠ .cont → GoesOn s t))
  (∀ s f d, ready s f → Passes s f.g [] [.s f.s1.toNat] → DescAt s f.s1.toNat 128 64 d →
    (CDesc.valid d = true → queued s (.cpy f) f f.cq.toNat d fun e => e.kind = .copy) ∧
    (CDesc.valid d = false → exec (.cpy f) s = .next (s.takeTrap ⟨24, 0, BitVec.ofNat 64 (f.cq.toNat + 16)⟩))) ∧
  (∀ s f d, ready s f → Passes s f.g [] [.s f.s1.toNat] → DescAt s f.s1.toNat 64 64 d →
    (GDesc.valid d = true → queued s (.gath f) f 4 d fun e => e.kind = .gather) ∧
    (GDesc.valid d = false → exec (.gath f) s = .next (s.takeTrap ⟨24, 0, 20⟩))) ∧
  (∀ s f d, ready s f →
    Passes s f.g [(f.v.toNat, 1)] [.s f.s1.toNat, .s f.s2.toNat, .v f.v.toNat 1 (s.teamOnly (s.active f.g))] →
    DescAt s f.s1.toNat 128 64 d → State.mcValid d = true →
    (∀ l, bit (s.teamOnly (s.active f.g)) l = true → (s.cg.vlane f.v.toNat l).toNat < 128 ∧
      s.panelTeam s.cteam.panel (s.cg.vlane f.v.toNat l).toNat ≠ none) →
    (s.sreg f.s2.toNat).toNat % 32 = 0 → (s.sreg f.s2.toNat).toNat + 32 ≤ s.cteam.scratch →
    queued s (.cpym f) f f.cq.toNat d fun e => ∃ dests, e.kind = .multi dests (s.sreg f.s2.toNat).toNat [] ∧
      ∀ c, (∃ x ∈ dests, x.core = c) ↔ ∃ l, bit (s.teamOnly (s.active f.g)) l = true ∧ (s.cg.vlane f.v.toNat l).toNat = c) ∧
  (∀ s f d cs o, s.ca.park = some (.queue d cs o) → queued s (.cpy f) f f.cq.toNat d (fun e => e.kind = .copy) ∧
    queued s (.gath f) f 4 d (fun e => e.kind = .gather) ∧
    queued s (.cpym f) f f.cq.toNat d fun e => e.kind = .multi (s.mcDests cs) o []) ∧
  (∀ s (f : XF), Acts s f.g → Passes s f.g [] [] → let own := if bit f.imm 5 then 4 else f.cq.toNat
    (f.imm.toNat % 32 ≠ 0 → f.imm.toNat % 32 ≠ 2 ^ own →
      queued s (.qfence f) f own [] fun e => e.kind = .stitch (f.imm.toNat % 32)) ∧
    ((f.imm.toNat % 32 = 0 ∨ f.imm.toNat % 32 = 2 ^ own) →
      exec (.qfence f) s = .next (s.takeTrap ⟨62, 0, BitVec.ofNat 64 (f.imm.toNat % 32)⟩)))

/-- patadv, patq and cpyres complete, R343, R350, R360: a grant that stays within T adds to the granted count, a larger one traps; patq
reads the status, the counts or the fault address; cpyres lets a stopped queue go on, with or without its head entry. -/
def Obligations.QueueControlsComplete : Prop :=
  (∀ s (f : XF), Acts s f.g → Passes s f.g [] (if f.imm = 0 then [.s f.s2.toNat] else []) →
    let n := if f.imm = 0 then (s.sreg f.s2.toNat).toNat else f.imm.toNat
    n ≤ 65535 → (s.queue s.cg.tid 3).stop = none →
    (s.cteam.pat.granted + n ≤ (s.launch s.cteam.launch).patT → ∃ t, exec (.patadv f) s = .next t ∧ GoesOn s t ∧ SameRegs s t ∧
      t.mem = s.mem ∧ t.cteam.pat = { s.cteam.pat with granted := s.cteam.pat.granted + n }) ∧
    ((s.launch s.cteam.launch).patT < s.cteam.pat.granted + n →
      exec (.patadv f) s = .next (s.takeTrap ⟨27, 0, BitVec.ofNat 64 n⟩))) ∧
  (∀ s (f : XF), Acts s f.g → Passes s f.g [] [] → (f.s1.toNat < 32 → s.cg.converged = true) →
    let q := if bit f.imm 2 then 4 else f.cq.toNat
    let bound := q = 3 ∧ (s.launch s.cteam.launch).lrec.patrows ≠ 0
    ∃ t, exec (.patq f) s = .next t ∧ WroteS s t f.s1.toNat (t.sreg f.s1.toNat) ∧
      (f.imm.toNat % 4 = 0 → (s.queue s.cg.tid q).entries.length < 256 →
        (t.sreg f.s1.toNat).toNat % 256 = (s.queue s.cg.tid q).entries.length ∧
        (bit (t.sreg f.s1.toNat) 8 = (s.queue s.cg.tid q).stop.isSome) ∧ (bit (t.sreg f.s1.toNat) 9 = true ↔ bound)) ∧
      (f.imm.toNat % 4 = 1 → bound → t.sreg f.s1.toNat = BitVec.ofNat 64 s.cteam.pat.granted) ∧
      (f.imm.toNat % 4 = 2 → bound → t.sreg f.s1.toNat = BitVec.ofNat 64 s.cteam.pat.executed) ∧
      (f.imm.toNat % 4 = 3 → t.sreg f.s1.toNat = match (s.queue s.cg.tid q).stop with | some r => r.ad | none => 0)) ∧
  (∀ s (f : XF), Acts s f.g → Passes s f.g [] [] → s.cteam.queues.length = 5 →
    let q := if bit f.imm 1 then 4 else f.cq.toNat
    let u := s.queue s.cg.tid q
    ∃ t, exec (.cpyres f) s = .next t ∧ GoesOn s t ∧ SameRegs s t ∧ t.mem = s.mem ∧ (t.queue s.cg.tid q).stop = none ∧
      (u.stop = none ∨ bit f.imm 0 = false → (t.queue s.cg.tid q).entries = u.entries) ∧
      (u.stop ≠ none → bit f.imm 0 = true → (t.queue s.cg.tid q).entries = u.entries.tail))

/-- qpush, qpop and qtry complete, R353, R355, R356: a push of the mailbox appends the word and the payload of the active lanes; a pop
takes the oldest entry into its registers; a full mailbox parks qpush, an empty queue parks qpop and answers qtry with a cleared predicate; the wrong
direction traps QUEUE_DIR. -/
def Obligations.QueueRegistersComplete : Prop :=
  let regs := fun (f : QF) => if f.v = 0xFF then [] else [(f.v.toNat, 1)]
  (∀ s (f : QF), Acts s f.g → Passes s f.g (regs f) [.s f.s.toNat] → (∀ d cs o, s.ca.park ≠ some (.queue d cs o)) →
    (f.qr = 6 → 64 ≤ s.cteam.mail.length → ∃ t, exec (.qpush f) s = .next t ∧ t.ca.park = some .space ∧ SameRegs s t ∧
      { t with groups := s.groups } = s) ∧
    (f.qr = 6 → s.cteam.mail.length < 64 → ∃ t e, exec (.qpush f) s = .next t ∧ GoesOn s t ∧ SameRegs s t ∧ OnlyCounts s t ∧ t.mem = s.mem ∧
      { outside t with teams := s.teams } = outside s ∧ (∀ x, x ≠ s.cg.tid → t.team x = s.team x) ∧
      { t.team s.cg.tid with mail := s.cteam.mail } = s.cteam ∧
      t.cteam.mail = s.cteam.mail ++ [e] ∧ e.word = s.sreg f.s.toNat ∧
      (f.v ≠ 0xFF → ∀ l, l < 32 → e.pay.getD l 0 = if bit (s.active f.g) l then s.cg.vlane f.v.toNat l else 0)) ∧
    (f.qr = 4 → ∀ d, DescAt s f.s.toNat 64 64 d → GDesc.valid d = true → s.cteam.queues.length = 5 →
      (s.queue s.cg.tid 4).entries.length < 16 → ∃ t e, exec (.qpush f) s = .next t ∧ GoesOn s t ∧ SameRegs s t ∧
        (t.queue s.cg.tid 4).entries = (s.queue s.cg.tid 4).entries ++ [e] ∧ e.desc = d ∧ e.kind = .gather ∧ e.ct = .none) ∧
    (f.qr = 2 → ∀ d, DescAt s f.s.toNat 64 64 d → s.collBad d = none → s.cteam.q2.length < 64 → s.relWaits 7 = false →
      ∃ t c, exec (.qpush f) s = .next t ∧ GoesOn s t ∧ SameRegs s t ∧ t.cteam.q2 = s.cteam.q2 ++ [c] ∧ c.desc = d ∧ c.ct = .none) ∧
    (f.qr ≠ 2 → f.qr ≠ 4 → f.qr ≠ 6 → exec (.qpush f) s = .next (s.takeTrap ⟨26, 0, f.qr.setWidth 64⟩))) ∧
  (∀ s (f : QF), Acts s f.g → Passes s f.g (regs f) [] → (f.qr = 2 ∨ f.qr = 4 ∨ f.qr = 6) →
    exec (.qpop f) s = .next (s.takeTrap ⟨26, 0, f.qr.setWidth 64⟩) ∧
    exec (.qtry f) s = .next (s.takeTrap ⟨26, 0, f.qr.setWidth 64⟩)) ∧
  (∀ s (f : QF), Acts s f.g → Passes s f.g (regs f) [] → f.qr ≠ 2 → f.qr ≠ 4 → f.qr ≠ 6 →
    State.popQueue s.cteam f.qr.toNat = [] →
    (∃ t, exec (.qpop f) s = .next t ∧ t.ca.park = some (.qpop f.qr.toNat) ∧ SameRegs s t ∧ t.teams = s.teams) ∧
    (∃ t, exec (.qtry f) s = .next t ∧ PerLaneP s t f.g f.pd.toNat fun _ => false)) ∧
  (∀ s (f : QF) e rest, Acts s f.g → Passes s f.g (regs f) [] → f.qr ≠ 2 → f.qr ≠ 4 → f.qr ≠ 6 →
    (f.s.toNat < 32 → s.cg.converged = true) → State.popQueue s.cteam f.qr.toNat = e :: rest → s.truncTrap f.qr.toNat e = none →
    let popped := fun (t : State) => GoesOn s t ∧ State.popQueue t.cteam f.qr.toNat = rest ∧ t.sreg f.s.toNat = e.word ∧ t.mem = s.mem ∧
      (f.v ≠ 0xFF → ∀ l, bit (s.active f.g &&& s.cg.present) l = true → t.cg.vlane f.v.toNat l = e.pay.getD l 0) ∧
      (∀ r l, r ≠ f.v.toNat ∨ bit (s.active f.g) l = false → t.cg.vlane r l = s.cg.vlane r l) ∧
      ∀ n, n < 64 → n ≠ f.s.toNat → t.sreg n = s.sreg n
    (∃ t, exec (.qpop f) s = .next t ∧ popped t ∧ ∀ p, t.cg.pred p = s.cg.pred p) ∧
    (∃ t, exec (.qtry f) s = .next t ∧ popped t ∧ ∀ l, l < 32 → bit (s.active f.g) l = true → f.pd ≠ 0 →
      bit (t.cg.pred f.pd.toNat) l = true))

/-- The engines' events complete, R335, R336, R340, R341, R344, R346-R348, R354, R357: an entry starts; a batch delivers elements one after
another, at least one that can be copied, with their bytes at their destinations, and counts them, under CT 1 in PEND too; an element of
one format is its source's bytes, or zeros beyond the bounds, written to a scratchpad or to memory and nowhere else; an entry wholly
delivered leaves its queue, and under CT 3 its arm goes on at the continuation; a failing one stops its queue with the record;
a stitch leaves once the named queues hold nothing older; the pattern takes its next row, a COPY row with its template at the row's
offsets; a held completion is posted. -/
def Obligations.EngineEventsComplete : Prop :=
  (∀ (s : State) tid q e, s.qHead tid q = some e → q < (s.team tid).queues.length → e.started = false → s.startFail tid e = none →
    (e.kind = .copy → e.fifo = false → (q = 4 → ∀ h ∈ (s.team tid).held, h.1 ≠ 5) →
      ∃ t, exec (.copyEntryStart tid q) s = .next t ∧ t.qHead tid q = some { e with started := true, idx := [] } ∧ t.mem = s.mem) ∧
    (∀ m, e.kind = .stitch m → s.stitchDone tid q e m = true → ∃ t, exec (.copyEntryStart tid q) s = .next t ∧
      (t.queue tid q).entries = (s.queue tid q).entries.tail ∧ t.mem = s.mem) ∧
    (∀ m, e.kind = .stitch m → s.stitchDone tid q e m = false → exec (.copyEntryStart tid q) s = .next s)) ∧
  (∀ (s : State) tid q e n peer, s.qHead tid q = some e → q < (s.team tid).queues.length → e.started = true → e.kind = .copy →
    (e.ct = .bar → s.entryWaits tid e.sc = false) →
    let v := s.tidyPages tid q e
    let recOf := fun (x : State) => (x.level tid e.lid).recs.getD e.bar {}
    let sect := fun (x : State) d k => (x.l2sect d k).map fun y => (y.1, y.2.data, y.2.drt)
    (s.xinvs = [] → v = s) ∧
    ∃ t got r, ∃ us : Nat → State, exec (.copyBatchDelivery tid q n peer) s = .next t ∧ got ≤ n ∧
      (t.queue tid q).entries.head? = some { e with pos := e.pos + got, bytes := e.bytes + got * e.size, resv := r } ∧
      (e.fifo = false → r = e.resv ∧ us 0 = v) ∧
      (∀ j, j < got → ∃ p, State.copyElem (us j) tid q e (e.pos + j) (peer.drop (j * (CDesc.of e.desc).ssz)) = .ok (us (j + 1), p)) ∧
      (e.ct ≠ .bar → t.mem = (us got).mem ∧ t.hostMem = (us got).hostMem ∧ t.events = (us got).events ∧
        (∀ x, (t.team x).sp = ((us got).team x).sp ∧ (t.team x).fifoA = ((us got).team x).fifoA ∧ (t.team x).fifoB = ((us got).team x).fifoB) ∧
        ∀ d k, sect t d k = sect (us got) d k) ∧
      (e.ct = .bar → e.bar < (s.level tid e.lid).recs.length → pendFits ((recOf s).pend - (got * e.size : Nat)) = true →
        (recOf t).pend = (recOf s).pend - (got * e.size : Nat)) ∧
      ((∃ u, v.copyElem tid q e e.pos peer = .ok u) → 0 < n → e.pos < e.total →
        (e.fifo = true → v.fifoSpace tid e.isB e.id e.tag e.resv (e.total * e.size) (e.pos * e.size) = some (v, e.resv)) → 0 < got)) ∧
  (∀ (s : State) tid q e k peer, let c := CDesc.of e.desc
    let t0 := s.team tid
    let dst := c.elemDst k
    c.sf = c.df → s.dev.injctl = [] →
    (∀ bs p, (c.elemSrc k = none ∧ bs = List.replicate c.dsz 0 ∧ p = false) ∨
        (c.sk = 1 ∧ ∃ a, c.elemSrc k = some a ∧ a.toNat + c.ssz ≤ t0.scratch ∧ s.spRead tid a.toNat c.ssz = (bs, p)) →
      (c.dk = 1 → dst.toNat + c.dsz ≤ t0.scratch → ∃ u, s.copyElem tid q e k peer = .ok (u, p) ∧ u.mem = s.mem ∧
        StoredTo c.dsz [(dst.toNat, bs)] t0.sp (u.team tid).sp ∧ MarkedBy c.dsz [(dst.toNat, p)] t0.spPois (u.team tid).spPois) ∧
      (c.dk = 0 → ∀ u0 tr te, s.engXlate t0.core t0.ctx true (s.queue tid q).dstPg dst = .ok (u0, tr, te) → AtHome u0 tr →
        tr.pa % 64 + c.dsz ≤ 64 → u0.engWaits t0.core t0.ctx tr c.dsz true = false →
        ∃ u, s.copyElem tid q e k peer = .ok (u, p) ∧ StoredTo c.dsz [(tr.pa, bs)] u0.mem u.mem ∧ (u.team tid).sp = t0.sp)) ∧
    (c.sk = 0 → c.dk = 1 → ∀ a u0 tr te, c.elemSrc k = some a → s.engXlate t0.core t0.ctx false (s.queue tid q).srcPg a = .ok (u0, tr, te) →
      AtHome u0 tr → tr.pa % 64 + c.ssz ≤ 64 → u0.engWaits t0.core t0.ctx tr c.ssz false = false → dst.toNat + c.dsz ≤ t0.scratch →
      ∃ u, s.copyElem tid q e k peer = .ok (u, u0.homePsn (tr.pa / 64)) ∧ u.mem = u0.mem ∧
        StoredTo c.dsz [(dst.toNat, mgetList 0 u0.mem tr.pa c.ssz)] t0.sp (u.team tid).sp)) ∧
  (∀ (s : State) tid q e n peer, s.qHead tid q = some e → e.ct = .bar → s.entryWaits tid e.sc = true →
    exec (.copyBatchDelivery tid q n peer) s = .next s) ∧
  (∀ (s : State) tid q e, s.qHead tid q = some e → q < (s.team tid).queues.length → e.started = true → e.kind = .copy →
    e.total ≤ e.pos → s.entryWaits tid e.sc = false → ∃ t, exec (.copyEntryComplete tid q) s = .next t ∧
      (t.queue tid q).entries = (s.queue tid q).entries.tail ∧
      (∀ b g, e.ct = .cont → e.by_ = some b → s.findUid b.uid = some g → ((s.grp g).arm b.slot).park = some (.cont e.id) →
        let a := (t.grp g).arm b.slot
        a.park = none ∧ a.clause = none ∧ a.pc = b.cont ∧ a.xfer = b.xfer ∧ (t.core (gidCore g)).l1 = [] ∧ (t.grp g).chkHomes = 0) ∧
      (∀ b g, e.ct = .cnt → e.by_ = some b → s.findUid b.uid = some g → (t.grp g).copies = (s.grp g).copies - 1)) ∧
  (∀ (s : State) tid q e x, s.qHead tid q = some e → q < (s.team tid).queues.length → e.kind = .copy → (s.team tid).live = true →
    s.nextFail tid q e 0 = some x → e.ct ≠ .cont → ∃ t, exec (.copyEntryFault tid q 0) s = .next t ∧
      (t.queue tid q).stop = some ⟨x.ad, x.dst, x.reason⟩ ∧ (t.queue tid q).entries = (s.queue tid q).entries ∧ t.mem = s.mem) ∧
  (∀ (s : State) tid, let t0 := s.team tid
    let p := t0.pat
    let row := (s.launch t0.launch).rows.getD p.index []
    t0.saved = false → p.executed < p.granted →
    (du row 0 1 = 2 → ∃ t, exec (.patternRowStep tid) s = .next t ∧
      (mget 0 p.ctrs p.index + 1 < du row 8 4 → (t.team tid).pat.index = p.index - du row 4 2 ∧
        mget 0 (t.team tid).pat.ctrs p.index = mget 0 p.ctrs p.index + 1) ∧
      (du row 8 4 ≤ mget 0 p.ctrs p.index + 1 → (t.team tid).pat.index = p.index + 1 ∧ mget 0 (t.team tid).pat.ctrs p.index = 0)) ∧
    ((du row 0 1 = 1 ∨ du row 0 1 = 3) → 3 < t0.queues.length → (s.queue tid 3).entries.length < 16 →
      (du row 0 1 = 1 → s.readTemplate tid (du row 8 8) ≠ .error 0) →
      ∃ t e, exec (.patternRowStep tid) s = .next t ∧ (t.team tid).pat.index = p.index + 1 ∧
        (t.queue tid 3).entries = (s.queue tid 3).entries ++ [e] ∧
        (du row 0 1 = 3 → e.kind = .stitch (du row 1 1 % 32) ∧ (t.team tid).pat.executed = p.executed) ∧
        (du row 0 1 = 1 → e.kind = .copy ∧ (t.team tid).pat.executed = p.executed + 1 ∧ e.bar = du row 2 1 ∧ e.lid = 0 ∧
          e.ct = (if du row 1 1 % 2 = 1 then .bar else .none) ∧ ∀ u d, s.readTemplate tid (du row 8 8) = .ok (u, d) →
            let ctr := fun (lix : Nat) => if lix = 0xFFFF then 0 else mget 0 p.ctrs lix
            let off := fun (o : Nat) => (t0.xidx.toNat : Int) * di row o 4 + t0.yidx.toNat * di row (o + 4) 4 + t0.zidx.toNat * di row (o + 8) 4 +
              ctr (du row 4 2) * di row (o + 12) 4 + ctr (du row 6 2) * di row (o + 16) 4
            du e.desc 0 8 = (BitVec.ofInt 64 (du d 0 8 + off 16)).toNat ∧ du e.desc 8 8 = (BitVec.ofInt 64 (du d 8 8 + off 36)).toNat ∧
              e.desc.drop 16 = d.drop 16))) ∧
  (∀ (s : State) tid e, (s.team tid).live = true → (s.team tid).held = [(5, e)] → (s.team tid).q5.length < 256 →
    ∃ t, exec (.heldCompletionPost tid 5) s = .next t ∧ (t.team tid).q5 = (s.team tid).q5 ++ [e] ∧ (t.team tid).held = [])

/-! ### Messages, subscriptions, shuffles, collectives (row 0xB) -/

/-- msend, mpost, mcancel and mprobe complete, R13, R373-R381: a send joins the hook's queue, but none of helper lanes alone; a receive takes the first unexpected message
that matches, or is posted; mcancel removes the team's first posted receive with the cookie and says whether it did; mprobe tells
of the first unexpected message that matches and removes nothing. -/
def Obligations.MessagesComplete : Prop :=
  (∀ s (f : XF) d, Acts s f.g → Passes s f.g [] [.s f.s1.toNat] → DescAt s f.s1.toNat 64 64 d →
    (s.teamOnly (s.active f.g) = 0 → exec (.msend f) s = .next s.retire) ∧ (s.teamOnly (s.active f.g) ≠ 0 →
    (s.peerValid (du d 10 1) = true → State.sendValid d = true → s.peerDown (du d 10 1) = false → s.relWaits (State.wideScope f.sc.code) = false →
      ∃ t c, exec (.msend f) s = .next t ∧ GoesOn s t ∧ SameRegs s t ∧ t.hook = { s.hook with sends := s.hook.sends ++ [c] } ∧
        c.desc = d ∧ c.ctx = s.cg.ctx ∧ c.tid = s.cg.tid ∧ c.dev = (mget 0 s.cctx.peers (du d 10 1)).toNat % 256) ∧
    (s.peerValid (du d 10 1) = false → exec (.msend f) s = .next (s.takeTrap ⟨45, 0, 1⟩)) ∧
    (s.peerValid (du d 10 1) = true → State.sendValid d = false → exec (.msend f) s = .next (s.takeTrap ⟨45, 0, 2⟩)) ∧
    (s.peerValid (du d 10 1) = true → State.sendValid d = true → s.peerDown (du d 10 1) = true →
      exec (.msend f) s = .next (s.takeTrap ⟨61, s.sreg f.s1.toNat, remoteX 0 (du d 10 1) 0⟩)))) ∧
  (∀ s (f : XF) d, ((∀ x cs o, s.ca.park ≠ some (.queue x cs o)) ∧ Acts s f.g ∧ Passes s f.g [] [.s f.s1.toNat] ∧
      DescAt s f.s1.toNat 64 64 d ∧ (Posted.src ⟨s.cg.ctx, s.cg.tid, d⟩ = 0x100 ∨ s.peerValid (Posted.src ⟨s.cg.ctx, s.cg.tid, d⟩) = true) ∧
      State.recvValid ⟨s.cg.ctx, s.cg.tid, d⟩ = true) ∨ (∃ cs o, s.ca.park = some (.queue d cs o)) →
    let r : Posted := ⟨s.cg.ctx, s.cg.tid, d⟩
    let fits := fun (u : Unexp) => u.ctx == s.cg.ctx && s.specMatches s.cg.ctx r.src r.tag r.mask u.msg
    let share := s.cctx.hooksh.toNat % 65536
    s.hook.posted.length < Config.postedMax → (share = 0 ∨ (s.hook.posted.filter fun x => x.ctx == s.cg.ctx).length < share) →
    ((∀ u ∈ s.hook.unexpected, fits u = false) → ∃ t, exec (.mpost f) s = .next t ∧ GoesOn s t ∧ SameRegs s t ∧ t.mem = s.mem ∧
      t.hook = { s.hook with posted := s.hook.posted ++ [r] }) ∧
    (∀ u, s.hook.unexpected.find? fits = some u → ∃ t, exec (.mpost f) s = .next t ∧ GoesOn s t ∧ SameRegs s t ∧
      t.hook.unexpected = s.hook.unexpected.eraseP fits ∧ t.hook.posted = s.hook.posted)) ∧
  (∀ s (f : XF), Acts s f.g → Passes s f.g [] [.s f.s1.toNat] → (f.s2.toNat < 32 → s.cg.converged = true) →
    let mine := fun (r : Posted) => r.tid == s.cg.tid && r.cookie == (s.sreg f.s1.toNat).toNat % 65536
    ∃ t, exec (.mcancel f) s = .next t ∧ GoesOn s t ∧ t.mem = s.mem ∧ t.hook.posted = s.hook.posted.eraseP mine ∧
      t.sreg f.s2.toNat = (if s.hook.posted.any mine then 1 else 0) ∧ ∀ n, n < 64 → n ≠ f.s2.toNat → t.sreg n = s.sreg n) ∧
  (∀ s (f : XF), Acts s f.g → Passes s f.g [] [.s f.s1.toNat, .s f.s2.toNat] → let d := f.imm.toNat % 64
    (d < 32 → s.cg.converged = true) → d < 63 → (s.sreg f.s1.toNat).toNat < 2 ^ 41 →
    let spec := (s.sreg f.s1.toNat).toNat
    let fits := fun (u : Unexp) => u.ctx == s.cg.ctx && s.specMatches s.cg.ctx (spec / 2 ^ 32) (BitVec.ofNat 32 spec)
      (BitVec.ofNat 32 (s.sreg f.s2.toNat).toNat) u.msg
    ∃ t, exec (.mprobe f) s = .next t ∧ GoesOn s t ∧ t.hook = s.hook ∧ t.mem = s.mem ∧
      (∀ n, n < 64 → n ≠ d → n ≠ d + 1 → t.sreg n = s.sreg n) ∧
      match s.hook.unexpected.find? fits with
      | none => t.sreg d = 0 ∧ t.sreg (d + 1) = 0
      | some u => bit (t.sreg d) 40 = true ∧ bit (t.sreg d) 41 = !u.msg.eager ∧ (t.sreg d).toNat % 2 ^ 32 = u.msg.len % 2 ^ 32 ∧
          t.sreg (d + 1) = u.msg.tag.setWidth 64)

/-- The hook's events complete, R369, R371-R376, R489: a send that its target accepts leaves the queue with its message and posts STATUS 0,
one without a binding or a readable payload posts 2 or 3, a refused one stays and is sent again by the retry, and a rendezvous send waits
for its pull; a message to this device is looped back. An arriving message that a posted receive matches is answered and takes it: an eager
payload is written to the receive's tensor with its entry in q0, and of a longer one the pull is asked for; one that no receive matches
joins the unexpected queue while there is room; a finished pull leaves the pulls, its bytes in the tensor, and its send posts; with
the plane down every send to the device ends with STATUS 4. -/
def Obligations.HookEventsComplete : Prop :=
  let tag := fun (c : SendCmd) => BitVec.ofNat 32 (du c.desc 12 4)
  let len := fun (c : SendCmd) => du c.desc 16 4
  let gone := fun (t : State) (c : SendCmd) => ∀ x ∈ t.hook.sends, x.id ≠ c.id
  let sent := fun (c : SendCmd) (st : Nat) => (⟨msgWord (du c.desc 20 2) (du c.desc 10 1) st (len c), [], false, 0, 0⟩ : QEntry)
  let posts := fun (s t : State) (c : SendCmd) (st : Nat) => (s.team c.tid).live = true → (∀ h ∈ (s.team c.tid).held, h.1 ≠ 1) →
    (s.team c.tid).q1.length < 256 → (t.team c.tid).q1 = (s.team c.tid).q1 ++ [sent c st]
  let header := fun (s : State) (c : SendCmd) => if len c ≤ 16384 then s.sendPayload c (len c) else some (s, [])
  let change := fun (s t : State) (c y : SendCmd) => t.hook.sends = s.hook.sends.map fun x => if x.id == c.id then y else x
  let goes := fun (s : State) (c : SendCmd) (i : PeerReply → Instr) =>
    (c.dev ≠ s.self →
      (∀ u bs, header s c = some (u, bs) →
        let ends := fun (o : PeerReply) (P : State → Prop) => ∃ t es, exec (i o) s = .next t ∧
          t.events = u.events ++ .message c.dev (tag c) (len c) bs :: es ∧ P t
        (len c ≤ 16384 → ends .accepted fun t => gone t c ∧ posts s t c 0) ∧ ends .noBinding (fun t => gone t c ∧ posts s t c 2) ∧
        ends .refused (fun t => change s t c { c with refused := true }) ∧
        (16384 < len c → ends .pulling fun t => change s t c { c with refused := false, waiting := true })) ∧
      (header s c = none → ∀ o, o ≠ .linkDown → ∃ t, exec (i o) s = .next t ∧ t.events = s.events ∧ gone t c ∧ posts s t c 3)) ∧
    (c.dev = s.self → ∀ u bs o, header s c = some (u, bs) → let eager := decide (len c ≤ 16384)
      let r := u.hookArrive ⟨s.self, tag c, len c, eager, bs, some c.id⟩
      exec (i o) s = .next (r.1.sendAnswer c eager r.2))
  let inTensor := fun (u t : State) (r : Posted) (m : Message) (bs : List MarkedByte) =>
    let n := min bs.length r.capacity
    let ks := List.range n
    let byte := fun k => bs.getD k (0, false)
    let v := u.team r.tid
    let post := v.live = true → (∀ h ∈ v.held, h.1 ≠ 0) → v.q0.length < 256 → ∃ x, (t.team r.tid).q0 = v.q0 ++ [x] ∧
      x.pay.getD 0 0 = m.tag ∧ x.pay.getD 1 0 = BitVec.ofNat 32 m.len ∧
      x.word = msgWord r.cookie ((u.peersOf r.ctx m.sdev).headD 0) (if r.capacity < m.len then 1 else 0) n
    (r.dkind = 1 → (∀ k, k < n → (r.at k).toNat < v.scratch) → post ∧ t.mem = u.mem ∧
      StoredTo 1 (ks.map fun k => ((r.at k).toNat, [(byte k).1])) v.sp (t.team r.tid).sp ∧
      MarkedBy 1 (ks.map fun k => ((r.at k).toNat, (byte k).2)) v.spPois (t.team r.tid).spPois) ∧
    ∀ e : Nat → TlbEntry, r.dkind = 0 →
      (∀ k, k < n → let a := (r.at k).toNat
        a < 2 ^ 58 ∧ (u.ingressTlb.find? fun x => x.hits r.ctx (u.ctx r.ctx).part (pageOf a)) = some (e k) ∧ (e k).u = true ∧
          (e k).w = true ∧ (e k).d = true ∧ (e k).pa a < Config.deviceMemTop ∧ Quiet u ((e k).pa a / 64)) →
      post ∧ StoredTo 1 (ks.map fun k => ((e k).pa (r.at k).toNat, [(byte k).1])) u.mem t.mem
  (∀ (s : State) c, s.nextSend = some c → goes s c .hookSend ∧ (c.dev ≠ s.self → ∀ u bs, header s c = some (u, bs) →
    ∃ t, exec (.hookSend .linkDown) s = .next t ∧ gone t c ∧ posts s t c 4)) ∧
  (∀ (s : State) (m : Message) ctx, let eager := decide (m.len ≤ 16384)
    let m0 := { m with self := none, eager := eager, payload := if eager then m.payload else [] }
    let fits := fun (r : Posted) => r.ctx == ctx && s.specMatches ctx r.src r.tag r.mask m0
    let answered := fun (o : PeerReply) (P : State → Prop) => ∃ t es, exec (.hookHeaderArrival m) s = .next t ∧
      t.events = s.events ++ .messageAnswer m.sdev m.tag o :: es ∧ P t
    s.binding m.sdev = some ctx → s.peersOf ctx m.sdev ≠ [] → (m.len ≤ 16384 → m.payload.length = m.len) → m.len < 2 ^ 32 →
    s.heldTo m.sdev false = false →
    ((∀ r ∈ s.hook.posted, fits r = false) →
      (s.hookRoom ctx m0 = true → answered .accepted fun t => t.mem = s.mem ∧
        t.hook = { s.hook with unexpected := s.hook.unexpected ++ [⟨ctx, m0⟩] }) ∧
      (s.hookRoom ctx m0 = false → answered .refused fun t => t.mem = s.mem ∧ t.hook = s.hook ∧ t.teams = s.teams)) ∧
    ∀ r, s.hook.posted.find? fits = some r → s.takeHeld r m0 = false → (∀ p ∈ s.hook.waiting, p.recv.tid ≠ r.tid) →
      ∃ t, exec (.hookHeaderArrival m) s = .next t ∧ t.hook.posted = s.hook.posted.eraseP fits ∧
        (m.len ≤ 16384 → inTensor s t r m0 m.payload ∧ ∃ es es', t.events = s.events ++ es ++ .messageAnswer m.sdev m.tag .accepted :: es') ∧
        (16384 < m.len → t.mem = s.mem ∧ t.hook.pulls = s.hook.pulls ++ [⟨s.uids, r, m0⟩] ∧ ∃ es es',
          t.events = s.events ++ .pull m.sdev m.tag (min m.len r.capacity) :: (es ++ .messageAnswer m.sdev m.tag .pulling :: es'))) ∧
  (∀ (s : State) p id o, s.hook.pulls.find? (fun p => p.id == id) = some p → s.recvHeld p.recv p.msg = false →
    let n := min p.msg.len p.recv.capacity
    (p.msg.self = none → ∀ n, o ≠ .pulled n) →
    (∀ c, p.msg.self.bind (fun k => s.hook.sends.find? fun c => c.id == k) = some c → s.payHeld c n = false) →
    ∃ t, exec (.rendezvousPullComplete id o) s = .next t ∧ t.hook.pulls = (s.hook.pulls.filter fun x => x.id != id) ∧
      ∀ bs, p.msg.self = none → o = .data bs → inTensor s t p.recv p.msg (bs.take n)) ∧
  (∀ (s : State) c id k u bs, s.hook.pulls.find? (fun p => p.id == id) = none →
    s.hook.sends.find? (fun c => c.id == id && c.waiting && c.dev != s.self) = some c → let n := min k (len c)
    s.heldTo c.dev true = false → s.payHeld c n = false → s.sendPayload c n = some (u, bs) →
    ∃ t es, exec (.rendezvousPullComplete id (.pulled k)) s = .next t ∧ gone t c ∧ posts s t c 0 ∧
      t.events = u.events ++ .message c.dev (tag c) (len c) bs :: es) ∧
  (∀ (s : State) c dest, let sends := s.hook.sends.filter fun c => c.dev == dest && !(s.team c.tid).saved
    sends.find? (·.refused) = some c →
    (s.sendHeld c = false → goes s c (.messageRetry dest)) ∧
    (dest ≠ s.self → let ended := sends.filter fun x => !x.waiting
      ∃ t, exec (.messageRetry dest .linkDown) s = .next t ∧ t.mem = s.mem ∧ (∀ x ∈ ended, gone t x) ∧
        ∀ tid, let mine := ended.filter fun x => x.tid == tid
          (s.team tid).live = true → (∀ h ∈ (s.team tid).held, h.1 ≠ 1) → (s.team tid).q1.length + mine.length ≤ 256 →
          (t.team tid).q1 = (s.team tid).q1 ++ mine.map fun x => sent x 4))

/-- subon, suboff and subflush complete, and so do the events of a subscription, R382-R386: subon adds the subscription; a write into a
published region (sts and stc are such writes, R383, ScratchpadAccessesComplete) is batched for every subscriber, forwarded and applied in
order there; subflush leaves nothing on its way from the core's regions; suboff ends the subscription: what was forwarded is applied, and
what was only batched goes with the entry (log 35). A subscription lost at a resume traps SUB_RANGE at the next suboff, or subon
behind its alignment and range checks, with the publisher region's window address (log 35). -/
def Obligations.SubscriptionsComplete : Prop :=
  let lost := fun (s : State) (i : Instr) => ∀ a, s.cteam.subLost = some a →
    exec i s = .next ((s.setTeam s.cg.tid { s.cteam with subLost := none }).takeTrap ⟨47, a, 0⟩)
  (∀ s (f : XF) pub, Acts s f.g → Passes s f.g [] [.s f.s1.toNat, .s f.s2.toNat] →
    let lo := (s.sreg f.s1.toNat).toNat
    let w := (s.sreg f.s2.toNat).toNat
    let len := 64 * f.imm.toNat
    let align := fun r => exec (.subon f) s = .next (s.takeTrap ⟨15, s.sreg r, accessX (lowest (s.active f.g)) .read 7⟩)
    (lo % 64 ≠ 0 → align f.s1.toNat) ∧ (lo % 64 = 0 → w % 64 ≠ 0 → align f.s2.toNat) ∧
    (lo % 64 = 0 → w % 64 = 0 → lo + len ≤ s.cteam.scratch → w < 2 ^ 25 → w % 2 ^ 18 + len ≤ s.cteam.scratch →
    s.panelTeam s.cteam.panel (w / 2 ^ 18) = some pub → lost s (.subon f) ∧
    (s.cteam.subLost = none → w % 2 ^ 18 + len ≤ (s.team pub).scratch →
    (s.ctx (s.team pub).ctx).part = s.cctx.part → s.subFull pub (w % 2 ^ 18) len = false →
    ∃ t, exec (.subon f) s = .next t ∧ GoesOn s t ∧ SameRegs s t ∧ t.mem = s.mem ∧ t.teams = s.teams ∧
      (∃ k, mget {} t.subs k = ⟨true, s.cg.tid, lo, pub, w % 2 ^ 18, len, [], []⟩ ∧ mget {} s.subs k = {} ∧
        ∀ j, j ≠ k → mget {} t.subs j = mget {} s.subs j)))) ∧
  (∀ s (f : XF), Acts s f.g → Passes s f.g [] [.s f.s1.toNat] → lost s (.suboff f) ∧ (s.cteam.subLost = none →
    let mine := fun (p : Nat × Subscr) => p.2.live && p.2.sub == s.cg.tid && p.2.soff == (s.sreg f.s1.toNat).toNat
    ∃ t, exec (.suboff f) s = .next t ∧ GoesOn s t ∧ SameRegs s t ∧ t.mem = s.mem ∧
      (s.subs.find? mine = none → t.subs = s.subs ∧ t.teams = s.teams) ∧
      ∀ k x, s.subs.find? mine = some (k, x) → t.subs = merase s.subs k ∧
        t.teams = (x.sent.foldl (fun v u => v.applyUpdate x u) s).teams ∧
        ∀ u, x.sent = [u] → StoredTo u.bytes.length [(x.soff + u.off, u.bytes)] (s.team x.sub).sp (t.team x.sub).sp)) ∧
  (∀ (s : State) (tid off : Nat) (bs : List Byte) (pois : Bool) (i : Nat) (p : Nat × Subscr), let t := s.spStore tid off bs pois
    s.subs[i]? = some p → let lo := max off p.2.poff
    let hi := min (off + bs.length) (p.2.poff + p.2.len)
    (p.2.live = true → p.2.pub = tid → lo < hi → t.subs[i]? =
      some (p.1, { p.2 with batch := p.2.batch ++ [(⟨lo - p.2.poff, (bs.drop (lo - off)).take (hi - lo), pois⟩ : Update)] })) ∧
    (p.2.live = false ∨ p.2.pub ≠ tid ∨ hi ≤ lo → t.subs[i]? = some p)) ∧
  (∀ s (f : XF), Acts s f.g → Passes s f.g [] [] → ∃ t, exec (.subflush f) s = .next t ∧ GoesOn s t ∧ SameRegs s t ∧ t.mem = s.mem ∧
    ∀ p ∈ t.subs, p.2.live = true → (t.team p.2.pub).core = s.ccore → p.2.batch = [] ∧ p.2.sent = []) ∧
  (∀ (s : State) core, ∃ t, exec (.subUpdateForward core) s = .next t ∧ t.teams = s.teams ∧ t.subs.length = s.subs.length ∧
    ∀ p ∈ t.subs, ∃ q ∈ s.subs, p.1 = q.1 ∧ p.2.sent ++ p.2.batch = q.2.sent ++ q.2.batch ∧
      (q.2.live = true → (s.team q.2.pub).core = core → q.2.batch ≠ [] → p.2.sent ≠ q.2.sent)) ∧
  (∀ (s : State) k u rest, (mget {} s.subs k).sent = u :: rest → let x := mget {} s.subs k
    ∃ t, exec (.subUpdateApply k) s = .next t ∧ (mget {} t.subs k).sent = rest ∧ t.mem = s.mem ∧
      StoredTo u.bytes.length [(x.soff + u.off, u.bytes)] (s.team x.sub).sp (t.team x.sub).sp)

/-- xshfl and coll complete, and so do their events, R387-R392: an xshfl whose partner waits exchanges the registers in the lanes that both
masks hold, each group the register that its own instruction names (log 35), and both go on; without a partner it waits, and traps after
its time; coll joins q2, with its completion target, or traps COLL_BAD with the number of the first condition that fails in the list's
order (log 36); a collective whose planes and homes serve it completes with the status of its outcome, posted to q3. -/
def Obligations.ShufflesAndCollectivesComplete : Prop :=
  (∀ s (f : XF), s.rdTrap (.p f.g.ps.toNat s.armMask) = none → f.v.toNat + 1 ≤ s.cg.window → s.rdTrap (.s f.s2.toNat) = none →
    s.cg.converged = true → let v := f.v.toNat
    (s.xshflPartner (s.sreg f.s2.toNat) = none → ∃ t, exec (.xshfl f) s = .next t ∧
      t.ca.park = some (.xshfl (s.sreg f.s2.toNat) v (s.active f.g)) ∧ SameRegs s t) ∧
    (∀ g v' m', s.slot = s.cg.soleSlot → s.xshflPartner (s.sreg f.s2.toNat) = some (g, v', m') →
      ∃ t, exec (.xshfl f) s = .next t ∧ GoesOn s t ∧ ((t.grp g).arm (s.grp g).soleSlot).park = none ∧
        (∀ l, bit (s.active f.g &&& m' &&& s.cg.present) l = true → t.cg.vlane v l = (s.grp g).vlane v' l) ∧
        (∀ l, bit (s.active f.g &&& m' &&& (s.grp g).present) l = true → (t.grp g).vlane v' l = s.cg.vlane v l) ∧
        (∀ r l, r ≠ v ∨ bit (s.active f.g &&& m') l = false → t.cg.vlane r l = s.cg.vlane r l) ∧
        (∀ r l, r ≠ v' ∨ bit (s.active f.g &&& m') l = false → (t.grp g).vlane r l = (s.grp g).vlane r l))) ∧
  (∀ (s : State) gid w v m, (s.grp gid).live = true → (s.grp gid).sole.park = some (.xshfl w v m) →
    TakesHandler s gid (s.grp gid).soleSlot →
    ∃ t, exec (.xshflTimeout gid) s = .next t ∧ InHandler s t gid (s.grp gid).soleSlot ⟨48, 0, w⟩) ∧
  (∀ s (f : XF) d, (∀ x cs o, s.ca.park ≠ some (.queue x cs o)) → Acts s f.g → Passes s f.g [] [.s f.s1.toNat] →
    DescAt s f.s1.toNat 64 64 d →
    (s.collBad d = none → s.cteam.q2.length < 64 → s.cg.copies < 63 → s.relWaits (State.wideScope f.sc.code) = false → ∃ t c, exec (.coll f) s = .next t ∧ SameRegs s t ∧
      t.cteam.q2 = s.cteam.q2 ++ [c] ∧ c.desc = d ∧ c.ct = f.ct ∧ (f.ct = .cnt → t.cg.copies = s.cg.copies + 1) ∧
      (f.ct = .cont → t.ca.park = some (.cont c.id)) ∧ (f.ct ≠ .cont → GoesOn s t)) ∧
    ∀ k, s.collBad d = some k → exec (.coll f) s = .next (s.takeTrap ⟨49, 0, BitVec.ofNat 64 k⟩)) ∧
  (∀ (s : State) ctx comm r tid cmd, s.collNext ctx comm = some (tid, cmd) → (s.comm ctx comm).live = true →
    s.xinvHolds ctx = false → (s.team tid).live = true → cmd.ct = .none → (s.team tid).held = [] → (s.team tid).q3.length < 256 →
    let k := KDesc.of cmd.desc
    let c := s.comm ctx comm
    let up := r.linkDown = false ∧ s.collLost c = false
    s.collHeld c = false → (s.mayWait = true → s.hookWaits ctx (State.sectorAddrs k.src (k.inBytes c.rank c.n)) false = false ∧
      s.hookWaits ctx (State.sectorAddrs k.dst (k.outBytes c.n)) true = false) →
    ∃ t e st, exec (.collComplete ctx comm r) s = .next t ∧ (t.team tid).q2 = (s.team tid).q2.filter (fun x => x.id != cmd.id) ∧
      (t.team tid).q3 = (s.team tid).q3 ++ [e] ∧ e.word = BitVec.ofNat 64 (65536 * st + k.tag) ∧
      (¬ up → st = 3) ∧ (up → r.peerFault = true → st = 2) ∧
      (up → r.peerFault = false → (s.hookRead ctx k.src (k.inBytes c.rank c.n)).isSome = true →
        (∃ x ∈ r.ranks, x.2.1 ≠ (k.op, k.red, k.ty, k.count)) → st = 1))

/-! ### Matrices (row 0xC) -/

/-- accalloc, accfree, acczero, mma, accld, accst, fifodrop and fifostat complete, R405-R422: a member of a gang waits at the latch while
another has not issued; the last member's issue (a lone group's own) lets every member go: accalloc takes the lowest free run of banks,
deals them to the members and returns its base to each, or waits in the allocation queue; accfree frees them; mma joins the unit's
queue with its scales; with nothing earlier on their banks acczero, accld and accst are performed at
once, lane l holding row l; fifodrop removes the oldest entries and says how many, after the mma released before it; fifostat reads
the status word. Other banks, the FIFOs and every other register stay. A group is known by its identity, and in its team by its slot,
as they were given it (R19, log 40). -/
def Obligations.TileInstructionsComplete : Prop :=
  let known := fun (s : State) (m : Nat) => (s.grp m).live = true ∧ ∀ p ∈ s.groups, p.2.uid = (s.grp m).uid → p.1 = m
  let idle := fun (s : State) => s.cteam.accOps = [] ∧ s.cteam.mmaQ = [] ∧ s.cg.tileFlag = none ∧ known s s.gid ∧ s.cteam.live = true
  let slots := fun (s : State) => ∀ m ∈ s.teamGroups s.cg.tid, ∀ k ∈ s.teamGroups s.cg.tid, (s.grp m).vslot = (s.grp k).vslot → m = k
  let latched := fun (s : State) => s.cg.converged = true ∧ s.slot = s.cg.soleSlot ∧ s.cg.tileFlag = none ∧ s.cg.abort = none ∧
    s.ca.park ≠ some .latch ∧ slots s ∧ (∀ k ∈ State.gangSlots s.cg, s.memberAt k ≠ none) ∧ s.gid ∈ s.members ∧ known s s.gid
  let last := fun (s : State) (i : Instr) => latched s ∧ ∀ m ∈ s.members, known s m ∧ (m ≠ s.gid → (s.grp m).latch = some (encode i) ∧
    (s.grp m).gang = s.cg.gang ∧ (s.grp m).sole.fmt.toNat % 2 ^ 16 = s.ca.fmt.toNat % 2 ^ 16)
  let go := fun (s t : State) => ∀ m ∈ s.members, (t.grp m).latch = none ∧ (t.grp m).sole.park = none ∧
    (t.grp m).sole.clause = (s.grp m).sole.advance.clause ∧ (t.grp m).sole.pc = (s.grp m).sole.advance.pc
  let owns := fun (s : State) (b n : Nat) => ∀ j, j < n →
    b + j < s.cteam.accBudget ∧ (s.bank s.cg.tid (b + j)).alloc = true ∧ (s.bank s.cg.tid (b + j)).owner = s.cg.vslot
  let others := fun (s t : State) (b n : Nat) => ∀ k, (k < b ∨ b + n ≤ k) → t.bank s.cg.tid k = s.bank s.cg.tid k
  let fifos := fun (s t : State) => t.cteam.fifoA = s.cteam.fifoA ∧ t.cteam.fifoB = s.cteam.fifoB
  (∀ s (f : TF), latched s → (∃ m ∈ s.members, m ≠ s.gid ∧ (s.grp m).latch = none) →
    let waits := fun (i : Instr) => ∃ t, exec i s = .next t ∧ t.ca.park = some .latch ∧ t.cg.latch = some (encode i) ∧ t.teams = s.teams ∧
      SameRegs s t ∧ ∀ k, k ≠ s.gid → t.grp k = s.grp k
    waits (.accalloc f) ∧ waits (.accfree f) ∧ (s.mmaEarly f = none → s.cg.tiles < 63 → waits (.mma f))) ∧
  (∀ s (f : TF), last s (.accalloc f) → s.cteam.accQ = [] → 0 < f.nb.toNat → f.nb.toNat ≤ s.cteam.accBudget →
    let n := f.nb.toNat
    (∀ base, State.bankRun s.cteam n = some base →
      ∃ t, exec (.accalloc f) s = .next t ∧ go s t ∧ GoesOn s t ∧ t.mem = s.mem ∧ fifos s t ∧ others s t base n ∧
        (∀ r l, t.cg.vlane r l = s.cg.vlane r l) ∧ (∀ p, t.cg.pred p = s.cg.pred p) ∧
        (∀ k, k < 64 → k ≠ f.s1.toNat → t.sreg k = s.sreg k) ∧
        (∀ m ∈ s.members, (t.grp m).sreg (s.grp m).soleSlot f.s1.toNat = BitVec.ofNat 64 base) ∧
        ∀ j, j < n → (t.bank s.cg.tid (base + j)).alloc = true ∧ (t.bank s.cg.tid (base + j)).abase = base ∧
          (t.bank s.cg.tid (base + j)).owner = (s.grp (s.members.getD (j % s.members.length) 0)).vslot) ∧
    (State.bankRun s.cteam n = none → ∃ t, exec (.accalloc f) s = .next t ∧ SameRegs s t ∧
      t.cteam.accQ = [⟨s.members.map fun m => (s.grp m).uid, n, f.s1.toNat⟩] ∧
      ∀ m ∈ s.members, (t.grp m).sole.park = some (.accQueue n))) ∧
  (∀ s (f : TF), last s (.accfree f) → idle s → s.cteam.accQ = [] →
    (∀ j, j < f.nb.toNat → f.bank.toNat + j < s.cteam.accBudget ∧ (s.bank s.cg.tid (f.bank.toNat + j)).alloc = true) →
    ∃ t, exec (.accfree f) s = .next t ∧ go s t ∧ GoesOn s t ∧ SameRegs s t ∧ t.mem = s.mem ∧ fifos s t ∧
      others s t f.bank.toNat f.nb.toNat ∧ ∀ j, j < f.nb.toNat → (t.bank s.cg.tid (f.bank.toNat + j)).alloc = false) ∧
  (∀ s (f : TF) a pa b pb, last s (.mma f) → s.mmaEarly f = none → s.cg.tiles < 63 → s.cteam.mmaQ.length < 4 →
    s.scaleRec (fmtAsc s.ca.fmt) f.s1.toNat (64 * s.members.length) = .ok (a, pa) → s.scaleRec (fmtBsc s.ca.fmt) f.s2.toNat 64 = .ok (b, pb) →
    ∃ t op, exec (.mma f) s = .next t ∧ go s t ∧ GoesOn s t ∧ SameRegs s t ∧ t.mem = s.mem ∧ fifos s t ∧ others s t 0 0 ∧
      (NoInjection s → op.poisA = pa ∧ op.poisB = pb.any id) ∧
      t.cteam.mmaQ = s.cteam.mmaQ ++ [op] ∧ t.cg.tiles = s.cg.tiles + 1 ∧
      op.members = s.members.map (fun m => (s.grp m).uid) ∧ op.fmt = s.ca.fmt ∧ op.bank = f.bank.toNat ∧ op.scaleA = a ∧ op.scaleB = b ∧
      op.band = 0 ∧ op.zero = bit f.sub 0) ∧
  (∀ s (f : TF), Acts s f.g → Passes s f.g [] [] → idle s → owns s f.bank.toNat f.nb.toNat →
    ∃ t, exec (.acczero f) s = .next t ∧ GoesOn s t ∧ OnlyWrites s { t with teams := s.teams, uids := s.uids } {} ∧ fifos s t ∧
      (∀ j, j < f.nb.toNat → (t.bank s.cg.tid (f.bank.toNat + j)).psn = 0 ∧
        ∀ k, k < 1024 → (t.bank s.cg.tid (f.bank.toNat + j)).elem k = 0) ∧ others s t f.bank.toNat f.nb.toNat) ∧
  (∀ s (f : TF), Passes s f.g [(f.v.toNat, 32)] [] → idle s → owns s f.bank.toNat 1 → s.cg.tiles < 63 →
    let bk := s.bank s.cg.tid f.bank.toNat
    let mine := fun r l => decide (f.v.toNat ≤ r) && decide (r < f.v.toNat + 32) && bit (s.active f.g) l
    ∃ t, exec (.accld f) s = .next t ∧ GoesOn s t ∧ (NoInjection s →
      OnlyWrites s { t with teams := s.teams, uids := s.uids } { v := mine } ∧ ∀ x, t.team x = s.team x) ∧ ∀ l c, c < 32 → bit (s.active f.g &&& s.cg.present) l = true →
        t.cg.vlane (f.v.toNat + c) l = bk.elem (32 * l + c) ∧ (NoInjection s → bit (t.cg.vpoison (f.v.toNat + c)) l = bit bk.psn l)) ∧
  (∀ s (f : TF), Passes s f.g [(f.v.toNat, 32)] [] → idle s → owns s f.bank.toNat 1 → s.cg.tiles < 63 →
    ∃ t, exec (.accst f) s = .next t ∧ GoesOn s t ∧ OnlyWrites s { t with teams := s.teams, uids := s.uids } {} ∧ fifos s t ∧
      others s t f.bank.toNat 1 ∧ ∀ l c, l < 32 → c < 32 →
      (t.bank s.cg.tid f.bank.toNat).elem (32 * l + c) = if bit (s.active f.g) l then s.cg.vlane (f.v.toNat + c) l
        else (s.bank s.cg.tid f.bank.toNat).elem (32 * l + c)) ∧
  (∀ s (f : TF), Acts s f.g → Passes s f.g [] [] → s.cg.tileFlag = none → (f.s1.toNat < 32 → s.cg.converged = true) →
    let isB := f.sub.toNat % 2 = 1
    let old := if isB then s.cteam.fifoB else s.cteam.fifoA
    let seq := match s.ca.park with | some (.fifoDrop k) => k | _ => s.uids
    ((∃ m ∈ s.cteam.mmaQ, m.seq < seq) → ∃ t, exec (.fifodrop f) s = .next t ∧ t.ca.park = some (.fifoDrop seq) ∧ SameRegs s t ∧
      { t with groups := s.groups } = s) ∧
    ((∀ m ∈ s.cteam.mmaQ, seq ≤ m.seq) → ∃ t, exec (.fifodrop f) s = .next t ∧ GoesOn s t ∧
      OnlyWrites s { t with teams := s.teams } { s := fun n => n == f.s1.toNat } ∧
      t.sreg f.s1.toNat = BitVec.ofNat 64 (min f.nb.toNat old.length) ∧
      (if isB then t.cteam.fifoB else t.cteam.fifoA) = old.drop f.nb.toNat ∧
      (if isB then t.cteam.fifoA = s.cteam.fifoA else t.cteam.fifoB = s.cteam.fifoB) ∧
      { t.cteam with fifoA := s.cteam.fifoA, fifoB := s.cteam.fifoB } = s.cteam)) ∧
  (∀ s (f : TF), Acts s f.g → Passes s f.g [] [] → (f.s1.toNat < 32 → s.cg.converged = true) →
    ∃ t, exec (.fifostat f) s = .next t ∧ WroteS s t f.s1.toNat (BitVec.ofNat 64 (State.fifoWord s.cg s.cteam)))

/-- MMA_BAND completes, R402, R411-R416, R419, R423, R425: with the B entry (popped before the first band, and kept for the next ones) and
the head A entry whole and of the operation's formats, element (i, n) of the band's bank is the sum of its 512 products, each with the
scales of its row, column and block, and what it held (0 under the zero form): exact in INT32, wrapped or saturated; in FP32 the sum
of R412 rounded once, under SR with the state of the owner's lane i, which steps once for each of its 32 elements. The A entry is gone, the
operation goes on with its next band or ends, and the band's member counts one operation less. An entry of another format is a tile
fault: the operation ends, and the members of the bands left take the flag with the band (255 for B) and the entry's format. An entry not
wholly written makes the band wait. -/
def Obligations.MatrixBandCompletes : Prop :=
  let whole := fun (e : FifoEntry) => e.written = e.size
  ∀ (s : State) tid op later b restB, let t0 := s.team tid
    let known := fun (g : Nat) => (s.grp g).live = true ∧ ∀ p ∈ s.groups, p.2.uid = (s.grp g).uid → p.1 = g
    let pops := op.b = none ∧ t0.fifoB = b :: restB ∧ whole b
    let ends := fun (t : State) (band tag : Nat) (left : List Nat) => (t.team tid).mmaQ = later ∧ t.mem = s.mem ∧
      (∀ k, (t.bank tid k).elem = (s.bank tid k).elem) ∧ ((∀ p ∈ s.groups, s.grp p.1 = p.2) → ∀ g, known g → left.count (s.grp g).uid = 1 →
        (t.grp g).tileFlag = some ⟨41, 0, BitVec.ofNat 64 (band + 256 * tag)⟩ ∧ (t.grp g).tiles = (s.grp g).tiles - 1)
    t0.saved = false → t0.live = true → t0.mmaQ = op :: later → t0.accOps = [] → op.band < 255 →
    (op.b = none → (t0.fifoB = [] ∨ ∃ e r, t0.fifoB = e :: r ∧ ¬ whole e) → exec (.mmaBand tid) s = .next s) ∧
    (pops → b.tag ≠ fmtB op.fmt → ∃ t, exec (.mmaBand tid) s = .next t ∧ ends t 255 b.tag op.members ∧
      (NoInjection s → (t.team tid).fifoB = t0.fifoB ∧ (t.team tid).fifoA = t0.fifoA)) ∧
    ((pops ∧ b.tag = fmtB op.fmt) ∨ (op.b = some b ∧ t0.fifoB = restB) → ∀ a restA, t0.fifoA = a :: restA → whole a →
      (a.tag ≠ fmtA op.fmt → ∃ t, exec (.mmaBand tid) s = .next t ∧ ends t op.band a.tag (op.members.drop op.band) ∧
        (t.team tid).fifoB = restB ∧ (NoInjection s → (t.team tid).fifoA = t0.fifoA)) ∧
      (a.tag = fmtA op.fmt →
      let no := op.bank + op.band
      let bk := s.bank tid no
      let int := fmtAccm op.fmt = 1
      let owner := ((s.teamGroups tid).find? fun m => bk.owner != 63 && (s.grp m).vslot == bk.owner)
      let xs := fun i => ((owner.map fun m => (s.grp m).xs).getD []).getD i 0
      let sr := fun i => fmtRm op.fmt = 5 ∧ bit ((owner.map fun m => (s.grp m).present).getD 0) i = true
      ∃ t, exec (.mmaBand tid) s = .next t ∧ (t.team tid).fifoA = restA ∧ (t.team tid).fifoB = restB ∧ t.mem = s.mem ∧
        (∀ k, k ≠ no → t.bank tid k = s.bank tid k) ∧
        (op.members.length ≤ op.band + 1 → (t.team tid).mmaQ = later) ∧
        (op.band + 1 < op.members.length → ∃ b', { b' with pois := b.pois } = b ∧ (NoInjection s → b' = b) ∧
          (t.team tid).mmaQ = { op with band := op.band + 1, b := some b' } :: later) ∧
        (∀ g, known g → op.members[op.band]? = some (s.grp g).uid → (t.grp g).tiles = (s.grp g).tiles - 1) ∧
        (∀ m, owner = some m → (int → (t.grp m).xs = (s.grp m).xs) ∧ (¬ int → ∀ i, i < 32 →
          (sr i → (t.grp m).xs.getD i 0 = xorshift^[32] (xs i)) ∧ (¬ sr i → (t.grp m).xs.getD i 0 = xs i))) ∧
        (NoInjection s → ∀ i, i < 32 → bit (t.bank tid no).psn i = (op.poisB || b.pois != 0 || bit a.pois i ||
          op.poisA.getD (32 * op.band + i) false || (!op.zero && bit bk.psn i))) ∧ ∀ i n, i < 32 → n < 32 →
          let c : Lane32 := if op.zero then 0 else bk.elem (32 * i + n)
          let sa := fun k => if fmtAsc op.fmt then (op.scaleA.getD (64 * op.band + 2 * i + k / 256) 0).toNat else 127
          let sb := fun k => if fmtBsc op.fmt then (op.scaleB.getD (2 * n + k / 256) 0).toNat else 127
          let sum := fun (down : Bool) => tileSum down (unpackF fmtF32 false c.toNat :: (List.range 512).map fun k =>
            scaleBy (sb k) (scaleBy (sa k) (mulFp (a.elem i k) (b.elem n k)).1))
          let result := fun mode x => (t.bank tid no).elem (32 * i + n) =
            BitVec.ofNat 32 (roundTo fmtF32 mode false (bit op.fmt 15) x (sum (mode == 2))).1
          (int → (t.bank tid no).elem (32 * i + n) = tileInt (bit op.fmt 15) c.toInt ((List.range 512).map fun k =>
            toSigned 8 (a.read (512 * i + k) 1) * toSigned 8 (b.read (512 * n + k) 1))) ∧
          (¬ int → (sr i → result 5 (xorshift^[n + 1] (xs i)).toNat) ∧
            (¬ sr i → result (if fmtRm op.fmt = 5 then 0 else fmtRm op.fmt) (xs i).toNat))))

/-! ### Machine events -/

/-- The core's events complete, R170-R172, R182-R184, R192-R196, R223: an arm enters a clause that passes its checks and waits at the header
while the counters are too high; a reply commits the oldest load's registers; an acknowledgement lowers the store count; a timed
wait ends with its frame dissolved; ready groups become pending and the head is admitted while fewer than 8 are active; a swapped
group leaves the active set; the head of a deadlocked skein queue traps. -/
def Obligations.CoreEventsComplete : Prop :=
  (∀ (s u v : State) w x ws, s.ca.live = true → s.ca.clause = none → s.ca.pc.toNat % 8 = 0 → s.fetchWord s.ca.pc = .word u w → isHeader w = true →
    u.fetchWords (s.ca.pc + 8) (headerOf w).n [] = (.word v x, ws) → w.toNat % 2 ^ 23 = 0 → uncovered (headerOf w).cls ws = none →
    earlyTransfer ws = none → s.ca.top = none → s.ca.ue = none → s.cg.copyFlag = none → s.cg.tileFlag = none →
    ∃ t, exec .clauseEntry s = .next t ∧ t.ca.clause = some ⟨s.ca.pc, w, ws, 0⟩ ∧ SameRegs s t ∧ t.cg.begun = s.cg.begun + 1 ∧
      t.ca.yielded = (headerOf w).yh ∧
      (waitsMet s.cg s.ca (headerOf w) = true → t.ca.park = none) ∧
      (waitsMet s.cg s.ca (headerOf w) = false → t.ca.park = some .header)) ∧
  (∀ (s : State) gid slot ws rest, slot ≠ 2 → ((s.grp gid).arm slot).loads = ws :: rest → ∃ t, exec (.loadReplyCommit gid slot) s = .next t ∧
    { t with groups := s.groups } = s ∧ (∀ k, k ≠ gid → t.grp k = s.grp k) ∧ ((t.grp gid).arm slot).loads = rest ∧
    ∀ r m vals p, ws = [.v r m vals p] →
      (∀ l, bit (m &&& (s.grp gid).present) l = true → (t.grp gid).vlane r l = vals.getD l 0) ∧
      ∀ k l, k ≠ r ∨ bit m l = false → (t.grp gid).vlane k l = (s.grp gid).vlane k l) ∧
  (∀ (s : State) gid ws rest, (s.grp gid).orphans = ws :: rest → ∃ t, exec (.loadReplyCommit gid 2) s = .next t ∧
    { t with groups := s.groups } = s ∧ (∀ k, k ≠ gid → t.grp k = s.grp k) ∧ (t.grp gid).orphans = rest) ∧
  (∀ (s : State) gid slot, ∃ t, exec (.storeAck gid slot) s = .next t ∧ { t with groups := s.groups } = s ∧
    (∀ k, k ≠ gid → t.grp k = s.grp k) ∧ ((t.grp gid).arm slot).stores = ((s.grp gid).arm slot).stores - 1) ∧
  (∀ (s : State) gid slot pos f, slot ≤ 1 → ((s.grp gid).arm slot).park = some (.timed pos) → (s.grp gid).frame pos = some f →
    s.framesIntact (s.grp gid) = true → ∃ t, exec (.bwaitTimeout gid slot) s = .next t ∧ ((t.grp gid).arm slot).park = some .header ∧
      ((t.grp gid).arm slot).bw = false ∧ ((t.grp gid).arm slot).top = f.parent ∧
      ∀ y, (t.grp gid).frame pos = some y → { y with out := f.out } = { f with dissolved := true }) ∧
  (∀ (s : State) core, ∃ t, exec (.groupAdmission core) s = .next t ∧ { t with groups := s.groups } = s ∧
    (∀ g, (s.grp g).live = true → gidCore g = core → (s.grp g).place = .waiting → s.groupReady g = true → (t.grp g).place ≠ .waiting) ∧
    (∀ g, (s.wakeAll core).pendingHead core = some g → ((s.wakeAll core).inPlace core .active).length < 8 → (t.grp g).place = .active ∧
      (t.grp g).begun = 0) ∧
    (8 ≤ ((s.wakeAll core).inPlace core .active).length → t = s.wakeAll core)) ∧
  (∀ (s : State) gid, (∃ t, exec (.swapOut gid) s = .next t ∧ (s.swapDue gid = false → t = s) ∧ (s.swapDue gid = true →
      (t.grp gid).place = if s.groupReady gid then .pending else .waiting)) ∧
    ∃ t, exec (.fairnessSwap gid) s = .next t ∧ (s.fairDue gid = false → t = s) ∧ (s.fairDue gid = true →
      (t.grp gid).place = (if s.groupReady gid then .pending else .waiting) ∧ (t.grp gid).begun = 0)) ∧
  (∀ (s : State) tid uid n gid, (s.team tid).saved = false → (s.team tid).skeinQ = [(uid, n)] → (s.teamGroups tid).all s.skeinStuck = true → s.findUid uid = some gid →
    TakesHandler s gid (s.grp gid).soleSlot → ∃ t, exec (.skeinDeadlockDetect tid) s = .next t ∧ (t.team tid).skeinQ = [] ∧
      InHandler s t gid (s.grp gid).soleSlot ⟨34, BitVec.ofNat 64 (s.team tid).skeinFree, BitVec.ofNat 64 n⟩)

/-- The events of translation and of the homes complete, R232-R237, R271-R275, R297-R306, where the homes that they need can serve them
(R312, R480): one of the walks under way that finds a leaf leaves it, with A set, in the die's L2 TLB, and a failing one is told
to the waiting arms (a walk reads its tables with the errors injected there, R461); a write-back and a merge put the masked bytes, and no
other, at the home, and the event of a clean sector evicts its line (that one event does both is log 10); a granted read or ownership
stands in the directory and in the die's L2; an atomic replaces its bytes by the new value; the check phase of an access that
meets no other group's record passes, and returns a load's bytes as they are then; its commit writes them and opens the arm's way,
and its abort traps, each settling the tentative bits of that arm alone (log 48); where an arm of the group stands at a
synchronising operation, a close leaves its records at the homes that it reaches no performed access (log 48). -/
def Obligations.HomeEventsComplete : Prop :=
  (∀ (s : State) die ctx page, (ctx, page) ∈ (s.die die).walks.take Config.walkers → let w0 := s.dieWalk die ctx page
    let w := (s.walkInject die ctx w0).dieWalk die ctx page
    (s.dev.injctl = [] → w = w0) ∧ (s.waitsAny die (s.ctx ctx).part (s.walkNeeds die ctx w0) = false →
    (s.xinvPending ctx page = true → ∃ t, exec (.pageWalkComplete die ctx page) s = .next t ∧ (ctx, page) ∉ (t.die die).walks ∧
      (t.die die).tlb = (s.die die).tlb ∧ t.mem = s.mem ∧ t.groups = s.groups) ∧
    (s.xinvPending ctx page = false → (∀ e, w.res = .leaf e → ∃ t, exec (.pageWalkComplete die ctx page) s = .next t ∧
      (ctx, page) ∉ (t.die die).walks ∧ ∃ x ∈ (t.die die).tlb, x.page = e.page ∧ x.level = e.level ∧ x.pfn = e.pfn ∧ bit x.pte 6 = true) ∧
    ∀ level psn, (w.res = .fault level ∧ psn = false) ∨ (w.res = .pois ∧ level = 0 ∧ psn = true) →
      ∃ t, exec (.pageWalkComplete die ctx page) s = .next t ∧ t.mem = s.mem ∧
      ∀ gid slot, slot ≤ 1 → ((s.grp gid).arm slot).park = some (.walk [⟨die, ctx, page⟩]) →
        ((t.grp gid).arm slot).walkFaults = ((s.grp gid).arm slot).walkFaults ++ [(page, level, psn)]))) ∧
  (∀ (s : State) die sect x, s.l2sect die sect = some (false, x) →
    (x.drt ≠ 0 → Quiet s sect → s.waitsAny die (s.ctx x.tag).part [(sect, true)] = false →
      ∃ t, exec (.l2WriteBack die sect) s = .next t ∧ SectorWritten sect x.drt x.data s.mem t.mem ∧
        ∃ y, t.l2sect die sect = some (false, y) ∧ y.drt = 0 ∧ y.val = x.val) ∧
    (x.drt = 0 → s.waitsAny die (s.ctx x.tag).part ((List.range 4).map fun k => (sect / 4 * 4 + k, true)) = false →
      ∃ t, exec (.l2WriteBack die sect) s = .next t ∧ (∀ y, t.l2sect die sect = some (false, y) → y.val = 0 ∧ y.drt = 0) ∧
        ((∀ c, coreDie c = die → ∀ u ∈ (s.core c).upd, u.line = sect / 4 → u.coh = false) →
          (∃ l, mget none (s.die die).l2 (sect / 4) = some l ∧ l.sects.length = 4) → t.l2sect die sect = none))) ∧
  (∀ (s : State) die sect sh, die < 8 → bit (s.dirEnt sect).shr die = true → s.homeCut die sect (s.hasDeltas die sect) = false →
    ∃ t, exec (.l2Recall die sect sh) s = .next t ∧
    bit (t.dirEnt sect).shr die = sh ∧ ∀ x, t.l2sect die sect = some (true, x) → x.cst ≠ .o ∧ x.drt = 0) ∧
  (∀ (s : State) req sect, (s.die req).lost = false → req < 8 → s.l2sect req sect = none →
    (s.homeBusy req sect false = false → ∃ t x, exec (.homeReadShared req sect) s = .next t ∧ t.l2sect req sect = some (true, x) ∧ x.cst = .s ∧ x.data = t.homeData sect ∧
      bit (t.dirEnt sect).shr req = true) ∧
    (s.homeBusy req sect true = false → ∃ t x, exec (.homeReadForOwnership req sect) s = .next t ∧ t.l2sect req sect = some (true, x) ∧ x.cst = .o ∧
      t.dirEnt sect = { dst := .o, shr := BitVec.ofNat 10 (2 ^ req) })) ∧
  (∀ (s : State) (b : WriteBack) coh x, (s.die b.die).lost = false → s.l2sect b.die b.sect = some (coh, x) → b.mask = x.drt → b.mask ≠ 0 →
    b.pois = x.psn → (∀ k, k < 64 → bit b.mask k = true → b.data.getD k 0 = x.data.getD k 0) →
    s.waitsHome b.die (s.ctx x.tag).part b.sect true = false →
    ((coh = true ∧ x.cst = .o ∧ s.hasDeltas b.die b.sect = false) ∨ (coh = false ∧ Quiet s b.sect) →
      ∃ t, exec (.homeWriteBackMerge b) s = .next t ∧ SectorWritten b.sect b.mask b.data s.mem t.mem ∧
        bit (t.dirEnt b.sect).shr b.die = false ∧ ∀ k y, t.l2sect b.die b.sect = some (k, y) → y.drt = 0)) ∧
  (∀ (s : State) (r : AtomReq), (s.die r.die).lost = false → s.homeBusy r.die (r.pa / 64) true = false → let n := if r.wide then 8 else 4
    r.pa < Config.deviceMemTop → r.pa % 64 + n ≤ 64 → Quiet s (r.pa / 64) → s.homePsn (r.pa / 64) = false →
    ∃ t, exec (.homeAtomic r) s = .next t ∧ StoredTo n [(r.pa, bytesOfNat n (aopNew r.aop r.wide
      (natOfBytes (mgetList 0 s.mem r.pa n)) r.opnd.toNat r.cmp.toNat))] s.mem t.mem) ∧
  (∀ (s : State) gid slot trs i, slot ≤ 1 → let a := (s.grp gid).arm slot
    a.park = some (.check trs) → a.head = some i →
    let me := { s with cur := (gid, slot) }
    let served := me.blocked i (checkLanes trs) = false ∧ (∀ p ∈ s.groups, s.grp p.1 = p.2) ∧
      (s.grp gid).chkHomes &&& ~~~s.closable gid = 0
    (a.chk = none → served → ∃ t, exec (.checkPhase gid slot) s = .next t ∧ ((t.grp gid).arm slot).chk.isSome = true ∧
      ((∀ h, ∀ r ∈ mget [] s.checks h, r.isOf (s.grp gid) = true) → ((t.grp gid).arm slot).chk = some none ∧
        ∀ f, i = .ld f → f.ord ≠ .sc → s.dev.injctl = [] → (∀ r ∈ trs, AtHome s r.2.2 ∧ r.2.2.pa % 64 + f.sz.bytes ≤ 64) →
          t.mem = s.mem ∧ ((t.grp gid).arm slot).chkVals = loadWrites f.t.toNat (sizeRegs f.sz)
            (trs.map fun r => (r.1, mgetList 0 s.mem r.2.2.pa f.sz.bytes, s.homePsn (r.2.2.pa / 64))))) ∧
    (a.chk = some none → served → ∃ t, exec (.checkCommit gid slot) s = .next t ∧ GoesOn me t ∧
      (∀ h, ∀ r ∈ mget [] t.checks h, r.isOf (s.grp gid) = true → r.commit slot = r) ∧
      ∀ f r m vals p, i = .ld f → a.chkVals = [.v r m vals p] → ∀ l, bit (m &&& (s.grp gid).present) l = true →
        (t.grp gid).vlane r l = vals.getD l 0) ∧
    (∀ x, a.chk = some (some x) → State.endsGroups x.cause = false → TakesHandler s gid slot →
      ∃ t, exec (.checkAbort gid slot) s = .next t ∧ t.mem = s.mem ∧ InHandler s t gid slot x ∧
        ∀ h, ∀ r ∈ mget [] t.checks h, r.isOf (s.grp gid) = true → r.discard slot = r)) ∧
  (∀ (s : State) gid, ((s.grp gid).synchronising = false → exec (.checkClose gid) s = .next s) ∧ ((s.grp gid).synchronising = true →
    ∃ t, exec (.checkClose gid) s = .next t ∧ t.mem = s.mem ∧ (t.grp gid).chkHomes = (s.grp gid).chkHomes &&& ~~~s.closable gid ∧
    ∀ h, bit ((s.grp gid).chkHomes &&& s.closable gid) h = true → ∀ r ∈ mget [] t.checks h, r.isOf (s.grp gid) = true →
      r.wmask = 0 ∧ r.rmask = 0))

/-- The fabric's events complete, R307-R312, R490: a failed colour is marked with EVT and the pair's route falls back to the other; a drain
ends in the route that MODE names where it works; a replayed flit is logged and nothing else moves; a die that has lost a route
fences itself, with every group on it ended; a home then drops it from every directory entry and poisons what it owned; a chiplet
cut off from the host and collective dies ends every group of the device. -/
def Obligations.FabricEventsComplete : Prop :=
  (∀ (s : State) i j b, State.isPair i j = true → (if b then (s.route i j).bup else (s.route i j).aup) = true →
    ∃ t, exec (.colourFail i j b) s = .next t ∧ (if b then (t.route i j).bup else (t.route i j).aup) = false ∧ (t.route i j).evt = true ∧
      t.mem = s.mem ∧ ((s.route i j).mode = 0 → (s.route i j).busy = false → (if b then (s.route i j).aup else (s.route i j).bup) = true →
        (t.route i j).eff = if b then 1 else 2)) ∧
  (∀ (s : State) i j b, State.isPair i j = true → (if b then (s.route i j).bup else (s.route i j).aup) = false →
    ∃ t, exec (.colourRecover i j b) s = .next t ∧ (if b then (t.route i j).bup else (t.route i j).aup) = true ∧ (t.route i j).evt = true ∧
      t.mem = s.mem) ∧
  (∀ (s : State) i j, (s.route i j).busy = true → ∃ t, exec (.routeDrainComplete i j) s = .next t ∧ (t.route i j).busy = false ∧ t.mem = s.mem ∧
    (s.modeWorks i j (s.route i j) = true → ((s.route i j).mode < 3 ∨ s.relayers i j = []) → (t.route i j).eff = (s.route i j).mode)) ∧
  (∀ (s : State) i j, ∃ t, exec (.flitCrcReplay i j) s = .next t ∧ t.mem = s.mem ∧ t.groups = s.groups ∧ t.teams = s.teams ∧
    (State.unitExists 11 (32 * i + j) = true → (mget {} t.dev.logs (2 ^ 24 * 11 + (32 * i + j))).count =
      min ((mget {} s.dev.logs (2 ^ 24 * 11 + (32 * i + j))).count + 1) (2 ^ 32 - 1))) ∧
  (∀ (s : State) die port e, die < 8 → 8 ≤ port → port < 26 → s.cutOff die port = true →
    ∃ t, exec (.routeLossDetect die port e) s = .next t ∧ mget false t.lossSeen (State.lossKey die port e) = true ∧ t.mem = s.mem) ∧
  (∀ (s : State) die, (s.die die).fenced = false → s.stillCut die true = true → ∃ t, exec (.dieFence die) s = .next t ∧
    (t.die die).fenced = true ∧ (t.die die).l2 = [] ∧ t.mem = s.mem ∧ ∀ g, gidDie g = die → (t.grp g).live = false) ∧
  (∀ (s : State) die, (s.die die).fenced = true → (s.die die).lost = false → s.stillCut die false = true →
    ∃ t, exec (.dieLostDeclare die) s = .next t ∧ (t.die die).lost = true ∧ t.mem = s.mem ∧ ∀ sect, bit (t.dirEnt sect).shr die = false ∧
      ((s.dirEnt sect).st = .o → bit (s.dirEnt sect).shr die = true → t.homePsn sect = true)) ∧
  (∀ (s : State) chip, chip < 16 → (s.hasRoute (8 + chip) 24 && s.hasRoute 24 (8 + chip) && s.hasRoute (8 + chip) 25 &&
      s.hasRoute 25 (8 + chip)) = false → ∃ t, exec (.chipletRouteLoss chip) s = .next t ∧ t.host.ready = false ∧ t.host.dead = true ∧
    ∀ g, (t.grp g).live = false)

/-- The events of pre-emption complete, R452-R457: a request names dies for the contexts of a partition; at the deadline the named dies
stop their arms; a handler that outstays its limit ends its group; a halted context is saved, its groups off the cores, with PREQ
cleared and the context away (log 43); a saved context whose image is untouched takes its new cores; an image that was written to stops
the model (R455, log 11). -/
def Obligations.PreemptionEventsComplete : Prop :=
  (∀ (s : State) part dies, ∃ t, exec (.preemptRequest part dies) s = .next t ∧ t.groups = s.groups ∧ t.mem = s.mem ∧ ∀ c,
    ((s.ctx c).live = true → (s.ctx c).part = part → t.ctx c = { s.ctx c with preq := (s.ctx c).preq ||| BitVec.ofNat 8 dies }) ∧
    ((s.ctx c).live = false ∨ (s.ctx c).part ≠ part → t.ctx c = s.ctx c)) ∧
  (∀ (s : State) c, ∃ t, exec (.preemptDeadline c) s = .next t ∧ t.ctx c = { s.ctx c with pdue := (s.ctx c).preq } ∧
    { t with ctxs := s.ctxs } = s) ∧
  (∀ (s : State) gid, (s.grp gid).live = true → ((s.grp gid).arm0.live = true ∧ (s.grp gid).arm0.handler = true) →
    bit (s.ctx (s.grp gid).ctx).preq (gidDie gid) = true → ∃ t, exec (.handlerPreemptLimit gid) s = .next t ∧ (t.grp gid).live = false ∧
      (t.grp gid).cause = some ⟨52, 0, 1⟩) ∧
  (∀ (s : State) c, (s.saveReady c = false → exec (.saveSequence c) s = .next s) ∧ (s.saveReady c = true →
    ∃ t, exec (.saveSequence c) s = .next t ∧ (t.ctx c).preq = 0 ∧ (t.ctx c).away = true ∧ ∀ g ∈ s.preempted c, (t.grp g).live = false ∧
      (t.team (s.grp g).tid).saved = true)) ∧
  (∀ (s : State) c m, ((s.ctx c).away = false → exec (.contextResume c m) s = .next s) ∧
    let intact := s.unhit ((s.ctx c).savea / 64) (16 * (s.ctx c).savesz)
    ((s.ctx c).away = true → intact = false → exec (.contextResume c m) s = .fault .imageOverwritten) ∧
    ∀ tid core, (s.ctx c).away = true → intact = true → s.savedTeams c = [tid] → s.placementOk m c = true → s.newCore m tid = some core →
      (s.resumeTeam tid core = none → exec (.contextResume c m) s = .next s) ∧
      ∀ u, s.resumeTeam tid core = some u → ∃ t, exec (.contextResume c m) s = .next t ∧
        (t.team tid).saved = false ∧ (t.team tid).core = core ∧ (t.ctx c).away = false ∧ t.groups = u.groups ∧ t.mem = u.mem ∧
        ((s.team tid).collDone = [] → (u.team tid).sp = (s.team tid).sp))

/-- The events of launches complete, R467-R479, R505: the doorbell moves a tail; a waiting head rises a level; a command processor takes the
head of its queue, and a sound record becomes a launch; a record named to ABORT while it was queued, one whose edge failed, one out of
range or unreadable, one with a bad pattern and one without a working die complete with STATUS 7, 4, 6, 5 and 3 in a record of zeros, or
where COMPL does not translate in the host I/O die's log; a cluster places its lowest team with its groups at the entry; a dry
cluster takes the upper half, rounded up (log 40), of its sibling's remainder; a finished launch writes its completion record, with the
STATUS that applies and the first group that a cause ended, sends its message and leaves; an aborted launch's groups end. -/
def Obligations.LaunchEventsComplete : Prop :=
  let record := fun (x : Launch) (status : Nat) =>
    let f : FirstEnd := x.first.getD ⟨{}, 0, 0, 0, 0, 0, 0⟩
    bytesOfNat 2 status ++ bytesOfNat 2 (min 65535 x.nend) ++ bytesOfNat 1 f.trap.cause.toNat ++ List.replicate 3 0 ++
      bytesOfNat 8 f.pc.toNat ++ bytesOfNat 8 f.trap.ad.toNat ++ bytesOfNat 8 f.trap.x.toNat ++
      bytesOfNat 4 (f.vcluster + 16 * f.vcore + 2048 * f.vslot) ++ bytesOfNat 4 f.lin ++ List.replicate 24 0
  (∀ (s : State) die q v, die < 8 → q < 64 → (s.lqueue (64 * die + q)).slots ≠ 0 → ∃ t, exec (.qtail die q v) s = .next t ∧
    t.lqueue (64 * die + q) = { s.lqueue (64 * die + q) with tail := v.toNat % 65536 % (s.lqueue (64 * die + q)).slots } ∧
    { t with lqueues := s.lqueues } = s) ∧
  (∀ (s : State) die q, let x := s.lqueue (64 * die + q)
    (s.startable x = true ∨ s.headReady x = true) → x.prio + x.aged < 7 → ∃ t, exec (.queuePriorityAging die q) s = .next t ∧
      State.prioOf (t.lqueue (64 * die + q)) = State.prioOf x + 1 ∧ { t with lqueues := s.lqueues } = s) ∧
  (∀ (s : State) die q, die < 8 → s.host.ready = true → (s.die die).fenced = false → s.nextQueue die = some q →
    let x := s.lqueue (64 * die + q)
    let addr := State.slotAddr x x.head
    let d := (s.devView addr 256).1
    let r := LRec.of d
    ∃ t, exec (.launchStart die) s = .next t ∧ (t.lqueue (64 * die + q)).head = (x.head + 1) % x.slots ∧
      (x.marked.contains x.head = false → du d 68 4 < 2 ^ 31 → r.inRange d = true → s.recordBad r = false → r.patrows = 0 →
        (∃ v, v < 8 ∧ natBits r.aff v 1 = 1 ∧ v < s.workingDies.length ∧ s.dieOf r.ctx v ≠ none) →
        ∃ lid, (t.launch lid).live = true ∧ (t.launch lid).addr = addr ∧ (t.launch lid).ctx = r.ctx ∧ (t.launch lid).hvec = r.hvec) ∧
      (let marked := x.marked.contains x.head
       let failed := 2 ^ 31 ≤ du d 68 4
       let bad := r.inRange d = false ∨ s.recordBad r = true
       let ends := fun (status : Nat) => t.groups = s.groups ∧ t.teams = s.teams ∧ t.launches = s.launches ∧ (r.nout = 0 →
         (∀ pa, (s.ctx r.ctx).live = true → s.cpXlate r.ctx true r.compl = some pa → pa % 64 = 0 → pa + 64 ≤ Config.deviceMemTop →
           Quiet s (pa / 64) → StoredTo 64 [(pa, record {} status)] s.mem t.mem) ∧
         ((s.ctx r.ctx).live = false ∨ s.cpXlate r.ctx true r.compl = none → t.mem = s.mem ∧
           t.hostLog.entries = (⟨r.compl, 0, r.ctx, 0⟩ :: s.hostLog.entries).take 8))
       (marked = true → ends 7) ∧ (marked = false → failed → ends 4) ∧ (marked = false → ¬ failed → bad → ends 6) ∧
       (marked = false → ¬ failed → ¬ bad →
         (r.patrows ≠ 0 → (s.readRows r).bind checkPattern = none → ends 5) ∧
         (r.patrows = 0 → (∀ v, v < 8 → natBits r.aff v 1 = 1 → v < s.workingDies.length → s.dieOf r.ctx v = none) → ends 3)))) ∧
  (∀ (s : State) l c lin rest, let x := s.launch l
    State.chunkNext (mget [] x.chunks (coreCluster c)) = some (lin, rest) → s.canPlace l x [c] = true →
    ∃ t, exec (.teamPlacement l [c]) s = .next t ∧ t.mem = s.mem ∧ (t.team (s.uids + 1)).live = true ∧ (t.team (s.uids + 1)).core = c ∧
      (t.team (s.uids + 1)).lin = lin ∧ mget [] (t.launch l).chunks (coreCluster c) = rest ∧ ∀ k, k < x.lrec.groups →
        let g := t.grp ((s.freeSlots c).getD k 0)
        g.live = true ∧ g.launch = l ∧ g.tid = s.uids + 1 ∧ g.arm0.live = true ∧ g.arm0.pc = x.lrec.entry ∧ g.arm0.handler = false ∧
          g.arm0.mask = g.teamLanes ||| g.helpers ∧ g.arm1.live = false ∧ g.base = 8 * x.lrec.base) ∧
  (∀ (s : State) l k, let x := s.launch l
    let sib := 2 * (k / 2) + 1 - k % 2
    x.live = true → x.named.contains (k / 2) = true → mget [] x.chunks k = [] → mget [] x.chunks sib ≠ [] →
    let n := State.chunkSize (mget [] x.chunks sib)
    ∃ t, exec (.workSteal l k) s = .next t ∧ State.chunkSize (mget [] (t.launch l).chunks k) = (n + 1) / 2 ∧
      State.chunkSize (mget [] (t.launch l).chunks sib) = n / 2) ∧
  (∀ (s : State) l, (s.launchDone l = false → exec (.launchComplete l) s = .next s) ∧
    (s.edgeWaits (s.launch l) = true → exec (.launchComplete l) s = .next s) ∧
    (s.launchDone l = true → s.edgeWaits (s.launch l) = false →
      let x := s.launch l
      let v := mget {} s.msix x.lrec.msix
      ∃ t, exec (.launchComplete l) s = .next t ∧ (t.launch l).live = false ∧ t.groups = s.groups ∧ (x.outePa = [] →
        (x.complPa % 64 = 0 → x.complPa + 64 ≤ Config.deviceMemTop → Quiet s (x.complPa / 64) → StoredTo 64 [(x.complPa,
          record x (if x.aborted then 7 else if x.lost then 2 else if x.error then 1 else 0))] s.mem t.mem) ∧
        (x.lrec.msix = 0xFFFF → t.events = s.events ∧ t.msix = s.msix) ∧
        (x.lrec.msix ≠ 0xFFFF → v.masked = true → t.events = s.events ∧ (mget {} t.msix x.lrec.msix).pending = true) ∧
        (x.lrec.msix ≠ 0xFFFF → v.masked = false → t.events = s.events ++ [.msix x.lrec.msix v.addr v.data])))) ∧
  (∀ (s : State) a l x, s.launches.find? (fun p => p.2.live && p.2.addr == a.toNat) = some (l, x) → s.launch l = x →
    ∃ t, exec (.abortLaunch a) s = .next t ∧ (t.launch l).aborted = true ∧ (t.launch l).chunks = [] ∧
      ∀ g, (s.grp g).live = true → (s.grp g).launch = l → (t.grp g).live = false) ∧
  (∀ (s : State) a, s.launches.find? (fun p => p.2.live && p.2.addr == a.toNat) = none →
    ∃ t, exec (.abortLaunch a) s = .next t ∧ { t with lqueues := s.lqueues } = s ∧ ∀ k, let q := s.lqueue k
      (t.lqueue k).head = q.head ∧ (t.lqueue k).tail = q.tail ∧ ∀ j, j ∈ (t.lqueue k).marked ↔ j ∈ q.marked ∨
        (j < q.slots ∧ State.slotAddr q j = a.toNat ∧ (j + q.slots - q.head) % q.slots < (q.tail + q.slots - q.head) % q.slots))

/-- The events of the host and of the device's health complete, R323, R458-R460, R480, R483-R498: resets end every context and keep memory
(a cold one but for the dirty lines, log 41); a power cap in range is taken; a host access is performed at the home once that can serve
it, and one from 2^52 up stands for an access to BAR0 (log 49); a period makes an allowance whole; a plane whose keys run out, or
whose link is lost, goes down with its port and a new key lets it go on, with the flits that waited for it counted (log 55); errors
of a unit that exists are logged and counted, and in the control state of a core end its groups with UE_CORE (CTX 0xFFFF in a report
stands for the core as a whole, and otherwise its address names the team: log 18); a hot die is throttled until it recovers, and a
shutdown ends every group. -/
def Obligations.HostEventsComplete : Prop :=
  (∀ s : State, ∃ t, exec .warmReset s = .next t ∧ t.groups = [] ∧ t.teams = [] ∧ t.ctxs = [] ∧ t.launches = [] ∧ t.mem = s.mem ∧
    t.routes = s.routes ∧ t.planes = s.planes ∧ t.host.ready = !s.host.dead ∧ t.host.powcap = 3200) ∧
  (∀ s : State, ∃ t, exec .coldReset s = .next t ∧ t.groups = [] ∧ t.teams = [] ∧ t.ctxs = [] ∧ t.launches = [] ∧ t.routes = [] ∧ t.cores = [] ∧
    t.dir = [] ∧ t.host.ready = true ∧ t.host.powcap = 3200 ∧ ∀ a, a ∉ s.dirtyBytes → mget 0 t.mem a = mget 0 s.mem a) ∧
  (∀ (s : State) (v : Word), let w := v.toNat % 4096
    ∃ t, exec (.powcap v) s = .next t ∧ t = { s with host := { s.host with powcap := if 1600 ≤ w ∧ w ≤ 3200 then w else s.host.powcap } }) ∧
  (∀ (s : State) (r : HostReq), 0 < r.len → r.data.length = r.len → r.pa + r.len ≤ Config.deviceMemTop → r.pa % 64 + r.len ≤ 64 →
    Quiet s (r.pa / 64) → s.rangeBusy r.pa r.len r.write = false →
    (r.write = true → ∃ t, exec (.hostCxlAccess r) s = .next t ∧ StoredTo r.len [(r.pa, r.data)] s.mem t.mem) ∧
    (r.write = false → s.dev.injctl = [] → ∃ t, exec (.hostCxlAccess r) s = .next t ∧ t.mem = s.mem ∧
      t.dirEnt (r.pa / 64) = { dst := .s, shr := 2 ^ 9 } ∧
      t.events = s.events ++ [.hostData r.pa (mgetList 0 s.mem r.pa r.len) (s.homePsn (r.pa / 64))])) ∧
  (∀ (s : State) (o : Nat) (w : Word), let read : HostReq := { pa := 2 ^ 52 + o, write := false, data := [], len := 8 }
    let write : HostReq := { pa := 2 ^ 52 + o, write := true, data := bytesOfNat 8 w.toNat, len := 8 }
    (o = 0x10 ∨ o = 0x20 → exec (.hostCxlAccess read) s =
      .next { s with events := s.events ++ [.hostData (2 ^ 52 + o) (List.replicate 8 0) false] }) ∧
    (o = 0 → exec (.hostCxlAccess read) s =
      .next { s with events := s.events ++ [.hostData (2 ^ 52 + o) (bytesOfNat 8 s.statusWord.toNat) false] }) ∧
    (o = 0x18 → exec (.hostCxlAccess write) s = exec (.powcap w) s) ∧ (o = 0x20 → exec (.hostCxlAccess write) s = exec (.abortLaunch w) s) ∧
    (o = 0x10 → w.toNat % 4 = 1 → exec (.hostCxlAccess write) s = exec .warmReset s)) ∧
  (∀ (s : State) kind unit part, let k := State.budgetKey kind unit part
    ∃ t, exec (.budgetPeriod kind unit part) s = .next t ∧ { t with used := s.used } = s ∧ mget 0 t.used k = 0 ∧
    ∀ j, j ≠ k → mget 0 t.used j = mget 0 s.used j) ∧
  (∀ (s : State) port b, (∃ t, exec (.keyExhaust port b) s = .next t ∧ t.mem = s.mem ∧
      ((s.plane port b).down = false → (t.plane port b).exhausted = true) ∧
      ((s.plane port b).down = true ∨ (s.plane port b).exhausted = true → t = s)) ∧
    (∃ t, exec (.keyInstall port b) s = .next t ∧ t.mem = s.mem ∧
      (t.plane port b).keys = (s.plane port b).keys + 1 ∧ (t.plane port b).down = (s.plane port b).down ∧
      ((s.plane port b).owed < 2 ^ 48 - 1 → (t.plane port b).exhausted = false ∧ (t.plane port b).owed = 0 ∧
        (t.plane port b).ctr.toNat = (s.plane port b).owed)) ∧
    ((s.plane port b).exhausted = true → ∃ t, exec (.keyTimeout port b) s = .next t ∧ t.portUp port = false) ∧
    (port < 32 → ∃ t, exec (.scaleUpPortLoss port) s = .next t ∧ t.portUp port = false)) ∧
  (∀ (s : State) (e : ErrorReport), State.unitExists e.cls e.unit = false →
    exec (.correctedError e) s = .next s ∧ exec (.uncorrectedError e) s = .next s) ∧
  (∀ (s : State) (e : ErrorReport), State.unitExists e.cls e.unit = true →
    ∃ t, exec (.correctedError e) s = .next t ∧ t.mem = s.mem ∧ t.groups = s.groups ∧
    let l := mget {} t.dev.logs (2 ^ 24 * e.cls + e.unit)
    l.count = min ((mget {} s.dev.logs (2 ^ 24 * e.cls + e.unit)).count + 1) (2 ^ 32 - 1) ∧ (l.entries.head?).map (·.addr) = some e.addr) ∧
  (∀ (s : State) (e : ErrorReport), State.unitExists e.cls e.unit = true →
    (e.control = true → e.cls ≤ 5 → e.ctx = 0xFFFF → ∃ t, exec (.uncorrectedError e) s = .next t ∧ e.unit ∈ t.retiring ∧
      ∀ g, (s.grp g).live = true → gidCore g = e.unit → (t.grp g).live = false ∧ (t.grp g).cause = some ⟨50, 0, 0⟩) ∧
    (e.control = true → e.cls ≤ 10 → ¬ (e.cls ≤ 5 ∧ e.ctx = 0xFFFF) → (s.team e.addr.toNat).saved = false →
      ∃ t, exec (.uncorrectedError e) s = .next t ∧ t.retiring = s.retiring ∧ ∀ g, (s.grp g).live = true → (s.grp g).tid = e.addr.toNat →
        (t.grp g).live = false ∧ (t.grp g).cause = some ⟨63, 0, BitVec.ofNat 64 e.cls⟩) ∧
    (e.control = false → (e.cls = 8 ∨ e.cls = 9) → e.addr.toNat < Config.deviceMemTop →
      ∃ t, exec (.uncorrectedError e) s = .next t ∧ t.homePsn (e.addr.toNat / 64) = true ∧ t.mem = s.mem ∧ t.groups = s.groups)) ∧
  (∀ (s : State) chip, exec (.scrubPass chip) s = .next s) ∧
  (∀ (s : State) die, (∃ t, exec (.thermalThrottle die) s = .next t ∧ (t.die die).throttled = true ∧ t.host.therm = true ∧ t.mem = s.mem) ∧
    ∃ t, exec (.thermalRecover die) s = .next t ∧ (t.die die).throttled = false ∧ t.mem = s.mem) ∧
  (∀ s : State, ∃ t, exec .thermalShutdown s = .next t ∧ t.host.ready = false ∧ t.host.dead = true ∧ t.host.therm = true ∧
    ∀ g, (t.grp g).live = false)

/-! ### Encoding, the step, the state after reset -/

/-- Decoding and encoding agree on every word, R61-R86: a well-formed instruction's word decodes to that instruction, with every operand
at every value that the encoding admits; a word that decodes is the word of the instruction it decodes to, which is well formed. -/
def Obligations.DecodeAndEncodeAgree : Prop :=
  (∀ i : Instr, i.wf = true → decodeWord (encode i) = .ok i) ∧
  ∀ (w : Word) i, decodeWord w = .ok i → encode i = w ∧ i.wf = true

/-- The words that the manual works out decode to the instructions it gives: fma, iadd and ld (03), cvt (05), loop, brp and bwait (06),
bar and bararr (07), atoms (08), patadv and mma (17), qpop (15), syswr and gkill (18). -/
def Obligations.DecodeSamples : Prop :=
  decodeWord 0x23B0A02070454000 = .ok (.fma { plainV with g := ⟨true, 3⟩, d := 10, a := .v 2, b := .s 7, c := .v 4, ty := .f32 }) ∧
  decodeWord 0x00005055F0014000 = .ok (.iadd { plainV with d := 5, a := .v 5, b := .imm 31, ty := .i32 }) ∧
  decodeWord 0x70008100BC200040 = .ok (.ld { g := noGuard, t := 8, base := 4, off := 2, sc := .none, ord := .rlx, sz := .b32, disp := 0x40 }) ∧
  decodeWord 0x3000C03040070005 = .ok (.cvt { plainV with d := 12, a := .v 3, b := .v 4, ty := .bf16x2, sub := 5 }) ∧
  decodeWord 0x5A0FFFFFFAA10000 = .ok (.loop { g := noGuard, disp := 0xFFFFFFA, cs := 40, ck := .nonzero }) ∧
  decodeWord 0x5120000800010000 = .ok (.brp { g := ⟨false, 2⟩, tdisp := 8, rdisp := 16 }) ∧
  decodeWord 0x550A0080000000C8 = .ok (.bwait { g := noGuard, d := 40, a := 0, immf := true, b := 0, w64 := false, imm := 200 }) ∧
  decodeWord 0x6000008000000002 = .ok (.bar { g := noGuard, d := 0, a := 0, immf := true, b := 0, w64 := false, imm := 2 }) ∧
  decodeWord 0x6101408000000002 = .ok (.bararr { g := noGuard, d := 5, a := 0, immf := true, b := 0, w64 := false, imm := 2 }) ∧
  decodeWord 0x820050C094200700 = .ok (.atoms { g := noGuard, t := 5, base := 3, off := 2, sc := .core, ord := .rlx, sz := .b32, aop := .add, opnd := 7, cmp := 0 }) ∧
  decodeWord 0xA21000FF001E0008 = .ok (.patadv { g := ⟨false, 1⟩, s1 := 0, s2 := 0, v := 0xFF, cq := 0, ct := .none, bar := 0, sc := .none, imm := 8 }) ∧
  decodeWord 0xC30FF28B00600800 = .ok (.mma { g := noGuard, v := 0xFF, s1 := 10, s2 := 11, s3 := 0, bank := 3, nb := 0, sub := 1 }) ∧
  decodeWord 0xA70FF58400000000 = .ok (.qpop { g := noGuard, v := 0xFF, s := 22, qr := 1, pd := 0 }) ∧
  decodeWord 0xD4000500000041A2 = .ok (.syswrRoute { g := noGuard, d := 0, a := 5, b := 0, sc := .lane, sub := 0, imm := 0x41A2 }) ∧
  decodeWord 0xD802890004000000 = .ok (.gkill { g := noGuard, d := 10, a := 9, b := 0, sc := .lane, sub := 1, imm := 0 })

/-- A step runs the decoded instruction, R87, R169, R170: where the agenda lets an arm issue that can, a word at the head of its clause
that waits for nothing is executed as the instruction it decodes to, or traps where decode step 4 rejects it; an arm between clauses
enters the next one; around it the step only takes the item from the agenda, lets armed error injections meet the registers read
(R461: none where no injection register has been written), holds back an operation that would close check records at a home it does not
reach (R305), and does what follows every step (`after`: R449, R452, R485). The word that `withFetchWord` places is the one that the
next step executes. -/
def Obligations.StepRunsDecoded : Prop :=
  (∀ (s : State) gid slot rest, s.agenda = .issue gid slot :: rest →
    let s1 := { s with tick := s.tick + 1, agenda := rest }
    let u := s1.issued gid slot
    s1.canIssue gid slot = true →
    (u.ca.clause = none → (u.ca.park.isNone && u.deadlineDue gid u.ca) = false → step s = s1.finish (u.closed (exec .clauseEntry u))) ∧
    ∀ c, u.ca.clause = some c → u.ca.park ≠ some .header → u.interlocked u.headWord = false →
      (∀ i, decodeWord u.headWord = .ok i → step s = s1.finish (u.closed (exec i (u.readsInject i)))) ∧
      ∀ o, decodeWord u.headWord = .error (.illegalField o) → step s = s1.finish (u.closed (.next (u.takeTrap (u.rejectTrap o))))) ∧
  (∀ (u t : State) i, (u.dev.injctl = [] → u.readsInject i = u) ∧ (u.closesCut t = false → u.closed (.next t) = .next t)) ∧
  (∀ (u : State) o, (∀ t, o ≠ .next t) → u.closed o = o) ∧
  (∀ (s : State) i rest, s.agenda = .event i :: rest → isEvent i = true →
    let s1 := { s with tick := s.tick + 1, agenda := rest }
    step s = s1.finish (exec i s1)) ∧
  (∀ (s : State) (o : Host.Outcome State Fault Refusal), (∀ t, o = .next t → State.finish s o = .next (s.after t)) ∧ ((∀ t, o ≠ .next t) → State.finish s o = o)) ∧
  ∀ (s : State) n w i, decodeWord (BitVec.ofNat 64 w) = .ok i →
    ∃ s1 u : State, u.headWord = BitVec.ofNat 64 w ∧ u.ca.live = true ∧ u.mem = s.mem ∧
      step (s.withFetchWord n w) = s1.finish (u.closed (exec i (u.readsInject i)))

/-- Every step keeps memory and host memory in canonical form: keys strictly rising, and no entry that equals what an unlisted
address reads as (log 1). -/
def Obligations.StepKeepsMemoryCanonical : Prop :=
  ∀ s t : State, MemoryCanonical s → step s = .next t → MemoryCanonical t

/-- The state after a cold reset, R308, R447, R483, R491, R492: no context, group, team or launch; every cache and directory empty; every
route direct on both planes; POWCAP 3,200; no binding; a context that Malmen sets up starts with PDEADL and RTMO 1,000. Memory lists
nothing and is canonical (log 1). -/
def Obligations.ResetState : Prop :=
  let s := State.reset
  MemoryCanonical s ∧ s.groups = [] ∧ s.teams = [] ∧ s.ctxs = [] ∧ s.launches = [] ∧ (∀ a, mget 0 s.mem a = 0) ∧
    (∀ c, (s.core c).l1 = [] ∧ (s.core c).upd = [] ∧ (s.core c).tlb = [] ∧ (s.core c).icache = []) ∧
    (∀ d, (s.die d).l2 = [] ∧ (s.die d).tlb = [] ∧ (s.die d).fenced = false) ∧ (∀ k, s.dirEnt k = {}) ∧
    (∀ i j, (s.route i j).mode = 0 ∧ (s.route i j).aup = true ∧ (s.route i j).bup = true ∧ (s.route i j).eff = 0 ∧
      (s.route i j).busy = false ∧ (s.route i j).evt = false ∧ (s.route i j).err = false) ∧
    s.host.powcap = 3200 ∧ (∀ d, s.binding d = none) ∧ (∀ c, (s.ctx c).pdeadl = 1000 ∧ (s.ctx c).rtmo = 1000 ∧ (s.ctx c).preq = 0)
end

