-- ==== Sys2Proof/Laws/Elements.lean ====
section
/-! SUPPORT. Elements packed in a lane, and results built bit by bit. -/

namespace Sys2Proof.Machine

theorem packElems_lt (w : Nat) (xs : List Nat) : packElems w xs < 2 ^ (w * xs.length) := by
  induction xs with
  | nil => simp [packElems]
  | cons x xs ih =>
    have hx : x % 2 ^ w < 2 ^ w := Nat.mod_lt _ (Nat.two_pow_pos w)
    have e : 2 ^ (w * (xs.length + 1)) = 2 ^ w * 2 ^ (w * xs.length) := by rw [← pow_add]; ring_nf
    simp only [packElems, List.length_cons, e]
    have := Nat.mul_le_mul_left (2 ^ w) (Nat.succ_le_of_lt ih)
    rw [Nat.mul_succ] at this
    omega

/-- Element `k` of packed elements. -/
theorem elemAt_packElems (w k : Nat) (xs : List Nat) (h : k < xs.length) : elemAt w k (packElems w xs) = xs.getD k 0 % 2 ^ w := by
  induction xs generalizing k with
  | nil => simp at h
  | cons x xs ih =>
    have hp : 0 < 2 ^ w := Nat.two_pow_pos w
    have hx : x % 2 ^ w < 2 ^ w := Nat.mod_lt _ hp
    cases k with
    | zero => simp [elemAt, packElems, Nat.add_mul_mod_self_left]
    | succ k =>
      have := ih k (by simpa using h)
      simp only [elemAt] at this ⊢
      rw [packElems, show w * (k + 1) = w + w * k by ring, pow_add, ← Nat.div_div_eq_div_mul, Nat.add_mul_div_left _ _ hp,
        Nat.div_eq_of_lt hx, Nat.zero_add, this]
      simp

theorem lowBits_lt (w : Nat) (x : Int) : lowBits w x < 2 ^ w := by
  have h : (0 : Int) < (2 ^ w : Nat) := by exact_mod_cast Nat.two_pow_pos w
  have h1 := Int.emod_lt_of_pos x h
  have h2 := Int.emod_nonneg x (ne_of_gt h)
  unfold lowBits; omega

/-- A number given by its bits: the sum over `i < w` of the bit `b i` at place `i`. -/
theorem testBit_foldl (w : Nat) (b : Nat → Nat) (hb : ∀ i, b i ≤ 1) (i : Nat) :
    ((List.range w).foldl (fun r j => r + b j * 2 ^ j) 0).testBit i = (decide (i < w) && decide (b i = 1)) ∧
      (List.range w).foldl (fun r j => r + b j * 2 ^ j) 0 < 2 ^ w := by
  induction w with
  | zero => simp
  | succ w ih =>
    obtain ⟨h1, h2⟩ := ih
    rw [List.range_succ, List.foldl_append]
    simp only [List.foldl_cons, List.foldl_nil]
    have hw := hb w
    constructor
    · rcases Nat.le_one_iff_eq_zero_or_eq_one.mp hw with h | h
      · rw [h]
        simp only [Nat.zero_mul, Nat.add_zero, h1]
        by_cases hi : i = w
        · subst hi; simp [h]
        · congr 1; simp only [decide_eq_decide]; omega
      · rw [h, Nat.one_mul, Nat.add_comm]
        by_cases hi : i = w
        · subst hi
          rw [Nat.testBit_two_pow_add_eq, Nat.testBit_lt_two_pow h2]; simp [h]
        · rcases Nat.lt_or_gt_of_ne hi with hlt | hgt
          · rw [Nat.testBit_two_pow_add_gt hlt, h1]; congr 1; simp only [decide_eq_decide]; omega
          · have hs : 2 ^ w + (List.range w).foldl (fun r j => r + b j * 2 ^ j) 0 < 2 ^ (w + 1) := by rw [pow_succ]; omega
            rw [Nat.testBit_lt_two_pow (lt_of_lt_of_le hs (Nat.pow_le_pow_right (by omega) hgt))]
            simp; omega
    · rw [pow_succ]
      have : b w * 2 ^ w ≤ 1 * 2 ^ w := Nat.mul_le_mul_right _ hw
      omega

/-- The value of one lane read under a type is within the lane. -/
theorem raw_lt (s : State) (ty : Ty) (l : Nat) (x : Src) : s.raw ty l x < 2 ^ (if ty.is64 then 64 else 32) := by
  unfold State.raw
  split
  · exact (s.src64 l x).isLt
  · exact (s.src32 _ l x).isLt

/-- The elements of a type fill its lane. -/
theorem width_elems (ty : Ty) : ty.width * ty.elems = if ty.is64 then 64 else 32 := by cases ty <;> rfl

end Sys2Proof.Machine
end

