-- ==== Sys2Proof/Laws/Map.lean ====
section
/-! SUPPORT. Finite maps: a read after a write, and every write keeps the canonical form. -/

namespace Sys2Proof.Machine

variable {V : Type}

theorem mget_merase (d : V) (m : SMap V) (k k' : Nat) : mget d (merase m k) k' = if k' = k then d else mget d m k' := by
  unfold merase
  induction m with
  | nil => simp [mget]
  | cons p m ih =>
    obtain ⟨q, v⟩ := p
    by_cases hq : q = k
    · subst hq
      by_cases hk : k' = q
      · simp [hk] at ih ⊢; exact ih
      · have : ¬ q = k' := fun h => hk h.symm
        simp [mget, hk, this] at ih ⊢; exact ih
    · by_cases hk : k' = k
      · subst hk
        simp [mget, hq] at ih ⊢; exact ih
      · simp [mget, hq, hk] at ih ⊢; split <;> simp_all

theorem mget_minsert (d : V) (m : SMap V) (k k' : Nat) (v : V) (h : ∀ p ∈ m, p.1 ≠ k) :
    mget d (minsert k v m) k' = if k' = k then v else mget d m k' := by
  induction m with
  | nil => simp [minsert, mget, eq_comm]
  | cons p m ih =>
    have hp : p.1 ≠ k := h p (by simp)
    have ih := ih fun q hq => h q (by simp [hq])
    obtain ⟨q, w⟩ := p
    simp only [minsert]
    split
    · simp only [mget, eq_comm]
    · simp only [mget, ih]
      by_cases hk : k' = k
      · subst hk; simp_all
      · simp [hk]

theorem merase_key (m : SMap V) (k : Nat) : ∀ p ∈ merase m k, p.1 ≠ k := by
  intro p hp; simpa using (List.mem_filter.mp hp).2

/-- A read after a write. -/
theorem mget_mset [DecidableEq V] (d : V) (m : SMap V) (k k' : Nat) (v : V) :
    mget d (mset d m k v) k' = if k' = k then v else mget d m k' := by
  unfold mset
  split
  · next h => rw [mget_merase, h]
  · rw [mget_minsert _ _ _ _ _ (merase_key m k), mget_merase]; split <;> simp_all

@[simp] theorem mget_mset_same [DecidableEq V] (d : V) (m : SMap V) (k : Nat) (v : V) : mget d (mset d m k v) k = v := by
  rw [mget_mset, if_pos rfl]

theorem mget_mset_other [DecidableEq V] (d : V) (m : SMap V) {k k' : Nat} (v : V) (h : k' ≠ k) :
    mget d (mset d m k v) k' = mget d m k' := by
  rw [mget_mset, if_neg h]

@[simp] theorem mget_nil (d : V) (k : Nat) : mget d [] k = d := rfl

/-- Every key of a canonical map's tail is above its first key. -/
theorem keysRise_cons (p : Nat × V) (m : SMap V) (h : keysRise (p :: m) = true) : keysRise m = true ∧ ∀ q ∈ m, p.1 < q.1 := by
  induction m generalizing p with
  | nil => simp [keysRise]
  | cons q m ih =>
    simp only [keysRise, Bool.and_eq_true, decide_eq_true_eq] at h
    obtain ⟨h1, h2⟩ := ih q h.2
    refine ⟨h.2, fun r hr => ?_⟩
    rcases List.mem_cons.mp hr with rfl | hr
    · exact h.1
    · exact lt_trans h.1 (h2 r hr)

theorem keysRise_of_lt (p : Nat × V) (m : SMap V) (h : keysRise m = true) (hp : ∀ q ∈ m, p.1 < q.1) : keysRise (p :: m) = true := by
  cases m with
  | nil => rfl
  | cons q m => simp only [keysRise, Bool.and_eq_true, decide_eq_true_eq]; exact ⟨hp q (by simp), h⟩

theorem keysRise_filter (f : Nat × V → Bool) (m : SMap V) (h : keysRise m = true) : keysRise (m.filter f) = true := by
  induction m with
  | nil => rfl
  | cons p m ih =>
    obtain ⟨h1, h2⟩ := keysRise_cons p m h
    rw [List.filter_cons]
    split
    · exact keysRise_of_lt _ _ (ih h1) fun q hq => h2 q (List.mem_filter.mp hq).1
    · exact ih h1

theorem minsert_mem (k : Nat) (v : V) (m : SMap V) (q : Nat × V) (h : q ∈ minsert k v m) : q = (k, v) ∨ q ∈ m := by
  induction m with
  | nil => simpa [minsert] using h
  | cons p m ih =>
    simp only [minsert] at h
    split at h
    · simpa using h
    · rcases List.mem_cons.mp h with rfl | h
      · simp
      · rcases ih h with h | h
        · exact .inl h
        · exact .inr (by simp [h])

theorem keysRise_minsert (k : Nat) (v : V) (m : SMap V) (h : keysRise m = true) (hk : ∀ p ∈ m, p.1 ≠ k) :
    keysRise (minsert k v m) = true := by
  induction m with
  | nil => rfl
  | cons p m ih =>
    obtain ⟨h1, h2⟩ := keysRise_cons p m h
    simp only [minsert]
    split
    · next hlt =>
      exact keysRise_of_lt _ _ h fun q hq => by
        rcases List.mem_cons.mp hq with rfl | hq
        · exact hlt
        · exact lt_trans hlt (h2 q hq)
    · next hge =>
      refine keysRise_of_lt _ _ (ih h1 fun q hq => hk q (by simp [hq])) fun q hq => ?_
      rcases minsert_mem k v m q hq with rfl | hq
      · exact lt_of_le_of_ne (not_lt.mp hge) (hk p (by simp))
      · exact h2 q hq

/-- A write keeps the canonical form. -/
theorem mwf_mset [DecidableEq V] (d : V) (m : SMap V) (k : Nat) (v : V) (h : mwf d m = true) : mwf d (mset d m k v) = true := by
  simp only [mwf, Bool.and_eq_true, List.all_eq_true, decide_eq_true_eq] at h ⊢
  obtain ⟨h1, h2⟩ := h
  have he : keysRise (merase m k) = true := keysRise_filter _ _ h1
  have hv : ∀ p ∈ merase m k, p.2 ≠ d := fun p hp => h2 p (List.mem_filter.mp hp).1
  unfold mset
  split
  · exact ⟨he, hv⟩
  · next hne =>
    refine ⟨keysRise_minsert k v _ he (merase_key m k), fun p hp => ?_⟩
    rcases minsert_mem k v _ p hp with rfl | hp
    · exact hne
    · exact hv p hp

theorem mwf_mmod [DecidableEq V] (d : V) (m : SMap V) (k : Nat) (f : V → V) (h : mwf d m = true) : mwf d (mmod d m k f) = true :=
  mwf_mset d m k _ h

theorem mwf_msetList [DecidableEq V] (d : V) (vs : List V) (m : SMap V) (k : Nat) (h : mwf d m = true) :
    mwf d (msetList d m k vs) = true := by
  induction vs generalizing m k with
  | nil => exact h
  | cons v vs ih => exact ih _ _ (mwf_mset d m k v h)

/-- A read after a write of consecutive keys. -/
theorem mget_msetList [DecidableEq V] (d : V) (vs : List V) (m : SMap V) (k k' : Nat) :
    mget d (msetList d m k vs) k' = if k ≤ k' ∧ k' < k + vs.length then vs.getD (k' - k) d else mget d m k' := by
  induction vs generalizing m k with
  | nil => rw [if_neg (fun h => by simp at h; omega)]; rfl
  | cons v vs ih =>
    rw [msetList, ih, mget_mset]
    by_cases h : k' = k
    · subst h; simp
    · rw [if_neg h]
      by_cases h1 : k + 1 ≤ k' ∧ k' < k + 1 + vs.length
      · rw [if_pos h1, if_pos (by simp; omega), show k' - k = (k' - (k + 1)) + 1 by omega, List.getD_cons_succ]
      · rw [if_neg h1, if_neg (by simp; omega)]

/-- A fold of writes keeps the canonical form. -/
theorem mwf_foldl {α : Type} [DecidableEq V] (d : V) (l : List α) (key : α → Nat) (val : α → V) (m : SMap V) (h : mwf d m = true) :
    mwf d (l.foldl (fun m a => mset d m (key a) (val a)) m) = true := by
  induction l generalizing m with
  | nil => exact h
  | cons a l ih => exact ih _ (mwf_mset d m _ _ h)

/-- Equal reads of canonical maps are equal maps. -/
theorem mget_of_mem (d : V) (m : SMap V) (h : keysRise m = true) (p : Nat × V) (hp : p ∈ m) : mget d m p.1 = p.2 := by
  induction m with
  | nil => simp at hp
  | cons q m ih =>
    obtain ⟨h1, h2⟩ := keysRise_cons q m h
    rcases List.mem_cons.mp hp with rfl | hp'
    · simp [mget]
    · have := h2 p hp'
      obtain ⟨a, v⟩ := q
      simp only [mget]
      rw [if_neg (by simp at this; omega), ih h1 hp']

end Sys2Proof.Machine
end

