-- ==== Sys2Proof/Laws/State.lean ====
section
/-! SUPPORT. The fields of the state after each update, true by rfl, and reads after writes through the accessors. -/

namespace Sys2Proof.Machine.State

variable (s : State)

section setGrp
variable (k : Nat) (x : Group)

@[simp] theorem setGrp_agenda : (s.setGrp k x).agenda = s.agenda := rfl
@[simp] theorem setGrp_cur : (s.setGrp k x).cur = s.cur := rfl
@[simp] theorem setGrp_freeCtr : (s.setGrp k x).freeCtr = s.freeCtr := rfl
@[simp] theorem setGrp_tick : (s.setGrp k x).tick = s.tick := rfl
@[simp] theorem setGrp_uids : (s.setGrp k x).uids = s.uids := rfl
@[simp] theorem setGrp_teams : (s.setGrp k x).teams = s.teams := rfl
@[simp] theorem setGrp_panels : (s.setGrp k x).panels = s.panels := rfl
@[simp] theorem setGrp_cores : (s.setGrp k x).cores = s.cores := rfl
@[simp] theorem setGrp_diesSt : (s.setGrp k x).diesSt = s.diesSt := rfl
@[simp] theorem setGrp_mem : (s.setGrp k x).mem = s.mem := rfl
@[simp] theorem setGrp_psn : (s.setGrp k x).psn = s.psn := rfl
@[simp] theorem setGrp_dir : (s.setGrp k x).dir = s.dir := rfl
@[simp] theorem setGrp_dirty : (s.setGrp k x).dirty = s.dirty := rfl
@[simp] theorem setGrp_mlines : (s.setGrp k x).mlines = s.mlines := rfl
@[simp] theorem setGrp_checks : (s.setGrp k x).checks = s.checks := rfl
@[simp] theorem setGrp_hostMem : (s.setGrp k x).hostMem = s.hostMem := rfl
@[simp] theorem setGrp_hostLog : (s.setGrp k x).hostLog = s.hostLog := rfl
@[simp] theorem setGrp_ctxs : (s.setGrp k x).ctxs = s.ctxs := rfl
@[simp] theorem setGrp_dev : (s.setGrp k x).dev = s.dev := rfl
@[simp] theorem setGrp_routes : (s.setGrp k x).routes = s.routes := rfl
@[simp] theorem setGrp_lossSeen : (s.setGrp k x).lossSeen = s.lossSeen := rfl
@[simp] theorem setGrp_ingressTlb : (s.setGrp k x).ingressTlb = s.ingressTlb := rfl
@[simp] theorem setGrp_events : (s.setGrp k x).events = s.events := rfl
@[simp] theorem setGrp_launches : (s.setGrp k x).launches = s.launches := rfl
@[simp] theorem setGrp_lqueues : (s.setGrp k x).lqueues = s.lqueues := rfl
@[simp] theorem setGrp_invals : (s.setGrp k x).invals = s.invals := rfl
@[simp] theorem setGrp_hook : (s.setGrp k x).hook = s.hook := rfl
@[simp] theorem setGrp_subs : (s.setGrp k x).subs = s.subs := rfl
@[simp] theorem setGrp_comms : (s.setGrp k x).comms = s.comms := rfl
@[simp] theorem setGrp_self : (s.setGrp k x).self = s.self := rfl
@[simp] theorem setGrp_planes : (s.setGrp k x).planes = s.planes := rfl
@[simp] theorem setGrp_portSets : (s.setGrp k x).portSets = s.portSets := rfl
@[simp] theorem setGrp_quotas : (s.setGrp k x).quotas = s.quotas := rfl
@[simp] theorem setGrp_hits : (s.setGrp k x).hits = s.hits := rfl
@[simp] theorem setGrp_leafs : (s.setGrp k x).leafs = s.leafs := rfl
@[simp] theorem setGrp_allow : (s.setGrp k x).allow = s.allow := rfl
@[simp] theorem setGrp_used : (s.setGrp k x).used = s.used := rfl
@[simp] theorem setGrp_retiring : (s.setGrp k x).retiring = s.retiring := rfl
@[simp] theorem setGrp_sparesUsed : (s.setGrp k x).sparesUsed = s.sparesUsed := rfl
@[simp] theorem setGrp_rowErrs : (s.setGrp k x).rowErrs = s.rowErrs := rfl
@[simp] theorem setGrp_spareRows : (s.setGrp k x).spareRows = s.spareRows := rfl
@[simp] theorem setGrp_host : (s.setGrp k x).host = s.host := rfl
@[simp] theorem setGrp_msix : (s.setGrp k x).msix = s.msix := rfl
@[simp] theorem setGrp_groups : (s.setGrp k x).groups = mset {} s.groups k x := rfl

theorem grp_setGrp (j : Nat) : (s.setGrp k x).grp j = if j = k then x else s.grp j := mget_mset ..
@[simp] theorem grp_setGrp_same : (s.setGrp k x).grp k = x := mget_mset_same ..
theorem grp_setGrp_other (j : Nat) (h : j ≠ k) : (s.setGrp k x).grp j = s.grp j := mget_mset_other _ _ _ h
@[simp] theorem team_setGrp (j : Nat) : (s.setGrp k x).team j = s.team j := rfl
@[simp] theorem core_setGrp (j : Nat) : (s.setGrp k x).core j = s.core j := rfl
@[simp] theorem die_setGrp (j : Nat) : (s.setGrp k x).die j = s.die j := rfl
@[simp] theorem ctx_setGrp (j : Nat) : (s.setGrp k x).ctx j = s.ctx j := rfl
@[simp] theorem launch_setGrp (j : Nat) : (s.setGrp k x).launch j = s.launch j := rfl
@[simp] theorem panel_setGrp (j : Nat) : (s.setGrp k x).panel j = s.panel j := rfl

end setGrp

section setTeam
variable (k : Nat) (x : Team)

@[simp] theorem setTeam_agenda : (s.setTeam k x).agenda = s.agenda := rfl
@[simp] theorem setTeam_cur : (s.setTeam k x).cur = s.cur := rfl
@[simp] theorem setTeam_freeCtr : (s.setTeam k x).freeCtr = s.freeCtr := rfl
@[simp] theorem setTeam_tick : (s.setTeam k x).tick = s.tick := rfl
@[simp] theorem setTeam_uids : (s.setTeam k x).uids = s.uids := rfl
@[simp] theorem setTeam_groups : (s.setTeam k x).groups = s.groups := rfl
@[simp] theorem setTeam_panels : (s.setTeam k x).panels = s.panels := rfl
@[simp] theorem setTeam_cores : (s.setTeam k x).cores = s.cores := rfl
@[simp] theorem setTeam_diesSt : (s.setTeam k x).diesSt = s.diesSt := rfl
@[simp] theorem setTeam_mem : (s.setTeam k x).mem = s.mem := rfl
@[simp] theorem setTeam_psn : (s.setTeam k x).psn = s.psn := rfl
@[simp] theorem setTeam_dir : (s.setTeam k x).dir = s.dir := rfl
@[simp] theorem setTeam_dirty : (s.setTeam k x).dirty = s.dirty := rfl
@[simp] theorem setTeam_mlines : (s.setTeam k x).mlines = s.mlines := rfl
@[simp] theorem setTeam_checks : (s.setTeam k x).checks = s.checks := rfl
@[simp] theorem setTeam_hostMem : (s.setTeam k x).hostMem = s.hostMem := rfl
@[simp] theorem setTeam_hostLog : (s.setTeam k x).hostLog = s.hostLog := rfl
@[simp] theorem setTeam_ctxs : (s.setTeam k x).ctxs = s.ctxs := rfl
@[simp] theorem setTeam_dev : (s.setTeam k x).dev = s.dev := rfl
@[simp] theorem setTeam_routes : (s.setTeam k x).routes = s.routes := rfl
@[simp] theorem setTeam_lossSeen : (s.setTeam k x).lossSeen = s.lossSeen := rfl
@[simp] theorem setTeam_ingressTlb : (s.setTeam k x).ingressTlb = s.ingressTlb := rfl
@[simp] theorem setTeam_events : (s.setTeam k x).events = s.events := rfl
@[simp] theorem setTeam_launches : (s.setTeam k x).launches = s.launches := rfl
@[simp] theorem setTeam_lqueues : (s.setTeam k x).lqueues = s.lqueues := rfl
@[simp] theorem setTeam_invals : (s.setTeam k x).invals = s.invals := rfl
@[simp] theorem setTeam_hook : (s.setTeam k x).hook = s.hook := rfl
@[simp] theorem setTeam_subs : (s.setTeam k x).subs = s.subs := rfl
@[simp] theorem setTeam_comms : (s.setTeam k x).comms = s.comms := rfl
@[simp] theorem setTeam_self : (s.setTeam k x).self = s.self := rfl
@[simp] theorem setTeam_planes : (s.setTeam k x).planes = s.planes := rfl
@[simp] theorem setTeam_portSets : (s.setTeam k x).portSets = s.portSets := rfl
@[simp] theorem setTeam_quotas : (s.setTeam k x).quotas = s.quotas := rfl
@[simp] theorem setTeam_hits : (s.setTeam k x).hits = s.hits := rfl
@[simp] theorem setTeam_leafs : (s.setTeam k x).leafs = s.leafs := rfl
@[simp] theorem setTeam_allow : (s.setTeam k x).allow = s.allow := rfl
@[simp] theorem setTeam_used : (s.setTeam k x).used = s.used := rfl
@[simp] theorem setTeam_retiring : (s.setTeam k x).retiring = s.retiring := rfl
@[simp] theorem setTeam_sparesUsed : (s.setTeam k x).sparesUsed = s.sparesUsed := rfl
@[simp] theorem setTeam_rowErrs : (s.setTeam k x).rowErrs = s.rowErrs := rfl
@[simp] theorem setTeam_spareRows : (s.setTeam k x).spareRows = s.spareRows := rfl
@[simp] theorem setTeam_host : (s.setTeam k x).host = s.host := rfl
@[simp] theorem setTeam_msix : (s.setTeam k x).msix = s.msix := rfl
@[simp] theorem setTeam_teams : (s.setTeam k x).teams = mset {} s.teams k x := rfl

theorem team_setTeam (j : Nat) : (s.setTeam k x).team j = if j = k then x else s.team j := mget_mset ..
@[simp] theorem team_setTeam_same : (s.setTeam k x).team k = x := mget_mset_same ..
theorem team_setTeam_other (j : Nat) (h : j ≠ k) : (s.setTeam k x).team j = s.team j := mget_mset_other _ _ _ h
@[simp] theorem grp_setTeam (j : Nat) : (s.setTeam k x).grp j = s.grp j := rfl
@[simp] theorem core_setTeam (j : Nat) : (s.setTeam k x).core j = s.core j := rfl
@[simp] theorem die_setTeam (j : Nat) : (s.setTeam k x).die j = s.die j := rfl
@[simp] theorem ctx_setTeam (j : Nat) : (s.setTeam k x).ctx j = s.ctx j := rfl
@[simp] theorem launch_setTeam (j : Nat) : (s.setTeam k x).launch j = s.launch j := rfl
@[simp] theorem panel_setTeam (j : Nat) : (s.setTeam k x).panel j = s.panel j := rfl

end setTeam

section setCore
variable (k : Nat) (x : CoreSt)

@[simp] theorem setCore_agenda : (s.setCore k x).agenda = s.agenda := rfl
@[simp] theorem setCore_cur : (s.setCore k x).cur = s.cur := rfl
@[simp] theorem setCore_freeCtr : (s.setCore k x).freeCtr = s.freeCtr := rfl
@[simp] theorem setCore_tick : (s.setCore k x).tick = s.tick := rfl
@[simp] theorem setCore_uids : (s.setCore k x).uids = s.uids := rfl
@[simp] theorem setCore_groups : (s.setCore k x).groups = s.groups := rfl
@[simp] theorem setCore_teams : (s.setCore k x).teams = s.teams := rfl
@[simp] theorem setCore_panels : (s.setCore k x).panels = s.panels := rfl
@[simp] theorem setCore_diesSt : (s.setCore k x).diesSt = s.diesSt := rfl
@[simp] theorem setCore_mem : (s.setCore k x).mem = s.mem := rfl
@[simp] theorem setCore_psn : (s.setCore k x).psn = s.psn := rfl
@[simp] theorem setCore_dir : (s.setCore k x).dir = s.dir := rfl
@[simp] theorem setCore_dirty : (s.setCore k x).dirty = s.dirty := rfl
@[simp] theorem setCore_mlines : (s.setCore k x).mlines = s.mlines := rfl
@[simp] theorem setCore_checks : (s.setCore k x).checks = s.checks := rfl
@[simp] theorem setCore_hostMem : (s.setCore k x).hostMem = s.hostMem := rfl
@[simp] theorem setCore_hostLog : (s.setCore k x).hostLog = s.hostLog := rfl
@[simp] theorem setCore_ctxs : (s.setCore k x).ctxs = s.ctxs := rfl
@[simp] theorem setCore_dev : (s.setCore k x).dev = s.dev := rfl
@[simp] theorem setCore_routes : (s.setCore k x).routes = s.routes := rfl
@[simp] theorem setCore_lossSeen : (s.setCore k x).lossSeen = s.lossSeen := rfl
@[simp] theorem setCore_ingressTlb : (s.setCore k x).ingressTlb = s.ingressTlb := rfl
@[simp] theorem setCore_events : (s.setCore k x).events = s.events := rfl
@[simp] theorem setCore_launches : (s.setCore k x).launches = s.launches := rfl
@[simp] theorem setCore_lqueues : (s.setCore k x).lqueues = s.lqueues := rfl
@[simp] theorem setCore_invals : (s.setCore k x).invals = s.invals := rfl
@[simp] theorem setCore_hook : (s.setCore k x).hook = s.hook := rfl
@[simp] theorem setCore_subs : (s.setCore k x).subs = s.subs := rfl
@[simp] theorem setCore_comms : (s.setCore k x).comms = s.comms := rfl
@[simp] theorem setCore_self : (s.setCore k x).self = s.self := rfl
@[simp] theorem setCore_planes : (s.setCore k x).planes = s.planes := rfl
@[simp] theorem setCore_portSets : (s.setCore k x).portSets = s.portSets := rfl
@[simp] theorem setCore_quotas : (s.setCore k x).quotas = s.quotas := rfl
@[simp] theorem setCore_hits : (s.setCore k x).hits = s.hits := rfl
@[simp] theorem setCore_leafs : (s.setCore k x).leafs = s.leafs := rfl
@[simp] theorem setCore_allow : (s.setCore k x).allow = s.allow := rfl
@[simp] theorem setCore_used : (s.setCore k x).used = s.used := rfl
@[simp] theorem setCore_retiring : (s.setCore k x).retiring = s.retiring := rfl
@[simp] theorem setCore_sparesUsed : (s.setCore k x).sparesUsed = s.sparesUsed := rfl
@[simp] theorem setCore_rowErrs : (s.setCore k x).rowErrs = s.rowErrs := rfl
@[simp] theorem setCore_spareRows : (s.setCore k x).spareRows = s.spareRows := rfl
@[simp] theorem setCore_host : (s.setCore k x).host = s.host := rfl
@[simp] theorem setCore_msix : (s.setCore k x).msix = s.msix := rfl
@[simp] theorem setCore_cores : (s.setCore k x).cores = mset {} s.cores k x := rfl

theorem core_setCore (j : Nat) : (s.setCore k x).core j = if j = k then x else s.core j := mget_mset ..
@[simp] theorem core_setCore_same : (s.setCore k x).core k = x := mget_mset_same ..
theorem core_setCore_other (j : Nat) (h : j ≠ k) : (s.setCore k x).core j = s.core j := mget_mset_other _ _ _ h
@[simp] theorem grp_setCore (j : Nat) : (s.setCore k x).grp j = s.grp j := rfl
@[simp] theorem team_setCore (j : Nat) : (s.setCore k x).team j = s.team j := rfl
@[simp] theorem die_setCore (j : Nat) : (s.setCore k x).die j = s.die j := rfl
@[simp] theorem ctx_setCore (j : Nat) : (s.setCore k x).ctx j = s.ctx j := rfl
@[simp] theorem launch_setCore (j : Nat) : (s.setCore k x).launch j = s.launch j := rfl
@[simp] theorem panel_setCore (j : Nat) : (s.setCore k x).panel j = s.panel j := rfl

end setCore

section setDie
variable (k : Nat) (x : DieSt)

@[simp] theorem setDie_agenda : (s.setDie k x).agenda = s.agenda := rfl
@[simp] theorem setDie_cur : (s.setDie k x).cur = s.cur := rfl
@[simp] theorem setDie_freeCtr : (s.setDie k x).freeCtr = s.freeCtr := rfl
@[simp] theorem setDie_tick : (s.setDie k x).tick = s.tick := rfl
@[simp] theorem setDie_uids : (s.setDie k x).uids = s.uids := rfl
@[simp] theorem setDie_groups : (s.setDie k x).groups = s.groups := rfl
@[simp] theorem setDie_teams : (s.setDie k x).teams = s.teams := rfl
@[simp] theorem setDie_panels : (s.setDie k x).panels = s.panels := rfl
@[simp] theorem setDie_cores : (s.setDie k x).cores = s.cores := rfl
@[simp] theorem setDie_mem : (s.setDie k x).mem = s.mem := rfl
@[simp] theorem setDie_psn : (s.setDie k x).psn = s.psn := rfl
@[simp] theorem setDie_dir : (s.setDie k x).dir = s.dir := rfl
@[simp] theorem setDie_dirty : (s.setDie k x).dirty = s.dirty := rfl
@[simp] theorem setDie_mlines : (s.setDie k x).mlines = s.mlines := rfl
@[simp] theorem setDie_checks : (s.setDie k x).checks = s.checks := rfl
@[simp] theorem setDie_hostMem : (s.setDie k x).hostMem = s.hostMem := rfl
@[simp] theorem setDie_hostLog : (s.setDie k x).hostLog = s.hostLog := rfl
@[simp] theorem setDie_ctxs : (s.setDie k x).ctxs = s.ctxs := rfl
@[simp] theorem setDie_dev : (s.setDie k x).dev = s.dev := rfl
@[simp] theorem setDie_routes : (s.setDie k x).routes = s.routes := rfl
@[simp] theorem setDie_lossSeen : (s.setDie k x).lossSeen = s.lossSeen := rfl
@[simp] theorem setDie_ingressTlb : (s.setDie k x).ingressTlb = s.ingressTlb := rfl
@[simp] theorem setDie_events : (s.setDie k x).events = s.events := rfl
@[simp] theorem setDie_launches : (s.setDie k x).launches = s.launches := rfl
@[simp] theorem setDie_lqueues : (s.setDie k x).lqueues = s.lqueues := rfl
@[simp] theorem setDie_invals : (s.setDie k x).invals = s.invals := rfl
@[simp] theorem setDie_hook : (s.setDie k x).hook = s.hook := rfl
@[simp] theorem setDie_subs : (s.setDie k x).subs = s.subs := rfl
@[simp] theorem setDie_comms : (s.setDie k x).comms = s.comms := rfl
@[simp] theorem setDie_self : (s.setDie k x).self = s.self := rfl
@[simp] theorem setDie_planes : (s.setDie k x).planes = s.planes := rfl
@[simp] theorem setDie_portSets : (s.setDie k x).portSets = s.portSets := rfl
@[simp] theorem setDie_quotas : (s.setDie k x).quotas = s.quotas := rfl
@[simp] theorem setDie_hits : (s.setDie k x).hits = s.hits := rfl
@[simp] theorem setDie_leafs : (s.setDie k x).leafs = s.leafs := rfl
@[simp] theorem setDie_allow : (s.setDie k x).allow = s.allow := rfl
@[simp] theorem setDie_used : (s.setDie k x).used = s.used := rfl
@[simp] theorem setDie_retiring : (s.setDie k x).retiring = s.retiring := rfl
@[simp] theorem setDie_sparesUsed : (s.setDie k x).sparesUsed = s.sparesUsed := rfl
@[simp] theorem setDie_rowErrs : (s.setDie k x).rowErrs = s.rowErrs := rfl
@[simp] theorem setDie_spareRows : (s.setDie k x).spareRows = s.spareRows := rfl
@[simp] theorem setDie_host : (s.setDie k x).host = s.host := rfl
@[simp] theorem setDie_msix : (s.setDie k x).msix = s.msix := rfl
@[simp] theorem setDie_diesSt : (s.setDie k x).diesSt = mset {} s.diesSt k x := rfl

theorem die_setDie (j : Nat) : (s.setDie k x).die j = if j = k then x else s.die j := mget_mset ..
@[simp] theorem die_setDie_same : (s.setDie k x).die k = x := mget_mset_same ..
theorem die_setDie_other (j : Nat) (h : j ≠ k) : (s.setDie k x).die j = s.die j := mget_mset_other _ _ _ h
@[simp] theorem grp_setDie (j : Nat) : (s.setDie k x).grp j = s.grp j := rfl
@[simp] theorem team_setDie (j : Nat) : (s.setDie k x).team j = s.team j := rfl
@[simp] theorem core_setDie (j : Nat) : (s.setDie k x).core j = s.core j := rfl
@[simp] theorem ctx_setDie (j : Nat) : (s.setDie k x).ctx j = s.ctx j := rfl
@[simp] theorem launch_setDie (j : Nat) : (s.setDie k x).launch j = s.launch j := rfl
@[simp] theorem panel_setDie (j : Nat) : (s.setDie k x).panel j = s.panel j := rfl

end setDie

section setCtx
variable (k : Nat) (x : Ctx)

@[simp] theorem setCtx_agenda : (s.setCtx k x).agenda = s.agenda := rfl
@[simp] theorem setCtx_cur : (s.setCtx k x).cur = s.cur := rfl
@[simp] theorem setCtx_freeCtr : (s.setCtx k x).freeCtr = s.freeCtr := rfl
@[simp] theorem setCtx_tick : (s.setCtx k x).tick = s.tick := rfl
@[simp] theorem setCtx_uids : (s.setCtx k x).uids = s.uids := rfl
@[simp] theorem setCtx_groups : (s.setCtx k x).groups = s.groups := rfl
@[simp] theorem setCtx_teams : (s.setCtx k x).teams = s.teams := rfl
@[simp] theorem setCtx_panels : (s.setCtx k x).panels = s.panels := rfl
@[simp] theorem setCtx_cores : (s.setCtx k x).cores = s.cores := rfl
@[simp] theorem setCtx_diesSt : (s.setCtx k x).diesSt = s.diesSt := rfl
@[simp] theorem setCtx_mem : (s.setCtx k x).mem = s.mem := rfl
@[simp] theorem setCtx_psn : (s.setCtx k x).psn = s.psn := rfl
@[simp] theorem setCtx_dir : (s.setCtx k x).dir = s.dir := rfl
@[simp] theorem setCtx_dirty : (s.setCtx k x).dirty = s.dirty := rfl
@[simp] theorem setCtx_mlines : (s.setCtx k x).mlines = s.mlines := rfl
@[simp] theorem setCtx_checks : (s.setCtx k x).checks = s.checks := rfl
@[simp] theorem setCtx_hostMem : (s.setCtx k x).hostMem = s.hostMem := rfl
@[simp] theorem setCtx_hostLog : (s.setCtx k x).hostLog = s.hostLog := rfl
@[simp] theorem setCtx_dev : (s.setCtx k x).dev = s.dev := rfl
@[simp] theorem setCtx_routes : (s.setCtx k x).routes = s.routes := rfl
@[simp] theorem setCtx_lossSeen : (s.setCtx k x).lossSeen = s.lossSeen := rfl
@[simp] theorem setCtx_ingressTlb : (s.setCtx k x).ingressTlb = s.ingressTlb := rfl
@[simp] theorem setCtx_events : (s.setCtx k x).events = s.events := rfl
@[simp] theorem setCtx_launches : (s.setCtx k x).launches = s.launches := rfl
@[simp] theorem setCtx_lqueues : (s.setCtx k x).lqueues = s.lqueues := rfl
@[simp] theorem setCtx_invals : (s.setCtx k x).invals = s.invals := rfl
@[simp] theorem setCtx_hook : (s.setCtx k x).hook = s.hook := rfl
@[simp] theorem setCtx_subs : (s.setCtx k x).subs = s.subs := rfl
@[simp] theorem setCtx_comms : (s.setCtx k x).comms = s.comms := rfl
@[simp] theorem setCtx_self : (s.setCtx k x).self = s.self := rfl
@[simp] theorem setCtx_planes : (s.setCtx k x).planes = s.planes := rfl
@[simp] theorem setCtx_portSets : (s.setCtx k x).portSets = s.portSets := rfl
@[simp] theorem setCtx_quotas : (s.setCtx k x).quotas = s.quotas := rfl
@[simp] theorem setCtx_hits : (s.setCtx k x).hits = s.hits := rfl
@[simp] theorem setCtx_leafs : (s.setCtx k x).leafs = s.leafs := rfl
@[simp] theorem setCtx_allow : (s.setCtx k x).allow = s.allow := rfl
@[simp] theorem setCtx_used : (s.setCtx k x).used = s.used := rfl
@[simp] theorem setCtx_retiring : (s.setCtx k x).retiring = s.retiring := rfl
@[simp] theorem setCtx_sparesUsed : (s.setCtx k x).sparesUsed = s.sparesUsed := rfl
@[simp] theorem setCtx_rowErrs : (s.setCtx k x).rowErrs = s.rowErrs := rfl
@[simp] theorem setCtx_spareRows : (s.setCtx k x).spareRows = s.spareRows := rfl
@[simp] theorem setCtx_host : (s.setCtx k x).host = s.host := rfl
@[simp] theorem setCtx_msix : (s.setCtx k x).msix = s.msix := rfl
@[simp] theorem setCtx_ctxs : (s.setCtx k x).ctxs = mset {} s.ctxs k x := rfl

theorem ctx_setCtx (j : Nat) : (s.setCtx k x).ctx j = if j = k then x else s.ctx j := mget_mset ..
@[simp] theorem ctx_setCtx_same : (s.setCtx k x).ctx k = x := mget_mset_same ..
theorem ctx_setCtx_other (j : Nat) (h : j ≠ k) : (s.setCtx k x).ctx j = s.ctx j := mget_mset_other _ _ _ h
@[simp] theorem grp_setCtx (j : Nat) : (s.setCtx k x).grp j = s.grp j := rfl
@[simp] theorem team_setCtx (j : Nat) : (s.setCtx k x).team j = s.team j := rfl
@[simp] theorem core_setCtx (j : Nat) : (s.setCtx k x).core j = s.core j := rfl
@[simp] theorem die_setCtx (j : Nat) : (s.setCtx k x).die j = s.die j := rfl
@[simp] theorem launch_setCtx (j : Nat) : (s.setCtx k x).launch j = s.launch j := rfl
@[simp] theorem panel_setCtx (j : Nat) : (s.setCtx k x).panel j = s.panel j := rfl

end setCtx

section setLaunch
variable (k : Nat) (x : Launch)

@[simp] theorem setLaunch_agenda : (s.setLaunch k x).agenda = s.agenda := rfl
@[simp] theorem setLaunch_cur : (s.setLaunch k x).cur = s.cur := rfl
@[simp] theorem setLaunch_freeCtr : (s.setLaunch k x).freeCtr = s.freeCtr := rfl
@[simp] theorem setLaunch_tick : (s.setLaunch k x).tick = s.tick := rfl
@[simp] theorem setLaunch_uids : (s.setLaunch k x).uids = s.uids := rfl
@[simp] theorem setLaunch_groups : (s.setLaunch k x).groups = s.groups := rfl
@[simp] theorem setLaunch_teams : (s.setLaunch k x).teams = s.teams := rfl
@[simp] theorem setLaunch_panels : (s.setLaunch k x).panels = s.panels := rfl
@[simp] theorem setLaunch_cores : (s.setLaunch k x).cores = s.cores := rfl
@[simp] theorem setLaunch_diesSt : (s.setLaunch k x).diesSt = s.diesSt := rfl
@[simp] theorem setLaunch_mem : (s.setLaunch k x).mem = s.mem := rfl
@[simp] theorem setLaunch_psn : (s.setLaunch k x).psn = s.psn := rfl
@[simp] theorem setLaunch_dir : (s.setLaunch k x).dir = s.dir := rfl
@[simp] theorem setLaunch_dirty : (s.setLaunch k x).dirty = s.dirty := rfl
@[simp] theorem setLaunch_mlines : (s.setLaunch k x).mlines = s.mlines := rfl
@[simp] theorem setLaunch_checks : (s.setLaunch k x).checks = s.checks := rfl
@[simp] theorem setLaunch_hostMem : (s.setLaunch k x).hostMem = s.hostMem := rfl
@[simp] theorem setLaunch_hostLog : (s.setLaunch k x).hostLog = s.hostLog := rfl
@[simp] theorem setLaunch_ctxs : (s.setLaunch k x).ctxs = s.ctxs := rfl
@[simp] theorem setLaunch_dev : (s.setLaunch k x).dev = s.dev := rfl
@[simp] theorem setLaunch_routes : (s.setLaunch k x).routes = s.routes := rfl
@[simp] theorem setLaunch_lossSeen : (s.setLaunch k x).lossSeen = s.lossSeen := rfl
@[simp] theorem setLaunch_ingressTlb : (s.setLaunch k x).ingressTlb = s.ingressTlb := rfl
@[simp] theorem setLaunch_events : (s.setLaunch k x).events = s.events := rfl
@[simp] theorem setLaunch_lqueues : (s.setLaunch k x).lqueues = s.lqueues := rfl
@[simp] theorem setLaunch_invals : (s.setLaunch k x).invals = s.invals := rfl
@[simp] theorem setLaunch_hook : (s.setLaunch k x).hook = s.hook := rfl
@[simp] theorem setLaunch_subs : (s.setLaunch k x).subs = s.subs := rfl
@[simp] theorem setLaunch_comms : (s.setLaunch k x).comms = s.comms := rfl
@[simp] theorem setLaunch_self : (s.setLaunch k x).self = s.self := rfl
@[simp] theorem setLaunch_planes : (s.setLaunch k x).planes = s.planes := rfl
@[simp] theorem setLaunch_portSets : (s.setLaunch k x).portSets = s.portSets := rfl
@[simp] theorem setLaunch_quotas : (s.setLaunch k x).quotas = s.quotas := rfl
@[simp] theorem setLaunch_hits : (s.setLaunch k x).hits = s.hits := rfl
@[simp] theorem setLaunch_leafs : (s.setLaunch k x).leafs = s.leafs := rfl
@[simp] theorem setLaunch_allow : (s.setLaunch k x).allow = s.allow := rfl
@[simp] theorem setLaunch_used : (s.setLaunch k x).used = s.used := rfl
@[simp] theorem setLaunch_retiring : (s.setLaunch k x).retiring = s.retiring := rfl
@[simp] theorem setLaunch_sparesUsed : (s.setLaunch k x).sparesUsed = s.sparesUsed := rfl
@[simp] theorem setLaunch_rowErrs : (s.setLaunch k x).rowErrs = s.rowErrs := rfl
@[simp] theorem setLaunch_spareRows : (s.setLaunch k x).spareRows = s.spareRows := rfl
@[simp] theorem setLaunch_host : (s.setLaunch k x).host = s.host := rfl
@[simp] theorem setLaunch_msix : (s.setLaunch k x).msix = s.msix := rfl
@[simp] theorem setLaunch_launches : (s.setLaunch k x).launches = mset {} s.launches k x := rfl

theorem launch_setLaunch (j : Nat) : (s.setLaunch k x).launch j = if j = k then x else s.launch j := mget_mset ..
@[simp] theorem launch_setLaunch_same : (s.setLaunch k x).launch k = x := mget_mset_same ..
theorem launch_setLaunch_other (j : Nat) (h : j ≠ k) : (s.setLaunch k x).launch j = s.launch j := mget_mset_other _ _ _ h
@[simp] theorem grp_setLaunch (j : Nat) : (s.setLaunch k x).grp j = s.grp j := rfl
@[simp] theorem team_setLaunch (j : Nat) : (s.setLaunch k x).team j = s.team j := rfl
@[simp] theorem core_setLaunch (j : Nat) : (s.setLaunch k x).core j = s.core j := rfl
@[simp] theorem die_setLaunch (j : Nat) : (s.setLaunch k x).die j = s.die j := rfl
@[simp] theorem ctx_setLaunch (j : Nat) : (s.setLaunch k x).ctx j = s.ctx j := rfl
@[simp] theorem panel_setLaunch (j : Nat) : (s.setLaunch k x).panel j = s.panel j := rfl

end setLaunch

section setPanel
variable (k : Nat) (x : Panel)

@[simp] theorem setPanel_agenda : (s.setPanel k x).agenda = s.agenda := rfl
@[simp] theorem setPanel_cur : (s.setPanel k x).cur = s.cur := rfl
@[simp] theorem setPanel_freeCtr : (s.setPanel k x).freeCtr = s.freeCtr := rfl
@[simp] theorem setPanel_tick : (s.setPanel k x).tick = s.tick := rfl
@[simp] theorem setPanel_uids : (s.setPanel k x).uids = s.uids := rfl
@[simp] theorem setPanel_groups : (s.setPanel k x).groups = s.groups := rfl
@[simp] theorem setPanel_teams : (s.setPanel k x).teams = s.teams := rfl
@[simp] theorem setPanel_cores : (s.setPanel k x).cores = s.cores := rfl
@[simp] theorem setPanel_diesSt : (s.setPanel k x).diesSt = s.diesSt := rfl
@[simp] theorem setPanel_mem : (s.setPanel k x).mem = s.mem := rfl
@[simp] theorem setPanel_psn : (s.setPanel k x).psn = s.psn := rfl
@[simp] theorem setPanel_dir : (s.setPanel k x).dir = s.dir := rfl
@[simp] theorem setPanel_dirty : (s.setPanel k x).dirty = s.dirty := rfl
@[simp] theorem setPanel_mlines : (s.setPanel k x).mlines = s.mlines := rfl
@[simp] theorem setPanel_checks : (s.setPanel k x).checks = s.checks := rfl
@[simp] theorem setPanel_hostMem : (s.setPanel k x).hostMem = s.hostMem := rfl
@[simp] theorem setPanel_hostLog : (s.setPanel k x).hostLog = s.hostLog := rfl
@[simp] theorem setPanel_ctxs : (s.setPanel k x).ctxs = s.ctxs := rfl
@[simp] theorem setPanel_dev : (s.setPanel k x).dev = s.dev := rfl
@[simp] theorem setPanel_routes : (s.setPanel k x).routes = s.routes := rfl
@[simp] theorem setPanel_lossSeen : (s.setPanel k x).lossSeen = s.lossSeen := rfl
@[simp] theorem setPanel_ingressTlb : (s.setPanel k x).ingressTlb = s.ingressTlb := rfl
@[simp] theorem setPanel_events : (s.setPanel k x).events = s.events := rfl
@[simp] theorem setPanel_launches : (s.setPanel k x).launches = s.launches := rfl
@[simp] theorem setPanel_lqueues : (s.setPanel k x).lqueues = s.lqueues := rfl
@[simp] theorem setPanel_invals : (s.setPanel k x).invals = s.invals := rfl
@[simp] theorem setPanel_hook : (s.setPanel k x).hook = s.hook := rfl
@[simp] theorem setPanel_subs : (s.setPanel k x).subs = s.subs := rfl
@[simp] theorem setPanel_comms : (s.setPanel k x).comms = s.comms := rfl
@[simp] theorem setPanel_self : (s.setPanel k x).self = s.self := rfl
@[simp] theorem setPanel_planes : (s.setPanel k x).planes = s.planes := rfl
@[simp] theorem setPanel_portSets : (s.setPanel k x).portSets = s.portSets := rfl
@[simp] theorem setPanel_quotas : (s.setPanel k x).quotas = s.quotas := rfl
@[simp] theorem setPanel_hits : (s.setPanel k x).hits = s.hits := rfl
@[simp] theorem setPanel_leafs : (s.setPanel k x).leafs = s.leafs := rfl
@[simp] theorem setPanel_allow : (s.setPanel k x).allow = s.allow := rfl
@[simp] theorem setPanel_used : (s.setPanel k x).used = s.used := rfl
@[simp] theorem setPanel_retiring : (s.setPanel k x).retiring = s.retiring := rfl
@[simp] theorem setPanel_sparesUsed : (s.setPanel k x).sparesUsed = s.sparesUsed := rfl
@[simp] theorem setPanel_rowErrs : (s.setPanel k x).rowErrs = s.rowErrs := rfl
@[simp] theorem setPanel_spareRows : (s.setPanel k x).spareRows = s.spareRows := rfl
@[simp] theorem setPanel_host : (s.setPanel k x).host = s.host := rfl
@[simp] theorem setPanel_msix : (s.setPanel k x).msix = s.msix := rfl
@[simp] theorem setPanel_panels : (s.setPanel k x).panels = mset {} s.panels k x := rfl

theorem panel_setPanel (j : Nat) : (s.setPanel k x).panel j = if j = k then x else s.panel j := mget_mset ..
@[simp] theorem panel_setPanel_same : (s.setPanel k x).panel k = x := mget_mset_same ..
theorem panel_setPanel_other (j : Nat) (h : j ≠ k) : (s.setPanel k x).panel j = s.panel j := mget_mset_other _ _ _ h
@[simp] theorem grp_setPanel (j : Nat) : (s.setPanel k x).grp j = s.grp j := rfl
@[simp] theorem team_setPanel (j : Nat) : (s.setPanel k x).team j = s.team j := rfl
@[simp] theorem core_setPanel (j : Nat) : (s.setPanel k x).core j = s.core j := rfl
@[simp] theorem die_setPanel (j : Nat) : (s.setPanel k x).die j = s.die j := rfl
@[simp] theorem ctx_setPanel (j : Nat) : (s.setPanel k x).ctx j = s.ctx j := rfl
@[simp] theorem launch_setPanel (j : Nat) : (s.setPanel k x).launch j = s.launch j := rfl

end setPanel

/-! The executing group and arm. -/

@[simp] theorem gid_setGrp (k : Nat) (g : Group) : (s.setGrp k g).gid = s.gid := rfl
@[simp] theorem slot_setGrp (k : Nat) (g : Group) : (s.setGrp k g).slot = s.slot := rfl
@[simp] theorem gid_setG (g : Group) : (s.setG g).gid = s.gid := rfl
@[simp] theorem slot_setG (g : Group) : (s.setG g).slot = s.slot := rfl
@[simp] theorem cg_setG (g : Group) : (s.setG g).cg = g := mget_mset_same ..
@[simp] theorem ca_setG (g : Group) : (s.setG g).ca = g.arm s.slot := by simp [ca]
@[simp] theorem cg_modG (f : Group → Group) : (s.modG f).cg = f s.cg := cg_setG ..
@[simp] theorem gid_modG (f : Group → Group) : (s.modG f).gid = s.gid := rfl
@[simp] theorem slot_modG (f : Group → Group) : (s.modG f).slot = s.slot := rfl
@[simp] theorem gid_modA (f : Arm → Arm) : (s.modA f).gid = s.gid := rfl
@[simp] theorem slot_modA (f : Arm → Arm) : (s.modA f).slot = s.slot := rfl
@[simp] theorem cg_modA (f : Arm → Arm) : (s.modA f).cg = s.cg.setArm s.slot (f s.ca) := cg_setG ..
@[simp] theorem gid_retire : s.retire.gid = s.gid := rfl
@[simp] theorem slot_retire : s.retire.slot = s.slot := rfl
@[simp] theorem cg_retire : s.retire.cg = s.cg.setArm s.slot s.ca.advance := cg_setG ..
@[simp] theorem slot_setS (n : Nat) (x : Word) : (s.setS n x).slot = s.slot := rfl
@[simp] theorem gid_setS (n : Nat) (x : Word) : (s.setS n x).gid = s.gid := rfl
@[simp] theorem cg_setS (n : Nat) (x : Word) : (s.setS n x).cg = (s.cg.setS s.slot n x).markS s.slot n false := cg_setG ..

theorem grp_setG_other (g : Group) (k : Nat) (h : k ≠ s.gid) : (s.setG g).grp k = s.grp k := mget_mset_other _ _ _ h

/-- Changes of the executing group leave everything else as it was. -/
theorem setG_else (g : Group) : { s.setG g with groups := s.groups } = s := rfl
theorem modG_else (f : Group → Group) : { s.modG f with groups := s.groups } = s := rfl
theorem modA_else (f : Arm → Arm) : { s.modA f with groups := s.groups } = s := rfl

@[simp] theorem team_setG (g : Group) (k : Nat) : (s.setG g).team k = s.team k := rfl
@[simp] theorem team_modG (f : Group → Group) (k : Nat) : (s.modG f).team k = s.team k := rfl
@[simp] theorem team_modA (f : Arm → Arm) (k : Nat) : (s.modA f).team k = s.team k := rfl
@[simp] theorem team_retire (k : Nat) : s.retire.team k = s.team k := rfl

@[simp] theorem setG_agenda (g : Group) : (s.setG g).agenda = s.agenda := rfl
@[simp] theorem setG_cur (g : Group) : (s.setG g).cur = s.cur := rfl
@[simp] theorem setG_freeCtr (g : Group) : (s.setG g).freeCtr = s.freeCtr := rfl
@[simp] theorem setG_tick (g : Group) : (s.setG g).tick = s.tick := rfl
@[simp] theorem setG_uids (g : Group) : (s.setG g).uids = s.uids := rfl
@[simp] theorem setG_teams (g : Group) : (s.setG g).teams = s.teams := rfl
@[simp] theorem setG_panels (g : Group) : (s.setG g).panels = s.panels := rfl
@[simp] theorem setG_cores (g : Group) : (s.setG g).cores = s.cores := rfl
@[simp] theorem setG_diesSt (g : Group) : (s.setG g).diesSt = s.diesSt := rfl
@[simp] theorem setG_mem (g : Group) : (s.setG g).mem = s.mem := rfl
@[simp] theorem setG_psn (g : Group) : (s.setG g).psn = s.psn := rfl
@[simp] theorem setG_dir (g : Group) : (s.setG g).dir = s.dir := rfl
@[simp] theorem setG_dirty (g : Group) : (s.setG g).dirty = s.dirty := rfl
@[simp] theorem setG_mlines (g : Group) : (s.setG g).mlines = s.mlines := rfl
@[simp] theorem setG_checks (g : Group) : (s.setG g).checks = s.checks := rfl
@[simp] theorem setG_hostMem (g : Group) : (s.setG g).hostMem = s.hostMem := rfl
@[simp] theorem setG_hostLog (g : Group) : (s.setG g).hostLog = s.hostLog := rfl
@[simp] theorem setG_ctxs (g : Group) : (s.setG g).ctxs = s.ctxs := rfl
@[simp] theorem setG_dev (g : Group) : (s.setG g).dev = s.dev := rfl
@[simp] theorem setG_routes (g : Group) : (s.setG g).routes = s.routes := rfl
@[simp] theorem setG_lossSeen (g : Group) : (s.setG g).lossSeen = s.lossSeen := rfl
@[simp] theorem setG_ingressTlb (g : Group) : (s.setG g).ingressTlb = s.ingressTlb := rfl
@[simp] theorem setG_events (g : Group) : (s.setG g).events = s.events := rfl
@[simp] theorem setG_launches (g : Group) : (s.setG g).launches = s.launches := rfl
@[simp] theorem setG_lqueues (g : Group) : (s.setG g).lqueues = s.lqueues := rfl
@[simp] theorem setG_invals (g : Group) : (s.setG g).invals = s.invals := rfl
@[simp] theorem setG_hook (g : Group) : (s.setG g).hook = s.hook := rfl
@[simp] theorem setG_subs (g : Group) : (s.setG g).subs = s.subs := rfl
@[simp] theorem setG_comms (g : Group) : (s.setG g).comms = s.comms := rfl
@[simp] theorem setG_self (g : Group) : (s.setG g).self = s.self := rfl
@[simp] theorem setG_planes (g : Group) : (s.setG g).planes = s.planes := rfl
@[simp] theorem setG_portSets (g : Group) : (s.setG g).portSets = s.portSets := rfl
@[simp] theorem setG_quotas (g : Group) : (s.setG g).quotas = s.quotas := rfl
@[simp] theorem setG_hits (g : Group) : (s.setG g).hits = s.hits := rfl
@[simp] theorem setG_leafs (g : Group) : (s.setG g).leafs = s.leafs := rfl
@[simp] theorem setG_allow (g : Group) : (s.setG g).allow = s.allow := rfl
@[simp] theorem setG_used (g : Group) : (s.setG g).used = s.used := rfl
@[simp] theorem setG_retiring (g : Group) : (s.setG g).retiring = s.retiring := rfl
@[simp] theorem setG_sparesUsed (g : Group) : (s.setG g).sparesUsed = s.sparesUsed := rfl
@[simp] theorem setG_rowErrs (g : Group) : (s.setG g).rowErrs = s.rowErrs := rfl
@[simp] theorem setG_spareRows (g : Group) : (s.setG g).spareRows = s.spareRows := rfl
@[simp] theorem setG_host (g : Group) : (s.setG g).host = s.host := rfl
@[simp] theorem setG_msix (g : Group) : (s.setG g).msix = s.msix := rfl

@[simp] theorem modG_agenda (f : Group → Group) : (s.modG f).agenda = s.agenda := rfl
@[simp] theorem modG_cur (f : Group → Group) : (s.modG f).cur = s.cur := rfl
@[simp] theorem modG_freeCtr (f : Group → Group) : (s.modG f).freeCtr = s.freeCtr := rfl
@[simp] theorem modG_tick (f : Group → Group) : (s.modG f).tick = s.tick := rfl
@[simp] theorem modG_uids (f : Group → Group) : (s.modG f).uids = s.uids := rfl
@[simp] theorem modG_teams (f : Group → Group) : (s.modG f).teams = s.teams := rfl
@[simp] theorem modG_panels (f : Group → Group) : (s.modG f).panels = s.panels := rfl
@[simp] theorem modG_cores (f : Group → Group) : (s.modG f).cores = s.cores := rfl
@[simp] theorem modG_diesSt (f : Group → Group) : (s.modG f).diesSt = s.diesSt := rfl
@[simp] theorem modG_mem (f : Group → Group) : (s.modG f).mem = s.mem := rfl
@[simp] theorem modG_psn (f : Group → Group) : (s.modG f).psn = s.psn := rfl
@[simp] theorem modG_dir (f : Group → Group) : (s.modG f).dir = s.dir := rfl
@[simp] theorem modG_dirty (f : Group → Group) : (s.modG f).dirty = s.dirty := rfl
@[simp] theorem modG_mlines (f : Group → Group) : (s.modG f).mlines = s.mlines := rfl
@[simp] theorem modG_checks (f : Group → Group) : (s.modG f).checks = s.checks := rfl
@[simp] theorem modG_hostMem (f : Group → Group) : (s.modG f).hostMem = s.hostMem := rfl
@[simp] theorem modG_hostLog (f : Group → Group) : (s.modG f).hostLog = s.hostLog := rfl
@[simp] theorem modG_ctxs (f : Group → Group) : (s.modG f).ctxs = s.ctxs := rfl
@[simp] theorem modG_dev (f : Group → Group) : (s.modG f).dev = s.dev := rfl
@[simp] theorem modG_routes (f : Group → Group) : (s.modG f).routes = s.routes := rfl
@[simp] theorem modG_lossSeen (f : Group → Group) : (s.modG f).lossSeen = s.lossSeen := rfl
@[simp] theorem modG_ingressTlb (f : Group → Group) : (s.modG f).ingressTlb = s.ingressTlb := rfl
@[simp] theorem modG_events (f : Group → Group) : (s.modG f).events = s.events := rfl
@[simp] theorem modG_launches (f : Group → Group) : (s.modG f).launches = s.launches := rfl
@[simp] theorem modG_lqueues (f : Group → Group) : (s.modG f).lqueues = s.lqueues := rfl
@[simp] theorem modG_invals (f : Group → Group) : (s.modG f).invals = s.invals := rfl
@[simp] theorem modG_hook (f : Group → Group) : (s.modG f).hook = s.hook := rfl
@[simp] theorem modG_subs (f : Group → Group) : (s.modG f).subs = s.subs := rfl
@[simp] theorem modG_comms (f : Group → Group) : (s.modG f).comms = s.comms := rfl
@[simp] theorem modG_self (f : Group → Group) : (s.modG f).self = s.self := rfl
@[simp] theorem modG_planes (f : Group → Group) : (s.modG f).planes = s.planes := rfl
@[simp] theorem modG_portSets (f : Group → Group) : (s.modG f).portSets = s.portSets := rfl
@[simp] theorem modG_quotas (f : Group → Group) : (s.modG f).quotas = s.quotas := rfl
@[simp] theorem modG_hits (f : Group → Group) : (s.modG f).hits = s.hits := rfl
@[simp] theorem modG_leafs (f : Group → Group) : (s.modG f).leafs = s.leafs := rfl
@[simp] theorem modG_allow (f : Group → Group) : (s.modG f).allow = s.allow := rfl
@[simp] theorem modG_used (f : Group → Group) : (s.modG f).used = s.used := rfl
@[simp] theorem modG_retiring (f : Group → Group) : (s.modG f).retiring = s.retiring := rfl
@[simp] theorem modG_sparesUsed (f : Group → Group) : (s.modG f).sparesUsed = s.sparesUsed := rfl
@[simp] theorem modG_rowErrs (f : Group → Group) : (s.modG f).rowErrs = s.rowErrs := rfl
@[simp] theorem modG_spareRows (f : Group → Group) : (s.modG f).spareRows = s.spareRows := rfl
@[simp] theorem modG_host (f : Group → Group) : (s.modG f).host = s.host := rfl
@[simp] theorem modG_msix (f : Group → Group) : (s.modG f).msix = s.msix := rfl

@[simp] theorem modA_agenda (f : Arm → Arm) : (s.modA f).agenda = s.agenda := rfl
@[simp] theorem modA_cur (f : Arm → Arm) : (s.modA f).cur = s.cur := rfl
@[simp] theorem modA_freeCtr (f : Arm → Arm) : (s.modA f).freeCtr = s.freeCtr := rfl
@[simp] theorem modA_tick (f : Arm → Arm) : (s.modA f).tick = s.tick := rfl
@[simp] theorem modA_uids (f : Arm → Arm) : (s.modA f).uids = s.uids := rfl
@[simp] theorem modA_teams (f : Arm → Arm) : (s.modA f).teams = s.teams := rfl
@[simp] theorem modA_panels (f : Arm → Arm) : (s.modA f).panels = s.panels := rfl
@[simp] theorem modA_cores (f : Arm → Arm) : (s.modA f).cores = s.cores := rfl
@[simp] theorem modA_diesSt (f : Arm → Arm) : (s.modA f).diesSt = s.diesSt := rfl
@[simp] theorem modA_mem (f : Arm → Arm) : (s.modA f).mem = s.mem := rfl
@[simp] theorem modA_psn (f : Arm → Arm) : (s.modA f).psn = s.psn := rfl
@[simp] theorem modA_dir (f : Arm → Arm) : (s.modA f).dir = s.dir := rfl
@[simp] theorem modA_dirty (f : Arm → Arm) : (s.modA f).dirty = s.dirty := rfl
@[simp] theorem modA_mlines (f : Arm → Arm) : (s.modA f).mlines = s.mlines := rfl
@[simp] theorem modA_checks (f : Arm → Arm) : (s.modA f).checks = s.checks := rfl
@[simp] theorem modA_hostMem (f : Arm → Arm) : (s.modA f).hostMem = s.hostMem := rfl
@[simp] theorem modA_hostLog (f : Arm → Arm) : (s.modA f).hostLog = s.hostLog := rfl
@[simp] theorem modA_ctxs (f : Arm → Arm) : (s.modA f).ctxs = s.ctxs := rfl
@[simp] theorem modA_dev (f : Arm → Arm) : (s.modA f).dev = s.dev := rfl
@[simp] theorem modA_routes (f : Arm → Arm) : (s.modA f).routes = s.routes := rfl
@[simp] theorem modA_lossSeen (f : Arm → Arm) : (s.modA f).lossSeen = s.lossSeen := rfl
@[simp] theorem modA_ingressTlb (f : Arm → Arm) : (s.modA f).ingressTlb = s.ingressTlb := rfl
@[simp] theorem modA_events (f : Arm → Arm) : (s.modA f).events = s.events := rfl
@[simp] theorem modA_launches (f : Arm → Arm) : (s.modA f).launches = s.launches := rfl
@[simp] theorem modA_lqueues (f : Arm → Arm) : (s.modA f).lqueues = s.lqueues := rfl
@[simp] theorem modA_invals (f : Arm → Arm) : (s.modA f).invals = s.invals := rfl
@[simp] theorem modA_hook (f : Arm → Arm) : (s.modA f).hook = s.hook := rfl
@[simp] theorem modA_subs (f : Arm → Arm) : (s.modA f).subs = s.subs := rfl
@[simp] theorem modA_comms (f : Arm → Arm) : (s.modA f).comms = s.comms := rfl
@[simp] theorem modA_self (f : Arm → Arm) : (s.modA f).self = s.self := rfl
@[simp] theorem modA_planes (f : Arm → Arm) : (s.modA f).planes = s.planes := rfl
@[simp] theorem modA_portSets (f : Arm → Arm) : (s.modA f).portSets = s.portSets := rfl
@[simp] theorem modA_quotas (f : Arm → Arm) : (s.modA f).quotas = s.quotas := rfl
@[simp] theorem modA_hits (f : Arm → Arm) : (s.modA f).hits = s.hits := rfl
@[simp] theorem modA_leafs (f : Arm → Arm) : (s.modA f).leafs = s.leafs := rfl
@[simp] theorem modA_allow (f : Arm → Arm) : (s.modA f).allow = s.allow := rfl
@[simp] theorem modA_used (f : Arm → Arm) : (s.modA f).used = s.used := rfl
@[simp] theorem modA_retiring (f : Arm → Arm) : (s.modA f).retiring = s.retiring := rfl
@[simp] theorem modA_sparesUsed (f : Arm → Arm) : (s.modA f).sparesUsed = s.sparesUsed := rfl
@[simp] theorem modA_rowErrs (f : Arm → Arm) : (s.modA f).rowErrs = s.rowErrs := rfl
@[simp] theorem modA_spareRows (f : Arm → Arm) : (s.modA f).spareRows = s.spareRows := rfl
@[simp] theorem modA_host (f : Arm → Arm) : (s.modA f).host = s.host := rfl
@[simp] theorem modA_msix (f : Arm → Arm) : (s.modA f).msix = s.msix := rfl

@[simp] theorem retire_agenda : (s.retire).agenda = s.agenda := rfl
@[simp] theorem retire_cur : (s.retire).cur = s.cur := rfl
@[simp] theorem retire_freeCtr : (s.retire).freeCtr = s.freeCtr := rfl
@[simp] theorem retire_tick : (s.retire).tick = s.tick := rfl
@[simp] theorem retire_uids : (s.retire).uids = s.uids := rfl
@[simp] theorem retire_teams : (s.retire).teams = s.teams := rfl
@[simp] theorem retire_panels : (s.retire).panels = s.panels := rfl
@[simp] theorem retire_cores : (s.retire).cores = s.cores := rfl
@[simp] theorem retire_diesSt : (s.retire).diesSt = s.diesSt := rfl
@[simp] theorem retire_mem : (s.retire).mem = s.mem := rfl
@[simp] theorem retire_psn : (s.retire).psn = s.psn := rfl
@[simp] theorem retire_dir : (s.retire).dir = s.dir := rfl
@[simp] theorem retire_dirty : (s.retire).dirty = s.dirty := rfl
@[simp] theorem retire_mlines : (s.retire).mlines = s.mlines := rfl
@[simp] theorem retire_checks : (s.retire).checks = s.checks := rfl
@[simp] theorem retire_hostMem : (s.retire).hostMem = s.hostMem := rfl
@[simp] theorem retire_hostLog : (s.retire).hostLog = s.hostLog := rfl
@[simp] theorem retire_ctxs : (s.retire).ctxs = s.ctxs := rfl
@[simp] theorem retire_dev : (s.retire).dev = s.dev := rfl
@[simp] theorem retire_routes : (s.retire).routes = s.routes := rfl
@[simp] theorem retire_lossSeen : (s.retire).lossSeen = s.lossSeen := rfl
@[simp] theorem retire_ingressTlb : (s.retire).ingressTlb = s.ingressTlb := rfl
@[simp] theorem retire_events : (s.retire).events = s.events := rfl
@[simp] theorem retire_launches : (s.retire).launches = s.launches := rfl
@[simp] theorem retire_lqueues : (s.retire).lqueues = s.lqueues := rfl
@[simp] theorem retire_invals : (s.retire).invals = s.invals := rfl
@[simp] theorem retire_hook : (s.retire).hook = s.hook := rfl
@[simp] theorem retire_subs : (s.retire).subs = s.subs := rfl
@[simp] theorem retire_comms : (s.retire).comms = s.comms := rfl
@[simp] theorem retire_self : (s.retire).self = s.self := rfl
@[simp] theorem retire_planes : (s.retire).planes = s.planes := rfl
@[simp] theorem retire_portSets : (s.retire).portSets = s.portSets := rfl
@[simp] theorem retire_quotas : (s.retire).quotas = s.quotas := rfl
@[simp] theorem retire_hits : (s.retire).hits = s.hits := rfl
@[simp] theorem retire_leafs : (s.retire).leafs = s.leafs := rfl
@[simp] theorem retire_allow : (s.retire).allow = s.allow := rfl
@[simp] theorem retire_used : (s.retire).used = s.used := rfl
@[simp] theorem retire_retiring : (s.retire).retiring = s.retiring := rfl
@[simp] theorem retire_sparesUsed : (s.retire).sparesUsed = s.sparesUsed := rfl
@[simp] theorem retire_rowErrs : (s.retire).rowErrs = s.rowErrs := rfl
@[simp] theorem retire_spareRows : (s.retire).spareRows = s.spareRows := rfl
@[simp] theorem retire_host : (s.retire).host = s.host := rfl
@[simp] theorem retire_msix : (s.retire).msix = s.msix := rfl

end Sys2Proof.Machine.State

namespace Sys2Proof.Machine.Group

variable (g : Group)

/-! Arms. -/

@[simp] theorem arm_setArm_same (slot : Nat) (a : Arm) : (g.setArm slot a).arm slot = a := by
  unfold setArm arm; split <;> simp_all
theorem arm_setArm_other (slot : Nat) (a : Arm) (h : slot ≤ 1) : (g.setArm slot a).arm (1 - slot) = g.arm (1 - slot) := by
  unfold setArm arm; interval_cases slot <;> simp

@[simp] theorem setArm_live (slot : Nat) (a : Arm) : (g.setArm slot a).live = g.live := by unfold setArm; split <;> rfl
@[simp] theorem setArm_ctx (slot : Nat) (a : Arm) : (g.setArm slot a).ctx = g.ctx := by unfold setArm; split <;> rfl
@[simp] theorem setArm_launch (slot : Nat) (a : Arm) : (g.setArm slot a).launch = g.launch := by unfold setArm; split <;> rfl
@[simp] theorem setArm_tid (slot : Nat) (a : Arm) : (g.setArm slot a).tid = g.tid := by unfold setArm; split <;> rfl
@[simp] theorem setArm_lid (slot : Nat) (a : Arm) : (g.setArm slot a).lid = g.lid := by unfold setArm; split <;> rfl
@[simp] theorem setArm_vcluster (slot : Nat) (a : Arm) : (g.setArm slot a).vcluster = g.vcluster := by unfold setArm; split <;> rfl
@[simp] theorem setArm_vcore (slot : Nat) (a : Arm) : (g.setArm slot a).vcore = g.vcore := by unfold setArm; split <;> rfl
@[simp] theorem setArm_vslot (slot : Nat) (a : Arm) : (g.setArm slot a).vslot = g.vslot := by unfold setArm; split <;> rfl
@[simp] theorem setArm_teamLanes (slot : Nat) (a : Arm) : (g.setArm slot a).teamLanes = g.teamLanes := by unfold setArm; split <;> rfl
@[simp] theorem setArm_helpers (slot : Nat) (a : Arm) : (g.setArm slot a).helpers = g.helpers := by unfold setArm; split <;> rfl
@[simp] theorem setArm_exited (slot : Nat) (a : Arm) : (g.setArm slot a).exited = g.exited := by unfold setArm; split <;> rfl
@[simp] theorem setArm_base (slot : Nat) (a : Arm) : (g.setArm slot a).base = g.base := by unfold setArm; split <;> rfl
@[simp] theorem setArm_chunks (slot : Nat) (a : Arm) : (g.setArm slot a).chunks = g.chunks := by unfold setArm; split <;> rfl
@[simp] theorem setArm_vregs (slot : Nat) (a : Arm) : (g.setArm slot a).vregs = g.vregs := by unfold setArm; split <;> rfl
@[simp] theorem setArm_vpois (slot : Nat) (a : Arm) : (g.setArm slot a).vpois = g.vpois := by unfold setArm; split <;> rfl
@[simp] theorem setArm_preds (slot : Nat) (a : Arm) : (g.setArm slot a).preds = g.preds := by unfold setArm; split <;> rfl
@[simp] theorem setArm_ppois (slot : Nat) (a : Arm) : (g.setArm slot a).ppois = g.ppois := by unfold setArm; split <;> rfl
@[simp] theorem setArm_scal (slot : Nat) (a : Arm) : (g.setArm slot a).scal = g.scal := by unfold setArm; split <;> rfl
@[simp] theorem setArm_spois (slot : Nat) (a : Arm) : (g.setArm slot a).spois = g.spois := by unfold setArm; split <;> rfl
@[simp] theorem setArm_seed (slot : Nat) (a : Arm) : (g.setArm slot a).seed = g.seed := by unfold setArm; split <;> rfl
@[simp] theorem setArm_xs (slot : Nat) (a : Arm) : (g.setArm slot a).xs = g.xs := by unfold setArm; split <;> rfl
@[simp] theorem setArm_gang (slot : Nat) (a : Arm) : (g.setArm slot a).gang = g.gang := by unfold setArm; split <;> rfl
@[simp] theorem setArm_frames (slot : Nat) (a : Arm) : (g.setArm slot a).frames = g.frames := by unfold setArm; split <;> rfl
@[simp] theorem setArm_spill (slot : Nat) (a : Arm) : (g.setArm slot a).spill = g.spill := by unfold setArm; split <;> rfl
@[simp] theorem setArm_copies (slot : Nat) (a : Arm) : (g.setArm slot a).copies = g.copies := by unfold setArm; split <;> rfl
@[simp] theorem setArm_tiles (slot : Nat) (a : Arm) : (g.setArm slot a).tiles = g.tiles := by unfold setArm; split <;> rfl
@[simp] theorem setArm_copyFlag (slot : Nat) (a : Arm) : (g.setArm slot a).copyFlag = g.copyFlag := by unfold setArm; split <;> rfl
@[simp] theorem setArm_copyObs (slot : Nat) (a : Arm) : (g.setArm slot a).copyObs = g.copyObs := by unfold setArm; split <;> rfl
@[simp] theorem setArm_tileFlag (slot : Nat) (a : Arm) : (g.setArm slot a).tileFlag = g.tileFlag := by unfold setArm; split <;> rfl
@[simp] theorem setArm_joins (slot : Nat) (a : Arm) : (g.setArm slot a).joins = g.joins := by unfold setArm; split <;> rfl
@[simp] theorem setArm_forker (slot : Nat) (a : Arm) : (g.setArm slot a).forker = g.forker := by unfold setArm; split <;> rfl
@[simp] theorem setArm_uid (slot : Nat) (a : Arm) : (g.setArm slot a).uid = g.uid := by unfold setArm; split <;> rfl
@[simp] theorem setArm_place (slot : Nat) (a : Arm) : (g.setArm slot a).place = g.place := by unfold setArm; split <;> rfl
@[simp] theorem setArm_begun (slot : Nat) (a : Arm) : (g.setArm slot a).begun = g.begun := by unfold setArm; split <;> rfl
@[simp] theorem setArm_since (slot : Nat) (a : Arm) : (g.setArm slot a).since = g.since := by unfold setArm; split <;> rfl
@[simp] theorem setArm_chkHomes (slot : Nat) (a : Arm) : (g.setArm slot a).chkHomes = g.chkHomes := by unfold setArm; split <;> rfl
@[simp] theorem setArm_latch (slot : Nat) (a : Arm) : (g.setArm slot a).latch = g.latch := by unfold setArm; split <;> rfl
@[simp] theorem setArm_abort (slot : Nat) (a : Arm) : (g.setArm slot a).abort = g.abort := by unfold setArm; split <;> rfl
@[simp] theorem setArm_cause (slot : Nat) (a : Arm) : (g.setArm slot a).cause = g.cause := by unfold setArm; split <;> rfl

/-! Vector registers and predicates do not depend on the arms. -/

@[simp] theorem present_setArm (slot : Nat) (a : Arm) : (g.setArm slot a).present = g.present := by simp [present]
@[simp] theorem window_setArm (slot : Nat) (a : Arm) : (g.setArm slot a).window = g.window := by simp [window]
@[simp] theorem vlane_setArm (slot : Nat) (a : Arm) (r l : Nat) : (g.setArm slot a).vlane r l = g.vlane r l := by simp [vlane]
@[simp] theorem vpoison_setArm (slot : Nat) (a : Arm) (r : Nat) : (g.setArm slot a).vpoison r = g.vpoison r := by simp [vpoison]
@[simp] theorem pred_setArm (slot : Nat) (a : Arm) (p : Nat) : (g.setArm slot a).pred p = g.pred p := by simp [pred]
@[simp] theorem ppoison_setArm (slot : Nat) (a : Arm) (p : Nat) : (g.setArm slot a).ppoison p = g.ppoison p := by simp [ppoison]

end Sys2Proof.Machine.Group
end

