-- ==== Sys2Proof/Laws/Registers.lean ====
section
/-! SUPPORT. What each write of a register does: the lanes and marks it changes, and that it changes nothing else. -/

namespace Sys2Proof.Machine

/-! Words by their bits. -/

theorem bit_and {w : Nat} (a b : BitVec w) (n : Nat) : bit (a &&& b) n = (bit a n && bit b n) := by simp [bit]
theorem bit_or {w : Nat} (a b : BitVec w) (n : Nat) : bit (a ||| b) n = (bit a n || bit b n) := by simp [bit]
theorem bit_not {w : Nat} (a : BitVec w) (n : Nat) (h : n < w) : bit (~~~a) n = !bit a n := by simp [bit, h]
theorem bit_zero {w : Nat} (n : Nat) : bit (0 : BitVec w) n = false := by simp [bit]
theorem bit_lt {w : Nat} (a : BitVec w) (n : Nat) (h : bit a n = true) : n < w := by
  by_contra hn; simp [bit, BitVec.getLsbD_of_ge a n (by omega)] at h

/-- A merge of `b` into `a` under a mask, bit by bit. -/
theorem bit_merge {w : Nat} (a b m : BitVec w) (n : Nat) :
    bit ((a &&& ~~~m) ||| (b &&& m)) n = if bit m n then bit b n else bit a n := by
  by_cases h : n < w
  · rw [bit_or, bit_and, bit_and, bit_not _ _ h]; cases bit m n <;> simp
  · have h : w ≤ n := by omega
    simp [bit, BitVec.getLsbD_of_ge _ n h]

/-! Words written into a list. -/

theorem lput_getD (l : List Word) (n k : Nat) (x : Word) : (lput l n x).getD k 0 = if k = n then x else l.getD k 0 := by
  unfold lput
  split
  · next h =>
    by_cases hk : k = n
    · subst hk; simp [List.getD, h]
    · simp [List.getD, hk, Ne.symm hk]
  · next h =>
    have h : l.length ≤ n := by omega
    simp only [List.getD, List.getElem?_append, List.length_append, List.length_replicate, List.getElem?_replicate]
    by_cases hk : k = n
    · subst hk
      rw [if_neg (by omega), show k - (l.length + (k - l.length)) = 0 by omega]; simp
    · rw [if_neg hk]
      by_cases h1 : k < l.length
      · simp [h1, show k < l.length + (n - l.length) by omega]
      · by_cases h2 : k < n
        · rw [if_pos (by omega), if_neg h1, if_pos (by omega)]
          simp [List.getElem?_eq_none (by omega : l.length ≤ k)]
        · rw [if_neg (by omega), List.getElem?_eq_none (by simp; omega), List.getElem?_eq_none (by omega)]

/-! Marks of scalars. -/

theorem bit_setBit {w : Nat} (x : BitVec w) (n k : Nat) (b : Bool) (h : k < w) :
    bit (setBit x n b) k = if k = n then b else bit x k := by
  unfold setBit
  have e : bit (BitVec.ofNat w (2 ^ n)) k = decide (k = n) := by
    unfold bit
    rw [BitVec.getLsbD_ofNat, Nat.testBit_two_pow]
    simp [h, eq_comm]
  split
  · rw [bit_or, e]; by_cases hk : k = n <;> simp_all
  · rw [bit_and, bit_not _ _ h, e]; by_cases hk : k = n <;> simp_all

namespace Group

variable (g : Group)

@[simp] theorem setV_present (r : Nat) (m : BitVec 32) (f : Nat → Lane32) : (g.setV r m f).present = g.present := rfl
@[simp] theorem markV_present (r : Nat) (m p : BitVec 32) : (g.markV r m p).present = g.present := rfl

/-- What a write of a vector register leaves in every lane of every register. -/
theorem vlane_setV (r r' l : Nat) (m : BitVec 32) (f : Nat → Lane32) :
    (g.setV r m f).vlane r' l = if r' = r ∧ bit (m &&& g.present) l = true then f l else g.vlane r' l := by
  by_cases hp : bit g.present l
  · have hl := bit_lt _ _ hp
    unfold setV vlane
    simp only [show ∀ (x : SMap (List Lane32)) y, ({ g with vregs := x, skeinVals := y } : Group).present = g.present from fun _ _ => rfl, hp, if_true]
    rw [mget_mset]
    by_cases hr : r' = r
    · subst hr
      simp [List.getD, hl, bit_and, hp]
    · simp [hr]
  · unfold setV vlane
    simp only [show ∀ (x : SMap (List Lane32)) y, ({ g with vregs := x, skeinVals := y } : Group).present = g.present from fun _ _ => rfl]
    simp [hp, bit_and]

@[simp] theorem vlane_markV (r r' l : Nat) (m p : BitVec 32) : (g.markV r m p).vlane r' l = g.vlane r' l := rfl
@[simp] theorem vpoison_setV (r r' : Nat) (m : BitVec 32) (f : Nat → Lane32) : (g.setV r m f).vpoison r' = g.vpoison r' := rfl

theorem vpoison_markV (r r' l : Nat) (m p : BitVec 32) :
    bit ((g.markV r m p).vpoison r') l = if r' = r ∧ bit m l = true then bit p l else bit (g.vpoison r') l := by
  unfold markV vpoison
  rw [mget_mset]
  by_cases hr : r' = r
  · subst hr; simp [bit_merge]
  · simp [hr]

/-- A clean write of a register or pair: each lane written holds its value. -/
theorem vlane_putV (d r l : Nat) (wide : Bool) (m : BitVec 32) (val : Nat → Nat) :
    (g.putV d wide m val).vlane r l =
      if bit (m &&& g.present) l = true then
        (if wide = true ∧ r = d + 1 then BitVec.ofNat 32 (val l / 2 ^ 32) else if r = d then BitVec.ofNat 32 (val l) else g.vlane r l)
      else g.vlane r l := by
  unfold putV
  cases wide <;> simp only [Bool.false_eq_true, if_true, if_false, vlane_markV, vlane_setV, markV_present, setV_present] <;>
    split_ifs <;> simp_all

theorem vpoison_putV (d r l : Nat) (wide : Bool) (m : BitVec 32) (val : Nat → Nat) :
    bit ((g.putV d wide m val).vpoison r) l =
      if (r = d ∨ (wide = true ∧ r = d + 1)) ∧ bit m l = true then false else bit (g.vpoison r) l := by
  unfold putV
  cases wide <;> simp only [Bool.false_eq_true, if_true, if_false, vpoison_setV, vpoison_markV, bit_zero] <;>
    split_ifs <;> simp_all

/-- A write of a register changes no other part of the group, but the record of what it wrote into its skein (R220). -/
theorem putV_else (d : Nat) (wide : Bool) (m : BitVec 32) (val : Nat → Nat) :
    { g.putV d wide m val with vregs := g.vregs, vpois := g.vpois, skeinVals := g.skeinVals } = g := by
  cases wide <;> simp only [putV, setV, markV, if_true, if_false, Bool.false_eq_true]

theorem pred_setPred (p q l : Nat) (m v : BitVec 32) :
    bit ((g.setPred p m v).pred q) l = if q = p ∧ p ≠ 0 ∧ bit m l = true then bit v l else bit (g.pred q) l := by
  unfold setPred
  split
  · next h => subst h; simp
  · next h =>
    unfold pred
    by_cases hq : q = 0
    · simp [hq, Ne.symm h]
    · simp only [hq, if_false]
      rw [mget_mset]
      by_cases hp : q = p
      · subst hp; simp [bit_merge, h]
      · simp [hp]

theorem ppoison_markPred (p q l : Nat) (m v : BitVec 32) :
    bit ((g.markPred p m v).ppoison q) l = if q = p ∧ p ≠ 0 ∧ bit m l = true then bit v l else bit (g.ppoison q) l := by
  unfold markPred
  split
  · next h => subst h; simp
  · next h =>
    unfold ppoison
    by_cases hq : q = 0
    · simp [hq, Ne.symm h]
    · simp only [hq, if_false]
      rw [mget_mset]
      by_cases hp : q = p
      · subst hp; simp [bit_merge, h]
      · simp [hp]

@[simp] theorem pred_markPred (p q : Nat) (m v : BitVec 32) : (g.markPred p m v).pred q = g.pred q := by
  unfold markPred; split <;> rfl
@[simp] theorem ppoison_setPred (p q : Nat) (m v : BitVec 32) : (g.setPred p m v).ppoison q = g.ppoison q := by
  unfold setPred; split <;> rfl

theorem setPred_else (p : Nat) (m v x : BitVec 32) :
    { (g.setPred p m v).markPred p m x with preds := g.preds, ppois := g.ppois } = g := by
  unfold setPred markPred; split <;> rfl

theorem sreg_setS (slot n k : Nat) (x : Word) : (g.setS slot n x).sreg slot k = if k = n then x else g.sreg slot k := by
  unfold setS
  split
  · next h =>
    unfold sreg
    by_cases hk : k < 32
    · simp only [hk, if_true, lput_getD]
    · simp [hk, show k ≠ n by omega, arm]
  · next h =>
    unfold sreg
    by_cases hk : k < 32
    · simp [hk, show k ≠ n by omega]
    · simp only [hk, if_false, arm_setArm_same, lput_getD]
      by_cases he : k = n
      · subst he; simp
      · simp [he, show ¬ k - 32 = n - 32 by omega]

theorem spoison_markS (slot n k : Nat) (b : Bool) (hk : k < 64) :
    (g.markS slot n b).spoison slot k = if k = n then b else g.spoison slot k := by
  unfold markS
  split
  · next h =>
    unfold spoison
    by_cases h2 : k < 32
    · simp only [h2, if_true, bit_setBit _ _ _ _ h2]
    · simp [h2, show k ≠ n by omega, arm]
  · next h =>
    unfold spoison
    by_cases h2 : k < 32
    · simp [h2, show k ≠ n by omega]
    · simp only [h2, if_false, arm_setArm_same, bit_setBit _ _ _ _ (show k - 32 < 32 by omega)]
      by_cases he : k = n
      · subst he; simp
      · simp [he, show ¬ k - 32 = n - 32 by omega]

@[simp] theorem sreg_markS (slot n k : Nat) (b : Bool) : (g.markS slot n b).sreg slot k = g.sreg slot k := by
  unfold markS sreg
  by_cases h : n < 32 <;> by_cases hk : k < 32
  · simp only [h, hk, if_true]
  · simp only [h, hk, if_true, if_false]; rfl
  · simp only [h, hk, if_true, if_false, setArm_scal]
  · simp only [h, hk, if_false, arm_setArm_same]

@[simp] theorem spoison_setS (slot n k : Nat) (x : Word) : (g.setS slot n x).spoison slot k = g.spoison slot k := by
  unfold setS spoison
  by_cases h : n < 32 <;> by_cases hk : k < 32
  · simp only [h, hk, if_true]
  · simp only [h, hk, if_true, if_false]; rfl
  · simp only [h, hk, if_true, if_false, setArm_spois]
  · simp only [h, hk, if_false, arm_setArm_same]

end Group

end Sys2Proof.Machine
end

