-- ==== Sys2Proof/Laws/Operands.lean ====
section
/-! SUPPORT. What the checks before an effect can do, and the whole effect of the writes that instructions share: one vector
register or pair, one predicate, one scalar. -/

namespace Sys2Proof.Machine

open Sys2Proof.Safety

namespace State

variable (s : State)

@[simp] theorem conclude_retire (t : State) : s.conclude (.retire t) = .next t.retire := rfl
@[simp] theorem conclude_stay (t : State) : s.conclude (.stay t) = .next t := rfl
@[simp] theorem conclude_trap (t : TrapInfo) : s.conclude (.trap t) = .next (s.takeTrap t) := rfl
@[simp] theorem conclude_fault (f : Fault) : s.conclude (.fault f) = .fault f := rfl

/-- An effect never ends in a refusal. -/
theorem conclude_ne_refused (e : Eff) (r : Refusal) : s.conclude e ≠ .refused r := by cases e <;> simp [conclude]

theorem winTrap_none (regs : List (Nat × Nat)) : s.winTrap regs = none ↔ ∀ r ∈ regs, r.1 + r.2 ≤ s.cg.window := by
  simp [winTrap, List.findSome?_eq_none_iff]

theorem rdTraps_none (rs : List Rd) : s.rdTraps rs = none ↔ ∀ r ∈ rs, s.rdTrap r = none := by
  simp [rdTraps, List.findSome?_eq_none_iff]

/-- The checks pass, and the effect takes place on the active lanes. -/
theorem guarded_passes {s : State} {g : Guard} {once : Bool} {regs : List (Nat × Nat)} {reads : BitVec 32 → List Rd}
    (k : BitVec 32 → Eff) (h : Passes s g regs (reads (s.active g))) (ha : once = true → Acts s g) :
    s.guarded g once regs reads k = k (s.active g) := by
  obtain ⟨h1, h2, h3⟩ := h
  unfold guarded
  rw [h1]
  have hn : (once && s.active g == 0) = false := by cases once <;> simp_all [Acts]
  simp only [hn, Bool.false_eq_true, if_false, (winTrap_none s regs).mpr h2, (rdTraps_none s _).mpr h3]

/-- Everything the checks can do: a trap, a no-op, or the effect. -/
theorem guarded_cases (g : Guard) (once : Bool) (regs : List (Nat × Nat)) (reads : BitVec 32 → List Rd) (k : BitVec 32 → Eff) :
    (∃ t, s.rdTrap (.p g.ps.toNat s.armMask) = some t ∧ s.guarded g once regs reads k = .trap t) ∨
    (once = true ∧ s.active g = 0 ∧ s.guarded g once regs reads k = .retire s) ∨
    (∃ t, s.winTrap regs = some t ∧ s.guarded g once regs reads k = .trap t) ∨
    (∃ t, s.rdTraps (reads (s.active g)) = some t ∧ s.guarded g once regs reads k = .trap t) ∨
    (Passes s g regs (reads (s.active g)) ∧ (once = true → Acts s g) ∧ s.guarded g once regs reads k = k (s.active g)) := by
  cases h1 : s.rdTrap (.p g.ps.toNat s.armMask) with
  | some t => exact .inl ⟨t, rfl, by simp [guarded, h1]⟩
  | none =>
    by_cases hn : (once && s.active g == 0) = true
    · refine .inr (.inl ?_)
      simp only [Bool.and_eq_true, beq_iff_eq] at hn
      exact ⟨hn.1, hn.2, by simp [guarded, h1, hn.1, hn.2]⟩
    · cases h2 : s.winTrap regs with
      | some t => exact .inr (.inr (.inl ⟨t, rfl, by simp only [guarded, h1, hn, h2]; rfl⟩))
      | none =>
        cases h3 : s.rdTraps (reads (s.active g)) with
        | some t => exact .inr (.inr (.inr (.inl ⟨t, rfl, by simp only [guarded, h1, hn, h2, h3]; rfl⟩)))
        | none =>
          have hp : Passes s g regs (reads (s.active g)) := ⟨h1, (winTrap_none s regs).mp h2, (rdTraps_none s _).mp h3⟩
          have ha : once = true → Acts s g := fun ho hz => hn (by simp [ho, hz])
          exact .inr (.inr (.inr (.inr ⟨hp, ha, guarded_passes k hp ha⟩)))

/-- A register beyond the window traps REG_UNMAPPED, R64. -/
theorem winTrap_some (regs : List (Nat × Nat)) (t : TrapInfo) (h : s.winTrap regs = some t) :
    ∃ r ∈ regs, s.cg.window < r.1 + r.2 ∧ t = trapOf 6 0 (BitVec.ofNat 64 (max r.1 s.cg.window)) := by
  obtain ⟨r, hr, he⟩ := List.exists_of_findSome?_eq_some h
  refine ⟨r, hr, ?_⟩
  split at he
  · next hw => exact ⟨hw, by simpa using he.symm⟩
  · simp at he

/-! ### The arm that retires -/

theorem sameArm_advance (a : Arm) : SameArm a a.advance := by
  unfold SameArm Arm.advance
  dsimp only
  split
  · rfl
  · split <;> rfl

theorem advance_scal (a : Arm) : a.advance.scal = a.scal ∧ a.advance.spois = a.spois := by
  unfold Arm.advance
  dsimp only
  split
  · exact ⟨rfl, rfl⟩
  · split <;> exact ⟨rfl, rfl⟩

/-- Retiring changes the executing arm's place and no register. -/
theorem sreg_advance (g : Group) (slot n : Nat) :
    (g.setArm slot (g.arm slot).advance).sreg slot n = g.sreg slot n ∧
      (g.setArm slot (g.arm slot).advance).spoison slot n = g.spoison slot n := by
  unfold Group.sreg Group.spoison
  by_cases h : n < 32
  · simp [h]
  · simp only [h, if_false, Group.arm_setArm_same, advance_scal]; exact ⟨trivial, trivial⟩

end State

/-! ### Frames -/

/-- A change `f` of the executing group, followed by the arm's move `m`, has the frame of its destinations. -/
theorem frame_of_group (s : State) (f : Group → Group) (m : Arm → Arm) (d : Dest)
    (he : { f s.cg with vregs := s.cg.vregs, vpois := s.cg.vpois, preds := s.cg.preds, ppois := s.cg.ppois, scal := s.cg.scal,
                        spois := s.cg.spois, xs := s.cg.xs, skeinVals := s.cg.skeinVals, arm0 := s.cg.arm0,
                        arm1 := s.cg.arm1 } = s.cg)
    (hx : d.xs = false → (f s.cg).xs = s.cg.xs)
    (ho : s.slot ≤ 1 → (f s.cg).arm (1 - s.slot) = s.cg.arm (1 - s.slot))
    (ha : SameArm s.ca (m ((f s.cg).arm s.slot)))
    (hs : (m ((f s.cg).arm s.slot)).scal = ((f s.cg).arm s.slot).scal ∧ (m ((f s.cg).arm s.slot)).spois = ((f s.cg).arm s.slot).spois)
    (hv : ∀ r l, d.v r l = false → (f s.cg).vlane r l = s.cg.vlane r l ∧ bit ((f s.cg).vpoison r) l = bit (s.cg.vpoison r) l)
    (hp : ∀ p l, d.p p l = false → bit ((f s.cg).pred p) l = bit (s.cg.pred p) l ∧ bit ((f s.cg).ppoison p) l = bit (s.cg.ppoison p) l)
    (hn : ∀ n, n < 64 → d.s n = false → (f s.cg).sreg s.slot n = s.cg.sreg s.slot n ∧
      (f s.cg).spoison s.slot n = s.cg.spoison s.slot n) :
    OnlyWrites s ((s.modG f).modA m) d := by
  have hcg : ((s.modG f).modA m).cg = (f s.cg).setArm s.slot (m ((f s.cg).arm s.slot)) := by
    rw [State.cg_modA]; simp [State.ca]
  refine ⟨rfl, fun _ => rfl, fun k hk => ?_, ?_, ?_, ?_, ?_, ?_, ?_, ?_⟩
  · exact (mget_mset_other _ _ _ hk).trans (mget_mset_other _ _ _ hk)
  · refine Eq.trans ?_ he; rw [hcg]; unfold Group.setArm; split <;> rfl
  · intro h; rw [hcg]; simpa using hx h
  · intro h; rw [hcg, Group.arm_setArm_other _ _ _ h]; exact ho h
  · simp only [State.ca, hcg]; simpa [State.ca] using ha
  · intro r l h; rw [hcg]; simpa using hv r l h
  · intro p l h; rw [hcg]; simpa using hp p l h
  · intro n hl h
    obtain ⟨h1, h2⟩ := hn n hl h
    simp only [State.sreg, hcg]
    change Group.sreg _ s.slot n = _ ∧ Group.spoison _ s.slot n = _
    rw [← h1, ← h2]
    unfold Group.sreg Group.spoison
    by_cases hlt : n < 32
    · simp [hlt]
    · simp only [hlt, if_false, Group.arm_setArm_same, hs.1, hs.2]; exact ⟨trivial, trivial⟩

/-- A clean write of a register or pair by an instruction that retires. -/
theorem wroteV_putV (s : State) (g : Guard) (d : Nat) (wide : Bool) (val : Nat → Nat) :
    WroteV s (s.modG fun x => x.putV d wide (s.active g) val).retire g d wide false
      (fun l r => r = val l % 2 ^ (if wide then 64 else 32)) := by
  have hg := Group.putV_else s.cg d wide (s.active g) val
  refine ⟨?_, fun l hl => ?_⟩
  · refine frame_of_group s (fun x => x.putV d wide (s.active g) val) Arm.advance _ ?_ ?_ ?_ ?_ (State.advance_scal _) ?_ ?_ ?_
    · cases wide <;> simp only [Group.putV, Group.setV, Group.markV, if_true, if_false, Bool.false_eq_true]
    · intro _; have := congrArg Group.xs hg; exact this
    · intro _
      have := congrArg (fun x => Group.arm x (1 - s.slot)) hg
      exact this
    · have := congrArg (fun x => Group.arm x s.slot) hg
      simp only [State.ca]
      rw [show (Group.putV s.cg d wide (s.active g) val).arm s.slot = s.cg.arm s.slot from this]
      exact State.sameArm_advance _
    · intro r l h
      simp only [vDest, Bool.and_eq_false_iff, Bool.or_eq_false_iff, beq_eq_false_iff_ne] at h
      rw [Group.vlane_putV, Group.vpoison_putV]
      rcases h with h | h
      · have h2 : ¬ (wide = true ∧ r = d + 1) := by rintro ⟨a, b⟩; rcases h.2 with h | h <;> simp_all
        exact ⟨by simp [h.1, h2], by simp [h.1, h2]⟩
      · exact ⟨by simp [bit_and, h], by simp [h]⟩
    · intro p l _
      have h1 := congrArg (fun x => bit (Group.pred x p) l) hg
      have h2 := congrArg (fun x => bit (Group.ppoison x p) l) hg
      exact ⟨h1, h2⟩
    · intro n _ _
      have h1 := congrArg (fun x => Group.sreg x s.slot n) hg
      have h2 := congrArg (fun x => Group.spoison x s.slot n) hg
      exact ⟨h1, h2⟩
  · have hcg : ((s.modG fun x => x.putV d wide (s.active g) val).retire).cg =
        (s.cg.putV d wide (s.active g) val).setArm s.slot ((s.cg.putV d wide (s.active g) val).arm s.slot).advance := by
      rw [State.cg_retire]; simp [State.ca]
    have ha : bit (s.active g) l = true := by have := hl; unfold Writes at this; rw [bit_and] at this; simp_all
    unfold Writes at hl
    rw [hcg]
    refine ⟨?_, ?_, ?_⟩
    · unfold laneVal Group.vlane64
      simp only [Group.vlane_setArm, Group.vlane_putV, hl, if_true]
      cases wide
      · simp
      · have e : ¬ d = d + 1 := by omega
        simp only [if_true, true_and, e, if_false]
        simp only [BitVec.toNat_append, BitVec.toNat_ofNat]
        rw [← Nat.shiftLeft_add_eq_or_of_lt (by omega), Nat.shiftLeft_eq]
        omega
    · rw [Group.vpoison_setArm, Group.vpoison_putV, if_pos ⟨.inl rfl, ha⟩]
    · intro hw
      rw [Group.vpoison_setArm, Group.vpoison_putV, if_pos ⟨.inr ⟨hw, rfl⟩, ha⟩]

/-- A per-lane instruction that raises nothing completes: each active lane holds its value. -/
theorem vEff_wrote (s : State) (f : VF) (wide : Bool) (srcs : List (Src × Bool)) (val : Nat → Nat)
    (h : Passes s f.g ((f.d.toNat, if wide then 2 else 1) :: srcRegs srcs) (srcReads (s.active f.g) srcs)) :
    ∃ t, s.conclude (s.vEff f wide srcs val) = .next t ∧
      WroteV s t f.g f.d.toNat wide false (fun l r => r = val l % 2 ^ (if wide then 64 else 32)) := by
  refine ⟨_, ?_, wroteV_putV s f.g f.d.toNat wide val⟩
  unfold State.vEff
  rw [State.guarded_passes _ h (by simp)]
  rfl

/-- A stronger reading of the lanes gives the same statement. -/
theorem wroteV_mono {s t : State} {g : Guard} {d : Nat} {wide xs : Bool} {R R' : Nat → Nat → Prop}
    (h : WroteV s t g d wide xs R) (hr : ∀ l r, Writes s g l → R l r → R' l r) : WroteV s t g d wide xs R' :=
  ⟨h.1, fun l hl => ⟨hr l _ hl (h.2 l hl).1, (h.2 l hl).2⟩⟩

/-- A predicate written by an instruction that retires. -/
theorem wroteP_setPred (s : State) (g : Guard) (d : Nat) (v : BitVec 32) :
    PerLaneP s (s.modG fun x => (x.setPred d (s.active g) v).markPred d (s.active g) 0).retire g d (fun l => bit v l) := by
  have hg := Group.setPred_else s.cg d (s.active g) v 0
  refine ⟨?_, fun l _ ha hd => ?_⟩
  · refine frame_of_group s (fun x => (x.setPred d (s.active g) v).markPred d (s.active g) 0) Arm.advance _
      ?_ ?_ ?_ ?_ (State.advance_scal _) ?_ ?_ ?_
    · unfold Group.setPred Group.markPred; split <;> rfl
    · intro _; have := congrArg Group.xs hg; exact this
    · intro _; have := congrArg (fun x => Group.arm x (1 - s.slot)) hg; exact this
    · have := congrArg (fun x => Group.arm x s.slot) hg
      simp only [State.ca]
      rw [show ((s.cg.setPred d (s.active g) v).markPred d (s.active g) 0).arm s.slot = s.cg.arm s.slot from this]
      exact State.sameArm_advance _
    · intro r l _
      have h1 := congrArg (fun x => Group.vlane x r l) hg
      have h2 := congrArg (fun x => bit (Group.vpoison x r) l) hg
      exact ⟨h1, h2⟩
    · intro p l h
      simp only [Bool.and_eq_false_iff, beq_eq_false_iff_ne] at h
      rw [Group.pred_markPred, Group.pred_setPred, Group.ppoison_markPred, Group.ppoison_setPred]
      rcases h with h | h <;> simp [h]
    · intro n _ _
      have h1 := congrArg (fun x => Group.sreg x s.slot n) hg
      have h2 := congrArg (fun x => Group.spoison x s.slot n) hg
      exact ⟨h1, h2⟩
  · have hcg : ((s.modG fun x => (x.setPred d (s.active g) v).markPred d (s.active g) 0).retire).cg =
        ((s.cg.setPred d (s.active g) v).markPred d (s.active g) 0).setArm s.slot
          (((s.cg.setPred d (s.active g) v).markPred d (s.active g) 0).arm s.slot).advance := by
      rw [State.cg_retire]; simp [State.ca]
    rw [hcg, Group.pred_setArm, Group.ppoison_setArm, Group.pred_markPred, Group.pred_setPred, Group.ppoison_markPred,
      if_pos ⟨rfl, hd, ha⟩, if_pos ⟨rfl, hd, ha⟩]
    exact ⟨rfl, bit_zero l⟩

end Sys2Proof.Machine
end

