-- ==== Sys2Proof/Laws/Alu.lean ====
section
/-! SUPPORT. Per-lane instructions: from a meaning's lane function to the statement about every form, and the exact integer lane
function (R96, R135). -/

namespace Sys2Proof.Machine

open Sys2Proof.Safety

/-- A meaning that is `vEff` of a lane function whose results satisfy `R` completes with `R`. -/
theorem perLane_of (mk : VF → Instr) (wide : VF → Bool) (srcs : VF → List (Src × Bool)) (R : State → VF → Nat → Nat → Prop)
    (val : State → VF → Nat → Nat)
    (h : ∀ s f, (mk f).wf = true → exec (mk f) s = s.conclude (s.vEff f (wide f) (srcs f) (val s f)))
    (hr : ∀ s f l, (mk f).wf = true → R s f l (val s f l % 2 ^ (if wide f then 64 else 32))) : PerLane mk wide srcs R := by
  intro s f hw hp
  rw [h s f hw]
  obtain ⟨t, h1, h2⟩ := vEff_wrote s f (wide f) (srcs f) (val s f) hp
  exact ⟨t, h1, wroteV_mono h2 fun l r _ he => he ▸ hr s f l hw⟩

/-- Every element of an integer lane is the exact value, wrapped or clamped, R96. -/
theorem intLane_result (f : VF) (op : Int → Int → Int → Int) (a b c : Nat) :
    IntResult f (fun k => op (absNeg f.ty f.xa f.na (elemInt f.ty k a)) (absNeg f.ty f.xb f.nb (elemInt f.ty k b)) (elemInt f.ty k c))
      (intLane f op a b c % 2 ^ (if wideTy f then 64 else 32)) := by
  intro k hk
  unfold intLane
  rw [Nat.mod_eq_of_lt]
  · rw [elemAt_packElems _ _ _ (by simpa using hk)]
    simp [List.getD, hk, Nat.mod_eq_of_lt (lowBits_lt _ _)]
  · have := packElems_lt f.ty.width ((List.range f.ty.elems).map fun k =>
      let e := op (absNeg f.ty f.xa f.na (elemInt f.ty k a)) (absNeg f.ty f.xb f.nb (elemInt f.ty k b)) (elemInt f.ty k c)
      lowBits f.ty.width (if f.sat then clampInt f.ty e else e))
    rw [List.length_map, List.length_range, width_elems] at this
    exact this

end Sys2Proof.Machine
end

