-- ==== Sys2Proof/Laws/Memory.lean ====
section
/-! SUPPORT. Every operation that touches memory or host memory keeps their canonical form, and one write at a home changes exactly the
masked bytes. -/

namespace Sys2Proof.Machine

open Sys2Proof.Safety

/-- A state whose memories are those of a canonical one is canonical. -/
theorem canonical_of_eq {s t : State} (h : MemoryCanonical s) (h1 : t.mem = s.mem) (h2 : t.hostMem = s.hostMem) :
    MemoryCanonical t := ⟨h1 ▸ h.1, h2 ▸ h.2⟩

theorem reset_canonical : MemoryCanonical State.reset := ⟨rfl, rfl⟩

/-- A chain of operations keeps the form when each one does. -/
theorem foldl_canonical {α : Type} (f : State → α → State) (hf : ∀ s a, MemoryCanonical s → MemoryCanonical (f s a)) :
    ∀ (l : List α) (s : State), MemoryCanonical s → MemoryCanonical (l.foldl f s) := by
  intro l
  induction l with
  | nil => exact fun s h => h
  | cons a l ih => exact fun s h => ih _ (hf s a h)

/-- The same where each operation also answers a value. -/
theorem foldl_canonical₂ {α β : Type} (f : State × β → α → State × β)
    (hf : ∀ p a, MemoryCanonical p.1 → MemoryCanonical (f p a).1) :
    ∀ (l : List α) (p : State × β), MemoryCanonical p.1 → MemoryCanonical (l.foldl f p).1 := by
  intro l
  induction l with
  | nil => exact fun p h => h
  | cons a l ih => exact fun p h => ih _ (hf p a h)

namespace State

variable {s : State} (h : MemoryCanonical s)
include h

theorem setGrp_canonical (g : Nat) (x : Group) : MemoryCanonical (s.setGrp g x) := h
theorem setTeam_canonical (g : Nat) (x : Team) : MemoryCanonical (s.setTeam g x) := h
theorem setCore_canonical (g : Nat) (x : CoreSt) : MemoryCanonical (s.setCore g x) := h
theorem setDie_canonical (g : Nat) (x : DieSt) : MemoryCanonical (s.setDie g x) := h
theorem setCtx_canonical (g : Nat) (x : Ctx) : MemoryCanonical (s.setCtx g x) := h
theorem setLaunch_canonical (g : Nat) (x : Launch) : MemoryCanonical (s.setLaunch g x) := h
theorem setDir_canonical (k : Nat) (e : DirEntry) : MemoryCanonical (s.setDir k e) := h
theorem l2put_canonical (d c : Nat) (b : Bool) (k : Nat) (x : L2Sect) : MemoryCanonical (s.l2put d c b k x) := h
theorem l2drop_canonical (d k : Nat) : MemoryCanonical (s.l2drop d k) := h
theorem updStrip_canonical (c k : Nat) : MemoryCanonical (s.updStrip c k) := h
theorem holeLog_canonical (pa : Nat) : MemoryCanonical (s.holeLog pa) := h
theorem l1Drop_canonical (c k : Nat) : MemoryCanonical (s.l1Drop c k) := h
theorem l1Clear_canonical (c : Nat) : MemoryCanonical (s.l1Clear c) := h

/-- A write at the home, R300. -/
theorem homeWrite_canonical (k : Nat) (m : BitVec 64) (d : List Byte) (p : Bool) : MemoryCanonical (s.homeWrite k m d p) :=
  ⟨mwf_foldl 0 (maskList m) (fun j => k * 64 + j) (fun j => d.getD j 0) s.mem h.1, h.2⟩

theorem deltasHome_canonical (k c : Nat) : MemoryCanonical (s.deltasHome k c) := by
  have hw := foldl_canonical (fun (s : State) u => if s.homePsn k then s else
    s.homeWrite k (elemsMask u.wide (updIn u k)) (applyElems u.aop u.wide (s.homeData k) (updIn u k)) false)
    (fun s u hs => by split; exacts [hs, homeWrite_canonical hs _ _ _ _])
    ((s.core c).upd.filter fun u => !(updIn u k).isEmpty) s h
  unfold deltasHome
  dsimp only
  split
  · exact hw
  · exact updStrip_canonical hw _ _

/-- The deltas of every core of a die. -/
theorem deltasDie_canonical (l : List Nat) (k : Nat) : MemoryCanonical (l.foldl (fun s c => s.deltasHome k c) s) :=
  foldl_canonical _ (fun _ c hs => deltasHome_canonical hs k c) l s h

theorem l2Recall_canonical (d k : Nat) (b : Bool) : MemoryCanonical (s.l2Recall d k b) := by
  unfold l2Recall
  split
  · refine l2put_canonical (deltasDie_canonical ?_ _ k) _ _ _ _ _
    split
    · exact homeWrite_canonical h _ _ _ _
    · exact h
  · exact deltasDie_canonical h _ k

theorem recalls_canonical (l : List Nat) (k : Nat) (b : Bool) : MemoryCanonical (l.foldl (fun s d => s.l2Recall d k b) s) :=
  foldl_canonical _ (fun _ d hs => l2Recall_canonical hs d k b) l s h

theorem homeClear_canonical (k : Nat) (w : Bool) : MemoryCanonical (s.homeClear k w) := by
  unfold homeClear
  dsimp only
  split
  · exact h
  · split
    · exact setDir_canonical (recalls_canonical h _ k false) _ _
    · exact h
  · split
    · exact setDir_canonical (recalls_canonical h _ k false) _ _
    · exact setDir_canonical (recalls_canonical h _ k true) _ _

theorem homeEvict_canonical (k : Nat) : MemoryCanonical (s.homeEvict k) := by
  have hf := foldl_canonical (fun s j => s.homeClear (k * 4 + j) true) (fun _ _ hs => homeClear_canonical hs _ true) (List.range 4) s h
  unfold homeEvict
  exact canonical_of_eq hf rfl rfl

theorem homeLine_canonical (k : Nat) : MemoryCanonical (s.homeLine k) := by
  have he := homeEvict_canonical h (s.homeVictim k)
  unfold homeLine
  split
  · exact h
  · have hx : MemoryCanonical (if decide ((s.homeWays k).length < Config.homeWays) = true then s else s.homeEvict (s.homeVictim k)) := by
      split
      · exact h
      · exact he
    exact ⟨hx.1, hx.2⟩

theorem homeReadShared_canonical (r k : Nat) : MemoryCanonical (s.homeReadShared r k) := by
  have hl := homeLine_canonical h (k / 4)
  unfold homeReadShared
  dsimp only
  split
  · split
    · exact setDir_canonical hl _ _
    · exact setDir_canonical (recalls_canonical hl _ k true) _ _
  · exact setDir_canonical hl _ _

theorem homeReadOwn_canonical (r k : Nat) : MemoryCanonical (s.homeReadOwn r k) :=
  setDir_canonical (recalls_canonical (homeLine_canonical h _) _ k false) _ _

theorem l2Own_canonical (d c k : Nat) : MemoryCanonical (s.l2Own d c k) := by
  unfold l2Own
  dsimp only
  have ho := homeReadOwn_canonical h d k
  cases s.l2sect d k with
  | none => exact l2put_canonical ho _ _ _ _ _
  | some p =>
    dsimp only
    split
    · exact h
    · exact l2put_canonical ho _ _ _ _ _

theorem giveUp_canonical (d k : Nat) (b : Bool) : MemoryCanonical (s.giveUp d k b) := by
  unfold giveUp
  refine setDir_canonical (l2Recall_canonical ?_ _ _ _) _ _
  split
  · exact l2Own_canonical h _ _ _
  · exact h

theorem homeTake_canonical (k : Nat) (w : Bool) : MemoryCanonical (s.homeTake k w) :=
  homeClear_canonical (homeLine_canonical h _) _ _

theorem homeMerge_canonical (k : Nat) (m : BitVec 64) (d : List Byte) (p : Bool) : MemoryCanonical (s.homeMerge k m d p) :=
  homeWrite_canonical (homeTake_canonical h k true) _ _ _ _

theorem swWriteBack_canonical (d k : Nat) : MemoryCanonical (s.swWriteBack d k) := by
  unfold swWriteBack
  split
  · split
    · exact h
    · exact homeMerge_canonical (l2put_canonical h _ _ _ _ _) _ _ _ _
  · exact h

theorem swDrop_canonical (d k : Nat) : MemoryCanonical (s.swDrop d k) := by
  unfold swDrop
  split <;> exact h

theorem swClean_canonical (d k : Nat) : MemoryCanonical (s.swClean d k) := by
  unfold swClean
  split <;> exact h

theorem l2Fill_canonical (d c : Nat) (b : Bool) (k : Nat) (m : BitVec 64) : MemoryCanonical (s.l2Fill d c b k m).1 := by
  unfold l2Fill
  dsimp only
  repeat' split
  all_goals first
    | exact h
    | exact l2put_canonical (homeReadShared_canonical h _ _) _ _ _ _ _
    | exact l2put_canonical (homeTake_canonical h _ _) _ _ _ _ _

theorem l2Store_canonical (d c : Nat) (b : Bool) (k : Nat) (m : BitVec 64) (x : List Byte) (p : Bool) :
    MemoryCanonical (s.l2Store d c b k m x p) := by
  have ho := l2Own_canonical h d c k
  have hw := fun old => swWriteBack_canonical h d old
  unfold l2Store
  dsimp only
  cases b with
  | true => exact l2put_canonical ho _ _ _ _ _
  | false =>
    cases s.listFull d c (s.lineSlice d (k / 4)) k with
    | none => exact l2put_canonical h _ _ _ _ _
    | some old => exact l2put_canonical (hw old) _ _ _ _ _

theorem deltasL2_canonical (c : Nat) (b : Bool) (k : Nat) : MemoryCanonical (s.deltasL2 c b k) := by
  refine foldl_canonical _ (fun s u hs => ?_) _ s h
  have step : ∀ v : State, MemoryCanonical v →
      MemoryCanonical (let (v, data, psn) := v.l2Fill (coreDie c) u.ctx b k (BitVec.allOnes 64)
        let v := v.updStrip c k
        if psn then v else
          v.l2Store (coreDie c) u.ctx b k (elemsMask u.wide (updIn u k)) (applyElems u.aop u.wide data (updIn u k)) false) := by
    intro v hv
    have hf := updStrip_canonical (l2Fill_canonical hv (coreDie c) u.ctx b k (BitVec.allOnes 64)) c k
    dsimp only
    split
    · exact hf
    · exact l2Store_canonical hf _ _ _ _ _ _ _
  cases b with
  | true => exact step _ (l2Own_canonical hs _ _ _)
  | false => exact step _ hs

theorem l2Turn_canonical (d : Nat) (b : Bool) (k : Nat) : MemoryCanonical (s.l2Turn d b k) := by
  unfold l2Turn
  split
  · exact h
  · split
    · exact h
    · refine l2drop_canonical (foldl_canonical _ (fun s j hs => ?_) _ s h) _ _
      dsimp only
      split
      · split
        · exact giveUp_canonical hs _ _ _
        · exact hs
      · exact swWriteBack_canonical (foldl_canonical _ (fun _ c hs => deltasL2_canonical hs c false _) _ s hs) _ _

theorem swTidy_canonical (d k : Nat) : MemoryCanonical (s.swTidy d k) := by
  unfold swTidy
  split
  · split <;> exact h
  · exact h

theorem moveList_canonical (d line sl k : Nat) : MemoryCanonical (s.moveList d line sl k) := by
  have hw := fun old => swWriteBack_canonical h d old
  unfold moveList
  split
  · split
    · exact h
    · dsimp only
      refine setDie_canonical ?_ _ _
      split
      · split
        · exact hw _
        · exact h
      · exact h
  · exact h

theorem l2Place_canonical (d c : Nat) (b : Bool) (sl k : Nat) : MemoryCanonical (s.l2Place d c b sl k) := by
  unfold l2Place
  split
  · exact setDie_canonical h _ _
  · split
    · exact h
    · exact setDie_canonical (foldl_canonical _ (fun _ _ hs => moveList_canonical hs _ _ _ _) _ s h) _ _

theorem l2Reach_canonical (d c : Nat) (b : Bool) (sl k : Nat) : MemoryCanonical (s.l2Reach d c b sl k) :=
  l2Place_canonical (l2Turn_canonical h _ _ _) _ _ _ _ _

theorem mergeSect_canonical (c : Nat) (u : UpdLine) (k : Nat) : MemoryCanonical (s.mergeSect c u k) := by
  unfold mergeSect
  split
  · exact h
  · exact deltasL2_canonical (l2Reach_canonical h _ _ _ _ _) _ _ _

theorem mergeUpd_canonical (c : Nat) (p : UpdLine → Bool) : MemoryCanonical (s.mergeUpd c p) :=
  foldl_canonical _ (fun s _ hs => foldl_canonical _ (fun _ _ hs => mergeSect_canonical hs _ _ _) _ s hs) _ s h

theorem mergeDie_canonical (d k : Nat) : MemoryCanonical (s.mergeDie d k) :=
  foldl_canonical _ (fun _ _ hs => mergeUpd_canonical hs _ _) _ s h

theorem homeRmw_canonical (pa n : Nat) (f : Nat → Nat) : MemoryCanonical (s.homeRmw pa n f).1 := by
  unfold homeRmw
  dsimp only
  split
  · exact homeTake_canonical h _ _
  · exact homeWrite_canonical (homeTake_canonical h _ _) _ _ _ _

theorem l2RmwHeld_canonical (d c : Nat) (b : Bool) (pa n : Nat) (f : Nat → Nat) : MemoryCanonical (s.l2RmwHeld d c b pa n f).1 := by
  have hf := l2Fill_canonical h d c b (pa / 64) (byteMask (pa % 64) n)
  unfold l2RmwHeld
  dsimp only
  split
  · exact hf
  · exact l2Store_canonical hf _ _ _ _ _ _ _

theorem l2Rmw_canonical (d c : Nat) (b : Bool) (sl pa n : Nat) (f : Nat → Nat) : MemoryCanonical (s.l2Rmw d c b sl pa n f).1 := by
  have h1 := l2Reach_canonical h d c b sl (pa / 64 / 4)
  unfold l2Rmw
  refine l2RmwHeld_canonical ?_ _ _ _ _ _ _
  split
  · exact l2Own_canonical h1 _ _ _
  · exact h1

theorem writeBackCtx_canonical (d c : Nat) : MemoryCanonical (s.writeBackCtx d c) := by
  refine foldl_canonical _ (fun s p hs => ?_) _ s h
  split
  · split
    · exact hs
    · refine foldl_canonical _ (fun s k hs => ?_) _ s hs
      split
      · exact swWriteBack_canonical hs _ _
      · exact hs
  · exact hs

theorem noteStore_canonical (k : Nat) : MemoryCanonical (s.noteStore k) := by
  unfold noteStore
  split <;> exact h

theorem sendMsix_canonical (v : Nat) : MemoryCanonical (s.sendMsix v) := by
  unfold sendMsix
  dsimp only
  split <;> exact h

theorem logError_canonical (c u : Nat) (e : LogEntry) (b : Bool) : MemoryCanonical (s.logError c u e b) := by
  unfold logError
  split <;> exact h

theorem fireInj_canonical (y c u : Nat) (a : Option Word) : MemoryCanonical (s.fireInj y c u a) := by
  unfold fireInj
  dsimp only
  split <;> exact h

theorem bump_canonical : MemoryCanonical s.bump := ⟨h.1, h.2⟩

theorem markRetire_canonical (c : Nat) : MemoryCanonical (s.markRetire c) := by
  have hr : ∀ r x, MemoryCanonical { s with retiring := r, host := x } := fun _ _ => ⟨h.1, h.2⟩
  unfold markRetire
  split
  · exact h
  · dsimp only
    split
    · exact sendMsix_canonical (hr _ _) _
    · exact hr _ _

theorem rowError_canonical (c pa : Nat) : MemoryCanonical (s.rowError c pa) := by
  have hr : ∀ r x, MemoryCanonical ({ s with rowErrs := r, spareRows := x } : State).bump := fun _ _ => ⟨h.1, h.2⟩
  unfold rowError
  dsimp only
  split
  · split
    · exact hr _ _
    · split
      · exact sendMsix_canonical (hr _ _) _
      · exact ⟨h.1, h.2⟩
  · exact ⟨h.1, h.2⟩

theorem wearError_canonical (c u pa : Nat) : MemoryCanonical (s.wearError c u pa) := by
  unfold wearError
  split
  · split
    · exact markRetire_canonical (bump_canonical h) _
    · exact bump_canonical h
  · split
    · exact rowError_canonical h _ _
    · exact h

/-- An injection changes no byte where its mark changes none, R461. -/
theorem injectIf_canonical (cls unit ctx : Nat) (meets : Nat → Bool) (addr : Nat → Word) (mark : Nat → State → State)
    (hm : ∀ x s, MemoryCanonical s → MemoryCanonical (mark x s)) : MemoryCanonical (s.injectIf cls unit ctx meets addr mark) := by
  have hd : ∀ d, MemoryCanonical { s with dev := d } := fun _ => ⟨h.1, h.2⟩
  unfold injectIf
  dsimp only
  split
  · exact h
  · split
    · refine wearError_canonical ?_ _ _ _
      split
      · exact hd _
      · exact bump_canonical (logError_canonical (hd _) _ _ _ _)
    · refine hm _ _ ?_
      split
      · exact hd _
      · exact bump_canonical (logError_canonical (hd _) _ _ _ _)

theorem injectAt_canonical (cls unit a n ctx : Nat) (mark : Nat → State → State)
    (hm : ∀ x s, MemoryCanonical s → MemoryCanonical (mark x s)) : MemoryCanonical (s.injectAt cls unit a n ctx mark) :=
  injectIf_canonical h _ _ _ _ _ _ hm

theorem homeInject_canonical (pa n c : Nat) : MemoryCanonical (s.homeInject pa n c) := by
  unfold homeInject
  split
  · exact h
  · have hm : ∀ v, MemoryCanonical v → MemoryCanonical { v with psn := mset false v.psn (pa / 64) true } := fun _ hv => ⟨hv.1, hv.2⟩
    dsimp only
    exact injectIf_canonical (injectAt_canonical h _ _ _ _ _ _ fun _ v hv => hm v hv) _ _ _ _ _ _ fun _ v hv => hm v hv

theorem dieInject_canonical (d c pa n : Nat) (b : Bool) : MemoryCanonical (s.dieInject d c pa n b) := by
  unfold dieInject
  split
  · exact h
  · split
    · exact injectAt_canonical h _ _ _ _ _ _ fun _ _ hs => l2put_canonical hs _ _ _ _ _
    · exact homeInject_canonical h _ _ _

theorem walkInject_canonical (d c : Nat) (w : Walk) : MemoryCanonical (s.walkInject d c w) :=
  foldl_canonical _ (fun _ _ hs => dieInject_canonical hs _ _ _ _ _) _ s h

theorem spInject_canonical (tid off n : Nat) : MemoryCanonical (s.spInject tid off n) := by
  unfold spInject
  split
  · exact h
  · exact injectAt_canonical h _ _ _ _ _ _ fun _ _ hs => setTeam_canonical hs _ _

theorem hopFlit_canonical (i j : Nat) : MemoryCanonical (s.hopFlit i j) := by
  unfold hopFlit
  split
  · exact fireInj_canonical (bump_canonical (logError_canonical h _ _ _ _)) _ _ _ _
  · exact h

theorem hopFlits_canonical (i j : Nat) : MemoryCanonical (s.hopFlits i j) := by
  unfold hopFlits
  dsimp only
  split
  · exact h
  · have way : ∀ (v : State) i j, MemoryCanonical v → MemoryCanonical (if ((v.route i j).eff == 3) = true then
        (v.hopFlit i (v.route i j).relay).hopFlit (v.route i j).relay j else v.hopFlit i j) := by
      intro v i j hv
      split
      · exact hopFlit_canonical (hopFlit_canonical hv _ _) _ _
      · exact hopFlit_canonical hv _ _
    exact way _ _ _ (way _ _ _ h)

theorem charge_canonical (k u p n : Nat) : MemoryCanonical (s.charge k u p n) := by
  unfold charge
  dsimp only
  split <;> exact ⟨h.1, h.2⟩

theorem chargeHomes_canonical (d p : Nat) (l : List (Nat × Bool)) : MemoryCanonical (s.chargeHomes d p l) :=
  foldl_canonical (fun (s : State) (r : Nat × Bool) => (s.hopFlits d (8 + homeChip (r.1 * 64))).charge 1 (homeChip (r.1 * 64)) p 64)
    (fun _ r hv => charge_canonical (hopFlits_canonical hv d (8 + homeChip (r.1 * 64))) _ _ _ _) l s h

theorem readInject_canonical (c x : Nat) (t : Tr) (n : Nat) : MemoryCanonical (s.readInject c x t n) := by
  unfold readInject
  split
  · exact h
  · dsimp only
    split
    · exact injectAt_canonical h _ _ _ _ _ _ fun _ _ hs => setCore_canonical hs _ _
    · exact dieInject_canonical h _ _ _ _ _

theorem orPte_canonical (e : TlbEntry) (m : Nat) : MemoryCanonical (s.orPte e m) := homeRmw_canonical h _ _ _

theorem useEntry_canonical (c : Nat) (k : XKind) (e : TlbEntry) : MemoryCanonical (s.useEntry c k e) := by
  unfold useEntry
  have h1 : MemoryCanonical (if (s.core c).tlb.contains e then s else s.l1TlbAdd c e) := by
    split
    · exact h
    · exact setCore_canonical h _ _
  dsimp only
  split
  · exact setDie_canonical (setCore_canonical (orPte_canonical h1 _ _) _ _) _ _
  · exact h1

theorem l1Room_canonical (c k : Nat) : MemoryCanonical (s.l1Room c k) := by
  unfold l1Room
  dsimp only
  split
  · exact h
  · exact foldl_canonical _ (fun _ _ hs => l1Drop_canonical hs _ _) _ _ (mergeUpd_canonical h _ _)

theorem l1Read_canonical (c x : Nat) (b : Bool) (sl k : Nat) (m : BitVec 64) : MemoryCanonical (s.l1Read c x b sl k m).1 := by
  unfold l1Read
  split
  · exact h
  · have h1 := l2Reach_canonical (mergeUpd_canonical h c fun u => u.line == k / 4) (coreDie c) x b sl (k / 4)
    dsimp only
    split
    · exact l2Fill_canonical h1 _ _ _ _ _
    · exact setCore_canonical (l2Fill_canonical (l1Room_canonical h1 _ _) _ _ _ _ _) _ _

theorem l1Write_canonical (c x : Nat) (b : Bool) (sl k : Nat) (m : BitVec 64) (d : List Byte) (p : Bool) :
    MemoryCanonical (s.l1Write c x b sl k m d p) := by
  unfold l1Write
  refine l2Store_canonical (l2Reach_canonical ?_ _ _ _ _ _) _ _ _ _ _ _ _
  dsimp only
  split
  · exact setCore_canonical (mergeUpd_canonical h _ _) _ _
  · exact mergeUpd_canonical h _ _

/-- A global read, R248. -/
theorem gread_canonical (c x : Nat) (t : Tr) (n : Nat) : MemoryCanonical (s.gread c x t n).1 := by
  have hr := readInject_canonical h c x t n
  unfold gread
  dsimp only
  split
  · exact holeLog_canonical hr t.pa
  · split
    · exact hr
    · split
      · exact homeTake_canonical hr _ _
      · exact l1Read_canonical hr _ _ _ _ _ _

/-- A global write, R248. -/
theorem gput_canonical (c x : Nat) (t : Tr) (bs : List Byte) (p : Bool) : MemoryCanonical (s.gput c x t bs p) := by
  unfold gput
  dsimp only
  split
  · exact holeLog_canonical h _
  · split
    · exact ⟨h.1, mwf_msetList 0 bs s.hostMem t.pa h.2⟩
    · split
      · exact homeWrite_canonical (homeTake_canonical h _ _) _ _ _ _
      · exact l1Write_canonical h _ _ _ _ _ _ _ _

theorem gwrite_canonical (c x : Nat) (t : Tr) (bs : List Byte) (p : Bool) : MemoryCanonical (s.gwrite c x t bs p) :=
  gput_canonical (noteStore_canonical h _) _ _ _ _ _

theorem rmwHome_canonical (c : Nat) (t : Tr) (n : Nat) (f : Nat → Nat) : MemoryCanonical (s.rmwHome c t n f).1 := by
  have h0 := mergeUpd_canonical (l1Drop_canonical h c (t.pa / 64)) c fun u => u.line == t.pa / 64 / 4
  have h1 : ∀ v, MemoryCanonical v → MemoryCanonical (if t.coh = true then v else
      (((v.mergeDie (coreDie c) (t.pa / 64 / 4)).swWriteBack (coreDie c) (t.pa / 64)).swDrop (coreDie c) (t.pa / 64)).swTidy
        (coreDie c) (t.pa / 64 / 4)) := by
    intro v hv
    split
    · exact hv
    · exact swTidy_canonical (swDrop_canonical (swWriteBack_canonical (mergeDie_canonical hv _ _) _ _) _ _) _ _
  unfold rmwHome
  refine homeRmw_canonical (h1 _ ?_) _ _ _
  split
  · exact h0
  · exact l2Turn_canonical h0 _ _ _

/-- A global read-modify-write, R278. -/
theorem grmw_canonical (c x : Nat) (t : Tr) (sc n : Nat) (f : Nat → Nat) : MemoryCanonical (s.grmw c x t sc n f).1 := by
  have h0 := readInject_canonical (noteStore_canonical h (t.pa / 64)) c x t n
  have h1 := l1Read_canonical h0 c x t.coh (sliceOf c t) (t.pa / 64) (byteMask (t.pa % 64) n)
  unfold grmw
  dsimp only
  split
  · exact holeLog_canonical h0 t.pa
  · split
    · exact ⟨h0.1, mwf_msetList 0 _ _ t.pa h0.2⟩
    · split
      · exact rmwHome_canonical h0 _ _ _ _
      · split
        · have h2 := mergeUpd_canonical h0 c fun u => u.line == t.pa / 64 / 4
          exact l2Rmw_canonical (l1Drop_canonical h2 c (t.pa / 64)) (coreDie c) x t.coh (sliceOf c t) t.pa n f
        · split
          · exact h1
          · dsimp only
            apply l1Write_canonical
            exact h1

/-- An operand for an update-only line, R282. -/
theorem redUpdate_canonical (c x : Nat) (t : Tr) (a : Aop) (w : Bool) (v : Nat) : MemoryCanonical (s.redUpdate c x t a w v) := by
  have h1 := fun p => mergeUpd_canonical (noteStore_canonical h (t.pa / 64)) c p
  unfold redUpdate
  dsimp only
  refine setCore_canonical ?_ _ _
  split
  · exact h1 _
  · refine setCore_canonical (l1Room_canonical (foldl_canonical _ (fun _ _ hs => l1Drop_canonical hs _ _) _ _ ?_) _ _) _ _
    split
    · split
      · exact mergeUpd_canonical (h1 _) _ _
      · exact h1 _
    · exact h1 _

theorem devWrite_canonical (pa : Nat) (bs : List Byte) (p : Bool) : MemoryCanonical (s.devWrite pa bs p) :=
  foldl_canonical _ (fun _ _ hs => homeWrite_canonical (homeTake_canonical (noteStore_canonical hs _) _ _) _ _ _ _) _ s h

theorem devRead_canonical (pa n : Nat) : MemoryCanonical (s.devRead pa n).1 :=
  homeInject_canonical (foldl_canonical _ (fun _ _ hs => homeTake_canonical hs _ _) _ s h) _ _ _

theorem cpRead_canonical (pa n : Nat) : MemoryCanonical (s.cpRead pa n).1 := by
  unfold cpRead
  split
  · exact h
  · split
    · exact holeLog_canonical h pa
    · exact devRead_canonical h _ _

theorem cpWrite_canonical (pa : Nat) (bs : List Byte) : MemoryCanonical (s.cpWrite pa bs) := by
  unfold cpWrite
  split
  · exact ⟨h.1, mwf_msetList 0 bs s.hostMem pa h.2⟩
  · split
    · exact holeLog_canonical h _
    · exact devWrite_canonical h _ _ _

theorem cpRmw_canonical (pa : Nat) (f : Nat → Nat) : MemoryCanonical (s.cpRmw pa f) := by
  unfold cpRmw
  split
  · exact cpWrite_canonical (cpRead_canonical h _ _) _ _
  · exact homeRmw_canonical h _ _ _

/-- The device's own writes of frames, R177. -/
theorem framePut_canonical (gid : Nat) (f : Frame) (o n : Nat) : MemoryCanonical (s.framePut gid f o n) :=
  gput_canonical h _ _ _ _ _

theorem frameOut_canonical (gid : Nat) (f : Frame) : MemoryCanonical (s.frameOut gid f) :=
  foldl_canonical _ (fun _ _ hs => framePut_canonical hs _ _ _ _) _ s h

theorem spillOut_canonical (gid : Nat) (g : Group) : MemoryCanonical (s.spillOut gid g) := by
  refine foldl_canonical _ (fun s p hs => ?_) _ s h
  dsimp only
  split
  · exact hs
  · split
    · split
      · exact hs
      · exact framePut_canonical hs _ _ _ _
    · split
      · exact hs
      · exact setGrp_canonical (frameOut_canonical hs _ _) _ _

theorem setFrames_canonical (gid : Nat) (g : Group) : MemoryCanonical (s.setFrames gid g) :=
  spillOut_canonical (setGrp_canonical h gid g) _ _

/-- The bytes that a cold reset leaves undefined, R492. -/
theorem spoilBytes_canonical (as : List Nat) : MemoryCanonical (s.spoilBytes as) :=
  ⟨mwf_foldl 0 as (fun a => a) (fun a => Config.freeByte s.freeCtr a) s.mem h.1, h.2⟩

end State

/-- A masked write at a home writes the masked bytes of the sector and no other byte, R300. -/
theorem homeWrite_written (s : State) (k : Nat) (m : BitVec 64) (d : List Byte) (p : Bool) :
    SectorWritten k m d s.mem (s.homeWrite k m d p).mem := by
  have gen : ∀ (l : List Nat) (mem : SMap Byte) (a : Nat),
      mget 0 (l.foldl (fun mm j => mset 0 mm (k * 64 + j) (d.getD j 0)) mem) a =
        if k * 64 ≤ a ∧ (a - k * 64) ∈ l then d.getD (a - k * 64) 0 else mget 0 mem a := by
    intro l
    induction l with
    | nil => intro mem a; simp
    | cons j l ih =>
      intro mem a
      rw [List.foldl_cons, ih, mget_mset]
      by_cases h1 : k * 64 ≤ a ∧ (a - k * 64) ∈ l
      · rw [if_pos h1, if_pos ⟨h1.1, List.mem_cons_of_mem _ h1.2⟩]
      · rw [if_neg h1]
        by_cases h2 : a = k * 64 + j
        · subst h2; simp
        · rw [if_neg h2, if_neg]
          rintro ⟨h3, h4⟩
          rcases List.mem_cons.mp h4 with h5 | h5
          · omega
          · exact h1 ⟨h3, h5⟩
  have hm : ∀ a, mget 0 (s.homeWrite k m d p).mem a =
      if k * 64 ≤ a ∧ (a - k * 64) ∈ maskList m then d.getD (a - k * 64) 0 else mget 0 s.mem a := fun a => gen _ _ a
  have hl : ∀ j, j ∈ maskList m ↔ j < 64 ∧ bit m j = true := by
    intro j; simp [maskList]
  refine ⟨fun a ha => ?_, fun j hj => ?_⟩
  · rw [hm, if_neg]
    rintro ⟨h1, h2⟩
    have := (hl _).mp h2
    omega
  · rw [hm]
    have e : k * 64 + j - k * 64 = j := by omega
    by_cases hb : bit m j = true
    · rw [if_pos ⟨by omega, by rw [e]; exact (hl j).mpr ⟨hj, hb⟩⟩, if_pos hb, e]
    · rw [if_neg, if_neg hb]
      rintro ⟨_, h2⟩
      rw [e] at h2
      exact hb ((hl j).mp h2).2

end Sys2Proof.Machine
end

