-- ==== Sys2Proof/Laws/Scalars.lean ====
section
/-! SUPPORT. Moves of an arm, and the whole effect of a scalar write, of a move alone, and of a write of FMT. -/

namespace Sys2Proof.Machine

open Sys2Proof.Safety

/-- A change of an arm that moves it and touches no register. -/
def Moves (m : Arm → Arm) : Prop := ∀ a, SameArm a (m a) ∧ (m a).scal = a.scal ∧ (m a).spois = a.spois

theorem moves_advance : Moves Arm.advance := fun a => ⟨State.sameArm_advance a, State.advance_scal a⟩

theorem moves_jump (t x : Word) : Moves fun a => { a with park := none, walkFaults := [], asks := none, clause := none, pc := t, xfer := x } :=
  fun _ => ⟨rfl, rfl, rfl⟩

theorem jump_eq (s : State) (t : Word) :
    s.jump t = s.modA fun a => { a with park := none, walkFaults := [], asks := none, clause := none, pc := t, xfer := s.ipc } := rfl

theorem modG_id (s : State) (m : Arm → Arm) : (s.modG id).modA m = s.modA m := by
  have h : ∀ g : Group, mset {} (mset {} s.groups s.gid s.cg) s.gid g = mset {} s.groups s.gid g := by
    intro g
    have hm : ∀ (x : SMap Group) (v : Group), merase (mset {} x s.gid v) s.gid = merase x s.gid := by
      intro x v
      have key : ∀ (y : SMap Group) (w : Group), (∀ p ∈ y, p.1 ≠ s.gid) → merase (minsert s.gid w y) s.gid = y := by
        intro y w hy
        induction y with
        | nil => simp [minsert, merase]
        | cons p y ih =>
          have hp := hy p (by simp)
          have ih := ih fun q hq => hy q (by simp [hq])
          unfold merase at ih ⊢
          simp only [minsert]
          split
          · have : List.filter (fun q : Nat × Group => q.1 != s.gid) y = y :=
              List.filter_eq_self.mpr fun q hq => by simpa using hy q (by simp [hq])
            simp [hp, this]
          · simp [hp, ih]
      unfold mset
      split
      · unfold merase; simp [List.filter_filter]
      · exact key _ _ (merase_key x s.gid)
    change (if g = {} then merase (mset {} s.groups s.gid s.cg) s.gid else
        minsert s.gid g (merase (mset {} s.groups s.gid s.cg) s.gid)) =
      if g = {} then merase s.groups s.gid else minsert s.gid g (merase s.groups s.gid)
    rw [hm]
  unfold State.modA State.setA State.setG State.modG
  simp only [State.setG, State.setGrp, id]
  have hc : (({ s with groups := mset {} s.groups s.gid s.cg } : State)).cg = s.cg := mget_mset_same ..
  have hg : (({ s with groups := mset {} s.groups s.gid s.cg } : State)).gid = s.gid := rfl
  have hs : (({ s with groups := mset {} s.groups s.gid s.cg } : State)).slot = s.slot := rfl
  have ha : (({ s with groups := mset {} s.groups s.gid s.cg } : State)).ca = s.ca := by unfold State.ca; rw [hc, hs]
  rw [hc, hg, hs, ha, h]

/-- An arm that only moves changes no register, and nothing else of the machine. -/
theorem onlyWrites_move (s : State) (m : Arm → Arm) (hm : Moves m) : OnlyWrites s (s.modA m) {} := by
  rw [← modG_id]
  exact frame_of_group s id m {} rfl (fun _ => rfl) (fun _ => rfl) (hm _).1 (hm _).2 (fun _ _ _ => ⟨rfl, rfl⟩)
    (fun _ _ _ => ⟨rfl, rfl⟩) (fun _ _ _ => ⟨rfl, rfl⟩)

@[simp] theorem ca_modA (s : State) (m : Arm → Arm) : (s.modA m).ca = m s.ca := by
  unfold State.ca; simp [State.ca]

@[simp] theorem ca_jump (s : State) (t : Word) :
    (s.jump t).ca = { s.ca with park := none, walkFaults := [], asks := none, clause := none, pc := t, xfer := s.ipc } := ca_modA ..

@[simp] theorem ca_retire (s : State) : s.retire.ca = s.ca.advance := ca_modA ..

namespace Group

theorem setS_arm_other (g : Group) (slot n : Nat) (x : Word) (h : slot ≤ 1) :
    ((g.setS slot n x).markS slot n false).arm (1 - slot) = g.arm (1 - slot) := by
  unfold setS markS
  split
  · rfl
  · rw [arm_setArm_other _ _ _ h, arm_setArm_other _ _ _ h]

theorem setS_sameArm (g : Group) (slot n : Nat) (x : Word) : SameArm (g.arm slot) (((g.setS slot n x).markS slot n false).arm slot) := by
  unfold setS markS
  split
  · rfl
  · simp only [arm_setArm_same]; rfl

theorem setS_else (g : Group) (slot n : Nat) (x : Word) :
    { (g.setS slot n x).markS slot n false with scal := g.scal, spois := g.spois, arm0 := g.arm0, arm1 := g.arm1 } = g := by
  unfold setS markS
  split
  · rfl
  · unfold setArm; split <;> rfl

theorem setS_vlane (g : Group) (slot n : Nat) (x : Word) (r l : Nat) :
    ((g.setS slot n x).markS slot n false).vlane r l = g.vlane r l := by
  have h := congrArg (fun y => Group.vlane y r l) (setS_else g slot n x); exact h

end Group

theorem sameArm_trans {a b c : Arm} (h1 : SameArm a b) (h2 : SameArm b c) : SameArm a c := by
  unfold SameArm at *
  rw [← h2] at h1
  exact h1

/-- The executing arm writes a scalar, clean, and moves. -/
theorem wroteS_setS (s : State) (d : Nat) (x : Word) (m : Arm → Arm) (hm : Moves m) (hd : d < 64) :
    WroteS s ((s.setS d x).modA m) d x := by
  have he := Group.setS_else s.cg s.slot d x
  refine ⟨frame_of_group s (fun g => (g.setS s.slot d x).markS s.slot d false) m _ ?_ ?_ ?_ ?_ (hm _).2 ?_ ?_ ?_, ?_, ?_⟩
  · unfold Group.setS Group.markS
    split
    · rfl
    · unfold Group.setArm; split <;> rfl
  · intro _; have h := congrArg Group.xs he; exact h
  · exact Group.setS_arm_other s.cg s.slot d x
  · exact sameArm_trans (Group.setS_sameArm s.cg s.slot d x) (hm _).1
  · intro r l _
    have h1 := congrArg (fun y => Group.vlane y r l) he
    have h2 := congrArg (fun y => bit (Group.vpoison y r) l) he
    exact ⟨h1, h2⟩
  · intro p l _
    have h1 := congrArg (fun y => bit (Group.pred y p) l) he
    have h2 := congrArg (fun y => bit (Group.ppoison y p) l) he
    exact ⟨h1, h2⟩
  · intro n hn h
    have h : ¬ n = d := by simpa using h
    rw [Group.sreg_markS, Group.sreg_setS, Group.spoison_markS _ _ _ _ _ hn, Group.spoison_setS]
    simp [h]
  all_goals
    have hcg : ((s.setS d x).modA m).cg = ((s.cg.setS s.slot d x).markS s.slot d false).setArm s.slot
        (m (((s.cg.setS s.slot d x).markS s.slot d false).arm s.slot)) := by
      rw [State.cg_modA]; simp [State.ca]
  · show Group.sreg _ s.slot d = x
    rw [hcg]
    have := Group.sreg_setS s.cg s.slot d d x
    rw [if_pos rfl, ← Group.sreg_markS _ s.slot d d false] at this
    refine Eq.trans ?_ this
    unfold Group.sreg
    by_cases h : d < 32
    · simp only [h, if_true, Group.setArm_scal]
    · simp only [h, if_false, Group.arm_setArm_same, (hm _).2.1]
  · show Group.spoison _ s.slot d = false
    rw [hcg]
    have := Group.spoison_markS (s.cg.setS s.slot d x) s.slot d d false hd
    rw [if_pos rfl] at this
    refine Eq.trans ?_ this
    unfold Group.spoison
    by_cases h : d < 32
    · simp only [h, if_true, Group.setArm_spois]
    · simp only [h, if_false, Group.arm_setArm_same, (hm _).2.2]

/-- A scalar written by an instruction that retires. -/
theorem wroteS_retire (s : State) (d : Nat) (x : Word) (hd : d < 64) : WroteS s (s.setS d x).retire d x :=
  wroteS_setS s d x Arm.advance moves_advance hd

end Sys2Proof.Machine
end

