-- ==== Sys2Proof/Laws/Traps.lean ====
section
/-! SUPPORT. Everything that taking a trap can do (R435-R438). -/

namespace Sys2Proof.Machine

/-- A trap ends the group (at handler level with DOUBLE; for an ending cause, or without a handler, with its own cause), or
stays pending beside a handler, or enters the handler. -/
theorem takeTrapAt_cases (s : State) (gid slot : Nat) (t : TrapInfo) (pc : Word) :
    let g := s.grp gid
    let a := g.arm slot
    let b := { a with trapc := t.cause, trappc := pc, trapad := t.ad, trapx := t.x, walkFaults := [], asks := none, ue := none }
    let beside := g.handlerElse slot
    (a.handler = true ∧
      s.takeTrapAt gid slot t pc = s.endGroup gid (some (trapOf 53 0 (BitVec.ofNat 64 (t.cause.toNat + 256 * a.trapc.toNat)), pc))) ∨
    (a.handler = false ∧ (State.endsGroups t.cause = true ∨ s.hvec gid = 0) ∧ s.takeTrapAt gid slot t pc = s.endGroup gid (some (t, pc))) ∨
    (a.handler = false ∧ State.endsGroups t.cause = false ∧ s.hvec gid ≠ 0 ∧ beside = true ∧
      s.takeTrapAt gid slot t pc = s.setGrp gid ((g.setArm slot { b with park := some .trapWait, pend := true }).settlePlace)) ∨
    (a.handler = false ∧ State.endsGroups t.cause = false ∧ s.hvec gid ≠ 0 ∧ beside = false ∧
      s.takeTrapAt gid slot t pc = s.setGrp gid (g.setArm slot (State.enterHandler b (s.hvec gid)))) := by
  dsimp only
  unfold State.takeTrapAt
  dsimp only
  by_cases h1 : ((s.grp gid).arm slot).handler = true
  · exact .inl ⟨h1, if_pos h1⟩
  · have h1' : ((s.grp gid).arm slot).handler = false := by simpa using h1
    rw [if_neg h1]
    by_cases h2 : (State.endsGroups t.cause || s.hvec gid == 0) = true
    · exact .inr (.inl ⟨h1', by simpa using h2, if_pos h2⟩)
    · have h3 : State.endsGroups t.cause = false ∧ s.hvec gid ≠ 0 := by simpa using h2
      rw [if_neg h2]
      by_cases h4 : (s.grp gid).handlerElse slot = true
      · exact .inr (.inr (.inl ⟨h1', h3.1, h3.2, h4, if_pos h4⟩))
      · exact .inr (.inr (.inr ⟨h1', h3.1, h3.2, by simpa using h4, if_neg h4⟩))

/-- The test of trap entry says what R436 says. -/
theorem handlerElse_false_iff (g : Group) (slot : Nat) : g.handlerElse slot = false ↔ Safety.NoOtherHandler g slot := by
  simp only [Group.handlerElse, Safety.NoOtherHandler, Bool.or_eq_false_iff, List.any_eq_false, Bool.and_eq_false_iff]
  constructor
  · rintro ⟨h1, h2⟩
    refine ⟨by rintro ⟨h3, h4⟩; simp [h3, h4] at h1, fun p hp f hf => ?_⟩
    have := h2 p hp
    rw [Option.mem_def.mp hf] at this
    simpa [List.any_eq_true] using this
  · rintro ⟨h1, h2⟩
    refine ⟨by cases h3 : (g.arm (1 - slot)).live <;> cases h4 : (g.arm (1 - slot)).handler <;> simp_all, fun p hp => ?_⟩
    cases hf : p.2 with
    | none => simp
    | some f => simpa [List.any_eq_true] using h2 p hp f hf

end Sys2Proof.Machine
end

