-- ==== Sys2Proof/Tests/Slice0.lean ====
section
/-! SUPPORT. Tests: words of every family written out from the encodings of spec/, ill-formed terms that the checks refuse, witnesses
that the hypotheses of every statement can be met together, and single steps with results worked out from the spec. -/

namespace Sys2Proof.Tests

open Sys2Proof.Machine Sys2Proof.Safety

/-! ### States for the tests -/

/-- One converged group of 32 lanes in slot 0 of core 0, about to execute a word of its clause. -/
def s0 : State := State.reset.withWord 0

def withGroup (f : Group → Group) (s : State := s0) : State := s.setGrp 0 (f (s.grp 0))
def withArm (f : Arm → Arm) (s : State := s0) : State := withGroup (fun g => { g with arm0 := f g.arm0 }) s
def withTeam (f : Team → Team) (s : State := s0) : State := s.setTeam 0 (f (s.team 0))
def withCtx (f : Ctx → Ctx) (s : State := s0) : State := s.setCtx 0 (f (s.ctx 0))
def withLaunch (f : Launch → Launch) (s : State := s0) : State := s.setLaunch 0 (f (s.launch 0))
/-- Vector register `r` with a value for each lane. -/
def withV (r : Nat) (x : Nat → Lane32) (s : State := s0) : State :=
  withGroup (fun g => { g with vregs := mset [] g.vregs r ((List.range 32).map x) }) s
/-- Scalar `n` of the group. -/
def withS (n : Nat) (x : Word) (s : State := s0) : State := withGroup (fun g => g.setS 0 n x) s

/-- The same group with its lanes in two arms under one open frame. -/
def sDiv : State :=
  withGroup (fun g => { g with
    arm0 := { g.arm0 with mask := 0xFFFF, top := some 0 }
    arm1 := { live := true, mask := 0xFFFF0000, top := some 0 }
    frames := [(0, some ⟨0x100, 0xFFFFFFFF, 0, 0, 0, 0, 0, none, false, [], 0, false, 0, [], ⟨0x1000, false, false, 3, 0⟩, false⟩)] })

/-- The same group at handler level, in a launch with a handler. -/
def sHand : State := withLaunch (fun l => { l with hvec := 0x800 }) (withArm fun a => { a with handler := true, trapc := 1 })

def pl := plainV
/-- The 16 lanes of the guard p1. -/
def sGuard : State := withGroup fun g => { g with preds := [(1, 0xFFFF)] }


/-! ### Witnesses: integers to reductions -/

/-- The hypotheses of a per-lane statement. -/
abbrev Fits (mk : VF → Instr) (wide : VF → Bool) (srcs : VF → List (Src × Bool)) (s : State) (f : VF) : Prop :=
  (mk f).wf = true ∧ Passes s f.g ((f.d.toNat, if wide f then 2 else 1) :: srcRegs (srcs f)) (srcReads (s.active f.g) (srcs f))

theorem witness_IntegerArithmeticCompletes :
    Fits .iadd wideTy srcAB s0 { pl with d := 15, a := .v 0, b := .imm 0, ty := .i32, sat := true } ∧
    Fits .isub wideTy srcAB s0 { pl with d := 14, a := .v 14, b := .s 63, ty := .n64 } ∧
    Fits .imul wideTy srcAB s0 { pl with ty := .i8x4, na := true } ∧
    Fits .imulhi wideTy srcAB s0 { pl with ty := .n32 } ∧
    Fits .imin wideTy srcAB s0 { pl with ty := .i16x2 } ∧ Fits .imax wideTy srcAB s0 { pl with ty := .i64, a := .s 10 } ∧
    Fits .imad wideTy srcABC s0 { pl with ty := .i64, d := 2, c := .v 4 } ∧ Fits .iabs wideTy (fun f => [(f.a, f.ty.is64)]) s0 { pl with ty := .i32 } := by
  decide

theorem witness_IntegerAddWraps :
    (let f : VF := { pl with ty := .n32, d := 15 }
     (Instr.iadd f).wf = true ∧ f.sat = false ∧ f.noSign = true ∧
      Passes s0 f.g ((f.d.toNat, 1) :: srcRegs [(f.a, false), (f.b, false)]) (srcReads (s0.active f.g) [(f.a, false), (f.b, false)])) ∧
    (let f : VF := { pl with ty := .i64, d := 14 }
     (Instr.iadd f).wf = true ∧ f.sat = false ∧ f.noSign = true ∧ Writes s0 f.g 31 ∧
      Passes s0 f.g ((f.d.toNat, 2) :: srcRegs [(f.a, true), (f.b, true)]) (srcReads (s0.active f.g) [(f.a, true), (f.b, true)])) := by decide

theorem witness_LogicAndShiftsComplete :
    Fits .vand wideTy srcAB s0 pl ∧ Fits .vor wideTy srcAB s0 { pl with ty := .b64 } ∧ Fits .vxor wideTy srcAB s0 pl ∧
    Fits .blut wideTy srcABC s0 { pl with nb := true, sub := 31 } ∧
    Fits .shl wideTy (fun f => [(f.a, f.ty.is64), (f.b, false)]) s0 { pl with ty := .n8x4 } ∧
    Fits .shr wideTy (fun f => [(f.a, f.ty.is64), (f.b, false)]) s0 { pl with ty := .b64, b := .imm 31 } ∧
    Fits .sar wideTy (fun f => [(f.a, f.ty.is64), (f.b, false)]) s0 { pl with ty := .i64 } ∧
    Fits .funnel (fun _ => false) (fun f => [(f.a, false), (f.b, false), (f.c, false)]) s0 { pl with sub := 1 } := by decide

theorem witness_BitOperationsComplete :
    Fits .popc wideTy (fun f => [(f.a, f.ty.is64)]) s0 pl ∧ Fits .clz wideTy (fun f => [(f.a, f.ty.is64)]) s0 { pl with ty := .b64 } ∧
    Fits .brev wideTy (fun f => [(f.a, f.ty.is64)]) s0 pl ∧
    Fits .bfe wideTy (fun f => [(f.a, f.ty.is64), (f.b, false), (f.c, false)]) s0 { pl with ty := .i64 } ∧
    Fits .bfi wideTy (fun f => [(f.a, f.ty.is64), (f.b, false), (f.c, f.ty.is64)]) s0 { pl with ty := .b64 } ∧
    Fits .bytesel (fun _ => false) (fun f => [(f.a, false), (f.b, false), (f.c, false)]) s0 pl ∧
    Fits .ishadd wideTy srcAB s0 { pl with ty := .n32, sub := 31 } := by decide

theorem witness_SelectAndMoveComplete :
    (let f : VF := { pl with ty := .i32, d := 7 }
     (Instr.icmp f).wf = true ∧ Passes s0 f.g (f.a.regs f.ty.is64 ++ f.b.regs f.ty.is64)
      (f.a.reads f.ty.is64 (s0.active f.g) ++ f.b.reads f.ty.is64 (s0.active f.g))) ∧
    (let f : VF := { pl with ty := .b64, c := .v 1 }
     (Instr.sel f).wf = true ∧ Passes s0 f.g ((f.d.toNat, if f.ty.is64 then 2 else 1) :: f.a.regs f.ty.is64 ++ f.b.regs f.ty.is64)
        (f.a.reads f.ty.is64 (s0.active f.g) ++ f.b.reads f.ty.is64 (s0.active f.g) ++ [.p 1 (s0.active f.g)])) ∧
    Fits .mov wideTy (fun f => [(f.a, f.ty.is64)]) s0 { pl with a := .imm 0 } ∧
    (let f : MoviF := { g := ⟨false, 1⟩, d := 15, imm := 0xFFFFFFFF }
     (Instr.movi f).wf = true ∧ Passes sGuard f.g [(f.d.toNat, 1)] []) := by decide

def fF32 : VF := { pl with ty := .f32 }
def fF16 : VF := { pl with ty := .f16x2 }

/-- The hypotheses of a floating-point statement. -/
abbrev FpFits (mk : VF → Instr) (rounds : Bool) (srcs : List (Src × Bool)) (s : State) (f : VF) (mode : Nat) : Prop :=
  (mk f).wf = true ∧ FpReady s f rounds f.ty.is64 srcs [] mode ∧ (s.fctl mode).fen = 0

theorem witness_FloatArithmeticCompletes :
    (let f : VF := { pl with ty := .f32, sat := false, rm := .rup }
     FpFits .fadd true (fAB f) s0 f 3) ∧
    (let f : VF := { pl with ty := .f32 }
     FpFits .fsub true (fAB f) s0 f 0 ∧ FpFits .fmul true (fAB f) s0 f 0 ∧ FpFits .fma true (fABC f) s0 f 0) ∧
    (let f : VF := { pl with ty := .f16x2 }
     FpFits .fadd true (fAB f) s0 f 0 ∧ FpFits .fma true (fABC f) s0 f 0) := by decide

theorem witness_FloatComparesComplete :
    (let f : VF := { pl with ty := .f32 }
     FpFits .fmin false (fAB f) s0 f 0 ∧ FpFits .fmax false (fAB f) s0 { f with ty := .bf16x2 } 0) ∧
    (let f : VF := { pl with ty := .f32, sub := 7, d := 7 }
     (Instr.fcmp f).wf = true ∧ (s0.fctl 0).fen = 0 ∧
      Passes s0 f.g (f.a.regs false ++ f.b.regs false) (f.a.reads false (s0.active f.g) ++ f.b.reads false (s0.active f.g))) ∧
    Fits .fclass (fun _ => false) (fun f => [(f.a, false)]) s0 { pl with ty := .f16x2 } := by decide

theorem witness_TranscendentalsComplete :
    (∀ mk ∈ [Instr.frcp, .frsq, .fsqrt, .fexp2, .flog2, .frred, .fsin, .fcos], FpFits mk false [(fF32.a, false)] s0 fF32 0) ∧
    flushIn fmtF32 false (s0.raw .f32 0 fF32.a) = 0 := by decide

theorem witness_ConversionsComplete :
    (let f : VF := { pl with ty := .bf16x2, sub := 5, d := 12, a := .v 3, b := .v 4 }
     (Instr.cvt f).wf = true ∧ FpReady s0 f (cvtRounds f) f.ty.is64 (cvtSrcs f) (cvtOwn f (s0.active f.g)) 0 ∧ (s0.fctl 0).fen = 0) ∧
    (let f : VF := { pl with ty := .f16x2 }
     FpFits .fdot2 true (fABC f) s0 f 0) ∧
    (let f : VF := { pl with ty := .f32, sub := 15 }
     FpFits .lcdec true (fAB f) s0 f 0) ∧
    (let f : VF := { pl with ty := .f32 }
     FpFits .fscale true (fAB f) s0 f 0) := by decide

/-- Exceptions enabled in FMT: invalid operation and division by zero among them. -/
def sFen : State := withArm fun a => { a with fmt := 0x7C0000 }

theorem witness_FloatExceptionsTrap :
    (sFen.fctl 0).fen ≠ 0 ∧
    (∀ m ∈ [(Instr.fadd, true), (.fsub, true), (.fmul, true), (.fmin, false), (.fmax, false), (.fscale, true), (.lcdec, true)],
      (m.1 fF32).wf = true ∧ FpReady sFen fF32 m.2 false (fAB fF32) [] 0) ∧
    (Instr.fma fF32).wf = true ∧ FpReady sFen fF32 true false (fABC fF32) [] 0 ∧
    (Instr.fdot2 fF16).wf = true ∧ FpReady sFen fF16 true false (fABC fF16) [] 0 := by decide

/-- Infinity minus infinity in lane 31 raises an enabled exception, and 0 + 0 in any lane none. -/
theorem witness_FloatExceptionsTrap_lanes :
    let s := withV 1 (fun l => if l = 31 then 0x7F800000 else 0) sFen
    let f := { fF32 with a := .v 1, b := .v 1 }
    let flags := fun l => elemFlags s f (s.fctl 0) l fun k => sumFp ((s.fctl 0).mode == 2) [aFp s f (s.fctl 0) l k, (bFp s f (s.fctl 0) l k).flip]
    FpReady s f true false (fAB f) [] 0 ∧ flags 31 &&& (s.fctl 0).fen ≠ 0 ∧ ∀ j, j < 31 → flags j &&& (s.fctl 0).fen = 0 := by decide +kernel

theorem witness_FloatExceptionsTrap_others :
    (∀ mk ∈ [Instr.frcp, .frsq, .fsqrt, .fexp2, .flog2, .frred, .fsin, .fcos], FpReady sFen fF32 false false [(fF32.a, false)] [] 0 ∧ (mk fF32).wf = true) ∧
    (let f : VF := { pl with ty := .bf16x2, sub := 5, d := 12, a := .v 3, b := .v 4 }
     (Instr.cvt f).wf = true ∧ FpReady sFen f (cvtRounds f) f.ty.is64 (cvtSrcs f) (cvtOwn f (sFen.active f.g)) 0) ∧
    (let f : VF := { pl with ty := .f32, sub := 7, d := 7 }
     (Instr.fcmp f).wf = true ∧ Passes sFen f.g (f.a.regs false ++ f.b.regs false) (f.a.reads false (sFen.active f.g) ++ f.b.reads false (sFen.active f.g))) ∧
    (∀ m ∈ [(Instr.gred, 0), (.gred, 2), (.gscan, 16), (.gscan, 17)], let f : VF := { pl with ty := .f32, sub := BitVec.ofNat 5 m.2 }
      (m.1 f).wf = true ∧ sFen.roundMode f.rm = .ok 0 ∧ Passes sFen f.g ((f.d.toNat, 1) :: f.a.regs false) (f.a.reads false (sFen.teamOnly (sFen.active f.g)))) := by
  decide +kernel

/-- 1 / 0 raises an enabled exception in lane 0, and 1 / infinity none; a signalling NaN raises one in a sum of the lanes. -/
theorem witness_FloatExceptionsTrap_raises :
    (transOut 0x28 1 trcp sFen { fF32 with a := .v 1 } (sFen.fctl 0) 0).2 &&& (sFen.fctl 0).fen ≠ 0 ∧
    (∀ l, l < 32 → (transOut 0x28 1 trcp (withV 1 (fun _ => 0x7F800000) sFen) { fF32 with a := .v 1 } (sFen.fctl 0) l).2 &&& (sFen.fctl 0).fen = 0) ∧
    (unpackF fmtF32 false 0x7F800001).isSig = true ∧ 1 &&& (sFen.fctl 0).fen ≠ 0 ∧
    (cmpFp fmtF32 (sFen.fctl 0).ftzi 7 0x7F800001 0).2 &&& (sFen.fctl 0).fen ≠ 0 := by decide +kernel

theorem witness_ExchangesComplete :
    let one := fun (mk : VF → Instr) (b : VF → List Src) (src : State → VF → Nat → Nat) (f : VF) (a : BitVec 8) =>
      (mk f).wf = true ∧ f.a = .v a ∧
      Passes s0 f.g ((f.d.toNat, if f.ty.is64 then 2 else 1) :: (a.toNat, if f.ty.is64 then 2 else 1) :: (b f).flatMap fun x => x.regs false)
        (((b f).flatMap fun x => x.reads false (s0.active f.g)) ++
          [.v a.toNat (if f.ty.is64 then 2 else 1) (maskOf fun j => (maskList (s0.active f.g)).any fun l => src s0 f l == j)])
    one .qswap (fun _ => []) (fun _ f l => l ^^^ (f.sub.toNat % 4)) { pl with sub := 3 } 0 ∧
    one .qbcast (fun _ => []) (fun _ f l => l / 4 * 4 + f.sub.toNat % 4) { pl with ty := .b64, sub := 2 } 0 ∧
    one .lxch (fun f => [f.b]) (fun s f l =>
      let c := s.raw .n32 l f.b % 32
      if f.sub = 0 then c else if f.sub = 1 then (l + c) % 32 else if f.sub = 2 then (l ^^^ c) % 32 else l / 8 * 8 + c % 8)
      { pl with sub := 3 } 0 := by decide

theorem witness_ReductionsAndRandComplete :
    (let ok := fun (mk : VF → Instr) (f : VF) => (mk f).wf = true ∧ f.ty ≠ .f32 ∧
      Passes s0 f.g ((f.d.toNat, if f.ty.is64 then 2 else 1) :: f.a.regs f.ty.is64) (f.a.reads f.ty.is64 (s0.teamOnly (s0.active f.g)))
     ok .gred { pl with ty := .n32, sub := 0 } ∧ ok .gscan { pl with ty := .b32, sub := 19 } ∧
       ok .gred { pl with ty := .b32, sub := 4 } ∧ ok .gscan { pl with ty := .i32, sub := 17 } ∧ ok .gred { pl with ty := .i32, sub := 2 }) ∧
    (let ok := fun (mk : VF → Instr) (f : VF) => (mk f).wf = true ∧ f.ty = .f32 ∧ s0.roundMode f.rm = .ok 0 ∧ (s0.fctl 0).fen = 0 ∧
      Passes s0 f.g ((f.d.toNat, 1) :: f.a.regs false) (f.a.reads false (s0.teamOnly (s0.active f.g)))
     ok .gred { pl with ty := .f32 } ∧ ok .gscan { pl with ty := .f32, sub := 16 }) ∧
    (Instr.rand pl).wf = true ∧ Passes s0 pl.g [(pl.d.toNat, 1)] [] := by decide

theorem witness_ReductionsAndRandComplete_kinds :
    (∀ k ∈ [0, 1, 2, 3, 4, 5], let f : VF := { pl with ty := if k < 3 then .i32 else .b32, sub := BitVec.ofNat 5 k, sat := k == 0 }
      ((Instr.gred f).wf = true ∧ (Instr.gscan { f with sub := BitVec.ofNat 5 (16 + k) }).wf = true) ∧
        Passes s0 f.g ((f.d.toNat, 1) :: f.a.regs false) (f.a.reads false (s0.teamOnly (s0.active f.g)))) ∧
    (∀ k ∈ [0, 1, 2, 16, 17, 18], let f : VF := { pl with ty := .f32, sub := BitVec.ofNat 5 k }
      (Instr.gred f).wf = true ∨ (Instr.gscan f).wf = true) ∧
    members s0 { pl with sub := 16 } true 0 = [] ∧ (members s0 { pl with sub := 0 } false 31).length = 32 := by decide +kernel


/-! ### Witnesses: scalars, control, traps -/

/-- Fields of the S, B, Y and M formats that are zero but for those given. -/
def sF : SF := { g := noGuard, d := 0, a := 0, immf := true, b := 0, w64 := false, imm := 0 }
def bF : BF := { g := noGuard, disp := 0, cs := 0, ck := .always }
def yF : YF := { g := noGuard, d := 0, a := 0, b := 0, sc := .lane, sub := 0, imm := 0 }

theorem witness_ScalarArithmeticCompletes :
    (∀ mk ∈ [Instr.sadd, .ssub, .smul, .sand, .sor, .sxor], ∀ f ∈ [{ sF with imm := 0x80000000 }, { sF with immf := false, b := 63, d := 63 }],
      (mk f).wf = true ∧ Acts s0 f.g ∧ s0.cg.converged = true ∧ Passes s0 f.g [] (.s f.a.toNat :: if f.immf then [] else [.s f.b.toNat])) ∧
    (let f : SF := { sF with d := 32, w64 := true }
     (Instr.sadd f).wf = true ∧ Acts sDiv f.g ∧ (f.d.toNat < 32 → sDiv.cg.converged = true) ∧
      Passes sDiv f.g [] (.s f.a.toNat :: if f.immf then [] else [.s f.b.toNat])) := by decide

theorem witness_ScalarShiftsAndComparesComplete :
    (∀ m ∈ [(Instr.sshl, true), (.sshr, true), (.ssar, true), (.scmp, true), (.smovi, false)],
      ∀ f ∈ [{ sF with imm := 63 }, { sF with imm := 64, w64 := true }],
      (m.1 f).wf = true ∧ Acts s0 f.g ∧ s0.cg.converged = true ∧
        Passes s0 f.g [] ((if m.2 then [.s f.a.toNat] else []) ++ if f.immf then [] else [.s f.b.toNat])) := by decide

theorem witness_LaneAndStateReadsComplete :
    (let f : VF := { pl with a := .v 15, b := .imm 63, d := 0 }
     (Instr.vrd f).wf = true ∧ Acts s0 f.g ∧ s0.cg.converged = true ∧
       Passes s0 f.g [(15, 1)] (f.b.reads false 0 ++ [.v 15 1 (maskOf fun l => l == s0.laneArg f)])) ∧
    (let f : VF := { pl with ty := .b64, a := .s 62, b := .imm 63, d := 14 }
     (Instr.vwr f).wf = true ∧ Acts s0 f.g ∧ Passes s0 f.g [(14, 2)] (f.a.reads f.ty.is64 0 ++ f.b.reads false 0) ∧
       bit (s0.armMask &&& s0.cg.present) (s0.raw .n32 0 f.b % 32) = true) := by decide

def mfsF (n : BitVec 32) : SF := { sF with d := 40, imm := n }

theorem witness_LaneAndStateReadsComplete_mfs :
    (Instr.mfs { sF with imm := 0x0F00 }).wf = true ∧ Passes s0 noGuard [(15, 1)] [] ∧
    (Instr.mfs (mfsF 0x0B)).wf = true ∧ (Instr.mfs (mfsF 0x0C)).wf = true ∧ (Instr.mfs (mfsF 0x12)).wf = true ∧
    (Instr.mfs (mfsF 0x14)).wf = true ∧ (Instr.mfs (mfsF 0x15)).wf = true ∧ Acts sDiv noGuard ∧ Passes sDiv noGuard [] [] := by decide

theorem witness_LaneAndStateReadsComplete_cycle :
    (Instr.mfs (mfsF 0x10)).wf = true ∧ (mfsF 0x10).num = 0x10 ∧ Acts sDiv noGuard ∧ Passes sDiv noGuard [] [] ∧ Acts s0 noGuard ∧
      Passes s0 noGuard [] [] ∧ s0.cg.converged = true := by decide

theorem witness_StateWritesComplete :
    (Instr.mts { sF with a := 5, imm := 0x0C }).wf = true ∧ (Instr.mts { sF with a := 5, imm := 0x11 }).wf = true ∧
    (Instr.mts { sF with a := 5, imm := 0x14 }).wf = true ∧ (Instr.mtsSeed { sF with a := 5, imm := 0x0D }).wf = true ∧
    (Instr.fmtset { sF with d := 1 }).wf = true ∧ (Instr.fmtset { sF with d := 31, immf := false, b := 5 }).wf = true := by decide

theorem witness_StateWritesComplete_state :
    sHand.ca.handler = true ∧ Acts sHand noGuard ∧ Passes sHand noGuard [] [.s 5] ∧ s0.cg.converged = true ∧ Acts s0 noGuard ∧
      Passes s0 noGuard [] [.s 5] := by decide

theorem witness_BranchesComplete :
    (∀ mk ∈ [Instr.bra, .call, .ret], (∀ f ∈ [bF, { bF with ck := .zero, cs := 40 }],
      (mk f).wf = true ∧ Acts s0 f.g ∧ Passes s0 f.g [] (condReads f ++ [.s 63]) ∧ Cond s0 f) ∧
      let f : BF := { bF with ck := .nonzero, cs := 40 }
      (mk f).wf = true ∧ Acts s0 f.g ∧ Passes s0 f.g [] (condReads f ++ [.s 63]) ∧ ¬ Cond s0 f) ∧
    (let f : BF := { bF with ck := .nonzero, cs := 31, disp := 0xFFFFFFF }
     (Instr.loop f).wf = true ∧ Acts s0 f.g ∧ s0.cg.converged = true ∧ Passes s0 f.g [] [.s f.cs.toNat] ∧ s0.sreg f.cs.toNat ≠ 1 ∧
       (withS 31 1).sreg f.cs.toNat = 1 ∧ Acts (withS 31 1) f.g ∧ Passes (withS 31 1) f.g [] [.s f.cs.toNat]) ∧
    (let f : SF := { sF with a := 63, imm := 0xFFFFFFF8 }
     (Instr.jmp f).wf = true ∧ Acts s0 f.g ∧ Passes s0 f.g [] (.s f.a.toNat :: if f.immf then [] else [.s f.b.toNat])) := by decide

/-- A translation of page 0 to itself that allows everything and caches nothing. -/
def tlbE : TlbEntry := ⟨0, none, 0, 0, 0x34FF, 0⟩
def withTlb (s : State := s0) : State := s.setCore 0 { s.core 0 with tlb := [tlbE] }

theorem witness_PredicatedBranchCompletes :
    (let f : PF := { g := noGuard, tdisp := 8, rdisp := 16 }
     s0.rdTrap (.p f.g.ps.toNat s0.armMask) = none ∧ s0.active f.g = s0.armMask) ∧
    (let f : PF := { g := ⟨false, 2⟩, tdisp := 8, rdisp := 16 }
     s0.rdTrap (.p f.g.ps.toNat s0.armMask) = none ∧ s0.active f.g = 0 ∧ s0.armMask ≠ 0) ∧
    (let f : PF := { g := ⟨false, 1⟩, tdisp := 8, rdisp := 16 }
     let s := withTlb sGuard
     s.slot ≤ 1 ∧ s.rdTrap (.p f.g.ps.toNat s.armMask) = none ∧ s.active f.g ≠ s.armMask ∧ s.active f.g ≠ 0 ∧
       s.ca.loads = [] ∧ (s.cg.arm (1 - s.slot)).live = false ∧ s.cg.freePos = some 0 ∧
       s.xlate s.ccore s.cg.ctx s.ca.walkFaults (s.cg.spill + BitVec.ofNat 64 (384 * 0)) = .ok ⟨0, false, false, 3, 0⟩ tlbE ∧
       tlbE.rd = true ∧ tlbE.w = true) := by decide

/-- A group about to diverge whose other slot is in use. -/
def sSpill : State := withTlb (withGroup (fun g => { g with arm1 := { live := true, mask := 0x10000 } }) sGuard)

theorem witness_PredicatedBranchCompletes_spill :
    let f : PF := { g := ⟨false, 1⟩, tdisp := 8, rdisp := 16 }
    let splits := fun (s : State) => s.rdTrap (.p f.g.ps.toNat s.armMask) = none ∧ s.active f.g ≠ s.armMask ∧ s.active f.g ≠ 0
    let full := withGroup (fun g => { g with frames := (List.range 10).map fun k => (k, (sDiv.cg.frame 0)) }) sSpill
    let ro : TlbEntry := { tlbE with pte := 0x1 }
    let e := sSpill.setCore 0 { sSpill.core 0 with tlb := [ro] }
    let x := sSpill.setCore 0 { sSpill.core 0 with tlb := [] }
    let w := x.setGrp 0 { x.cg with arm0 := { x.ca with walkFaults := [(0, 2, false)] } }
    let at0 := fun (s : State) => s.xlate s.ccore s.cg.ctx s.ca.walkFaults (s.cg.spill + BitVec.ofNat 64 (384 * 0))
    splits sSpill ∧ sSpill.slot ≤ 1 ∧ sSpill.ca.loads = [] ∧ sSpill.cg.freePos = some 0 ∧ at0 sSpill = .ok ⟨0, false, false, 3, 0⟩ tlbE ∧
      (sSpill.cg.arm (1 - sSpill.slot)).live = true ∧ sSpill.cg.frames = [] ∧ tlbE.d = true ∧
      splits (withArm (fun a => { a with loads := [[]] }) sSpill) ∧ (withArm (fun a => { a with loads := [[]] }) sSpill).ca.loads ≠ [] ∧
      splits full ∧ full.ca.loads = [] ∧ full.cg.freePos = none ∧
      splits e ∧ e.cg.freePos = some 0 ∧ at0 e = .ok ⟨0, false, false, 0, 0⟩ ro ∧ ro.w = false ∧
      splits w ∧ w.cg.freePos = some 0 ∧ at0 w = .fault 11 2 := by decide

/-- Four frames held on the die, and a fifth about to be pushed. -/
def sFour : State :=
  let fr := fun (k : Nat) => ({ ((sDiv.cg.frame 0).getD ⟨0, 0, 0, 0, 0, 0, 0, none, false, [], 0, false, 0, [], ⟨0, false, false, 3, 0⟩, false⟩) with
    seq := k, tr := ⟨0x1000 + 384 * k, false, false, 3, 0⟩ } : Frame)
  withTlb (withGroup (fun g => { g with frames := [(0, some (fr 0)), (1, some (fr 1)), (2, some (fr 2)), (3, some (fr 3))] }) sGuard)

theorem witness_PredicatedBranchCompletes_fifth :
    let s := sFour
    let f : PF := { g := ⟨false, 1⟩, tdisp := 8, rdisp := 16 }
    s.slot ≤ 1 ∧ s.rdTrap (.p f.g.ps.toNat s.armMask) = none ∧ s.active f.g ≠ s.armMask ∧ s.active f.g ≠ 0 ∧ s.ca.loads = [] ∧
      s.cg.freePos = some 4 ∧ s.xlate s.ccore s.cg.ctx s.ca.walkFaults (s.cg.spill + BitVec.ofNat 64 (384 * 4)) = .ok ⟨1536, false, false, 3, 0⟩ tlbE ∧
      tlbE.d = true ∧ (∃ f0 f1 f2 f3, s.cg.frames = [(0, some f0), (1, some f1), (2, some f2), (3, some f3)] ∧ f0.seq < f1.seq ∧
        f1.seq < f2.seq ∧ f2.seq < f3.seq ∧ f0.out = false ∧ f1.out = false ∧ f2.out = false ∧ f3.out = false ∧ f0.tr.pa % 64 = 0 ∧
        ∀ k, k < 6 → AtHome s { f0.tr with pa := f0.tr.pa + 64 * k }) := by
  refine ⟨by decide +kernel, by decide +kernel, by decide +kernel, by decide +kernel, by decide +kernel, by decide +kernel, by decide +kernel,
    by decide +kernel, ?_⟩
  exact ⟨_, _, _, _, rfl, by decide +kernel, by decide +kernel, by decide +kernel, by decide +kernel, by decide +kernel, by decide +kernel,
    by decide +kernel, by decide +kernel, by decide +kernel⟩

theorem witness_VotesAndMarksComplete :
    (let f : SF := { sF with d := 40, imm := 200 }
     (Instr.bwait f).wf = true ∧ Acts s0 f.g ∧ Passes s0 f.g [] (if f.immf then [] else [.s f.b.toNat])) ∧
    (∀ k ∈ [0, 1, 2, 3, 7], let f : VF := { pl with a := .v 7, sub := k, d := 7 }
     (Instr.vote f).wf = true ∧ Passes s0 f.g (if 3 ≤ f.sub.toNat then [(f.d.toNat, 1)] else []) [.p 7 (s0.active f.g)]) ∧
    Acts s0 bF.g ∧ Passes s0 bF.g [] [] := by decide

theorem witness_ExitCompletes :
    s0.slot ≤ 1 ∧ Passes s0 bF.g [] [] ∧ Acts s0 bF.g ∧ s0.cg.live = true ∧ s0.cg.frames = [] ∧ (s0.cg.arm (1 - s0.slot)).live = false ∧
      s0.armMask &&& ~~~(s0.active bF.g) = 0 ∧ Acts sGuard ⟨false, 1⟩ ∧ sGuard.armMask &&& ~~~(sGuard.active ⟨false, 1⟩) ≠ 0 ∧
      Passes sGuard ⟨false, 1⟩ [] [] ∧ sGuard.cg.live = true ∧ sGuard.cg.frames = [] ∧
      sSpill.slot ≤ 1 ∧ Passes sSpill bF.g [] [] ∧ Acts sSpill bF.g ∧ sSpill.cg.live = true ∧ sSpill.cg.frames = [] ∧
      (sSpill.cg.arm (1 - sSpill.slot)).live = true ∧ sSpill.armMask &&& ~~~(sSpill.active bF.g) = 0 := by decide

/-- A launch with a handler. -/
def sVec : State := withLaunch fun l => { l with hvec := 0x800 }
/-- Two arms; the second is at handler level. -/
def sTwo : State := withLaunch (fun l => { l with hvec := 0x800 })
  (withGroup (fun g => { g with arm1 := { g.arm1 with handler := true } }) sDiv)

theorem witness_TrapEntrySavesAndEnters :
    TakesHandler sVec 0 0 ∧ State.endsGroups 11 = false ∧
      TakesHandler (withLaunch (fun l => { l with hvec := 0x800 }) sDiv) 0 1 := by decide

theorem witness_PendingTrapWaitsAndIsDelivered :
    (((sTwo.grp 0).arm 0).handler = false ∧ State.endsGroups 2 = false ∧ sTwo.hvec 0 ≠ 0 ∧ ((sTwo.grp 0).arm 1).live = true ∧
      ((sTwo.grp 0).arm 1).handler = true ∧ ¬ NoOtherHandler (sTwo.grp 0) 0) ∧
    (let s := withLaunch (fun l => { l with hvec := 0x800 }) (withArm (fun a => { a with pend := true, park := some .trapWait }) sDiv)
     (s.grp 0).live = true ∧ (s.grp 0).arm0.live = true ∧ (s.grp 0).arm0.pend = true ∧ NoOtherHandler (s.grp 0) 0 ∧ s.hvec 0 ≠ 0) := by decide

theorem witness_PendingTrapWaitsAndIsDelivered_second :
    let s := withLaunch (fun l => { l with hvec := 0x800 })
      (withGroup (fun g => { g with arm1 := { g.arm1 with pend := true, park := some .trapWait } }) sDiv)
    (s.grp 0).live = true ∧ ((s.grp 0).arm 1).live = true ∧ ((s.grp 0).arm 1).pend = true ∧ NoOtherHandler (s.grp 0) 1 ∧ s.hvec 0 ≠ 0 ∧
      ((s.grp 0).arm 0).pend = false := by decide

theorem witness_TrapsThatEndGroups :
    ((sHand.grp 0).live = true ∧ ((sHand.grp 0).arm 0).handler = true) ∧
    ((sVec.grp 0).live = true ∧ ((sVec.grp 0).arm 0).handler = false ∧ State.endsGroups 52 = true) ∧
    ((s0.grp 0).live = true ∧ ((s0.grp 0).arm 0).handler = false ∧ s0.hvec 0 = 0) := by decide

/-- A handler entered from the first word of a clause of two. -/
def sShadow (pc : Word) : State := withArm (fun a => { a with trappc := pc, shadow := { hdr := 0x100, clause := some ⟨0x100, 0, [1, 2], 0⟩ } }) sHand

theorem witness_EretCompletes :
    s0.ca.handler = false ∧ sHand.ca.handler = true ∧ sHand.ca.top = sHand.ca.shadow.top ∧
    (withArm (fun a => { a with top := some 0 }) sHand).ca.top ≠ (withArm (fun a => { a with top := some 0 }) sHand).ca.shadow.top ∧
    (let s := sShadow 0x110
     s.ca.handler = true ∧ s.ca.shadow.clause = some ⟨0x100, 0, [1, 2], 0⟩ ∧ 1 < [(1 : Word), 2].length ∧
       s.ca.trappc = 0x100 + BitVec.ofNat 64 (8 * (1 + 1))) ∧
    (let s := sShadow 0x118
     s.ca.handler = true ∧ ∀ k, k < 2 → s.ca.trappc ≠ 0x100 + BitVec.ofNat 64 (8 * (k + 1))) := by decide

theorem witness_SoftwareTrapsTaken :
    Acts sVec yF.g ∧ Passes sVec yF.g [] [] ∧ TakesHandler sVec sVec.gid sVec.slot := by decide

theorem witness_RegisterChecksTrap :
    (∀ k ∈ laneKinds, let f : VF := { pl with d := 16 }
      s0.rdTrap (.p f.g.ps.toNat s0.armMask) = none ∧
      ∃ r ∈ (f.d.toNat, if k.2.1 f then 2 else 1) :: srcRegs (k.2.2 f), s0.cg.window < r.1 + r.2) ∧
    (let s := withGroup fun g => { g with vpois := [(0, 1)] }
     ∀ k ∈ laneKinds, (∀ r ∈ (pl.d.toNat, if k.2.1 pl then 2 else 1) :: srcRegs (k.2.2 pl), r.1 + r.2 ≤ s.cg.window) ∧
      ∃ r ∈ srcReads (s.active pl.g) (k.2.2 pl), s.rdTrap r ≠ none) ∧
    Acts sDiv sF.g ∧ Passes sDiv sF.g [] [.s 0] ∧ sF.d.toNat < 32 ∧ sDiv.cg.converged = false := by decide

theorem witness_PrivilegedTrapAtUserLevel : s0.ca.handler = false := by decide

/-- A handler of a service context with a value in s5. -/
def sServ (x : Word) : State := withS 5 x (withLaunch (fun l => { l with lrec := { l.lrec with svc := true } }) (withCtx (fun c => { c with service := true }) sHand))
def yR (n : BitVec 16) : YF := { yF with a := 5, imm := n }

theorem witness_PrivilegedRegistersComplete :
    (∀ n ∈ [0x0, 0xB, 0x10, 0x17, 0x20, 0x28, 0x2F, 0x100, 0x2FF], sHand.ca.handler = true ∧ sysHandler n = true ∧
      Acts sHand yF.g ∧ sHand.cg.converged = true ∧ Passes sHand yF.g [] []) ∧
    (sysHandler 0xC = false ∧ sysService 0xC = false ∧ sysHandler 0x300 = false ∧ sHand.serviceCtx = false ∧ sysHandler 0x4000 = false ∧
      sysService 0x4000 = false) ∧
    (∀ n ∈ ([0, 1, 8, 9, 10, 255, 256, 1000, 1001, 0x4000, 0x400000000000000, 0xFFFFFFFFFFFFFFFF] : List Nat), let s := sServ (BitVec.ofNat 64 n)
      s.ca.handler = true ∧ s.serviceCtx = true ∧ Acts s yF.g ∧ Passes s yF.g [] [.s 5] ∧ (s.sreg 5).toNat = n) ∧
    sysService 0x300 = true ∧ (∀ n ∈ [3, 4, 6, 7, 8, 0x10, 0x17, 0x20, 0x28, 0x2F], sysHandlerRw n = true) ∧
    (∀ n ∈ [0, 1, 2, 5, 9, 10, 11, 0x381, 0x383], sysHandlerRw n = false) ∧
    (BitVec.ofNat 16 (0x4000 + 32 * 13 + 2) = 0x41A2) ∧ (yR 0x390).imm = BitVec.ofNat 16 (0x390 + 0) ∧ (yR 15).imm.toNat < 16 := by decide +kernel

/-- Two groups of one team: group 0 executes, group 1 stands in the next slot. -/
def addGroup (s : State := s0) : State :=
  s.setGrp 1 { s.grp 0 with uid := 2, vslot := 1 }

theorem witness_TranslationInvalidatesComplete :
    let s := withS 6 16384 (sServ 16384)
    let r := s.xinvReach (pageOf (s.sreg 5).toNat)
    let p := fun lo hi => withArm (fun a => { a with park := some (.xinv lo hi 0) }) s
    let c := addGroup s
    let w := c.setGrp 1 { c.grp 1 with arm0 := { (c.grp 1).arm0 with park := some (.check [(0, 16384, ⟨64, false, true, 3, 0⟩)]) } }
    s.ca.handler = true ∧ Acts s yF.g ∧ Passes s yF.g [] [.s 5, .s 6] ∧ (s.sreg 5).toNat % 16384 = 0 ∧ (s.sreg 6).toNat % 16384 = 0 ∧
      (s.sreg 6).toNat ≤ 2 ^ 44 ∧ s.sreg 6 ≠ 0 ∧ s.ca.park = none ∧ s.relWaits 7 = false ∧
      (s.releaseAct 7).xinvWaits r.1 r.2 = false ∧ (s.releaseAct 7).flushWaits ((s.releaseAct 7).xinvSpans r.1 r.2 false) = false ∧
      (s.releaseAct 7).xinvWaits 1 2 = false ∧ (s.releaseAct 7).flushWaits ((s.releaseAct 7).xinvSpans 1 2 false) = false ∧
      (s.releaseAct 7).xinvWaits 0 (2 ^ 44) = false ∧
      w.ca.park = none ∧ w.relWaits 7 = false ∧ (w.releaseAct 7).xinvWaits 1 2 = true ∧
      (p 1 2).ca.park = some (.xinv 1 2 0) ∧ (p 1 2).xinvWaits 1 2 = false ∧ (p 1 2).flushWaits ((p 1 2).xinvSpans 1 2 false) = false ∧
      (p 0 (2 ^ 44)).xinvWaits 0 (2 ^ 44) = false ∧ Acts (p 1 2) yF.g ∧ Passes (p 1 2) yF.g [] [.s 5, .s 6] ∧
      (w.releaseAct 7).xinvWaits 0 (2 ^ 44) = true ∧ (w.releaseAct 7).xinvWaits (w.xinvReach 1).1 (w.xinvReach 1).2 = true ∧
      (withArm (fun a => { a with park := some (.xinv 1 2 0) }) w).xinvWaits 1 2 = true ∧
      ((withS 6 8192 s).sreg 6).toNat % 16384 ≠ 0 ∧ ((withS 6 0 s).sreg 6).toNat = 0 ∧
      Passes (withS 6 0 s) yF.g [] [.s 5, .s 6] := by decide +kernel

theorem witness_KillAndMarkComplete :
    (sHand.ca.handler = true ∧ (sHand.ca.park = none) ∧ Acts sHand yF.g ∧ sHand.cg.converged = true ∧ Passes sHand yF.g [] [.s 0] ∧
      (withS 5 0x10000 sHand).named ((withS 5 0x10000 sHand).sreg 5) = none ∧ (withS 5 0x10000 sHand).namedSaved ((withS 5 0x10000 sHand).sreg 5) = none) ∧
    (let s := withS 5 0x800 (addGroup sHand)
     let v := s.setGrp 1 { s.grp 1 with tiles := 1 }
     s.ca.handler = true ∧ s.ca.park = none ∧ s.cg.converged = true ∧ s.named (s.sreg 5) = some 1 ∧ 1 ≠ s.gid ∧ bit yF.sub 0 = false ∧
       (s.grp 1).live = true ∧ (s.team (s.grp 1).tid).accQ = [] ∧ (∀ p ∈ s.groups, p.2.uid = (s.grp 1).uid → p.1 = 1) ∧ (s.grp 1).tiles = 0 ∧
       v.named (v.sreg 5) = some 1 ∧ (∀ p ∈ v.groups, p.2.uid = (v.grp 1).uid → p.1 = 1) ∧ (v.grp 1).tiles ≠ 0 ∧ (∀ x ∈ s.teamGroups 0, (s.grp x).live = true)) ∧
    (let s := withS 5 0x800 ((sHand.setTeam 1 { live := true, saved := true, groups := [{ sHand.cg with vslot := 1 }] }))
     s.named (s.sreg 5) = none ∧ s.namedSaved (s.sreg 5) = some 1 ∧ s.gid < 32 * 65536 ∧ (s.team 1).accQ = []) ∧
    (let s := withArm (fun a => { a with park := some (.gkill [2]) }) sHand
     s.ca.park = some (.gkill [2]) ∧ s.killDone [2] = true ∧ (s.setGrp 1 { live := false, uid := 2, tiles := 1 }).killDone [2] = false) ∧
    (s0.preq = false ∧ (withCtx fun c => { c with preq := 1 }).preq = true ∧ (withCtx fun c => { c with preq := 1 }).ca.handler = false) := by decide


/-! ### Witnesses: teams -/

/-- The root level with one barrier record. -/
def withRec (r : BarRec) (s : State := s0) : State := withTeam (fun t => { t with levels := [(0, { live := true, recs := [r] })] }) s

theorem witness_BarriersComplete :
    (∀ s ∈ [withRec {}, addGroup (withRec {}), withRec { pend := 1 }],
      s.cg.converged = true ∧ 0 < (s.level s.cg.tid s.cg.lid).recs.length ∧ (s.barRec 0).psn = false ∧
      bit (s.barRec 0).arrset s.cg.vslot = false ∧ s.ca.park = none) ∧
    (let n := fun (s : State) => ((s.releaseAct 4).groupsOf s.cg.tid s.cg.lid).length
     ((withRec {}).barRec 0).arr + 1 = n (withRec {}) ∧ ((withRec {}).barRec 0).pend = 0 ∧
       ((addGroup (withRec {})).barRec 0).arr + 1 ≠ n (addGroup (withRec {})) ∧ ((withRec { pend := 1 }).barRec 0).pend ≠ 0) ∧
    (Acts (withRec {}) noGuard ∧ Passes (withRec {}) noGuard [] [.s 5] ∧ ((withRec {}).barRec 0).gen = ((withRec {}).sreg 5).setWidth 32 ∧
      ((withRec { gen := 7 }).barRec 0).gen ≠ ((withRec { gen := 7 }).sreg 5).setWidth 32) ∧
    pendFits (((withRec {}).barRec 0).pend + (0xFFFFFFFF : BitVec 32).toInt) = true := by decide

theorem witness_BarriersComplete_others :
    (let s := withRec { arr := 1, arrset := 1 }
     s.cg.converged = true ∧ 0 < (s.level s.cg.tid s.cg.lid).recs.length ∧ (s.barRec 0).psn = false ∧
       bit (s.barRec 0).arrset s.cg.vslot = true ∧ s.ca.park = none ∧
       (withArm (fun a => { a with park := some (.bar 0 0) }) s).ca.park = some (.bar 0 0) ∧ (s.barRec 0).gen = 0 ∧ (s.barRec 0).gen ≠ 1) ∧
    (let s := withRec { psn := true, pcause := 29 }
     s.cg.converged = true ∧ (s.barRec 0).psn = true ∧ ¬ 1 < (s.level s.cg.tid s.cg.lid).recs.length ∧ Acts s noGuard ∧
       Passes s noGuard [] [.s 5]) ∧
    pendFits (((withRec { pend := 2 ^ 35 - 1 }).barRec 0).pend + (1 : BitVec 32).toInt) = false ∧
    (Instr.barexp { sF with a := 1 }).wf = true ∧ Acts (withRec {}) sF.g ∧ Passes (withRec {}) sF.g [] [] ∧
    ((withRec { arr := 1, pend := 5 }).barRec 0).arr = ((withRec { arr := 1, pend := 5 }).groupsOf 0 0).length := by decide

theorem witness_VotesAndMarksComplete_noLane :
    NoLane s0 ⟨false, 1⟩ ∧ NoLane sHand ⟨false, 1⟩ ∧ sHand.ca.handler = true ∧ NoLane (sServ 0) ⟨false, 1⟩ ∧ (sServ 0).serviceCtx = true ∧
      NoLane (withRec {}) ⟨false, 1⟩ ∧ 0 < ((withRec {}).level 0 0).recs.length ∧ sysHandler 0 = true ∧ sysService 0x300 = true ∧
      sysHandlerRw 3 = true ∧ (routePorts 0x41A2).isSome = true := by decide +kernel

theorem witness_DivergedCollectivesTrap :
    let s := withRec {} sDiv
    s.cg.converged = false ∧ 0 < (s.level s.cg.tid s.cg.lid).recs.length ∧ Acts s noGuard ∧ Passes s noGuard [] [.s 5] ∧ s.ca.park = none := by
  decide

theorem witness_DivergedCollectivesTrap_others :
    let f : VF := { pl with a := .v 7, sub := 3, d := 15 }
    (Instr.tvote f).wf = true ∧ Acts sDiv f.g ∧ Passes sDiv f.g [(15, 1)] [.p 7 (sDiv.active f.g)] ∧ sDiv.cg.converged = false ∧
      sDiv.ca.park ≠ some .latch ∧ sDiv.cg.tileFlag = none ∧ Passes sDiv noGuard [(15, 1)] [.s 6] := by decide +kernel

/-- The panel's other team, live and not yet arrived. -/
def sPanel : State :=
  let s := s0.setTeam 1 { live := true }
  s.setPanel 0 { live := true, teams := [0, 1] }

theorem witness_TeamCallsComplete_pbar :
    (∀ s ∈ [s0, sPanel], s.cg.converged = true ∧ (s.level s.cg.tid s.cg.lid).depth = 0 ∧ s.ca.park = none ∧ s.relWaits 6 = false ∧
      (s.releaseAct 6).othersAt (fun k => k == .pbar (s.panel s.cteam.panel).gen) = true ∧
      ((s.releaseAct 6).panel s.cteam.panel).arrived.contains s.cg.tid = false) ∧
    (∀ x ∈ ((s0.releaseAct 6).panel s0.cteam.panel).teams, x ≠ s0.cg.tid → ((s0.releaseAct 6).team x).live = true →
      x ∈ ((s0.releaseAct 6).panel s0.cteam.panel).arrived) ∧
    (∃ x ∈ ((sPanel.releaseAct 6).panel sPanel.cteam.panel).teams, x ≠ sPanel.cg.tid ∧ ((sPanel.releaseAct 6).team x).live = true ∧
      x ∉ ((sPanel.releaseAct 6).panel sPanel.cteam.panel).arrived) ∧
    (let s := withArm (fun a => { a with park := some (.pbar 0) }) ((s0.setPanel 0 { live := true, teams := [0], gen := 1 }))
     s.cg.converged = true ∧ s.ca.park = some (.pbar 0) ∧ 0 < (s.panel s.cteam.panel).gen) ∧
    (let s := addGroup s0
     (s.releaseAct 6).othersAt (fun k => k == .pbar (s.panel s.cteam.panel).gen) = false ∧ s.relWaits 6 = false) := by decide

theorem witness_TeamCallsComplete_tvote :
    let f : VF := { pl with a := .v 7, sub := 3, d := 15 }
    (Instr.tvote f).wf = true ∧ s0.cg.converged = true ∧ Acts s0 f.g ∧ Passes s0 f.g [(15, 1)] [.p 7 (s0.active f.g)] ∧
      (s0.releaseAct 4).othersAt State.isTvote = true ∧ s0.ca.park = none ∧ s0.cg.chkHomes = 0 ∧ s0.slot = s0.cg.soleSlot ∧
      (s0.releaseAct 4).groupsOf s0.cg.tid s0.cg.lid = [s0.gid] ∧ (Instr.tvote { f with sub := 2, d := 7 }).wf = true ∧
      (let s := withArm (fun a => { a with park := some (.tvote 1 0 0) }) (addGroup s0)
       (s.setGrp 1 { s.grp 1 with arm0 := s.ca }).othersAt State.isTvote = true) := by decide

/-- A table at address 64 whose only entry, of weight 1, is 0x1000. -/
def sTable : State := withS 5 64 { withTlb with mem := [(65, 0x10), (72, 1)] }

theorem witness_TeamCallsComplete_tcall :
    let u := sTable.releaseAct 4
    let trs := [(0, ⟨64, false, false, 3, 0⟩, tlbE), (0, ⟨128, false, false, 3, 0⟩, tlbE)]
    sTable.cg.converged = true ∧ Acts sTable noGuard ∧ Passes sTable noGuard [] [.s 5] ∧ sTable.ca.park = none ∧ u.othersAt State.isTcall = true ∧
    (∀ g ∈ u.groupsOf u.cg.tid u.cg.lid, g ≠ u.gid → (u.grp g).sole.park = some (.tcall 64)) ∧ (sTable.sreg 5).toNat % 64 = 0 ∧
    u.probe u.ccore u.cg.ctx (!u.ca.handler) .read [(0, sTable.sreg 5), (0, sTable.sreg 5 + 64)] = .ok trs ∧
    (let r := tableOf u trs
     let x := r.1
     let w := (List.range 8).map fun i => (r.2.1.getD (16 * i + 8) 0).toNat
     sTable.cg.lid < sTable.uids ∧ r.2.2 = false ∧ w = [1, 0, 0, 0, 0, 0, 0, 0] ∧ x.ranked = [0] ∧ x.ranked.Nodup ∧ sTable.gid ∈ x.ranked ∧
       (dealRanks (dealCounts w 1))[0]? = some 0 ∧
       (x.level sTable.cg.tid sTable.cg.lid).depth ≠ 8 ∧ 4 * 1 ≤ x.freeRecs x.ccore) ∧
    ((addGroup sTable).releaseAct 4).othersAt State.isTcall = false := by decide +kernel

/-- The group is a strand of its root level. -/
def sStrand : State :=
  withGroup (fun g => { g with lid := 1 }) (withTeam (fun t => { t with levels :=
    [(0, { live := true, call := some ⟨0x200, [1], [], []⟩ }), (1, { live := true, kind := .strand 0x1000, depth := 1, parent := 0 })] }))

theorem witness_TeamCallsComplete_tret :
    let e : CallEntry := ⟨0x200, [1], [], []⟩
    let v := (((sStrand.releaseAct 4).setLevel 0 0 { (sStrand.releaseAct 4).level 0 0 with call := some { e with returned := [sStrand.cg.uid] } })).park .tret
    sStrand.cg.converged = true ∧ sStrand.ca.park = none ∧ (sStrand.level sStrand.cg.tid sStrand.cg.lid).kind = .strand 0x1000 ∧
      (sStrand.level sStrand.cg.tid 0).call = some e ∧ 0 ≤ sStrand.cg.chunks ∧ sStrand.cteam.skeinQ = [] ∧
      v.strandsDone 0 { e with returned := [sStrand.cg.uid] } = true ∧ v.findUid sStrand.cg.uid = some sStrand.gid ∧
      (addGroup v).strandsDone 0 { e with returned := [sStrand.cg.uid] } = false := by decide

/-- A launch with room to spill, and a team with a skein. -/
def sSkein : State :=
  withLaunch (fun l => { l with lrec := { l.lrec with spillkb := 64 } })
    (withTeam (fun t => { t with skeinSize := 8, skeinFree := 4 }) (withGroup fun g => { g with chunks := 2 }))

theorem witness_ForksAndSkeinsComplete :
    (sSkein.cg.live = true ∧ Acts sSkein noGuard ∧ Passes sSkein noGuard [] [] ∧ (sSkein.level sSkein.cg.tid sSkein.cg.lid).depth ≠ 8 ∧
      1 ≤ (sSkein.freeSlots sSkein.ccore).length ∧ 1 ≤ (sSkein.freeBlocks sSkein.cg.launch).length ∧
      1 * (8 * 2) ≤ sSkein.freeRegs sSkein.ccore ∧ 4 ≤ sSkein.freeRecs sSkein.ccore) ∧
    (sSkein.cg.joins = 0 ∧ (withGroup fun g => { g with joins := 1 }).cg.joins ≠ 0) := by decide +kernel

theorem witness_ForksAndSkeinsComplete_short :
    (let s := withTeam (fun t => { t with levels := [(0, { live := true, depth := 8 })] }) sSkein
     s.cg.live = true ∧ (s.level s.cg.tid s.cg.lid).depth = 8 ∧ Acts s noGuard ∧ Passes s noGuard [] []) ∧
    (sSkein.freeSlots sSkein.ccore).length < 33 ∧
    (let s := withTeam (fun t => { t with skeinQ := [(9, 5)] }) sSkein
     s.cg.converged = true ∧ s.cteam.skeinQ ++ [(s.cg.uid, 2)] = (9, 5) :: [(s.cg.uid, 2)] ∧ s.cteam.skeinFree < 5 ∧
       s.skeinCount { sF with imm := 2 } = 2 ∧ 2 ≤ s.cteam.skeinSize ∧ s.cg.window + 8 * 2 ≤ 256 ∧
       s.skeinCount { sF with imm := 9 } = 9 ∧ s.cteam.skeinSize < 9 ∧ s.cg.chunks < 9 ∧ s.skeinCount sF = 0 ∧
       (withArm (fun a => { a with loads := [[.v 24 0 [] 0]] }) s).topPending 2 = true ∧
       (∀ q ∈ s.cteam.skeinQ, q.1 ≠ s.cg.uid) ∧ (withArm (fun a => { a with park := some (.sktake 2) }) s).ca.park = some (.sktake 2)) ∧
    (let s := withTeam (fun t => { t with skeinQ := [(s0.cg.uid, 2)] }) sSkein
     ∃ q ∈ s.cteam.skeinQ, q.1 = s.cg.uid) ∧
    (let v : BitVec 32 := 1
     ¬ (v = 0 ∨ 2 ≤ popcount v)) := by decide +kernel

theorem witness_ForksAndSkeinsComplete_skein :
    let f : SF := { sF with imm := 2 }
    sSkein.cg.converged = true ∧ Acts sSkein f.g ∧ Passes sSkein f.g [] [] ∧ 0 < sSkein.skeinCount f ∧ sSkein.skeinCount f ≤ sSkein.cg.chunks ∧
      sSkein.topPending (sSkein.skeinCount f) = false ∧ sSkein.cteam.skeinQ = [] ∧ sSkein.ca.park = none ∧
      sSkein.findUid sSkein.cg.uid = some sSkein.gid ∧ sSkein.skeinCount f ≤ sSkein.cteam.skeinSize ∧
      sSkein.cg.window + 8 * sSkein.skeinCount f ≤ 256 ∧ sSkein.skeinCount f ≤ sSkein.cteam.skeinFree := by decide

theorem witness_ForksAndSkeinsComplete_gang :
    let s := addGroup s0
    let f : SF := { sF with imm := 3 }
    s.cg.converged = true ∧ Acts s f.g ∧ Passes s f.g [] [] ∧ 2 ≤ popcount f.imm ∧ popcount f.imm ≤ 6 ∧ bit f.imm s.cg.vslot = true ∧
      ∀ k ∈ maskList f.imm, ∃ g ∈ s.groupsOf s.cg.tid s.cg.lid, (s.grp g).vslot = k := by decide


/-! ### Witnesses: memory -/

def mF : MF := { g := noGuard, t := 8, base := 5, off := 0xFF, sc := .none, ord := .rlx, sz := .b32, disp := 0 }
def aF : AF := { g := noGuard, t := 8, base := 5, off := 0xFF, sc := .core, ord := .rlx, sz := .b32, aop := .add, opnd := 7, cmp := 0 }
/-- A team with 4 KiB of scratchpad; s5 names its last words for every lane, v1 the word of each lane from there down. -/
def sScr : State := withS 5 (4096 - 128) (withTeam (fun t => { t with scratch := 4096 }) (withV 1 (fun l => BitVec.ofNat 32 (4 * l))))
def offs (l : Nat) : Nat := 4096 - 128 + 4 * l

theorem witness_ScratchpadAccessesComplete :
    (∀ w ∈ [false, true], ∀ k ∈ [XKind.read, .write],
      let f := { mF with off := 1 }
      Passes sScr f.g ((f.t.toNat, sizeRegs f.sz) :: offRegs f.off) (addrReads f.base f.off (sScr.active f.g)) ∧
      SpAccesses sScr w k f.sz.bytes (sScr.eas f.base f.off f.disp.toInt (sScr.active f.g)) (fun _ => 0) offs) := by decide +kernel

theorem witness_ScratchpadAccessesComplete_atoms :
    let f := { aF with off := 1 }
    let act := sScr.teamOnly (sScr.active f.g)
    let lanes := sScr.eas f.base f.off 0 act
    (Instr.atoms f).wf = true ∧
    Passes sScr f.g (offRegs f.off ++ [(f.opnd.toNat, 1)] ++ [] ++ [(f.t.toNat, 1)])
      (addrReads f.base f.off (sScr.active f.g) ++ [.v f.opnd.toNat 1 (sScr.active f.g)] ++ []) ∧
    SpAccesses sScr true .rmw f.sz.bytes lanes (fun _ => 0) offs ∧ atomTrap f.aop f.sz f.sc.code [] = none ∧ act ≠ 0 ∧
    (∀ l ∈ lanes, ∀ m ∈ lanes, l.1 ≠ m.1 → (0, offs l.1) ≠ (0, offs m.1)) ∧
    (∀ l ∈ lanes, ((released sScr f.ord f.sc).spRead 0 (offs l.1) f.sz.bytes).2 = false) := by decide +kernel

theorem witness_ScratchpadAccessesComplete_lanes :
    NoInjection sScr ∧ (sScr.active noGuard).toNat ≠ 0 ∧ sScr.relWaits 7 = false ∧
      (withGroup (fun g => { g with teamLanes := 0 }) sScr).teamOnly (sScr.active noGuard) = 0 ∧
      NoInjection (released sScr .rlx .core) ∧
      (let s := { sScr with subs := [(3, ⟨true, 0, 0, 0, 128, 64, [], []⟩)] }
       s.subs[0]? = some (3, ⟨true, 0, 0, 0, 128, 64, [], []⟩) ∧ max 120 128 < min (120 + 16) (128 + 64) ∧ min (192 + 4) (128 + 64) ≤ max 192 128) := by
  decide +kernel

/-- Each lane's translation of 64 + 4 l in the page of `tlbE`; s5 = 64 and v1 = 4 l. -/
def sMem (e : TlbEntry := tlbE) : State :=
  let s := withS 5 64 (withV 1 fun l => BitVec.ofNat 32 (4 * l))
  s.setCore 0 { s.core 0 with tlb := [e] }
def tr (e : TlbEntry) (a : Nat) : Tr := ⟨e.pa a, e.coh, e.chk, e.smode, e.sliceNo⟩
def trsOf (e : TlbEntry) : List (Nat × Tr × TlbEntry) := (List.range 32).map fun l => (l, tr e (64 + 4 * l), e)
/-- Page 0 in the host window, and page 0 cached and coherent. -/
def tlbH : TlbEntry := ⟨0, none, 0, 0, 0xFF + 2 ^ 57, 0⟩
def tlbC : TlbEntry := ⟨0, none, 0, 0, 0x1FF, 0⟩

theorem witness_GlobalAccessesComplete_load :
    let f := { mF with off := 1 }
    let s := sMem
    Passes s f.g ((f.t.toNat, sizeRegs f.sz) :: offRegs f.off) (addrReads f.base f.off (s.active f.g)) ∧
      Accesses s (.ld f) (s.eas f.base f.off f.disp.toInt (s.active f.g)) (trsOf tlbE) ∧
      (let u := (asked s (.ld f) (trsOf tlbE)).beforeLoad f
       u.dev.injctl = [] ∧ ∀ r ∈ trsOf tlbE, AtHome u r.2.1) := by decide +kernel

theorem witness_GlobalAccessesComplete_store :
    let f := { mF with off := 1, sc := .device, ord := .rel }
    let lanes := fun (s : State) => s.eas f.base f.off f.disp.toInt (s.teamOnly (s.active f.g))
    Passes sMem f.g ((f.t.toNat, sizeRegs f.sz) :: offRegs f.off) (addrReads f.base f.off (sMem.active f.g)) ∧
      Accesses sMem (.st f) (lanes sMem) (trsOf tlbE) ∧
      (∀ r ∈ trsOf tlbE, AtHome (released (asked sMem (.st f) (trsOf tlbE)) f.ord f.sc) r.2.1) ∧
      Accesses (sMem tlbH) (.st f) (lanes (sMem tlbH)) (trsOf tlbH) ∧ (∀ r ∈ trsOf tlbH, r.2.1.host = true ∧ r.2.1.hole = false) := by decide +kernel

/-- Lane 31 alone stores to a sector that the die owns. -/
def sOwn : State :=
  let s := withArm (fun a => { a with mask := 0x80000000 }) (sMem tlbC)
  s.setDie 0 { s.die 0 with l2 := [(0, some ⟨true, 0, 0, List.replicate 4 { cst := .o, val := BitVec.allOnes 64 }⟩)] }

theorem witness_GlobalAccessesComplete_owned :
    let f := { mF with off := 1 }
    let trs := [(31, tr tlbC 188, tlbC)]
    let u := released (asked sOwn (.st f) trs) f.ord f.sc
    Accesses sOwn (.st f) (sOwn.eas f.base f.off f.disp.toInt (sOwn.teamOnly (sOwn.active f.g))) trs ∧
      (tr tlbC 188).uncached = false ∧ (u.core u.ccore).upd = [] ∧ mget none (u.die u.cdie).l2 ((tr tlbC 188).pa / 256) ≠ none ∧
      u.l2sect u.cdie ((tr tlbC 188).pa / 64) = some (true, { cst := .o, val := BitVec.allOnes 64 }) ∧ (tr tlbC 188).coh = true := by decide +kernel

theorem witness_GlobalAccessesComplete_scalar :
    let s := sMem
    let trs := [(0, tr tlbE 64, tlbE)]
    Acts s mF.g ∧ Passes s mF.g [] (addrReads mF.base mF.off (s.active mF.g)) ∧ s.cg.converged = true ∧ s.teamOnly (s.active mF.g) ≠ 0 ∧
      Accesses s (.sld mF) [(lowest (s.active mF.g), s.ea mF.base mF.off mF.disp.toInt 0)] trs ∧
      Accesses s (.sst mF) [(lowest (s.teamOnly (s.active mF.g)), s.ea mF.base mF.off mF.disp.toInt 0)] trs ∧
      (let u := (asked s (.sld mF) trs).beforeLoad mF
       u.dev.injctl = [] ∧ ∀ r ∈ trs, AtHome u r.2.1) ∧
      (∀ r ∈ trs, AtHome (released (asked s (.sst mF) trs) mF.ord mF.sc) r.2.1) ∧
      Accesses (sMem tlbH) (.sst mF) [(0, 64)] [(0, tr tlbH 64, tlbH)] ∧ (tr tlbH 64).host = true := by decide +kernel

theorem witness_GlobalAccessesComplete_atomics :
    let f := { aF with off := 1, sc := .device }
    let s := sMem
    Passes s f.g (offRegs f.off ++ [(f.opnd.toNat, 1)] ++ [] ++ [(f.t.toNat, 1)])
        (addrReads f.base f.off (s.active f.g) ++ [.v f.opnd.toNat 1 (s.active f.g)] ++ []) ∧
      Accesses s (.atom f) (s.eas f.base f.off 0 (s.teamOnly (s.active f.g))) (trsOf tlbE) ∧
      Accesses s (.red f) (s.eas f.base f.off 0 (s.teamOnly (s.active f.g))) (trsOf tlbE) ∧
      atomTrap f.aop f.sz f.sc.code (lanesOf (trsOf tlbE)) = none ∧
      (let t : Tr := ⟨188, true, false, 3, 0⟩
       AtHome s t ∧ t.coh = true ∧ s.homePsn (t.pa / 64) = false ∧ s.dev.injctl = [] ∧ (s.core s.ccore).upd = [] ∧ t.pa % 64 + 4 ≤ 64) ∧
      (let t : Tr := ⟨192, true, false, 0, 0⟩
       let r := s.setCore s.ccore { s.core s.ccore with upd := [⟨0, s.cg.ctx, true, 0, .add, false, []⟩] }
       t.hole = false ∧ t.host = false ∧ State.usesUpdLine t 3 .add = true ∧
         (r.core r.ccore).upd = [⟨t.pa / 256, r.cg.ctx, t.coh, t.sl, .add, false, []⟩]) := by decide +kernel

/-- Lane 31 alone accesses a coherent page. -/
def sOne : State := withArm (fun a => { a with mask := 0x80000000 }) (sMem tlbC)
/-- It hits a line of the L1. -/
def sHit : State := sOne.setCore 0 { sOne.core 0 with l1 := [(2, some ⟨List.replicate 64 7, false⟩)] }

theorem witness_GlobalAccessesComplete_cached :
    let f := { mF with off := 1 }
    let trs := [(31, tr tlbC 188, tlbC)]
    let u := fun (s : State) => (asked s (.ld f) trs).beforeLoad f
    (∀ s ∈ [sOne, sHit, sOwn], Passes s f.g ((f.t.toNat, sizeRegs f.sz) :: offRegs f.off) (addrReads f.base f.off (s.active f.g)) ∧
      Accesses s (.ld f) (s.eas f.base f.off f.disp.toInt (s.active f.g)) trs ∧ (u s).dev.injctl = []) ∧
    (tr tlbC 188).uncached = false ∧ (tr tlbC 188).host = false ∧ (tr tlbC 188).hole = false ∧ (tr tlbC 188).coh = true ∧
    mget none ((u sHit).core (u sHit).ccore).l1 2 ≠ none ∧
    (∀ s ∈ [sOne, sOwn], mget none ((u s).core (u s).ccore).l1 ((tr tlbC 188).pa / 64) = none ∧ ((u s).core (u s).ccore).upd = []) ∧
    ((u sOne).l2sect (u sOne).cdie ((tr tlbC 188).pa / 64) = none ∧ Quiet (u sOne) ((tr tlbC 188).pa / 64)) ∧
    (u sOwn).l2sect (u sOwn).cdie ((tr tlbC 188).pa / 64) = some (true, { cst := .o, val := BitVec.allOnes 64 }) ∧
    (let v := released (asked sOne (.st f) trs) f.ord f.sc
     Accesses sOne (.st f) (sOne.eas f.base f.off f.disp.toInt (sOne.teamOnly (sOne.active f.g))) trs ∧ (v.core v.ccore).upd = [] ∧
       v.l2sect v.cdie ((tr tlbC 188).pa / 64) = none ∧ Quiet v ((tr tlbC 188).pa / 64)) := by decide +kernel

theorem witness_GlobalAccessesComplete_noLane :
    let s := withGroup (fun g => { g with teamLanes := 0 }) sMem
    s.teamOnly (s.active mF.g) = 0 ∧ Acts s mF.g ∧ s.eas mF.base mF.off 0 (s.teamOnly (s.active mF.g)) = [] ∧
      Accesses s (.st mF) [] [] ∧ Accesses s (.atom aF) [] [] ∧ Accesses s (.red aF) [] [] ∧ Accesses s (.ld mF) [] [] ∧
      atomTrap aF.aop aF.sz aF.sc.code [] = none := by decide +kernel

/-- s4 = 256 holds an aligned address, s5 = 0, s6 = 256. -/
def sRange (e : TlbEntry) : State := let s := withS 6 256 (withS 5 0 (withS 4 256 s0)); s.setCore 0 { s.core 0 with tlb := [e] }

theorem witness_CacheControlsComplete :
    let f := { mF with base := 4, t := 5, sc := .device }
    let h := { f with t := 6 }
    let s := sRange tlbC
    let a := s.sreg f.base.toNat + BitVec.ofInt 64 f.disp.toInt
    (Acts s f.g ∧ Passes s f.g [] [.s f.base.toNat, .s f.t.toNat] ∧ a.toNat % 256 = 0 ∧ (s.sreg f.t.toNat).toNat = 0 ∧
      ((withS 6 8 s).sreg 6).toNat % 256 ≠ 0 ∧ 524288 < ((withS 6 524544 s).sreg 6).toNat ∧ (withS 4 8 s).sreg 4 = 8) ∧
    ((s.sreg h.t.toNat).toNat = 256 ∧
      s.probe s.ccore s.cg.ctx (!s.ca.handler) .read [(lowest (s.active f.g), a)] = .ok [(0, tr tlbC 256, tlbC)] ∧
      (tr tlbC 256).uncached = false ∧ 7 ≤ f.sc.code ∧
      (let u := used s .read [(0, tr tlbC 256, tlbC)]
       ∀ op ∈ [RangeOp.wb, .inv, .wbi],
         u.waitsAny u.cdie u.cctx.part (u.rangeNeeds op f.sc.code { tr tlbC 256 with pa := tlbC.pa a.toNat }) = false)) ∧
    (Passes s f.g (offRegs f.off) (addrReads f.base f.off (s.active f.g)) ∧ Passes s f.g [] [] ∧
      Order.isRel .rel = true ∧ Order.isAcq .acq = true ∧ 6 ≤ Scope.code .cluster ∧ s.relWaits 7 = false) := by decide +kernel

/-- Every lane names peer 3, which is valid, in v2, and address 64 in the pair v4. -/
def sRem : State :=
  withCtx (fun c => { c with peers := [(3, 0x80000009)] }) (withV 2 (fun _ => 3) (withV 4 (fun _ => 64) (withLaunch (fun l => { l with hvec := 0x800 }))))
def rF : MF := { mF with base := 2, off := 4, sz := .b64 }
def raF : AF := { aF with base := 2, off := 4, sc := .domain }

def formOf (i : Instr) : RemoteForm := (remoteForm i).getD ⟨noGuard, 0, 0, 0, .none, .rlx, .b32, [], fun _ => [], none⟩

theorem witness_RemoteAccessesComplete :
    (∀ x ∈ [(Instr.rld rF, XKind.read), (.rst rF, .write), (.ratom raF, .rmw)],
      (remoteForm x.1).isSome = true ∧ x.1.wf = true ∧
      Passes sRem noGuard ([(2, 1), (4, 2)] ++ (formOf x.1).regs) ([.v 2 1 (sRem.active noGuard), .v 4 2 (sRem.active noGuard)] ++
        (formOf x.1).reads (sRem.active noGuard)) ∧ (formOf x.1).g = noGuard ∧ (formOf x.1).base = 2 ∧ (formOf x.1).off = 4 ∧
      sRem.remoteProbe (formOf x.1) x.2 (sRem.remoteLanes (formOf x.1) (sRem.active noGuard)) = none ∧ (formOf x.1).trap = none) ∧
    sRem.ca.done = 0 ∧ (∀ x ∈ [Instr.rld rF, .rst rF, .ratom raF], sRem.replayHeld x 3 = false) ∧ (∀ l, l < 32 → (sRem.cg.vlane 2 l).toNat = 3) ∧ sRem.peerDown 3 = false ∧ sRem.active noGuard ≠ 0 := by decide +kernel

/-- The arm waits for the answer of lanes 0 and 31. -/
def sAns : State :=
  withArm (fun a => { a with park := some (.remote [(0, 64), (31, 64)] true), mask := 0x80000001,
                             clause := some ⟨0, State.plainHeader, [encode (.rld rF)], 0⟩ }) sRem

theorem witness_RemoteAccessesComplete_answer :
    let F := formOf (.rld rF)
    { sAns with cur := (0, 0) }.ca.park = some (.remote [(0, 64), (31, 64)] true) ∧ sAns.ca.head = some (.rld rF) ∧ (remoteForm (.rld rF)).isSome = true ∧
      (∀ l, l < 32 → bit (sAns.teamOnly (sAns.active F.g)) l = true → ∃ x ∈ [(0, (64 : Word)), (31, 64)], x.1 = l) ∧
      ([(0, [1, 2, 3, 4, 5, 6, 7, 8], false), (31, [0, 0, 0, 0, 0, 0, 0, 0], true)] : List (Nat × List Byte × Bool)).find? (fun v => v.1 == 0) =
        some (0, [1, 2, 3, 4, 5, 6, 7, 8], false) ∧
      bit sAns.cg.present 0 = true ∧ TakesHandler sAns 0 0 := by decide +kernel

/-- Device 9 is bound to context 0, whose page 0 the ingress MMU holds as exported. -/
def sIng : State :=
  { s0 with dev := { s0.dev with expb := [(9, 0)] }, ingressTlb := [⟨0, none, 0, 0, 0x34FF, 0⟩] }

theorem witness_RemoteAccessesComplete_ingress :
    let e : TlbEntry := ⟨0, none, 0, 0, 0x34FF, 0⟩
    s0.binding 9 = none ∧ sIng.binding 9 = some 0 ∧ sIng.xinvHolds 0 = false ∧ sIng.heldTo 9 false = false ∧ sIng.dev.injctl = [] ∧
      sIng.homePsn (e.pa 60 / 64) = false ∧ sIng.ingressXlate 0 60 = (sIng, some e) ∧ e.exp = true ∧ e.u = true ∧
      e.pa 60 + 4 ≤ Config.deviceMemTop ∧ e.pa 60 % 64 + 4 ≤ 64 ∧ sIng.dirEnt (e.pa 60 / 64) = {} ∧ e.rd = true ∧ e.w = true ∧ e.d = true ∧
      ([1, 2, 3, 4] : List Byte).length = 4 := by decide +kernel

theorem witness_RemoteAccessesComplete_requests :
    (∀ s ∈ [s0, sIng], s.rangeBusy (s.dev.flogbase + 32 * s.dev.flogIdx) 32 true = false ∧ s.heldTo 9 false = false ∧ s.heldTo 9 true = false) ∧
    (let e : TlbEntry := ⟨0, none, 0, 0, 0x34FF, 0⟩
     ∀ k ∈ [RemoteKind.read, .write, .rmw], sIng.ingressWaits 0 ⟨9, k, 60, 4, [1, 2, 3, 4], false, .add, 0, 0, 0, 0⟩ e = false) ∧
    Quiet sIng 0 ∧
    (let s := { sAns with cur := (0, 0) }
     s.ca.answers = [] ∧ ∃ x ∈ [(0, (64 : Word)), (31, 64)], ∀ v ∈ ([(0, [1, 2, 3, 4, 5, 6, 7, 8], false)] : List (Nat × List Byte × Bool)), v.1 ≠ x.1) ∧
    (let s := { sRem with portSets := [(9, [0])], planes := [(0, { exhausted := true }), (1, { exhausted := true })] }
     s.replayHeld (.rld rF) 3 = true) := by decide +kernel


/-! ### Witnesses: copies, queues, messages -/

/-- `n` bytes that hold the given values (offset, size, value). -/
def desc (n : Nat) (fs : List (Nat × Nat × Nat)) : List Byte :=
  fs.foldl (fun d f => d.take f.1 ++ bytesOfNat f.2.1 f.2.2 ++ d.drop (f.1 + f.2.1)) (List.replicate n 0)
/-- A copy descriptor: 8 words of b32 from 0x1000 of the scratchpad to 0x100 of it, one dimension. -/
def cD : List Byte := desc 128 [(0, 8, 0x800), (8, 8, 0x100), (16, 1, 0x11), (17, 1, 0x22), (19, 1, 1), (32, 4, 8), (36, 4, 8), (40, 4, 4), (44, 4, 4)]
/-- A gather of one row of 4 bytes from global memory to the scratchpad. -/
def gD : List Byte := desc 64 [(8, 8, 0x100), (16, 4, 0x200), (20, 4, 1), (24, 4, 4), (28, 4, 1), (32, 1, 1)]
/-- A multicast of 8 words to the scratchpads of the destinations. -/
def mD : List Byte := desc 128 [(0, 8, 0x800), (8, 8, 0x100), (16, 1, 0x21), (17, 1, 0x22), (19, 1, 1), (32, 4, 8), (36, 4, 8), (40, 4, 4), (44, 4, 4)]
/-- The descriptor stands at 0 of the team's scratchpad, which s5 names. -/
def sD (d : List Byte) (s : State := s0) : State := (withTeam (fun t => { t with scratch := 4096 }) s).spWrite 0 0 d false
def xF : XF := { g := noGuard, s1 := 5, s2 := 6, v := 0xFF, cq := 0, ct := .none, bar := 0, sc := .none, imm := 0 }

theorem witness_CopyIssuesComplete_cpy :
    let f := { xF with ct := .cont, imm := 8 }
    let s := sD cD
    Acts s f.g ∧ s.ca.park = none ∧ Passes s f.g [] [.s 5] ∧ DescAt s 5 128 64 cD ∧ CDesc.valid cD = true ∧ s.cteam.queues.length = 5 ∧
      (s.queue s.cg.tid 3).entries.length < 16 ∧ s.cg.copies < 63 ∧ DescAt (sD (desc 128 [])) 5 128 64 (desc 128 []) ∧
      CDesc.valid (desc 128 []) = false ∧
      (let w := withArm (fun a => { a with park := some (.queue cD [0] 32) }) s
       w.ca.park = some (.queue cD [0] 32) ∧ w.cteam.queues.length = 5 ∧ (w.queue w.cg.tid 3).entries.length < 16 ∧ w.cg.copies < 63) := by decide +kernel

theorem witness_CopyIssuesComplete_gath :
    let s := sD gD
    Acts s xF.g ∧ Passes s xF.g [] [.s 5] ∧ DescAt s 5 64 64 gD ∧ GDesc.valid gD = true ∧ (s.queue s.cg.tid 4).entries.length < 16 ∧
      DescAt (sD (desc 64 [])) 5 64 64 (desc 64 []) ∧ GDesc.valid (desc 64 []) = false := by decide +kernel

theorem witness_CopyIssuesComplete_cpym :
    let f := { xF with v := 1 }
    let s := withS 6 4064 (sD mD)
    let act := s.teamOnly (s.active f.g)
    Acts s f.g ∧ s.ca.park = none ∧ Passes s f.g [(1, 1)] [.s 5, .s 6, .v 1 1 act] ∧ DescAt s 5 128 64 mD ∧ State.mcValid mD = true ∧
      (∀ l, l < 32 → (s.cg.vlane 1 l).toNat < 128 ∧ s.panelTeam s.cteam.panel (s.cg.vlane 1 l).toNat ≠ none) ∧
      (s.sreg 6).toNat % 32 = 0 ∧ (s.sreg 6).toNat + 32 ≤ s.cteam.scratch := by decide +kernel

theorem witness_CopyIssuesComplete_qfence :
    Acts s0 noGuard ∧ Passes s0 noGuard [] [] ∧ s0.cteam.queues.length = 5 ∧ (s0.queue 0 0).entries.length < 16 ∧ s0.cg.copies < 63 ∧
      (bit (31 : BitVec 17) 5 = false ∧ (31 : BitVec 17).toNat % 32 ≠ 0 ∧ (31 : BitVec 17).toNat % 32 ≠ 2 ^ (0 : BitVec 2).toNat) ∧
      (bit (33 : BitVec 17) 5 = true ∧ (33 : BitVec 17).toNat % 32 ≠ 0 ∧ (33 : BitVec 17).toNat % 32 ≠ 2 ^ 4) ∧
      (bit (48 : BitVec 17) 5 = true ∧ (48 : BitVec 17).toNat % 32 = 2 ^ 4) ∧
      (let s := withTeam fun t => { t with queues := [{ entries := List.replicate 16 { id := 1, kind := .copy, desc := [], ct := .none, bar := 0, lid := 0, sc := 0, by_ := none } }, {}, {}, {}, {}] }
       s.cteam.queues.length = 5 ∧ 16 ≤ (s.queue s.cg.tid 0).entries.length) ∧ 63 ≤ (withGroup fun g => { g with copies := 63 }).cg.copies := by decide

/-- A team with a pattern of one row whose T is 4. -/
def sPat : State := withLaunch fun l => { l with lrec := { l.lrec with patrows := 1 }, rows := [List.replicate 16 0], patT := 4 }

theorem witness_QueueControlsComplete :
    (let f := { xF with imm := 4 }
     Acts sPat f.g ∧ Passes sPat f.g [] (if f.imm = 0 then [.s 6] else []) ∧ f.imm.toNat ≤ 65535 ∧ (sPat.queue sPat.cg.tid 3).stop = none ∧
       sPat.cteam.pat.granted + f.imm.toNat ≤ (sPat.launch sPat.cteam.launch).patT ∧
       (sPat.launch sPat.cteam.launch).patT < sPat.cteam.pat.granted + 5) ∧
    ((sPat.queue 0 3).entries.length < 256 ∧ (sPat.launch sPat.cteam.launch).lrec.patrows ≠ 0 ∧ sPat.cg.converged = true) ∧
    (let s := withTeam fun t => { t with queues := [{ stop := some ⟨0x100, true, 1⟩ }, {}, {}, {}, {}] }
     Acts s xF.g ∧ Passes s xF.g [] [] ∧ s.cteam.queues.length = 5 ∧ (s.queue s.cg.tid 0).stop ≠ none ∧ bit (1 : BitVec 17) 0 = true) := by
  decide +kernel

def qF (n : BitVec 3) : QF := { g := noGuard, v := 0xFF, s := 5, qr := n, pd := 1 }
/-- A collective of one rank: its all-reduce of one n32 word from page 0. -/
def kD : List Byte := desc 64 [(8, 8, 0x100), (16, 4, 1), (22, 1, 4), (24, 2, 7)]
def sComm (s : State := s0) : State := { s with comms := [(7, { live := true, n := 1, tree := [.inl 0] })] }

theorem witness_QueueRegistersComplete_push :
    Acts s0 noGuard ∧ Passes s0 noGuard [] [.s 5] ∧ s0.cteam.mail.length < 64 ∧
      64 ≤ (withTeam fun t => { t with mail := List.replicate 64 { word := 0, pay := [] } }).cteam.mail.length ∧
      (DescAt (sD gD) 5 64 64 gD ∧ GDesc.valid gD = true ∧ (sD gD).cteam.queues.length = 5 ∧ ((sD gD).queue 0 4).entries.length < 16) ∧
      (DescAt (sComm (sD kD)) 5 64 64 kD ∧ (sComm (sD kD)).collBad kD = none ∧ (sComm (sD kD)).cteam.q2.length < 64 ∧
        (sComm (sD kD)).relWaits 7 = false ∧ (sComm (sD kD)).ca.park = none) ∧
      (Passes s0 noGuard [(15, 1)] [.s 5]) := by decide +kernel

theorem witness_QueueRegistersComplete_pop :
    (∀ n ∈ [0, 1, 3, 5, 7], State.popQueue s0.cteam n = []) ∧
    (let s := withTeam fun t => { t with q0 := [⟨5, List.replicate 32 7, false, 0, 0⟩] }
     Acts s noGuard ∧ Passes s noGuard [] [] ∧ s.cg.converged = true ∧ State.popQueue s.cteam 0 = [⟨5, List.replicate 32 7, false, 0, 0⟩] ∧
       s.truncTrap 0 ⟨5, List.replicate 32 7, false, 0, 0⟩ = none) := by decide +kernel

/-- Every colour between die 0 and port 8 has failed. -/
def withRoutes (s : State) : State := { s with routes := [(8, { aup := false, bup := false })] }
/-- The L2 of die 0 holds a dirty sector of context 0 whose home is chiplet 0. -/
def dirtyDie (s : State) : State := s.setDie 0 { s.die 0 with l2 := [(0, some ⟨false, 0, 0, [{ val := 3, drt := 2 }, {}, {}, {}]⟩)] }

def ent (d : List Byte) (k : EntryKind) : CopyEntry := { id := 1, kind := k, desc := d, ct := .none, bar := 0, lid := 0, sc := 0, by_ := none }
def sEnt (e : CopyEntry) : State := withTeam (fun t => { t with queues := [{ entries := [e] }, {}, {}, {}, {}] }) (sD cD)
/-- The copy has started; the second one's source lies beyond the scratchpad. -/
def eRun : CopyEntry := { ent cD .copy with started := true }
def eBad : CopyEntry := { ent (desc 128 [(0, 8, 0x10000), (8, 8, 0x100), (16, 1, 0x11), (17, 1, 0x22), (19, 1, 1), (32, 4, 1), (36, 4, 1)]) .copy with started := true }

theorem witness_EngineEventsComplete_start :
    ((sEnt (ent cD .copy)).qHead 0 0 = some (ent cD .copy) ∧ (sEnt (ent cD .copy)).startFail 0 (ent cD .copy) = none ∧ (ent cD .copy).fifo = false) ∧
    ((sEnt (ent [] (.stitch 2))).qHead 0 0 = some (ent [] (.stitch 2)) ∧ (sEnt (ent [] (.stitch 2))).startFail 0 (ent [] (.stitch 2)) = none ∧
      (sEnt (ent [] (.stitch 2))).stitchDone 0 0 (ent [] (.stitch 2)) 2 = true) ∧
    (let e := { ent [] (.stitch 2) with id := 2 }
     let s := withTeam (fun t => { t with queues := [{ entries := [e] }, { entries := [ent cD .copy] }, {}, {}, {}] })
     s.qHead 0 0 = some e ∧ s.startFail 0 e = none ∧ s.stitchDone 0 0 e 2 = false) := by decide +kernel

theorem witness_EngineEventsComplete_deliver :
    ((sEnt eRun).qHead 0 0 = some eRun ∧ (match (sEnt eRun).copyElem 0 0 eRun eRun.pos [] with | .ok _ => true | .error _ => false) = true ∧
      eRun.pos < eRun.total) ∧
    (let e := { eRun with pos := 8 }
     (sEnt e).qHead 0 0 = some e ∧ e.total ≤ e.pos ∧ e.ct ≠ .cont ∧ (sEnt e).entryWaits 0 e.sc = false) ∧
    (let e := { eRun with ct := .bar, sc := 7 }
     let s := withRoutes (dirtyDie (sEnt e))
     s.qHead 0 0 = some e ∧ e.ct = .bar ∧ s.entryWaits 0 e.sc = true ∧ (sEnt e).entryWaits 0 e.sc = false) ∧
    ((sEnt eBad).qHead 0 0 = some eBad ∧ ((sEnt eBad).team 0).live = true ∧ ((sEnt eBad).nextFail 0 0 eBad 0).isSome = true ∧ eBad.ct ≠ .cont) ∧
    (let e := { eRun with pos := 8, ct := .cnt, by_ := some ⟨1, 0, 0, 0⟩ }
     (sEnt e).qHead 0 0 = some e ∧ e.total ≤ e.pos ∧ (sEnt e).findUid 1 = some 0) := by decide +kernel

/-- R499: 64 clean bytes from 0x1C0 are a whole sector; with one of them poisoned, or one missing, they are not. -/
theorem test_whole_sector :
    State.wholeSectors ((List.range 80).map fun k => (0x1B8 + k, false)) = [7] ∧
    State.wholeSectors ((List.range 80).map fun k => (0x1B8 + k, k == 40)) = [] ∧
    State.wholeSectors ((List.range 63).map fun k => (0x1C0 + k, false)) = [] := by decide +kernel

/-- A pattern row with a kind (1 a copy, 2 a loop back by 0 of 2 turns, 3 a stitch), granted once. -/
def sRow (k : Nat) : State :=
  withLaunch (fun l => { l with rows := [desc 16 [(0, 1, k), (1, 1, 2), (8, 4, 2)]], patT := 4 }) (withTeam fun t => { t with pat := { granted := 1 } })

theorem witness_EngineEventsComplete_pattern :
    (∀ k ∈ [1, 2, 3], ((sRow k).team 0).saved = false ∧ ((sRow k).team 0).pat.executed < ((sRow k).team 0).pat.granted ∧
      du (((sRow k).launch ((sRow k).team 0).launch).rows.getD 0 []) 0 1 = k ∧ 3 < ((sRow k).team 0).queues.length ∧
      ((sRow k).queue 0 3).entries.length < 16 ∧
      (match (sRow k).readTemplate 0 (du (((sRow k).launch ((sRow k).team 0).launch).rows.getD 0 []) 8 8) with | .error 0 => false | _ => true) = true) ∧
    (mget 0 ((sRow 2).team 0).pat.ctrs 0 + 1 < du (((sRow 2).launch 0).rows.getD 0 []) 8 4) ∧
    (let s := withTeam (fun t => { t with held := [(5, ⟨1, [], false, 0, 0⟩)] })
     (s.team 0).live = true ∧ (s.team 0).held = [(5, ⟨1, [], false, 0, 0⟩)] ∧ (s.team 0).q5.length < 256) := by decide +kernel

/-- The copy of `cD` with the given kinds (source and destination), bound and destination. -/
def kinds (kk bound dst : Nat) : List Byte :=
  desc 128 [(0, 8, 0x800), (8, 8, dst), (16, 1, kk), (17, 1, 0x22), (19, 1, 1), (32, 4, 8), (36, 4, bound), (40, 4, 4), (44, 4, 4)]
def eKinds (kk bound dst : Nat) : CopyEntry := { ent (kinds kk bound dst) .copy with started := true }

theorem witness_EngineEventsComplete_elements :
    let s := withTlb (sEnt (eKinds 0x11 8 0x100))
    let t0 := s.team 0
    let c := fun kk bound dst => CDesc.of (eKinds kk bound dst).desc
    s.dev.injctl = [] ∧ (c 0x11 8 0x100).sf = (c 0x11 8 0x100).df ∧
    ((c 0x11 0 0x100).elemSrc 7 = none ∧ (c 0x11 0 0x100).dk = 1 ∧ ((c 0x11 0 0x100).elemDst 7).toNat + 4 ≤ t0.scratch) ∧
    ((c 0x11 8 0xFE0).elemSrc 7 = some 0x81C ∧ (c 0x11 8 0xFE0).sk = 1 ∧ 0x81C + 4 ≤ t0.scratch ∧
      ((c 0x11 8 0xFE0).elemDst 7).toNat + (c 0x11 8 0xFE0).dsz = t0.scratch) ∧
    (let dst := (c 0x01 8 0x100).elemDst 7
     (c 0x01 8 0x100).dk = 0 ∧ (match s.engXlate t0.core t0.ctx true (s.queue 0 0).dstPg dst with
         | .ok (u, tr, _) => decide (AtHome u tr) && decide (tr.pa % 64 + 4 ≤ 64) && !u.engWaits t0.core t0.ctx tr 4 true
         | .error _ => false) = true) ∧
    ((c 0x10 8 0x100).sk = 0 ∧ (c 0x10 8 0x100).dk = 1 ∧ (match (c 0x10 8 0x100).elemSrc 7 with
      | some a => (match s.engXlate t0.core t0.ctx false (s.queue 0 0).srcPg a with
         | .ok (u, tr, _) => decide (AtHome u tr) && decide (tr.pa % 64 + 4 ≤ 64) && !u.engWaits t0.core t0.ctx tr 4 false
         | .error _ => false)
      | none => false) = true ∧ ((c 0x10 8 0x100).elemDst 7).toNat + 4 ≤ t0.scratch) := by decide +kernel

theorem witness_EngineEventsComplete_counts :
    (sEnt eRun).xinvs = [] ∧ 0 < ((sEnt eRun).team 0).queues.length ∧
    (let e := { eRun with ct := .bar }
     let s := withTeam (fun t => { t with queues := [{ entries := [e] }, {}, {}, {}, {}], levels := [(0, { live := true, recs := [{ pend := 32 }] })] }) (sD cD)
     s.qHead 0 0 = some e ∧ s.entryWaits 0 e.sc = false ∧ e.bar < (s.level 0 e.lid).recs.length ∧
       pendFits (((s.level 0 e.lid).recs.getD e.bar {}).pend - (8 * e.size : Nat)) = true) ∧
    (let e : CopyEntry := { ent (desc 128 [(0, 8, 0x800), (16, 1, 0x31), (17, 1, 0x44), (19, 1, 1), (32, 4, 16384), (36, 4, 8), (40, 4, 1)]) .copy with started := true }
     let s := sEnt e
     e.fifo = true ∧ (s.tidyPages 0 0 e) = s) ∧
    (let e := { eRun with pos := 8, ct := .cont, by_ := some ⟨1, 0, 0x200, 0x108⟩ }
     let s := withArm (fun a => { a with park := some (.cont e.id) }) (sEnt e)
     s.qHead 0 0 = some e ∧ e.total ≤ e.pos ∧ s.entryWaits 0 e.sc = false ∧ s.findUid 1 = some 0 ∧ ((s.grp 0).arm 0).park = some (.cont e.id)) := by
  decide +kernel

/-- The template of the row's copy stands at the address that the row names. -/
theorem witness_EngineEventsComplete_template :
    let s := withTlb (sRow 1)
    (match s.readTemplate 0 (du ((s.launch 0).rows.getD 0 []) 8 8) with | .ok (_, d) => decide (d.length = 128) | .error _ => false) = true ∧
      (s.team 0).saved = false ∧ 3 < (s.team 0).queues.length := by decide +kernel

/-- A send of 4 bytes to peer 3, and a receive of 16 bytes from any source. -/
def sendD : List Byte := desc 64 [(0, 8, 0x40), (8, 1, 1), (10, 1, 3), (12, 4, 7), (16, 4, 4)]
def recvD : List Byte := desc 64 [(8, 1, 1), (10, 2, 0x100), (12, 4, 7), (16, 4, 0xFFFFFFFF), (20, 4, 16), (24, 4, 1), (28, 4, 1), (48, 2, 9)]
def msg : Message := { sdev := 9, tag := 7, len := 100000, eager := false, payload := [], self := none }
/-- Peer 3 is device 9, which is bound to the context. -/
def sPeer (s : State := s0) : State := { withCtx (fun c => { c with peers := [(3, 0x80000009)] }) s with dev := { s0.dev with expb := [(9, 0)] } }

def withTeamLanes (m : BitVec 32) (s : State) : State := s.setGrp 0 { s.grp 0 with teamLanes := m }

theorem witness_MessagesComplete_send :
    let s := sPeer (sD sendD)
    let h := withTeamLanes 0 s
    Acts s xF.g ∧ Passes s xF.g [] [.s 5] ∧ DescAt s 5 64 64 sendD ∧ s.peerValid 3 = true ∧ State.sendValid sendD = true ∧ s.peerDown 3 = false ∧
      s.teamOnly (s.active xF.g) ≠ 0 ∧ s.relWaits (State.wideScope xF.sc.code) = false ∧
      Acts h xF.g ∧ Passes h xF.g [] [.s 5] ∧ DescAt h 5 64 64 sendD ∧ h.teamOnly (h.active xF.g) = 0 ∧
      (let v := withCtx (fun c => { c with peers := [(3, 0xC0000009)] }) s
       v.peerDown 3 = true ∧ v.peerValid 3 = true ∧ DescAt v 5 64 64 sendD) ∧
      (sD sendD).peerValid 3 = false ∧ State.sendValid (desc 64 [(8, 1, 2), (10, 1, 3)]) = false ∧
      DescAt (sPeer (sD (desc 64 [(8, 1, 2), (10, 1, 3)]))) 5 64 64 (desc 64 [(8, 1, 2), (10, 1, 3)]) := by decide +kernel

theorem witness_MessagesComplete_receive :
    let s := sPeer (sD recvD)
    let r : Posted := ⟨0, 0, recvD⟩
    let t := { s with hook := { s.hook with unexpected := [⟨0, msg⟩] } }
    s.ca.park = none ∧ Acts s xF.g ∧ Passes s xF.g [] [.s 5] ∧ DescAt s 5 64 64 recvD ∧ r.src = 0x100 ∧ State.recvValid r = true ∧
      s.hook.posted.length < Config.postedMax ∧ s.cctx.hooksh.toNat % 65536 = 0 ∧ (∀ u ∈ s.hook.unexpected, (u.ctx == 0) = false) ∧
      t.hook.unexpected.find? (fun u => u.ctx == t.cg.ctx && t.specMatches t.cg.ctx r.src r.tag r.mask u.msg) = some ⟨0, msg⟩ ∧
      t.recvHeld r msg = false := by decide +kernel

theorem witness_MessagesComplete_probe :
    let s := withS 5 (0x100 * 2 ^ 32 + 7) (withS 6 0xFFFFFFFF { sPeer with hook := { s0.hook with unexpected := [⟨0, msg⟩] } })
    let f := { xF with imm := 62 }
    Acts s f.g ∧ Passes s f.g [] [.s 5, .s 6] ∧ f.imm.toNat % 64 < 63 ∧ s.cg.converged = true ∧ (s.sreg 5).toNat < 2 ^ 41 ∧
      s.hook.unexpected.find? (fun u => u.ctx == s.cg.ctx && s.specMatches s.cg.ctx ((s.sreg 5).toNat / 2 ^ 32)
        (BitVec.ofNat 32 (s.sreg 5).toNat) (BitVec.ofNat 32 (s.sreg 6).toNat) u.msg) = some ⟨0, msg⟩ := by decide +kernel

def cmdS : SendCmd := { id := 5, ctx := 0, tid := 0, desc := sendD, dev := 9 }

theorem witness_HookEventsComplete :
    (let s := { sPeer (sD sendD) with hook := { s0.hook with sends := [cmdS] } }
     s.nextSend = some cmdS ∧ cmdS.dev ≠ s.self ∧ msg.len < 2 ^ 32 ∧ sPeer.heldTo 9 false = false ∧ du cmdS.desc 16 4 ≤ 16384 ∧ (s.sendPayload cmdS (du cmdS.desc 16 4)).isSome = true) ∧
    (sPeer.binding 9 = some 0 ∧ sPeer.peersOf 0 9 ≠ [] ∧ sPeer.hook.posted = [] ∧ sPeer.hookRoom 0 msg = true) ∧
    ((withCtx (fun c => { c with hooksh := 0x10000 }) { sPeer with hook := { s0.hook with unexpected := [⟨0, msg⟩] } }).hookRoom 0 msg = false) ∧
    (let s := { sPeer with hook := { s0.hook with pulls := [⟨4, ⟨0, 0, recvD⟩, msg⟩] } }
     (msg.self.bind (fun k => s.hook.sends.find? fun c => c.id == k)).isNone = true ∧ s.xinvHolds 0 = false ∧
       s.hook.pulls.find? (fun p => p.id == 4) = some ⟨4, ⟨0, 0, recvD⟩, msg⟩ ∧ s.recvHeld ⟨0, 0, recvD⟩ msg = false) ∧
    (let s := { sPeer with hook := { s0.hook with sends := [{ cmdS with refused := true }] } }
     s.hook.sends.find? (fun c => c.dev == 9 && c.refused) = some { cmdS with refused := true } ∧ (s.team 0).saved = false ∧ 9 ≠ s.self) := by
  decide +kernel

def withSends (l : List SendCmd) (s : State := sPeer (sD sendD)) : State := { s with hook := { s.hook with sends := l } }
/-- A rendezvous send of 100,000 bytes, and a send whose payload lies beyond the scratchpad. -/
def cmdR : SendCmd := { cmdS with desc := desc 64 [(0, 8, 0x40), (10, 1, 3), (12, 4, 7), (16, 4, 100000)] }
def cmdX : SendCmd := { cmdS with desc := desc 64 [(0, 8, 0x10000), (8, 1, 1), (10, 1, 3), (12, 4, 7), (16, 4, 4)] }

theorem witness_HookEventsComplete_sends :
    (∀ c ∈ [cmdS, cmdR, cmdX, { cmdS with dev := s0.self }], (withSends [c]).nextSend = some c) ∧
    cmdS.dev ≠ s0.self ∧ ((withSends [cmdS]).sendPayload cmdS 4).isSome = true ∧ du cmdS.desc 16 4 = 4 ∧ 16384 < du cmdR.desc 16 4 ∧
    (withSends [cmdX]).sendPayload cmdX 4 = none ∧ ((withSends [cmdS]).sendPayload { cmdS with dev := s0.self } 4).isSome = true ∧
    (let s := withSends [cmdS]
     (s.team 0).live = true ∧ (s.team 0).held = [] ∧ (s.team 0).q1.length + 1 ≤ 256) := by decide +kernel

/-- An eager message of 4 bytes, and receives of it in the scratchpad and at address 64 of global memory. -/
def msgE : Message := { sdev := 9, tag := 7, len := 4, eager := true, payload := [(1, false), (2, true), (3, false), (4, false)], self := none }
def recvG : List Byte := desc 64 [(0, 8, 64), (10, 2, 0x100), (12, 4, 7), (16, 4, 0xFFFFFFFF), (20, 4, 16), (24, 4, 1), (28, 4, 1), (48, 2, 9)]
def withRecv (d : List Byte) : State :=
  let s := sPeer (sD [])
  { s with hook := { s.hook with posted := [⟨0, 0, d⟩] }, ingressTlb := [tlbE] }

theorem witness_HookEventsComplete_arrivals :
    (∀ m ∈ [msg, msgE], ∀ d ∈ [recvD, recvG], let s := withRecv d
      let r : Posted := ⟨0, 0, d⟩
      s.binding m.sdev = some 0 ∧ s.peersOf 0 m.sdev ≠ [] ∧ (m.len ≤ 16384 → m.payload.length = m.len) ∧ m.len < 2 ^ 32 ∧ s.heldTo m.sdev false = false ∧
        s.hook.posted.find? (fun r => r.ctx == 0 && s.specMatches 0 r.src r.tag r.mask m) = some r ∧ s.takeHeld r m = false ∧ s.hook.waiting = []) ∧
    (let r : Posted := ⟨0, 0, recvD⟩
     r.dkind = 1 ∧ ∀ k, k < 4 → (r.at k).toNat < ((withRecv recvD).team 0).scratch) ∧
    (let r : Posted := ⟨0, 0, recvG⟩
     let s := withRecv recvG
     r.dkind = 0 ∧ ∀ k, k < 4 → let a := (r.at k).toNat
      a < 2 ^ 58 ∧ (s.ingressTlb.find? fun x => x.hits r.ctx (s.ctx r.ctx).part (pageOf a)) = some tlbE ∧ tlbE.u = true ∧ tlbE.w = true ∧
        tlbE.d = true ∧ tlbE.pa a < Config.deviceMemTop ∧ Quiet s (tlbE.pa a / 64)) := by decide +kernel

theorem witness_HookEventsComplete_pulls :
    (let s := sPeer (sD [])
     let v := { s with hook := { s.hook with pulls := [⟨4, ⟨0, 0, recvD⟩, msg⟩] } }
     v.hook.pulls.find? (fun p => p.id == 4) = some ⟨4, ⟨0, 0, recvD⟩, msg⟩ ∧ v.recvHeld ⟨0, 0, recvD⟩ msg = false ∧ msg.self = none) ∧
    (let c := { cmdS with waiting := true }
     let s := withSends [c]
     s.hook.pulls = [] ∧ s.hook.sends.find? (fun x => x.id == 5 && x.waiting && x.dev != s.self) = some c ∧ s.heldTo c.dev true = false ∧
       s.payHeld c 4 = false ∧ (s.sendPayload c 4).isSome = true) ∧
    (∀ c ∈ [{ cmdS with refused := true }, { cmdR with refused := true }, { cmdX with refused := true }], let s := withSends [c]
      (s.hook.sends.filter fun x => x.dev == 9 && !(s.team x.tid).saved).find? (·.refused) = some c ∧ s.sendHeld c = false ∧ 9 ≠ s.self) ∧
    (let c := { cmdS with dev := s0.self, refused := true }
     let s := withSends [c]
     (s.hook.sends.filter fun x => x.dev == s.self && !(s.team x.tid).saved).find? (·.refused) = some c ∧ s.sendHeld c = false) := by
  decide +kernel

theorem witness_SubscriptionsComplete :
    (let s := withS 5 64 (withS 6 (4096 - 64) (sD []))
     let f := { xF with imm := 1 }
     Acts s f.g ∧ Passes s f.g [] [.s 5, .s 6] ∧ s.cteam.subLost = none ∧ (s.sreg 5).toNat % 64 = 0 ∧ (s.sreg 6).toNat % 64 = 0 ∧
       (s.sreg 5).toNat + 64 ≤ s.cteam.scratch ∧ (s.sreg 6).toNat < 2 ^ 25 ∧ (s.sreg 6).toNat % 2 ^ 18 + 64 ≤ s.cteam.scratch ∧
       s.panelTeam s.cteam.panel ((s.sreg 6).toNat / 2 ^ 18) = some 0 ∧ (s.ctx (s.team 0).ctx).part = s.cctx.part ∧ s.subFull 0 4032 64 = false) ∧
    (let s := { s0 with subs := [(3, ⟨true, 0, 0, 0, 128, 64, [], [⟨0, [1, 2], false⟩]⟩)] }
     s.subs.find? (fun p => p.2.live && p.2.sub == s.cg.tid && p.2.soff == (s.sreg 5).toNat) = some (3, ⟨true, 0, 0, 0, 128, 64, [], [⟨0, [1, 2], false⟩]⟩) ∧
       (mget ({} : Subscr) s.subs 3).sent = [⟨0, [1, 2], false⟩]) := by decide +kernel

theorem witness_SubscriptionsComplete_others :
    (let s := withTeam (fun t => { t with subLost := some 0x40 }) (withS 5 64 (withS 6 (4096 - 64) (sD [])))
     Acts s noGuard ∧ Passes s noGuard [] [.s 5, .s 6] ∧ s.cteam.subLost = some 0x40 ∧ (s.sreg 5).toNat % 64 = 0) ∧
    ((withS 5 8 s0).sreg 5).toNat % 64 ≠ 0 ∧ ((withS 6 8 s0).sreg 6).toNat % 64 ≠ 0 ∧ Passes s0 noGuard [] [.s 5, .s 6] ∧
    (let s := { s0 with subs := [(3, ⟨true, 0, 0, 0, 128, 64, [⟨0, [1], false⟩], []⟩)] }
     (∃ q ∈ s.subs, q.2.live = true ∧ (s.team q.2.pub).core = 0 ∧ q.2.batch ≠ [])) := by decide +kernel

/-- Group 1 waits in xshfl for group 0, which names it in s6. -/
def sXsh : State :=
  let s := withS 6 0x800 (addGroup s0)
  s.setGrp 1 { s.grp 1 with arm0 := { (s.grp 1).arm0 with park := some (.xshfl 0 2 0xFFFFFFFF) } }

theorem witness_ShufflesAndCollectivesComplete_xshfl :
    (∀ s ∈ [s0, sXsh], s.rdTrap (.p 0 s.armMask) = none ∧ 15 + 1 ≤ s.cg.window ∧ s.rdTrap (.s 6) = none ∧ s.cg.converged = true) ∧
    s0.xshflPartner (s0.sreg 6) = none ∧ sXsh.slot = sXsh.cg.soleSlot ∧ sXsh.xshflPartner (sXsh.sreg 6) = some (1, 2, 0xFFFFFFFF) ∧
    (let s := withLaunch (fun l => { l with hvec := 0x800 }) sXsh
     (s.grp 1).live = true ∧ (s.grp 1).sole.park = some (.xshfl 0 2 0xFFFFFFFF) ∧ TakesHandler s 1 (s.grp 1).soleSlot) := by decide +kernel

theorem witness_ShufflesAndCollectivesComplete_coll :
    let s := sComm (sD kD)
    let cmd : CollCmd := ⟨5, kD, .none, ⟨1, 0, 0, 0⟩⟩
    let t := sComm (withTeam fun x => { x with q2 := [cmd] })
    Acts s xF.g ∧ Passes s xF.g [] [.s 5] ∧ DescAt s 5 64 64 kD ∧ s.collBad kD = none ∧ s.cteam.q2.length < 64 ∧ s.cg.copies < 63 ∧
      s.ca.park = none ∧ s.relWaits (State.wideScope xF.sc.code) = false ∧ t.xinvHolds 0 = false ∧ cmd.ct = .none ∧
      (sD kD).collBad kD = some 4 ∧ t.collNext 0 7 = some (0, cmd) ∧ (t.comm 0 7).live = true ∧ (t.team 0).live = true ∧
      (t.team 0).held = [] ∧ (t.team 0).q3.length < 256 := by decide +kernel

theorem witness_ShufflesAndCollectivesComplete_outcomes :
    let s := sComm (withTeam fun x => { x with q2 := [⟨5, kD, .none, ⟨1, 0, 0, 0⟩⟩] })
    let k := KDesc.of kD
    s.collHeld (s.comm 0 7) = false ∧ s.mayWait = false ∧ s.collLost (s.comm 0 7) = false ∧
      s.collLost { s.comm 0 7 with lost := true } = true ∧
      (({ s with ingressTlb := [tlbE] } : State).hookRead 0 k.src (k.inBytes 0 1)).isSome = true ∧
      (∃ x ∈ [(1, (k.op, k.red, k.ty + 1, k.count), ([] : List MarkedByte))], x.2.1 ≠ (k.op, k.red, k.ty, k.count)) ∧
      (let v := sComm ({ s with allow := [(1, 5)] })
       v.mayWait = true ∧ v.hookWaits 0 (State.sectorAddrs k.src (k.inBytes 0 1)) false = false ∧
         v.hookWaits 0 (State.sectorAddrs k.dst (k.outBytes 1)) true = false) := by decide +kernel


/-! ### Witnesses: the tile, machine events, the step -/

def tF : TF := { g := noGuard, v := 0, s1 := 10, s2 := 11, s3 := 0, bank := 0, nb := 1, sub := 0 }
/-- A tile team of 2 banks; its group holds bank 0. -/
def sTile : State :=
  withTeam (fun t => { t with accBudget := 2, scratch := 4096, banks := [(0, { alloc := true, owner := 0 })] }) (withGroup fun g => { g with base := 64 })

/-- The group is live, and no other has its identity. -/
abbrev KnownAs (s : State) (m : Nat) : Prop := (s.grp m).live = true ∧ ∀ p ∈ s.groups, p.2.uid = (s.grp m).uid → p.1 = m
/-- The group may issue a latched instruction. -/
abbrev Latches (s : State) : Prop := s.cg.converged = true ∧ s.slot = s.cg.soleSlot ∧ s.cg.tileFlag = none ∧ s.cg.abort = none ∧
  s.ca.park ≠ some .latch ∧ (∀ m ∈ s.teamGroups s.cg.tid, ∀ k ∈ s.teamGroups s.cg.tid, (s.grp m).vslot = (s.grp k).vslot → m = k) ∧
  (∀ k ∈ State.gangSlots s.cg, s.memberAt k ≠ none) ∧ s.gid ∈ s.members ∧ KnownAs s s.gid
/-- Two groups of a gang; the other has issued the word, or none. -/
def sGang (w : Option Word) : State :=
  let s := addGroup (withGroup (fun g => { g with gang := 3 }) sTile)
  s.setGrp 1 { s.grp 1 with latch := w, arm0 := { (s.grp 1).arm0 with park := some .latch } }

theorem witness_TileInstructionsComplete_latch :
    Latches (sGang none) ∧ (∃ m ∈ (sGang none).members, m ≠ (sGang none).gid ∧ ((sGang none).grp m).latch = none) ∧
      (sGang none).mmaEarly tF = none ∧ (sGang none).cg.tiles < 63 := by decide +kernel

theorem witness_TileInstructionsComplete_last :
    (∀ i ∈ [Instr.accalloc tF, .accfree tF, .mma tF], ∀ s ∈ [sTile, sGang (some (encode i))], Latches s ∧
      (∀ m ∈ s.members, KnownAs s m ∧ (m ≠ s.gid → (s.grp m).latch = some (encode i) ∧ (s.grp m).gang = s.cg.gang ∧
        (s.grp m).sole.fmt.toNat % 2 ^ 16 = s.ca.fmt.toNat % 2 ^ 16)) ∧ s.mmaEarly tF = none ∧ s.cg.tiles < 63 ∧
      s.cteam.accQ = [] ∧ State.bankRun s.cteam 1 = some 1 ∧ State.bankRun s.cteam 2 = none ∧ 2 ≤ s.cteam.accBudget) ∧
    sTile.members.length = 1 ∧ (sGang none).members.length = 2 ∧ 0 < tF.nb.toNat ∧ sTile.cteam.live = true ∧
    sTile.cteam.accOps = [] ∧ sTile.cteam.mmaQ = [] ∧ 0 + 0 < sTile.cteam.accBudget ∧ (sTile.bank sTile.cg.tid 0).alloc = true ∧
    (sTile.bank sTile.cg.tid 0).owner = sTile.cg.vslot ∧ sTile.cteam.mmaQ.length < 4 := by decide +kernel

theorem witness_TileInstructionsComplete_lanes :
    (match sTile.scaleRec (fmtAsc sTile.ca.fmt) 10 64 with | .ok _ => true | .error _ => false) = true ∧
    (match sTile.scaleRec (fmtBsc sTile.ca.fmt) 11 64 with | .ok _ => true | .error _ => false) = true ∧
    Passes sTile tF.g [(32, 32)] [] ∧ Acts sTile tF.g ∧
    (let s := withTeam (fun t => { t with fifoB := [⟨1, 4, [], 4, 0, 1, 0⟩, ⟨1, 4, [], 4, 0, 1, 1⟩] }) sTile
     s.cteam.mmaQ = [] ∧ s.cg.tileFlag = none ∧ s.cg.converged = true ∧ (1 : BitVec 4).toNat % 2 = 1) ∧
    (let s := withArm (fun a => { a with park := some (.fifoDrop 5) }) sTile
     s.ca.park = some (.fifoDrop 5) ∧ Acts s tF.g ∧ Passes s tF.g [] []) := by decide +kernel

/-- An operation at the head of the unit's queue with both head entries whole, of the formats that FMT names. -/
def mmaO : MmaOp := ⟨1, [1], 0, 0, true, List.replicate 32 127, List.replicate 32 127, [], false, 0, none⟩
def sBand (tag : Nat) : State :=
  withTeam (fun t => { t with mmaQ := [mmaO], fifoB := [⟨tag, 4, [], 4, 0, 1, 0⟩], fifoA := [⟨fmtA mmaO.fmt, 4, [], 4, 0, 1, 0⟩] }) sTile

theorem witness_MatrixBandCompletes :
    (∀ tag ∈ [fmtB mmaO.fmt, 5], ((sBand tag).team 0).saved = false ∧ ((sBand tag).team 0).live = true ∧ ((sBand tag).team 0).mmaQ = [mmaO] ∧ mmaO.b = none ∧
      ((sBand tag).team 0).accOps = [] ∧ ((sBand tag).team 0).fifoB = [⟨tag, 4, [], 4, 0, 1, 0⟩]) ∧
    (5 : Nat) ≠ fmtB mmaO.fmt ∧ ((sBand (fmtB mmaO.fmt)).team 0).fifoA = [⟨fmtA mmaO.fmt, 4, [], 4, 0, 1, 0⟩] ∧ fmtAccm mmaO.fmt ≠ 1 ∧
    fmtAsc mmaO.fmt = false ∧ fmtBsc mmaO.fmt = false ∧ fmtRm mmaO.fmt ≠ 5 ∧ fmtAccm (0x20 ||| 0x1F0) ≠ 7 := by decide +kernel

/-- The unit's head operation, with its B entry popped or not, and the two FIFOs. -/
def sMma (o : MmaOp) (a b : List FifoEntry) : State := withTeam (fun t => { t with mmaQ := [o], fifoA := a, fifoB := b }) sTile
def entry (tag : Nat) : FifoEntry := ⟨tag, entryBytes tag, [], entryBytes tag, 0, 1, 0⟩

theorem witness_MatrixBandCompletes_forms :
    let next := { mmaO with members := [1, 2], band := 1, b := some (entry 0) }
    (∀ s ∈ [sMma mmaO [] [], sMma mmaO [] [{ entry 0 with written := 7 }], sMma next [entry 5] [], sMma next [entry 0] [entry 0]],
      (s.team 0).saved = false ∧ (s.team 0).live = true ∧ (s.team 0).accOps = [] ∧ (s.team 0).mmaQ.length = 1) ∧
    (entry 0).written = (entry 0).size ∧ ({ entry 0 with written := 7 } : FifoEntry).written ≠ (entry 0).size ∧ next.b = some (entry 0) ∧
    (entry 5).tag ≠ fmtA next.fmt ∧ (entry 0).tag = fmtA next.fmt ∧ next.members.drop next.band = [2] ∧
    (let o := { mmaO with fmt := 0x5C00 }
     fmtRm o.fmt = 5 ∧ fmtAsc o.fmt = true ∧ fmtBsc o.fmt = true ∧ fmtAccm o.fmt ≠ 1 ∧ fmtA o.fmt = 0 ∧ fmtB o.fmt = 0) ∧
    fmtAccm 0x144 = 1 ∧
    ((sTile.teamGroups 0).find? fun m => (sTile.bank 0 0).owner != 63 && (sTile.grp m).vslot == (sTile.bank 0 0).owner) = some 0 ∧
    NoInjection sTile ∧ (∀ p ∈ sTile.groups, sTile.grp p.1 = p.2) ∧ KnownAs sTile 0 ∧ bit (sTile.grp 0).present 31 = true := by decide +kernel

/-- A clause of one word at 64: its header without waits, and a nop; page 0 is in the core's TLB. -/
def sEntry : State :=
  let s := withArm (fun a => { a with clause := none, pc := 64 }) (withTlb s0)
  { s with mem := (bytesOfNat 8 State.plainHeader.toNat ++ bytesOfNat 8 0x5900000000000000).zipIdx.foldl (fun m x => mset 0 m (64 + x.2) x.1) [] }

theorem witness_CoreEventsComplete_entry :
    sEntry.ca.live = true ∧ sEntry.ca.clause = none ∧ sEntry.ca.pc.toNat % 8 = 0 ∧ isHeader State.plainHeader = true ∧
      (match sEntry.fetchWord sEntry.ca.pc with
       | .word u w => w == State.plainHeader && (match u.fetchWords (sEntry.ca.pc + 8) (headerOf w).n [] with
         | (.word _ _, ws) => ws == [0x5900000000000000]
         | _ => false)
       | _ => false) = true ∧
      State.plainHeader.toNat % 2 ^ 23 = 0 ∧ uncovered (headerOf State.plainHeader).cls [0x5900000000000000] = none ∧
      earlyTransfer [0x5900000000000000] = none ∧ sEntry.ca.top = none ∧ sEntry.ca.ue = none ∧ sEntry.cg.copyFlag = none ∧ sEntry.cg.tileFlag = none ∧
      waitsMet sEntry.cg sEntry.ca (headerOf State.plainHeader) = true := by decide +kernel

theorem witness_CoreEventsComplete_arms :
    (let s := withArm fun a => { a with loads := [[.v 3 0xFFFFFFFF (List.replicate 32 9) 0]] }
     (withGroup fun g => { g with orphans := [[.v 3 1 [9] 0]] }).cg.orphans = [[.v 3 1 [9] 0]] ∧
       ((s.grp 0).arm 0).loads = [[.v 3 0xFFFFFFFF (List.replicate 32 9) 0]] ∧ bit (0xFFFFFFFF &&& (s.grp 0).present) 31 = true) ∧
    (let s := withArm (fun a => { a with park := some (.timed 0) }) sDiv
     ((s.grp 0).arm 0).park = some (.timed 0) ∧ ((s.grp 0).frame 0).isSome = true ∧ s.framesIntact (s.grp 0) = true) ∧
    (let s := withGroup fun g => { g with place := .pending }
     (s.wakeAll 0).pendingHead 0 = some 0 ∧ ((s.wakeAll 0).inPlace 0 .active).length < 8) ∧
    (let s := withGroup fun g => { g with place := .waiting }
     (s.grp 0).live = true ∧ gidCore 0 = 0 ∧ (s.grp 0).place = .waiting ∧ s.groupReady 0 = true) := by decide +kernel

/-- Group 0 stands between clauses after a yield, and has begun 256 clauses; group 1 is pending. -/
def sYield : State :=
  let s := addGroup (withGroup (fun g => { g with begun := 256 }) (withArm fun a => { a with clause := none, yielded := true }))
  s.setGrp 1 { s.grp 1 with place := .pending }

theorem witness_CoreEventsComplete_swaps :
    sYield.swapDue 0 = true ∧ sYield.fairDue 0 = true ∧ s0.swapDue 0 = false ∧ s0.fairDue 0 = false ∧
    (let s := withTeam (fun t => { t with skeinQ := [(1, 4)] }) (withLaunch (fun l => { l with hvec := 0x800 }) (withArm fun a => { a with park := some (.sktake 4) }))
     (s.team 0).saved = false ∧ (s.team 0).skeinQ = [(1, 4)] ∧ (s.teamGroups 0).all s.skeinStuck = true ∧ s.findUid 1 = some 0 ∧ TakesHandler s 0 (s.grp 0).soleSlot) := by
  decide +kernel

/-- Page tables at 0 and 0x4000 that map the first 64 GiB to themselves. -/
def sPt : State := { s0 with mem := [(0, 1), (2, 0x10), (0x4000, 0xDF), (0x4001, 0x3C)] }

theorem witness_HomeEventsComplete_walks :
    (let s := sPt.setDie 0 { sPt.die 0 with walks := [(0, 7)] }
     let w := s.dieWalk 0 0 7
     (0, 7) ∈ (s.die 0).walks.take Config.walkers ∧ s.waitsAny 0 (s.ctx 0).part (s.walkNeeds 0 0 w) = false ∧ s.xinvPending 0 7 = false ∧
       w.res = .leaf ⟨0, none, 0, 2, 0x3CDF, 0x4000⟩ ∧ (s.setGrp 0 { s.grp 0 with arm0 := { s.ca with park := some (.xinv 7 8 0) } }).xinvPending 0 7 = true) ∧
    (let s := (withArm fun a => { a with park := some (.walk [⟨0, 0, 7⟩]) }).setDie 0 { walks := [(0, 7)] }
     let w := s.dieWalk 0 0 7
     (0, 7) ∈ (s.die 0).walks.take Config.walkers ∧ s.waitsAny 0 (s.ctx 0).part (s.walkNeeds 0 0 w) = false ∧ s.xinvPending 0 7 = false ∧
       w.res = .fault 3 ∧ (s.grp 0).arm0.park = some (.walk [⟨0, 0, 7⟩])) ∧
    (let s := ({ sPt with psn := [(0x100, true)] }).setDie 0 { sPt.die 0 with walks := [(0, 7)] }
     (s.dieWalk 0 0 7).res = .pois) := by decide +kernel

theorem witness_HomeEventsComplete_homes :
    (let x : L2Sect := { val := 3, drt := 2 }
     let s := s0.setDie 0 { l2 := [(0, some ⟨false, 0, 0, [{}, x, { val := 1 }, {}]⟩)] }
     s.l2sect 0 1 = some (false, x) ∧ x.drt ≠ 0 ∧ s.dirEnt 1 = {} ∧ s.waitsAny 0 (s.ctx x.tag).part [(1, true)] = false ∧ (s.die 0).lost = false ∧
       s.waitsHome 0 (s.ctx x.tag).part 1 true = false ∧
       s.l2sect 0 2 = some (false, { val := 1 }) ∧ s.waitsAny 0 0 ((List.range 4).map fun k => (2 / 4 * 4 + k, true)) = false) ∧
    (let s := s0.setDir 5 { dst := .o, shr := 1 }
     let x : L2Sect := { cst := .o, drt := 1 }
     let v := s.setDie 0 { l2 := [(1, some ⟨true, 0, 0, [{}, x, {}, {}]⟩)] }
     bit (s.dirEnt 5).shr 0 = true ∧ (s.dirEnt 5).dst = .o ∧ (s.die 0).lost = false ∧ s.homeCut 0 5 (s.hasDeltas 0 5) = false ∧
       v.l2sect 0 5 = some (true, x) ∧ v.hasDeltas 0 5 = false ∧ v.waitsHome 0 (v.ctx x.tag).part 5 true = false) ∧
    ((s0.die 7).lost = false ∧ s0.l2sect 7 3 = none ∧ s0.dirEnt 3 = {} ∧ s0.homePsn 3 = false ∧ s0.homeCut 7 3 false = false ∧
      s0.homeCut 7 3 true = false ∧ s0.homeCut 0 ((Config.deviceMemTop - 8) / 64) true = false) ∧
    Config.deviceMemTop - 8 < Config.deviceMemTop ∧ (Config.deviceMemTop - 8) % 64 + 8 ≤ 64 := by decide +kernel

/-- The arm waits for the check of a store whose outcome is `c`. -/
def sChk (c : Option (Option TrapInfo)) : State :=
  withLaunch (fun l => { l with hvec := 0x800 }) (withArm fun a => { a with
    park := some (.check [(0, 64, ⟨64, false, true, 3, 0⟩)]), chk := c, clause := some ⟨0, State.plainHeader, [encode (.st mF)], 0⟩ })

theorem witness_HomeEventsComplete_checks :
    (∀ c ∈ [none, some none, some (some ⟨58, 64, 0⟩)], let a := ((sChk c).grp 0).arm 0
      a.park = some (.check [(0, 64, ⟨64, false, true, 3, 0⟩)]) ∧ a.head = some (.st mF) ∧ a.chk = c) ∧
    (∀ c ∈ [none, some none], let me := { sChk c with cur := (0, 0) }
      me.blocked (.st mF) (checkLanes [(0, 64, ⟨64, false, true, 3, 0⟩)]) = false ∧ (∀ p ∈ (sChk c).groups, (sChk c).grp p.1 = p.2) ∧
        ((sChk c).grp 0).chkHomes &&& ~~~(sChk c).closable 0 = 0) ∧ (sChk none).checks = [] ∧ State.endsGroups 58 = false ∧ TakesHandler (sChk (some (some ⟨58, 64, 0⟩))) 0 0 ∧
    (let s := withArm (fun a => { a with clause := some ⟨0, State.plainHeader, [encode (.fence ⟨noGuard, 0, 0, 0xFF, .device, .rel, .b8, 0⟩)], 0⟩ })
      (withGroup fun g => { g with chkHomes := 1 })
     (s.grp 0).synchronising = true ∧ bit ((s.grp 0).chkHomes &&& s.closable 0) 0 = true) ∧
    ((withGroup fun g => { g with chkHomes := 1 }).grp 0).synchronising = false := by decide +kernel

theorem witness_HomeEventsComplete_served :
    (let x : L2Sect := { val := 3, drt := 2 }
     let s := s0.setDie 0 { l2 := [(0, some ⟨false, 0, 0, [{}, x, { val := 1 }, {}]⟩)] }
     Quiet s 1 ∧ (∀ u ∈ (s.core 0).upd, u.coh = false) ∧ (∃ l, mget none (s.die 0).l2 (2 / 4) = some l ∧ l.sects.length = 4)) ∧
    (s0.homeBusy 7 3 false = false ∧ s0.homeBusy 7 3 true = false ∧ s0.homeBusy 0 ((Config.deviceMemTop - 8) / 64) true = false ∧
      Quiet s0 ((Config.deviceMemTop - 8) / 64)) := by
  refine ⟨⟨by decide +kernel, by decide +kernel, ⟨_, rfl, by decide +kernel⟩⟩, by decide +kernel⟩

/-- The arm waits for the check of a load, which has returned nothing yet or the value 7. -/
def sChkLd (c : Option (Option TrapInfo)) (ws : List RegW) : State :=
  withArm fun a => { a with park := some (.check [(0, 64, ⟨64, false, true, 3, 0⟩)]), chk := c, chkVals := ws,
                            clause := some ⟨0, State.plainHeader, [encode (.ld mF)], 0⟩ }

theorem witness_HomeEventsComplete_checkLoads :
    (∀ c ∈ [none, some none], let s := sChkLd c [.v 8 1 [7] 0]
      let me := { s with cur := (0, 0) }
      (s.grp 0).arm0.head = some (.ld mF) ∧ mF.ord ≠ .sc ∧ s.dev.injctl = [] ∧ s.checks = [] ∧ AtHome s ⟨64, false, true, 3, 0⟩ ∧ 64 % 64 + 4 ≤ 64 ∧
        (s.grp 0).arm0.chk = c ∧ (s.grp 0).arm0.chkVals = [.v 8 1 [7] 0] ∧
        me.blocked (.ld mF) (checkLanes [(0, 64, ⟨64, false, true, 3, 0⟩)]) = false ∧ (s.grp 0).chkHomes &&& ~~~s.closable 0 = 0) := by
  decide +kernel

def sCut : State := withRoutes s0

theorem witness_FabricEventsComplete :
    (State.isPair 13 2 = true ∧ (s0.route 13 2).aup = true ∧ (s0.route 13 2).bup = true ∧ (s0.route 13 2).mode = 0 ∧ (s0.route 13 2).busy = false) ∧
    (State.isPair 0 8 = true ∧ (sCut.route 0 8).aup = false ∧ (sCut.route 0 8).bup = false ∧ sCut.cutOff 0 8 = true) ∧
    (let s := { s0 with routes := [(32 * 13 + 2, { mode := 1, busy := true })] }
     (s.route 13 2).busy = true ∧ s.modeWorks 13 2 (s.route 13 2) = true ∧ (s.route 13 2).mode < 3 ∧ (sCut.route 0 8).aup = false) ∧
    (let s := { sCut with lossSeen := [(State.lossKey 0 8 false, true), (State.lossKey 0 8 true, true)] }
     (s.die 0).fenced = false ∧ s.stillCut 0 true = true ∧
       ((s.setDie 0 { fenced := true }).die 0).lost = false ∧ (s.setDie 0 { fenced := true }).stillCut 0 false = true ∧
       ((s.setDir 5 { dst := .o, shr := 1 }).dirEnt 5).dst = .o ∧ bit ((s.setDir 5 { dst := .o, shr := 1 }).dirEnt 5).shr 0 = true) ∧
    (let s := { s0 with routes := [(32 * 23 + 24, { aup := false, bup := false })] }
     (s.hasRoute (8 + 15) 24 && s.hasRoute 24 (8 + 15) && s.hasRoute (8 + 15) 25 && s.hasRoute 25 (8 + 15)) = false) := by decide +kernel

/-- A pre-emption request names die 0; the only arm has stopped. -/
def sStop : State := withCtx (fun c => { c with preq := 1, savesz := 768 }) (withArm fun a => { a with park := some (.stopped none) })
/-- The team of s0 is saved. -/
def sSaved (hit : Bool) : State :=
  withCtx (fun c => { c with savea := 0x100000, savesz := 768, away := true }) (withTeam (fun t => { t with saved := true, groups := [s0.grp 0] })
    { s0 with groups := [], hits := if hit then [(0x4005, true)] else [] })

theorem witness_PreemptionEventsComplete :
    (s0.ctx 0).live = true ∧ (s0.ctx 0).part = 0 ∧
    (let s := withCtx (fun c => { c with preq := 1 }) sHand
     (s.grp 0).live = true ∧ (s.grp 0).arm0.live = true ∧ (s.grp 0).arm0.handler = true ∧ bit (s.ctx (s.grp 0).ctx).preq (gidDie 0) = true) ∧
    sStop.saveReady 0 = true ∧ s0.saveReady 0 = false ∧ sStop.preempted 0 = [0] ∧ (s0.ctx 0).away = false ∧
    (((sSaved true).ctx 0).away = true ∧ (sSaved true).unhit 0x4000 (16 * 768) = false) ∧
    (let s := sSaved false
     (s.ctx 0).away = true ∧ s.savedTeams 0 = [0] ∧ s.unhit 0x4000 (16 * 768) = true ∧ (s.team 0).collDone = [] ∧ s.placementOk [⟨0, 130⟩] 0 = true ∧
       s.newCore [⟨0, 130⟩] 0 = some 130 ∧ (s.resumeTeam 0 130).isSome = true) := by decide +kernel

/-- A record of a launch of one team with two groups. -/
def recD : List Byte :=
  desc 256 [(0, 8, 0x2000), (8, 2, 64), (10, 1, 2), (19, 1, 1), (24, 4, 1), (28, 2, 1), (30, 2, 1), (56, 8, 0x100000), (64, 4, 8), (96, 8, 0x20000), (104, 2, 0xFFFF)]
/-- The record stands at the head of queue 5 of die 0. -/
def sQueue : State :=
  let s := withCtx (fun c => { c with savesz := 768 }) sPt
  { s with groups := [], teams := [], launches := [], mem := msetList 0 s.mem 0x10000 recD, lqueues := [(5, { base := 0x10000, slots := 4, tail := 1 })] }
/-- A launch of four teams of that shape, not yet placed, on die 0. -/
def sLaunch : State :=
  withLaunch (fun l => { l with lrec := { (LRec.of recD) with xext := 4, spillkb := 64 }, chunks := [(0, [(0, 2)]), (1, [(2, 5)])], named := [0] })
    (withCtx (fun c => { c with savesz := 7680 }) { s0 with groups := [], teams := [] })

theorem witness_LaunchEventsComplete_queues :
    (sQueue.lqueue (64 * 0 + 5)).slots ≠ 0 ∧ sQueue.headReady (sQueue.lqueue 5) = true ∧ (sQueue.lqueue 5).prio + (sQueue.lqueue 5).aged < 7 ∧
      sQueue.host.ready = true ∧ (sQueue.die 0).fenced = false ∧ sQueue.nextQueue 0 = some 5 ∧
      (sQueue.lqueue 5).marked.contains (sQueue.lqueue 5).head = false ∧
      (let d := (sQueue.devView (State.slotAddr (sQueue.lqueue 5) 0) 256).1
       d = recD ∧ du d 68 4 < 2 ^ 31 ∧ (LRec.of d).inRange d = true ∧ sQueue.recordBad (LRec.of d) = false ∧ (LRec.of d).patrows = 0 ∧
         natBits (LRec.of d).aff 0 1 = 1 ∧ 0 < sQueue.workingDies.length ∧ sQueue.dieOf (LRec.of d).ctx 0 ≠ none) := by decide +kernel

theorem witness_LaunchEventsComplete_teams :
    (State.chunkNext (mget [] (sLaunch.launch 0).chunks (coreCluster 3)) = some (0, [(1, 2)]) ∧ sLaunch.canPlace 0 (sLaunch.launch 0) [3] = true) ∧
    (let s := withLaunch (fun l => { l with chunks := [(1, [(2, 5)])] }) sLaunch
     (s.launch 0).live = true ∧ (s.launch 0).named.contains (0 / 2) = true ∧ mget [] (s.launch 0).chunks 0 = [] ∧ mget [] (s.launch 0).chunks 1 ≠ []) ∧
    (s0.launchDone 0 = false ∧ ({ s0 with teams := [] } : State).launchDone 0 = true ∧
      ({ s0 with teams := [] } : State).edgeWaits (s0.launch 0) = false ∧
      (let s := withRoutes (withLaunch fun l => { l with complPa := 64 })
       s.edgeWaits (s.launch 0) = true)) ∧
    s0.launches.find? (fun p => p.2.live && p.2.addr == (0 : Word).toNat) = some (0, s0.launch 0) ∧ (s0.grp 0).live = true ∧ (s0.grp 0).launch = 0 := by
  decide +kernel

/-- The record at the head of queue 5 with other values of some fields. -/
def sRecord (fs : List (Nat × Nat × Nat)) : State :=
  { sQueue with mem := fs.foldl (fun m f => msetList 0 m (0x10000 + f.1) (bytesOfNat f.2.1 f.2.2)) sQueue.mem }

theorem witness_LaunchEventsComplete_rejects :
    (∀ s ∈ [sQueue, sRecord [(68, 4, 2 ^ 31)], sRecord [(0, 8, 0x2004)], sRecord [(10, 1, 33)], sRecord [(48, 4, 1)], sRecord [(16, 1, 2)]],
      s.host.ready = true ∧ (s.die 0).fenced = false ∧ s.nextQueue 0 = some 5) ∧
    (let d := (sRecord [(68, 4, 2 ^ 31)]).devView 0x10000 256
     2 ^ 31 ≤ du d.1 68 4) ∧
    (let s := sRecord [(10, 1, 33)]
     let d := (s.devView 0x10000 256).1
     ¬ (2 ^ 31 ≤ du d 68 4) ∧ ((LRec.of d).inRange d = false ∨ s.recordBad (LRec.of d) = true)) ∧
    (let r := LRec.of (sQueue.devView 0x10000 256).1
     r.nout = 0 ∧ (sQueue.ctx r.ctx).live = true ∧ sQueue.cpXlate r.ctx true r.compl = some 0x20000 ∧ 0x20000 % 64 = 0 ∧
       0x20000 + 64 ≤ Config.deviceMemTop ∧ Quiet sQueue (0x20000 / 64)) ∧
    ({ sQueue with lqueues := [(5, { sQueue.lqueue 5 with marked := [0] })] } : State).nextQueue 0 = some 5 ∧
    (let s := sRecord [(32, 8, 0x10040), (40, 4, 1)]
     let d := (s.devView 0x10000 256).1
     let r := LRec.of d
     s.nextQueue 0 = some 5 ∧ r.inRange d = true ∧ s.recordBad r = false ∧ r.patrows ≠ 0 ∧ (s.readRows r).bind checkPattern = none) ∧
    (let s := (sRecord [(19, 1, 0x80)]).setDie 7 { harvested := true }
     let d := (s.devView 0x10000 256).1
     let r := LRec.of d
     s.nextQueue 0 = some 5 ∧ r.inRange d = true ∧ s.recordBad r = false ∧ r.patrows = 0 ∧ r.aff = 0x80 ∧ s.workingDies.length = 7) ∧
    (let s := withCtx (fun c => { c with live := false }) sQueue
     s.nextQueue 0 = some 5 ∧ (s.ctx (LRec.of recD).ctx).live = false ∧ s.recordBad (LRec.of recD) = true) := by decide +kernel

theorem witness_LaunchEventsComplete_records :
    (let s := { s0 with teams := [] }
     let x := s.launch 0
     s.launchDone 0 = true ∧ s.edgeWaits x = false ∧ x.outePa = [] ∧ x.complPa % 64 = 0 ∧ x.complPa + 64 ≤ Config.deviceMemTop ∧
       Quiet s (x.complPa / 64)) ∧
    (∀ n ∈ [5, 0xFFFF], (withLaunch fun x => { x with lrec := { x.lrec with msix := n } }).launch 0 = { s0.launch 0 with lrec := { (s0.launch 0).lrec with msix := n } }) ∧
    (mget {} ({ s0 with msix := [(5, { masked := false })] } : State).msix 5).masked = false ∧
    (mget {} ({ s0 with msix := [(5, { masked := true })] } : State).msix 5).masked = true ∧
    sQueue.launches.find? (fun p => p.2.live && p.2.addr == (0x10000 : Word).toNat) = none ∧
    State.slotAddr (sQueue.lqueue 5) 0 = 0x10000 ∧ (0 + 4 - 0) % 4 < (1 + 4 - 0) % 4 := by decide +kernel

theorem witness_HostEventsComplete :
    (let r : HostReq := ⟨true, Config.deviceMemTop - 64, 64, List.replicate 64 1⟩
     s0.dev.injctl = [] ∧ 0 < r.len ∧ r.data.length = r.len ∧ r.pa + r.len ≤ Config.deviceMemTop ∧ r.pa % 64 + r.len ≤ 64 ∧ s0.dirEnt (r.pa / 64) = {}) ∧
    (s0.plane 31 true).down = false ∧ (({ s0 with planes := [(63, { exhausted := true })] } : State).plane 31 true).exhausted = true ∧
    (let e : ErrorReport := ⟨5, 0, 0, 0, 0xFFFF, true⟩
     e.control = true ∧ e.cls ≤ 5 ∧ e.ctx = 0xFFFF ∧ (s0.grp 0).live = true ∧ gidCore 0 = e.unit) ∧
    (∀ e ∈ [(⟨5, 0, 0, 0, 0, true⟩ : ErrorReport), ⟨7, 0, 0, 0, 0xFFFF, true⟩],
      e.control = true ∧ e.cls ≤ 10 ∧ ¬ (e.cls ≤ 5 ∧ e.ctx = 0xFFFF) ∧ (s0.team e.addr.toNat).saved = false ∧ (s0.grp 0).tid = e.addr.toNat) ∧
    (let e : ErrorReport := ⟨9, 15, 0xBFFFFFFFC0, 0, 0, false⟩
     e.control = false ∧ e.cls = 9 ∧ e.addr.toNat < Config.deviceMemTop) := by decide +kernel

theorem witness_HostEventsComplete_others :
    (∀ w ∈ [true, false], s0.rangeBusy (Config.deviceMemTop - 64) 64 w = false) ∧ Quiet s0 ((Config.deviceMemTop - 64) / 64) ∧
    (s0.plane 31 true).owed < 2 ^ 48 - 1 ∧ State.unitExists 5 2047 = true ∧ State.unitExists 5 2048 = false ∧ State.unitExists 7 0 = true ∧
    State.unitExists 9 15 = true ∧ State.unitExists 13 0 = false ∧ State.unitExists 11 (32 * 13 + 2) = true := by decide +kernel

theorem witness_DecodeAndEncodeAgree : (Instr.iadd { pl with ty := .i32 }).wf = true ∧
    decodeWord 0x2400102030050000 = .ok (.fmin { pl with d := 1, a := .v 2, b := .v 3, ty := .f32 }) := by decide +kernel

/-- What the step has taken from the agenda when the arm of group 0 is about to issue. -/
def taken (s : State) : State := { s with tick := s.tick + 1, agenda := [] }

/-- A word that decodes, an arm between clauses, and a word that decode step 4 rejects. -/
theorem witness_StepRunsDecoded :
    s0.agenda = [.issue 0 0] ∧ sEntry.agenda = [.issue 0 0] ∧
    (let s := State.reset.withWord 0x23B0A02070454000
     (taken s).canIssue 0 0 = true ∧ ((taken s).issued 0 0).ca.clause.isSome = true ∧ ((taken s).issued 0 0).ca.park ≠ some .header ∧
        ((taken s).issued 0 0).interlocked ((taken s).issued 0 0).headWord = false ∧
        ((taken s).issued 0 0).headWord = 0x23B0A02070454000) ∧
    ((taken sEntry).canIssue 0 0 = true ∧ ((taken sEntry).issued 0 0).ca.clause = none ∧
      (((taken sEntry).issued 0 0).ca.park.isNone && ((taken sEntry).issued 0 0).deadlineDue 0 ((taken sEntry).issued 0 0).ca) = false) ∧
    (let s := State.reset.withWord 0x0000102030010001
     (taken s).canIssue 0 0 = true ∧ decodeWord ((taken s).issued 0 0).headWord = .error (.illegalField 0)) ∧
    isEvent (.scrubPass 0) = true := by decide +kernel

theorem witness_StepRunsDecoded_around :
    s0.dev.injctl = [] ∧ s0.closesCut s0 = false ∧
    (match exec (.illegalOp 0x0F00000000000000) s0 with | .next _ => true | _ => false) = true ∧ decodeWord 0x5900000000000000 = .ok (.nop ⟨noGuard, 0, 0, .always⟩) := by
  decide +kernel

theorem witness_StepKeepsMemoryCanonical :
    MemoryCanonical s0 ∧ MemoryCanonical sPt ∧ (match step s0 with | .next _ => true | _ => false) = true := by decide +kernel


/-! ### Words written out from the encodings of chapters 03 and 05 to 18 -/

/-- Integers, logic and shifts (row 0x0). -/
theorem test_decode_0 :
    decodeWord 0x00005055F0014000 = .ok (.iadd { plainV with d := 5, a := .v 5, b := .imm 31, ty := .i32 }) ∧
    decodeWord 0x0100701090084300 = .ok (.isub { plainV with d := 7, a := .v 1, b := .s 9, ty := .i16x2, sat := true, na := true }) ∧
    decodeWord 0x0200406080040000 = .ok (.imul { plainV with d := 4, a := .v 6, b := .v 8, ty := .n64 }) ∧
    decodeWord 0x0300102030010000 = .ok (.imulhi { plainV with d := 1, a := .v 2, b := .v 3, ty := .i32 }) ∧
    decodeWord 0x04009080706A0020 = .ok (.imad { plainV with d := 9, a := .v 8, b := .v 7, c := .v 6, ty := .i8x4, xb := true }) ∧
    decodeWord 0x05001027F0094000 = .ok (.imin { plainV with d := 1, a := .v 2, b := .imm 63, ty := .n16x2 }) ∧
    decodeWord 0x0600204400034000 = .ok (.imax { plainV with d := 2, a := .v 4, b := .imm 0, ty := .i64 }) ∧
    decodeWord 0x0700304000010000 = .ok (.iabs { plainV with d := 3, a := .v 4, ty := .i32 }) ∧
    decodeWord 0x0800102030000000 = .ok (.vand { plainV with d := 1, a := .v 2, b := .v 3 }) ∧
    decodeWord 0x09002040600E0000 = .ok (.vor { plainV with d := 2, a := .v 4, b := .v 6, ty := .b64 }) ∧
    decodeWord 0x0A001023F0004000 = .ok (.vxor { plainV with d := 1, a := .v 2, b := .s 63 }) ∧
    decodeWord 0x0B00102030400096 = .ok (.blut { plainV with d := 1, a := .v 2, b := .v 3, c := .v 4, nb := true, sub := 22 }) ∧
    decodeWord 0x0C00102640004000 = .ok (.shl { plainV with d := 1, a := .v 2, b := .imm 36 }) ∧
    decodeWord 0x0D00102030090000 = .ok (.shr { plainV with d := 1, a := .v 2, b := .v 3, ty := .n16x2 }) ∧
    decodeWord 0x0E00204050030000 = .ok (.sar { plainV with d := 2, a := .v 4, b := .v 5, ty := .i64 }) ∧
    decodeWord 0x0F00102030400001 = .ok (.funnel { plainV with d := 1, a := .v 2, b := .v 3, c := .v 4, sub := 1 }) := by decide

/-- Bits, comparison and moves (row 0x1). -/
theorem test_decode_1 :
    decodeWord 0x1000102000000000 = .ok (.popc { plainV with d := 1, a := .v 2 }) ∧
    decodeWord 0x11002040000E0000 = .ok (.clz { plainV with d := 2, a := .v 4, ty := .b64 }) ∧
    decodeWord 0x1200103000008000 = .ok (.brev { plainV with d := 1, a := .s 3 }) ∧
    decodeWord 0x1300102036812000 = .ok (.bfe { plainV with d := 1, a := .v 2, b := .v 3, c := .imm 40, ty := .i32 }) ∧
    decodeWord 0x1400102030400000 = .ok (.bfi { plainV with d := 1, a := .v 2, b := .v 3, c := .v 4 }) ∧
    decodeWord 0x1500302030020002 = .ok (.icmp { plainV with d := 3, a := .v 2, b := .v 3, ty := .n32, sub := 2 }) ∧
    decodeWord 0x1600102030500000 = .ok (.sel { plainV with d := 1, a := .v 2, b := .v 3, c := .v 5 }) ∧
    decodeWord 0x170065F0000E8000 = .ok (.mov { plainV with d := 6, a := .imm 31, ty := .b64 }) ∧
    decodeWord 0x18AC8DEADBEEF000 = .ok (.movi { g := ⟨true, 2⟩, d := 200, imm := 0xdeadbeef }) ∧
    decodeWord 0x1900806080028005 = .ok (.ishadd { plainV with d := 8, a := .s 6, b := .v 8, ty := .n32, sub := 5 }) ∧
    decodeWord 0x1A00102030400000 = .ok (.bytesel { plainV with d := 1, a := .v 2, b := .v 3, c := .v 4 }) := by decide

/-- Floating point (rows 0x2 and 0x3). -/
theorem test_decode_2 :
    decodeWord 0x2000102030050500 = .ok (.fadd { plainV with d := 1, a := .v 2, b := .v 3, ty := .f32, rm := .rtz, na := true }) ∧
    decodeWord 0x2100102630075400 = .ok (.fsub { plainV with d := 1, a := .v 2, b := .imm 35, ty := .bf16x2, rm := .sr }) ∧
    decodeWord 0x2200102030060040 = .ok (.fmul { plainV with d := 1, a := .v 2, b := .v 3, ty := .f16x2, xa := true }) ∧
    decodeWord 0x23B0A02070454000 = .ok (.fma { plainV with g := ⟨true, 3⟩, d := 10, a := .v 2, b := .s 7, c := .v 4, ty := .f32 }) ∧
    decodeWord 0x2400102030050000 = .ok (.fmin { plainV with d := 1, a := .v 2, b := .v 3, ty := .f32 }) ∧
    decodeWord 0x2500102030070000 = .ok (.fmax { plainV with d := 1, a := .v 2, b := .v 3, ty := .bf16x2 }) ∧
    decodeWord 0x2600202030050007 = .ok (.fcmp { plainV with d := 2, a := .v 2, b := .v 3, ty := .f32, sub := 7 }) ∧
    decodeWord 0x2700102000060000 = .ok (.fclass { plainV with d := 1, a := .v 2, ty := .f16x2 }) ∧
    decodeWord 0x2800102000050100 = .ok (.frcp { plainV with d := 1, a := .v 2, ty := .f32, na := true }) ∧
    decodeWord 0x2900102000050000 = .ok (.frsq { plainV with d := 1, a := .v 2, ty := .f32 }) ∧
    decodeWord 0x2A00102000050040 = .ok (.fsqrt { plainV with d := 1, a := .v 2, ty := .f32, xa := true }) ∧
    decodeWord 0x2B00102000050000 = .ok (.fexp2 { plainV with d := 1, a := .v 2, ty := .f32 }) ∧
    decodeWord 0x2C00102000050000 = .ok (.flog2 { plainV with d := 1, a := .v 2, ty := .f32 }) ∧
    decodeWord 0x2D00102000050000 = .ok (.frred { plainV with d := 1, a := .v 2, ty := .f32 }) ∧
    decodeWord 0x2E00102000050000 = .ok (.fsin { plainV with d := 1, a := .v 2, ty := .f32 }) ∧
    decodeWord 0x2F00102000050000 = .ok (.fcos { plainV with d := 1, a := .v 2, ty := .f32 }) ∧
    decodeWord 0x3000C03040070005 = .ok (.cvt { plainV with d := 12, a := .v 3, b := .v 4, ty := .bf16x2, sub := 5 }) ∧
    decodeWord 0x3100102030470000 = .ok (.fdot2 { plainV with d := 1, a := .v 2, b := .v 3, c := .v 4, ty := .bf16x2 }) ∧
    decodeWord 0x320010203005000F = .ok (.lcdec { plainV with d := 1, a := .v 2, b := .v 3, ty := .f32, sub := 15 }) ∧
    decodeWord 0x3300102630074100 = .ok (.fscale { plainV with d := 1, a := .v 2, b := .imm 35, ty := .bf16x2, na := true }) := by decide

/-- Lane exchange, reduction and votes (rows 0x3 to 0x6). -/
theorem test_decode_3 :
    decodeWord 0x3400102000000003 = .ok (.qswap { plainV with d := 1, a := .v 2, sub := 3 }) ∧
    decodeWord 0x35002040000E0002 = .ok (.qbcast { plainV with d := 2, a := .v 4, ty := .b64, sub := 2 }) ∧
    decodeWord 0x3600102040004002 = .ok (.lxch { plainV with d := 1, a := .v 2, b := .s 4, sub := 2 }) ∧
    decodeWord 0x3700102000050C00 = .ok (.gred { plainV with d := 1, a := .v 2, ty := .f32, rm := .rup }) ∧
    decodeWord 0x3800102000000013 = .ok (.gscan { plainV with d := 1, a := .v 2, sub := 19 }) ∧
    decodeWord 0x3904D00000000000 = .ok (.rand { plainV with d := 77 }) ∧
    decodeWord 0x4B00902030004000 = .ok (.vrd { plainV with d := 9, a := .v 2, b := .s 3 }) ∧
    decodeWord 0x4C002046500EC000 = .ok (.vwr { plainV with d := 2, a := .s 4, b := .imm 37, ty := .b64 }) ∧
    decodeWord 0x5600602000000007 = .ok (.vote { plainV with d := 6, a := .v 2, sub := 7 }) ∧
    decodeWord 0x6700201000000001 = .ok (.tvote { plainV with d := 2, a := .v 1, sub := 1 }) := by decide

/-- The scalar unit and state registers (row 0x4). -/
theorem test_decode_4 :
    decodeWord 0x4000420700000000 = .ok (.sadd ⟨noGuard, 1, 2, false, 3, true, 0x0⟩) ∧
    decodeWord 0x41086280FFFFFFFF = .ok (.ssub ⟨noGuard, 33, 34, true, 0, false, 0xffffffff⟩) ∧
    decodeWord 0x4200427E00000000 = .ok (.smul ⟨noGuard, 1, 2, false, 63, false, 0x0⟩) ∧
    decodeWord 0x4300428100000002 = .ok (.sand ⟨noGuard, 1, 2, true, 0, true, 0x2⟩) ∧
    decodeWord 0x4400420600000000 = .ok (.sor ⟨noGuard, 1, 2, false, 3, false, 0x0⟩) ∧
    decodeWord 0x4500420700000000 = .ok (.sxor ⟨noGuard, 1, 2, false, 3, true, 0x0⟩) ∧
    decodeWord 0x460042810000000C = .ok (.sshl ⟨noGuard, 1, 2, true, 0, true, 0xc⟩) ∧
    decodeWord 0x4700420600000000 = .ok (.sshr ⟨noGuard, 1, 2, false, 3, false, 0x0⟩) ∧
    decodeWord 0x480042800000001F = .ok (.ssar ⟨noGuard, 1, 2, true, 0, false, 0x1f⟩) ∧
    decodeWord 0x4900420700000000 = .ok (.scmp ⟨noGuard, 1, 2, false, 3, true, 0x0⟩) ∧
    decodeWord 0x4A0A008180000000 = .ok (.smovi ⟨noGuard, 40, 0, true, 0, true, 0x80000000⟩) ∧
    decodeWord 0x4D0140800000000C = .ok (.mfs ⟨noGuard, 5, 0, true, 0, false, 0xc⟩) ∧
    decodeWord 0x4E00058000000011 = .ok (.mts ⟨noGuard, 0, 5, true, 0, false, 0x11⟩) ∧
    decodeWord 0x4E0007800000000D = .ok (.mtsSeed ⟨noGuard, 0, 7, true, 0, false, 0xd⟩) ∧
    decodeWord 0x4F00C01200000000 = .ok (.fmtset ⟨noGuard, 3, 0, false, 9, false, 0x0⟩) := by decide

/-- Control (row 0x5). -/
theorem test_decode_5 :
    decodeWord 0x501FFFFFFE1E0000 = .ok (.bra ⟨⟨false, 1⟩, 0xffffffe, 7, .zero⟩) ∧
    decodeWord 0x5120000800010000 = .ok (.brp ⟨⟨false, 2⟩, 0x8, 0x10⟩) ∧
    decodeWord 0x5200058000000018 = .ok (.jmp ⟨noGuard, 0, 5, true, 0, false, 0x18⟩) ∧
    decodeWord 0x5300000064000000 = .ok (.call ⟨noGuard, 0x64, 0, .always⟩) ∧
    decodeWord 0x5400000000F90000 = .ok (.ret ⟨noGuard, 0x0, 62, .nonzero⟩) ∧
    decodeWord 0x550A0080000000C8 = .ok (.bwait ⟨noGuard, 40, 0, true, 0, false, 0xc8⟩) ∧
    decodeWord 0x57B0000000000000 = .ok (.exitG ⟨⟨true, 3⟩, 0x0, 0, .always⟩) ∧
    decodeWord 0x5800000000000000 = .ok (.yield ⟨noGuard, 0x0, 0, .always⟩) ∧
    decodeWord 0x5900000000000000 = .ok (.nop ⟨noGuard, 0x0, 0, .always⟩) ∧
    decodeWord 0x5A0FFFFFFAA10000 = .ok (.loop ⟨noGuard, 0xffffffa, 40, .nonzero⟩) := by decide

/-- Teams (row 0x6). -/
theorem test_decode_6 :
    decodeWord 0x6000008000000002 = .ok (.bar ⟨noGuard, 0, 0, true, 0, false, 0x2⟩) ∧
    decodeWord 0x6101408000000002 = .ok (.bararr ⟨noGuard, 5, 0, true, 0, false, 0x2⟩) ∧
    decodeWord 0x620006800000003F = .ok (.barwait ⟨noGuard, 0, 6, true, 0, false, 0x3f⟩) ∧
    decodeWord 0x6300408000001000 = .ok (.barexp ⟨noGuard, 1, 0, true, 0, false, 0x1000⟩) ∧
    decodeWord 0x6400008000000000 = .ok (.pbar ⟨noGuard, 0, 0, true, 0, false, 0x0⟩) ∧
    decodeWord 0x6500098000000000 = .ok (.tcall ⟨noGuard, 0, 9, true, 0, false, 0x0⟩) ∧
    decodeWord 0x6600008000000002 = .ok (.tret ⟨noGuard, 0, 0, true, 0, false, 0x2⟩) ∧
    decodeWord 0x6800C4820000000A = .ok (.fork ⟨noGuard, 3, 4, true, 1, false, 0xa⟩) ∧
    decodeWord 0x6900008000000000 = .ok (.join ⟨noGuard, 0, 0, true, 0, false, 0x0⟩) ∧
    decodeWord 0x6A00002200000000 = .ok (.skgive ⟨noGuard, 0, 0, false, 17, false, 0x0⟩) ∧
    decodeWord 0x6B00008000000004 = .ok (.sktake ⟨noGuard, 0, 0, true, 0, false, 0x4⟩) ∧
    decodeWord 0x6C0000800000000F = .ok (.gangset ⟨noGuard, 0, 0, true, 0, false, 0xf⟩) := by decide

/-- Memory (rows 0x7 to 0x9). -/
theorem test_decode_7 :
    decodeWord 0x70008100BC200040 = .ok (.ld ⟨noGuard, 8, 4, 0x2, .none, .rlx, .b32, 0x40⟩) ∧
    decodeWord 0x710081009D3FFFF8 = .ok (.st ⟨noGuard, 8, 4, 0x2, .device, .rel, .b64, 0xffff8⟩) ∧
    decodeWord 0x7200308054A00008 = .ok (.lds ⟨noGuard, 3, 2, 0x1, .core, .acq, .b32, 0x8⟩) ∧
    decodeWord 0x730080807C500000 = .ok (.sts ⟨noGuard, 8, 2, 0x1, .none, .rlx, .x8, 0x0⟩) ∧
    decodeWord 0x740040807C400000 = .ok (.ldc ⟨noGuard, 4, 2, 0x1, .none, .rlx, .x4, 0x0⟩) ∧
    decodeWord 0x750010807C100000 = .ok (.stc ⟨noGuard, 1, 2, 0x1, .none, .rlx, .b16, 0x0⟩) ∧
    decodeWord 0x7600613FFC300010 = .ok (.sld ⟨noGuard, 6, 4, 0xff, .none, .rlx, .b64, 0x10⟩) ∧
    decodeWord 0x7703F13FEA000000 = .ok (.sst ⟨noGuard, 63, 4, 0xff, .system, .sc, .b8, 0x0⟩) ∧
    decodeWord 0x78001080FC000100 = .ok (.pref ⟨noGuard, 1, 2, 0x3, .none, .rlx, .b8, 0x100⟩) ∧
    decodeWord 0x7900613FDC000100 = .ok (.cwb ⟨noGuard, 6, 4, 0xff, .device, .rlx, .b8, 0x100⟩) ∧
    decodeWord 0x7A00613FD8000000 = .ok (.cinv ⟨noGuard, 6, 4, 0xff, .cluster, .rlx, .b8, 0x0⟩) ∧
    decodeWord 0x7B00613FE8000000 = .ok (.cwbi ⟨noGuard, 6, 4, 0xff, .system, .rlx, .b8, 0x0⟩) ∧
    decodeWord 0x800050C09D200700 = .ok (.atom ⟨noGuard, 0x5, 3, 0x2, .device, .rel, .b32, .add, 7, 0⟩) ∧
    decodeWord 0x810FF0C0942A0C00 = .ok (.red ⟨noGuard, 0xff, 3, 0x2, .core, .rlx, .b32, .faddF32, 12, 0⟩) ∧
    decodeWord 0x820050C094200700 = .ok (.atoms ⟨noGuard, 0x5, 3, 0x2, .core, .rlx, .b32, .add, 7, 0⟩) ∧
    decodeWord 0x8300003FDD000000 = .ok (.fence ⟨noGuard, 0, 0, 0xff, .device, .rel, .b8, 0x0⟩) ∧
    decodeWord 0x900080813C200000 = .ok (.rld ⟨noGuard, 8, 2, 0x4, .none, .rlx, .b32, 0x0⟩) ∧
    decodeWord 0x9100908121200008 = .ok (.rst ⟨noGuard, 9, 2, 0x4, .domain, .rel, .b32, 0x8⟩) ∧
    decodeWord 0x9200508120200700 = .ok (.ratom ⟨noGuard, 0x5, 2, 0x4, .domain, .rlx, .b32, .add, 7, 0⟩) := by decide

/-- Copies, queues and messages (rows 0xA and 0xB). -/
theorem test_decode_8 :
    decodeWord 0xA00180FF485E0000 = .ok (.cpy ⟨noGuard, 6, 0, 0xff, 1, .bar, 2, .none, 0x0⟩) ∧
    decodeWord 0xA1018708D01E0000 = .ok (.cpym ⟨noGuard, 6, 7, 0x8, 3, .cnt, 0, .none, 0x0⟩) ∧
    decodeWord 0xA21000FF001E0008 = .ok (.patadv ⟨⟨false, 1⟩, 0, 0, 0xff, 0, .none, 0, .none, 0x8⟩) ∧
    decodeWord 0xA30240FF001E0005 = .ok (.patq ⟨noGuard, 9, 0, 0xff, 0, .none, 0, .none, 0x5⟩) ∧
    decodeWord 0xA40000FF001E0002 = .ok (.qfence ⟨noGuard, 0, 0, 0xff, 0, .none, 0, .none, 0x2⟩) ∧
    decodeWord 0xA50180FF180DFFFE = .ok (.gath ⟨noGuard, 6, 0, 0xff, 0, .cont, 0, .cluster, 0x1fffe⟩) ∧
    decodeWord 0xA60051D800000000 = .ok (.qpush ⟨noGuard, 0x5, 7, 6, 0⟩) ∧
    decodeWord 0xA700C25C00000000 = .ok (.qpop ⟨noGuard, 0xc, 9, 7, 0⟩) ∧
    decodeWord 0xA80FF25600000000 = .ok (.qtry ⟨noGuard, 0xff, 9, 5, 4⟩) ∧
    decodeWord 0xA90000FF801E0001 = .ok (.cpyres ⟨noGuard, 0, 0, 0xff, 2, .none, 0, .none, 0x1⟩) ∧
    decodeWord 0xB00180FF000E0000 = .ok (.msend ⟨noGuard, 6, 0, 0xff, 0, .none, 0, .device, 0x0⟩) ∧
    decodeWord 0xB10180FF001E0000 = .ok (.mpost ⟨noGuard, 6, 0, 0xff, 0, .none, 0, .none, 0x0⟩) ∧
    decodeWord 0xB20187FF001E0000 = .ok (.mcancel ⟨noGuard, 6, 7, 0xff, 0, .none, 0, .none, 0x0⟩) ∧
    decodeWord 0xB30187FF001E003E = .ok (.mprobe ⟨noGuard, 6, 7, 0xff, 0, .none, 0, .none, 0x3e⟩) ∧
    decodeWord 0xB40105FF001E0010 = .ok (.subon ⟨noGuard, 4, 5, 0xff, 0, .none, 0, .none, 0x10⟩) ∧
    decodeWord 0xB50100FF001E0000 = .ok (.suboff ⟨noGuard, 4, 0, 0xff, 0, .none, 0, .none, 0x0⟩) ∧
    decodeWord 0xB60000FF001E0000 = .ok (.subflush ⟨noGuard, 0, 0, 0xff, 0, .none, 0, .none, 0x0⟩) ∧
    decodeWord 0xB7000709001E0064 = .ok (.xshfl ⟨noGuard, 0, 7, 0x9, 0, .none, 0, .none, 0x64⟩) ∧
    decodeWord 0xB80180FF10100000 = .ok (.coll ⟨noGuard, 6, 0, 0xff, 0, .cnt, 0, .domain, 0x0⟩) := by decide

/-- Tile and system (rows 0xC and 0xD). -/
theorem test_decode_9 :
    decodeWord 0xC00FF20000030000 = .ok (.accalloc ⟨noGuard, 0xff, 8, 0, 0, 0, 6, 0⟩) ∧
    decodeWord 0xC10FF00000030000 = .ok (.accfree ⟨noGuard, 0xff, 0, 0, 0, 0, 6, 0⟩) ∧
    decodeWord 0xC20FF000006E8000 = .ok (.acczero ⟨noGuard, 0xff, 0, 0, 0, 3, 29, 0⟩) ∧
    decodeWord 0xC30FF28B00600800 = .ok (.mma ⟨noGuard, 0xff, 10, 11, 0, 3, 0, 1⟩) ∧
    decodeWord 0xC404000000400000 = .ok (.accld ⟨noGuard, 0x40, 0, 0, 0, 2, 0, 0⟩) ∧
    decodeWord 0xC50E000003E00000 = .ok (.accst ⟨noGuard, 0xe0, 0, 0, 0, 31, 0, 0⟩) ∧
    decodeWord 0xC60FF24000010800 = .ok (.fifodrop ⟨noGuard, 0xff, 9, 0, 0, 0, 2, 1⟩) ∧
    decodeWord 0xC70FF24000000000 = .ok (.fifostat ⟨noGuard, 0xff, 9, 0, 0, 0, 0, 0⟩) ∧
    decodeWord 0xD000000000000007 = .ok (.trapSw ⟨noGuard, 0, 0, 0, .lane, 0, 0x7⟩) ∧
    decodeWord 0xD100000000000000 = .ok (.eret ⟨noGuard, 0, 0, 0, .lane, 0, 0x0⟩) ∧
    decodeWord 0xD200000000000003 = .ok (.pmark ⟨noGuard, 0, 0, 0, .lane, 0, 0x3⟩) ∧
    decodeWord 0xD301800000000004 = .ok (.sysrd ⟨noGuard, 6, 0, 0, .lane, 0, 0x4⟩) ∧
    decodeWord 0xD400050000000012 = .ok (.syswr ⟨noGuard, 0, 5, 0, .lane, 0, 0x12⟩) ∧
    decodeWord 0xD4000500000041A2 = .ok (.syswrRoute ⟨noGuard, 0, 5, 0, .lane, 0, 0x41a2⟩) ∧
    decodeWord 0xD400050000000004 = .ok (.syswrHvec ⟨noGuard, 0, 5, 0, .lane, 0, 0x4⟩) ∧
    decodeWord 0xD400050000000391 = .ok (.syswrInjctl ⟨noGuard, 0, 5, 0, .lane, 0, 0x391⟩) ∧
    decodeWord 0xD500040010000000 = .ok (.xinvPage ⟨noGuard, 0, 4, 0, .lane, 4, 0x0⟩) ∧
    decodeWord 0xD500041414000000 = .ok (.xinvRange ⟨noGuard, 0, 4, 5, .lane, 5, 0x0⟩) ∧
    decodeWord 0xD500000008000000 = .ok (.xinvCtx ⟨noGuard, 0, 0, 0, .lane, 2, 0x0⟩) ∧
    decodeWord 0xD600000000000002 = .ok (.errinj ⟨noGuard, 0, 0, 0, .lane, 0, 0x2⟩) ∧
    decodeWord 0xD700000000000001 = .ok (.brk ⟨noGuard, 0, 0, 0, .lane, 0, 0x1⟩) ∧
    decodeWord 0xD802890004000000 = .ok (.gkill ⟨noGuard, 10, 9, 0, .lane, 1, 0x0⟩) := by decide


/-! ### Ill-formed terms, which the checks refuse, and words of such terms, which decoding refuses -/

/-- Refused by the checks of the guard, types, modifiers and unused fields of rows 0x0 and 0x1 (1 of 3). -/
theorem test_wf_refuses_0 :
    (Instr.iadd { plainV with g := ⟨true, 0⟩, d := 0, ty := .i32 }).wf = false ∧
    (Instr.iadd { plainV with d := 0, ty := .f32 }).wf = false ∧
    (Instr.iadd { plainV with d := 0, ty := .i32, rm := .rtz }).wf = false ∧
    (Instr.iadd { plainV with d := 0, ty := .i32, sub := 1 }).wf = false ∧
    (Instr.iadd { plainV with d := 0, c := .v 1, ty := .i32 }).wf = false ∧
    (Instr.iadd { plainV with d := 1, ty := .i64 }).wf = false ∧
    (Instr.iadd { plainV with d := 2, a := .v 3, ty := .i64 }).wf = false ∧
    (Instr.iadd { plainV with d := 2, a := .v 4, b := .v 5, ty := .n64 }).wf = false ∧
    (Instr.iadd { plainV with d := 0, ty := .n32, na := true }).wf = false ∧
    (Instr.imulhi { plainV with d := 0, ty := .i32, sat := true }).wf = false ∧
    (Instr.imulhi { plainV with d := 0, ty := .i32, na := true }).wf = false ∧
    (Instr.imad { plainV with d := 2, a := .v 4, b := .v 6, c := .v 7, ty := .i64 }).wf = false ∧
    (Instr.iabs { plainV with d := 0, ty := .n32 }).wf = false ∧
    (Instr.iabs { plainV with d := 0, b := .v 1, ty := .i32 }).wf = false ∧
    (Instr.vand { plainV with d := 0, ty := .i32 }).wf = false ∧
    (Instr.vand { plainV with d := 0, nb := true }).wf = false := by decide

/-- Refused by the checks of the guard, types, modifiers and unused fields of rows 0x0 and 0x1 (2 of 3). -/
theorem test_wf_refuses_1 :
    (Instr.vor { plainV with d := 0, sat := true }).wf = false ∧
    (Instr.blut { plainV with d := 0, rm := .rtz }).wf = false ∧
    (Instr.blut { plainV with d := 0, na := true }).wf = false ∧
    (Instr.blut { plainV with d := 0, sat := true }).wf = false ∧
    (Instr.shl { plainV with d := 0, ty := .i32 }).wf = false ∧
    (Instr.shr { plainV with d := 0, ty := .i8x4 }).wf = false ∧
    (Instr.sar { plainV with d := 0 }).wf = false ∧
    (Instr.funnel { plainV with d := 0, ty := .b64 }).wf = false ∧
    (Instr.funnel { plainV with d := 0, sub := 2 }).wf = false ∧
    (Instr.popc { plainV with d := 0, ty := .i32 }).wf = false ∧
    (Instr.clz { plainV with d := 0, b := .v 1 }).wf = false ∧
    (Instr.brev { plainV with d := 0, sub := 1 }).wf = false ∧
    (Instr.bfe { plainV with d := 0 }).wf = false ∧
    (Instr.bfi { plainV with d := 0, ty := .i32 }).wf = false ∧
    (Instr.bfi { plainV with d := 2, a := .v 4, b := .v 3, c := .v 5, ty := .b64 }).wf = false ∧
    (Instr.icmp { plainV with d := 0, ty := .i32, sub := 6 }).wf = false := by decide

/-- Refused by the checks of the guard, types, modifiers and unused fields of rows 0x0 and 0x1 (3 of 3). -/
theorem test_wf_refuses_2 :
    (Instr.icmp { plainV with d := 8, ty := .i32 }).wf = false ∧
    (Instr.icmp { plainV with d := 0, ty := .i16x2 }).wf = false ∧
    (Instr.icmp { plainV with d := 0, ty := .i32, sat := true }).wf = false ∧
    (Instr.sel { plainV with d := 0, c := .v 8 }).wf = false ∧
    (Instr.sel { plainV with d := 0, c := .s 1 }).wf = false ∧
    (Instr.mov { plainV with d := 0, ty := .f32 }).wf = false ∧
    (Instr.movi { g := ⟨true, 0⟩, d := 1, imm := 0x0 }).wf = false ∧
    (Instr.ishadd { plainV with d := 0, ty := .i32, xa := true }).wf = false ∧
    (Instr.ishadd { plainV with d := 0, ty := .i32, sat := true }).wf = false ∧
    (Instr.bytesel { plainV with d := 0, sub := 1 }).wf = false := by decide

/-- Refused by the checks of rows 0x2 and 0x3 (1 of 3). -/
theorem test_wf_refuses_3 :
    (Instr.fadd { plainV with d := 0, ty := .i32 }).wf = false ∧
    (Instr.fadd { plainV with d := 0, ty := .f32, sat := true }).wf = false ∧
    (Instr.fadd { plainV with d := 0, ty := .f32, sub := 1 }).wf = false ∧
    (Instr.fsub { plainV with d := 0, c := .v 1, ty := .f32 }).wf = false ∧
    (Instr.fmin { plainV with d := 0, ty := .f32, rm := .rtz }).wf = false ∧
    (Instr.fcmp { plainV with d := 0, ty := .f16x2 }).wf = false ∧
    (Instr.fcmp { plainV with d := 0, ty := .f32, sub := 8 }).wf = false ∧
    (Instr.fcmp { plainV with d := 8, ty := .f32 }).wf = false ∧
    (Instr.fclass { plainV with d := 0, ty := .f32, na := true }).wf = false ∧
    (Instr.frcp { plainV with d := 0, ty := .f16x2 }).wf = false ∧
    (Instr.frcp { plainV with d := 0, ty := .f32, nb := true }).wf = false ∧
    (Instr.fexp2 { plainV with d := 0, b := .v 1, ty := .f32 }).wf = false ∧
    (Instr.cvt { plainV with d := 0, ty := .f32 }).wf = false ∧
    (Instr.cvt { plainV with d := 0, sub := 5 }).wf = false ∧
    (Instr.cvt { plainV with d := 0, ty := .f32, sub := 15 }).wf = false ∧
    (Instr.cvt { plainV with d := 0, c := .v 1, ty := .f32, sub := 1 }).wf = false := by decide

/-- Refused by the checks of rows 0x2 and 0x3 (2 of 3). -/
theorem test_wf_refuses_4 :
    (Instr.cvt { plainV with d := 0, ty := .f32, sub := 17 }).wf = false ∧
    (Instr.cvt { plainV with d := 0, ty := .f32, sat := true, sub := 1 }).wf = false ∧
    (Instr.cvt { plainV with d := 0, ty := .i32, rm := .rtz, sub := 2 }).wf = false ∧
    (Instr.cvt { plainV with d := 0, b := .imm 33, ty := .bf16x2, sub := 5 }).wf = false ∧
    (Instr.cvt { plainV with d := 0, b := .imm 34, ty := .f32, sub := 6 }).wf = false ∧
    (Instr.cvt { plainV with d := 1, ty := .i64, sub := 1 }).wf = false ∧
    (Instr.cvt { plainV with d := 2, a := .v 3, ty := .i64, sub := 5 }).wf = false ∧
    (Instr.cvt { plainV with d := 2, a := .v 4, ty := .i64, sub := 5 }).wf = true ∧
    (Instr.cvt { plainV with d := 2, a := .v 3, ty := .i64, sub := 2 }).wf = true ∧
    (Instr.fdot2 { plainV with d := 0, ty := .f32 }).wf = false ∧
    (Instr.fdot2 { plainV with d := 0, ty := .f16x2, xa := true }).wf = false ∧
    (Instr.lcdec { plainV with d := 0, ty := .f32, sub := 16 }).wf = false ∧
    (Instr.lcdec { plainV with d := 0, ty := .bf16x2, sub := 4 }).wf = false ∧
    (Instr.fscale { plainV with d := 0, ty := .f32, nb := true }).wf = false ∧
    (Instr.qswap { plainV with d := 0, a := .v 2 }).wf = false ∧
    (Instr.qswap { plainV with d := 0, a := .s 2, sub := 1 }).wf = false ∧
    (Instr.qbcast { plainV with d := 0, sub := 4 }).wf = false ∧
    (Instr.lxch { plainV with d := 0, c := .v 1 }).wf = false ∧
    (Instr.gred { plainV with d := 0, ty := .n32, sub := 6 }).wf = false := by decide

/-- Refused by the checks of rows 0x2 and 0x3 (3 of 3). -/
theorem test_wf_refuses_5 :
    (Instr.gred { plainV with d := 0, ty := .n32, sub := 8 }).wf = false ∧
    (Instr.gred { plainV with d := 0, ty := .n32, sub := 16 }).wf = false ∧
    (Instr.gred { plainV with d := 0 }).wf = false ∧
    (Instr.gred { plainV with d := 0, ty := .n32, sub := 3 }).wf = false ∧
    (Instr.gred { plainV with d := 0, ty := .n32, rm := .rtz }).wf = false ∧
    (Instr.gscan { plainV with d := 0, ty := .f32, sat := true }).wf = false ∧
    (Instr.rand { plainV with d := 0, ty := .i32 }).wf = false ∧
    (Instr.rand { plainV with d := 0, a := .v 1 }).wf = false ∧
    (Instr.vrd { plainV with d := 64, a := .v 1, b := .s 1 }).wf = false ∧
    (Instr.vrd { plainV with d := 1, a := .v 1, b := .v 1 }).wf = false ∧
    (Instr.vwr { plainV with d := 1, a := .v 1, b := .s 1 }).wf = false ∧
    (Instr.vote { plainV with d := 8 }).wf = false ∧
    (Instr.vote { plainV with d := 0, sub := 4 }).wf = false ∧
    (Instr.tvote { plainV with g := ⟨false, 1⟩, d := 0 }).wf = false ∧
    (Instr.tvote { plainV with d := 0, sub := 7 }).wf = false := by decide

/-- Refused by the checks of the scalar unit, control and teams (1 of 3). -/
theorem test_wf_refuses_6 :
    (Instr.sadd ⟨noGuard, 0, 0, true, 1, false, 0x0⟩).wf = false ∧
    (Instr.sadd ⟨noGuard, 0, 0, false, 0, false, 0x1⟩).wf = false ∧
    (Instr.smovi ⟨noGuard, 0, 0, false, 0, false, 0x0⟩).wf = false ∧
    (Instr.smovi ⟨noGuard, 0, 1, true, 0, false, 0x0⟩).wf = false ∧
    (Instr.mfs ⟨noGuard, 0, 0, true, 0, false, 0x16⟩).wf = false ∧
    (Instr.mfs ⟨noGuard, 1, 0, true, 0, false, 0x0⟩).wf = false ∧
    (Instr.mfs ⟨noGuard, 1, 0, true, 0, false, 0x101⟩).wf = false ∧
    (Instr.mts ⟨noGuard, 0, 0, true, 0, false, 0xf⟩).wf = false ∧
    (Instr.mtsSeed ⟨noGuard, 1, 0, true, 0, false, 0xd⟩).wf = false ∧
    (Instr.fmtset ⟨noGuard, 0, 0, true, 0, false, 0x0⟩).wf = false ∧
    (Instr.fmtset ⟨noGuard, 32, 0, true, 0, false, 0x0⟩).wf = false ∧
    (Instr.jmp ⟨noGuard, 0, 0, true, 0, true, 0x0⟩).wf = false ∧
    (Instr.bwait ⟨noGuard, 31, 0, true, 0, false, 0x0⟩).wf = false ∧
    (Instr.bwait ⟨⟨false, 1⟩, 40, 0, true, 0, false, 0x0⟩).wf = false ∧
    (Instr.bar ⟨noGuard, 1, 0, true, 0, false, 0x0⟩).wf = false ∧
    (Instr.bar ⟨noGuard, 0, 0, true, 0, false, 0x40⟩).wf = false := by decide

/-- Refused by the checks of the scalar unit, control and teams (2 of 3). -/
theorem test_wf_refuses_7 :
    (Instr.bar ⟨⟨false, 1⟩, 0, 0, true, 0, false, 0x0⟩).wf = false ∧
    (Instr.barexp ⟨noGuard, 0, 2, true, 0, false, 0x0⟩).wf = false ∧
    (Instr.barexp ⟨noGuard, 0, 1, true, 0, false, 0x1⟩).wf = false ∧
    (Instr.tret ⟨noGuard, 0, 0, true, 0, false, 0x81⟩).wf = false ∧
    (Instr.fork ⟨noGuard, 0, 4, true, 0, false, 0x0⟩).wf = false ∧
    (Instr.fork ⟨noGuard, 3, 1, true, 0, false, 0x0⟩).wf = false ∧
    (Instr.fork ⟨noGuard, 3, 33, true, 0, false, 0x0⟩).wf = false ∧
    (Instr.fork ⟨noGuard, 3, 4, true, 2, false, 0x0⟩).wf = false ∧
    (Instr.sktake ⟨noGuard, 0, 0, true, 0, false, 0x0⟩).wf = false ∧
    (Instr.skgive ⟨noGuard, 0, 0, true, 0, false, 0x81⟩).wf = false ∧
    (Instr.gangset ⟨noGuard, 0, 0, true, 1, false, 0x0⟩).wf = false ∧
    (Instr.gangset ⟨noGuard, 0, 0, false, 0, false, 0x1⟩).wf = false ∧
    (Instr.bra ⟨noGuard, 0x0, 1, .always⟩).wf = false ∧
    (Instr.ret ⟨noGuard, 0x1, 0, .always⟩).wf = false ∧
    (Instr.loop ⟨noGuard, 0x0, 0, .always⟩).wf = false ∧
    (Instr.exitG ⟨noGuard, 0x0, 1, .always⟩).wf = false := by decide

/-- Refused by the checks of the scalar unit, control and teams (3 of 3). -/
theorem test_wf_refuses_8 :
    (Instr.nop ⟨⟨true, 0⟩, 0x0, 0, .always⟩).wf = false ∧
    (Instr.brp ⟨⟨true, 0⟩, 0x0, 0x0⟩).wf = false := by decide

/-- Refused by the checks of memory (1 of 2). -/
theorem test_wf_refuses_9 :
    (Instr.ld ⟨noGuard, 0, 0, 0xff, .device, .rel, .b8, 0x0⟩).wf = false ∧
    (Instr.ld ⟨noGuard, 0, 0, 0xff, .none, .acq, .b8, 0x0⟩).wf = false ∧
    (Instr.ld ⟨noGuard, 0, 0, 0xff, .core, .rlx, .x4, 0x0⟩).wf = false ∧
    (Instr.ld ⟨noGuard, 1, 0, 0xff, .none, .rlx, .b64, 0x0⟩).wf = false ∧
    (Instr.st ⟨noGuard, 2, 0, 0xff, .none, .rlx, .x4, 0x0⟩).wf = false ∧
    (Instr.st ⟨noGuard, 0, 0, 0xff, .core, .acq, .b8, 0x0⟩).wf = false ∧
    (Instr.sld ⟨noGuard, 64, 0, 0xff, .none, .rlx, .b8, 0x0⟩).wf = false ∧
    (Instr.sld ⟨noGuard, 0, 0, 0x1, .none, .rlx, .b8, 0x0⟩).wf = false ∧
    (Instr.sst ⟨noGuard, 0, 0, 0xff, .none, .rlx, .x8, 0x0⟩).wf = false ∧
    (Instr.pref ⟨noGuard, 2, 0, 0xff, .none, .rlx, .b8, 0x0⟩).wf = false ∧
    (Instr.pref ⟨noGuard, 0, 0, 0xff, .none, .rlx, .b32, 0x0⟩).wf = false ∧
    (Instr.cwb ⟨noGuard, 0, 0, 0xff, .core, .rlx, .b8, 0x0⟩).wf = false ∧
    (Instr.cinv ⟨noGuard, 0, 0, 0xff, .none, .rlx, .b8, 0x0⟩).wf = false ∧
    (Instr.cwbi ⟨noGuard, 0, 0, 0xff, .device, .rel, .b8, 0x0⟩).wf = false ∧
    (Instr.fence ⟨noGuard, 0, 0, 0xff, .device, .rlx, .b8, 0x0⟩).wf = false ∧
    (Instr.fence ⟨noGuard, 0, 0, 0xff, .none, .sc, .b8, 0x0⟩).wf = false := by decide

/-- Refused by the checks of memory (2 of 2). -/
theorem test_wf_refuses_10 :
    (Instr.fence ⟨noGuard, 0, 0, 0xff, .device, .sc, .b8, 0x1⟩).wf = false ∧
    (Instr.rld ⟨noGuard, 0, 0, 0x0, .device, .rlx, .b8, 0x0⟩).wf = false ∧
    (Instr.rld ⟨noGuard, 0, 0, 0x1, .none, .rlx, .b8, 0x0⟩).wf = false ∧
    (Instr.rst ⟨noGuard, 1, 0, 0x0, .none, .rlx, .b64, 0x0⟩).wf = false ∧
    (Instr.atom ⟨noGuard, 0x0, 0, 0xff, .none, .rlx, .b32, .add, 0, 0⟩).wf = false ∧
    (Instr.atom ⟨noGuard, 0x0, 0, 0xff, .device, .rlx, .b8, .add, 0, 0⟩).wf = false ∧
    (Instr.atom ⟨noGuard, 0x0, 0, 0xff, .device, .rlx, .b32, .add, 0, 1⟩).wf = false ∧
    (Instr.atom ⟨noGuard, 0x0, 0, 0xff, .device, .rlx, .b64, .add, 1, 0⟩).wf = false ∧
    (Instr.atoms ⟨noGuard, 0x1, 0, 0xff, .core, .rlx, .b64, .add, 0, 0⟩).wf = false ∧
    (Instr.red ⟨noGuard, 0x0, 0, 0xff, .core, .rlx, .b32, .add, 0, 0⟩).wf = false ∧
    (Instr.red ⟨noGuard, 0x0, 0, 0xff, .core, .acq, .b32, .add, 0, 0⟩).wf = false ∧
    (Instr.red ⟨noGuard, 0x0, 0, 0xff, .core, .rlx, .b32, .exch, 0, 0⟩).wf = false ∧
    (Instr.red ⟨noGuard, 0x0, 0, 0xff, .core, .rlx, .b32, .cas, 0, 0⟩).wf = false ∧
    (Instr.ratom ⟨noGuard, 0x0, 0, 0x0, .device, .rlx, .b32, .add, 0, 0⟩).wf = false ∧
    (Instr.ratom ⟨noGuard, 0x0, 0, 0x1, .domain, .rlx, .b32, .add, 0, 0⟩).wf = false := by decide

/-- Refused by the checks of copies, queues, messages, tile and system (1 of 4). -/
theorem test_wf_refuses_11 :
    (Instr.cpy ⟨noGuard, 0, 1, 0xff, 0, .none, 0, .none, 0x0⟩).wf = false ∧
    (Instr.cpy ⟨noGuard, 0, 0, 0x0, 0, .none, 0, .none, 0x0⟩).wf = false ∧
    (Instr.cpy ⟨noGuard, 0, 0, 0xff, 0, .none, 0, .none, 0x1⟩).wf = false ∧
    (Instr.cpy ⟨noGuard, 0, 0, 0xff, 0, .none, 1, .none, 0x0⟩).wf = false ∧
    (Instr.cpy ⟨noGuard, 0, 0, 0xff, 0, .none, 0, .core, 0x0⟩).wf = false ∧
    (Instr.cpym ⟨noGuard, 0, 0, 0xff, 0, .none, 0, .none, 0x0⟩).wf = false ∧
    (Instr.cpym ⟨noGuard, 0, 0, 0x0, 0, .cont, 0, .none, 0x0⟩).wf = false ∧
    (Instr.patadv ⟨noGuard, 0, 0, 0xff, 0, .none, 0, .none, 0x10000⟩).wf = false ∧
    (Instr.patadv ⟨noGuard, 0, 1, 0xff, 0, .none, 0, .none, 0x1⟩).wf = false ∧
    (Instr.patq ⟨noGuard, 0, 0, 0xff, 0, .none, 0, .none, 0x8⟩).wf = false ∧
    (Instr.qfence ⟨noGuard, 0, 0, 0xff, 0, .none, 0, .none, 0x40⟩).wf = false ∧
    (Instr.gath ⟨noGuard, 0, 0, 0xff, 1, .none, 0, .none, 0x0⟩).wf = false ∧
    (Instr.cpyres ⟨noGuard, 0, 0, 0xff, 0, .none, 0, .none, 0x4⟩).wf = false ∧
    (Instr.msend ⟨noGuard, 0, 0, 0xff, 0, .cnt, 0, .none, 0x0⟩).wf = false ∧
    (Instr.msend ⟨noGuard, 0, 0, 0xff, 0, .none, 0, .cluster, 0x0⟩).wf = false ∧
    (Instr.mpost ⟨noGuard, 0, 0, 0xff, 0, .none, 0, .device, 0x0⟩).wf = false := by decide

/-- Refused by the checks of copies, queues, messages, tile and system (2 of 4). -/
theorem test_wf_refuses_12 :
    (Instr.mcancel ⟨noGuard, 0, 0, 0xff, 0, .none, 0, .none, 0x1⟩).wf = false ∧
    (Instr.mprobe ⟨noGuard, 0, 0, 0xff, 0, .none, 0, .none, 0x1⟩).wf = false ∧
    (Instr.subon ⟨noGuard, 0, 0, 0xff, 0, .none, 0, .none, 0x0⟩).wf = false ∧
    (Instr.subon ⟨noGuard, 0, 0, 0xff, 0, .none, 0, .none, 0x401⟩).wf = false ∧
    (Instr.suboff ⟨noGuard, 0, 1, 0xff, 0, .none, 0, .none, 0x0⟩).wf = false ∧
    (Instr.subflush ⟨noGuard, 1, 0, 0xff, 0, .none, 0, .none, 0x0⟩).wf = false ∧
    (Instr.xshfl ⟨noGuard, 0, 0, 0xff, 0, .none, 0, .none, 0x0⟩).wf = false ∧
    (Instr.coll ⟨noGuard, 0, 0, 0xff, 0, .none, 1, .none, 0x0⟩).wf = false ∧
    (Instr.coll ⟨noGuard, 0, 0, 0xff, 0, .bar, 0, .none, 0x0⟩).wf = false ∧
    (Instr.accalloc ⟨⟨false, 1⟩, 0xff, 0, 0, 0, 0, 1, 0⟩).wf = false ∧
    (Instr.accalloc ⟨noGuard, 0xff, 0, 0, 0, 0, 0, 0⟩).wf = false ∧
    (Instr.accfree ⟨noGuard, 0xff, 0, 0, 0, 3, 30, 0⟩).wf = false ∧
    (Instr.acczero ⟨noGuard, 0x0, 0, 0, 0, 0, 1, 0⟩).wf = false ∧
    (Instr.mma ⟨noGuard, 0xff, 0, 0, 0, 0, 0, 2⟩).wf = false ∧
    (Instr.accld ⟨noGuard, 0x41, 0, 0, 0, 0, 0, 0⟩).wf = false ∧
    (Instr.accst ⟨noGuard, 0xe8, 0, 0, 0, 0, 0, 0⟩).wf = false := by decide

/-- Refused by the checks of copies, queues, messages, tile and system (3 of 4). -/
theorem test_wf_refuses_13 :
    (Instr.fifodrop ⟨noGuard, 0xff, 0, 0, 0, 0, 1, 2⟩).wf = false ∧
    (Instr.fifostat ⟨noGuard, 0xff, 0, 0, 0, 0, 0, 1⟩).wf = false ∧
    (Instr.trapSw ⟨noGuard, 1, 0, 0, .lane, 0, 0x0⟩).wf = false ∧
    (Instr.eret ⟨noGuard, 0, 0, 0, .lane, 0, 0x1⟩).wf = false ∧
    (Instr.eret ⟨⟨false, 1⟩, 0, 0, 0, .lane, 0, 0x0⟩).wf = false ∧
    (Instr.pmark ⟨noGuard, 0, 1, 0, .lane, 0, 0x0⟩).wf = false ∧
    (Instr.sysrd ⟨noGuard, 0, 0, 0, .lane, 0, 0x3fff⟩).wf = false ∧
    (Instr.syswr ⟨noGuard, 0, 0, 0, .lane, 0, 0x4000⟩).wf = false ∧
    (Instr.syswr ⟨noGuard, 0, 0, 0, .lane, 0, 0x4⟩).wf = false ∧
    (Instr.syswr ⟨noGuard, 0, 0, 0, .lane, 0, 0x390⟩).wf = false ∧
    (Instr.syswr ⟨noGuard, 0, 0, 0, .lane, 0, 0x1⟩).wf = false ∧
    (Instr.syswrRoute ⟨noGuard, 0, 0, 0, .lane, 0, 0x12⟩).wf = false ∧
    (Instr.syswrHvec ⟨noGuard, 0, 0, 0, .lane, 0, 0x5⟩).wf = false ∧
    (Instr.syswrInjctl ⟨noGuard, 0, 0, 0, .lane, 0, 0x4⟩).wf = false ∧
    (Instr.xinvPage ⟨noGuard, 0, 0, 0, .lane, 8, 0x0⟩).wf = false ∧
    (Instr.xinvPage ⟨noGuard, 0, 0, 1, .lane, 0, 0x0⟩).wf = false := by decide

/-- Refused by the checks of copies, queues, messages, tile and system (4 of 4). -/
theorem test_wf_refuses_14 :
    (Instr.xinvRange ⟨noGuard, 0, 0, 0, .lane, 0, 0x0⟩).wf = false ∧
    (Instr.xinvCtx ⟨noGuard, 0, 0, 0, .lane, 6, 0x0⟩).wf = false ∧
    (Instr.xinvCtx ⟨noGuard, 0, 1, 0, .lane, 2, 0x0⟩).wf = false ∧
    (Instr.errinj ⟨noGuard, 0, 0, 0, .lane, 0, 0x10⟩).wf = false ∧
    (Instr.brk ⟨noGuard, 0, 0, 0, .core, 0, 0x0⟩).wf = false ∧
    (Instr.gkill ⟨noGuard, 0, 0, 0, .lane, 2, 0x0⟩).wf = false := by decide

/-- Words of ill-formed terms trap ILLEGAL_FIELD with their opcode (R90). -/
theorem test_decode_refuses_0 :
    decodeWord 0x0080000000010000 = .error (.illegalField 0) ∧
    decodeWord 0x0000203000030000 = .error (.illegalField 0) ∧
    decodeWord 0x0700000000020000 = .error (.illegalField 7) ∧
    decodeWord 0x0B00000000000100 = .error (.illegalField 11) ∧
    decodeWord 0x0F00000000000002 = .error (.illegalField 15) ∧
    decodeWord 0x14002040305E0000 = .error (.illegalField 20) ∧
    decodeWord 0x1600000000102000 = .error (.illegalField 22) ∧
    decodeWord 0x2000000000010000 = .error (.illegalField 32) ∧
    decodeWord 0x2600000000050008 = .error (.illegalField 38) ∧
    decodeWord 0x3000000000050000 = .error (.illegalField 48) ∧
    decodeWord 0x3000000000010402 = .error (.illegalField 48) ∧
    decodeWord 0x3200000000050010 = .error (.illegalField 50) ∧
    decodeWord 0x3600000000100000 = .error (.illegalField 54) ∧
    decodeWord 0x3700000000020400 = .error (.illegalField 55) := by decide

/-- More such words. -/
theorem test_decode_refuses_1 :
    decodeWord 0x4C00101010004000 = .error (.illegalField 76) ∧
    decodeWord 0x4000008200000000 = .error (.illegalField 64) ∧
    decodeWord 0x4D00408000000101 = .error (.illegalField 77) ∧
    decodeWord 0x5507C08000000000 = .error (.illegalField 85) ∧
    decodeWord 0x6300018000000001 = .error (.illegalField 99) ∧
    decodeWord 0x6B00008000000000 = .error (.illegalField 107) ∧
    decodeWord 0x5A00000000000000 = .error (.illegalField 90) ∧
    decodeWord 0x7000003FDD000000 = .error (.illegalField 112) ∧
    decodeWord 0x7604003FFC000000 = .error (.illegalField 118) ∧
    decodeWord 0x7A00003FFC000000 = .error (.illegalField 122) ∧
    decodeWord 0x900000007C000000 = .error (.illegalField 144) ∧
    decodeWord 0x8200103FD4300000 = .error (.illegalField 130) ∧
    decodeWord 0x9200000060200000 = .error (.illegalField 146) ∧
    decodeWord 0xA00001FF001E0000 = .error (.illegalField 160) := by decide

/-- More such words. -/
theorem test_decode_refuses_2 :
    decodeWord 0xA1000000181E0000 = .error (.illegalField 161) ∧
    decodeWord 0xA90000FF001E0004 = .error (.illegalField 169) ∧
    decodeWord 0xB40000FF001E0000 = .error (.illegalField 180) ∧
    decodeWord 0xB80000FF081E0000 = .error (.illegalField 184) ∧
    decodeWord 0xC404100000000000 = .error (.illegalField 196) ∧
    decodeWord 0xD110000000000000 = .error (.illegalField 209) ∧
    decodeWord 0xD400000000000001 = .error (.illegalField 212) := by decide

/-- Opcodes that no instruction has (R90). -/
theorem test_decode_illegal_opcodes :
    decodeTableWord 64 0x1B00000000000000 = some (.illegalOp 0x1B00000000000000) ∧
    decodeTableWord 64 0xE000000000000001 = some (.illegalOp 0xE000000000000001) := by decide

/-! ### Single steps -/

/-- Lane `l` of register `v` after an instruction that completes. -/
def lane (i : Instr) (s : State) (v l : Nat) : Option Lane32 :=
  match exec i s with | .next t => some ((t.grp 0).vlane v l) | _ => none
/-- Scalar `n` of the first arm after an instruction that completes. -/
def scal (i : Instr) (s : State) (n : Nat) : Option Word :=
  match exec i s with | .next t => some ((t.grp 0).sreg 0 n) | _ => none
/-- What a function of the group gives after an instruction that completes. -/
def after {α : Type} (i : Instr) (s : State) (f : Group → α) : Option α :=
  match exec i s with | .next t => some (f (t.grp 0)) | _ => none

def sf (d a b : BitVec 6) : SF := ⟨noGuard, d, a, false, b, false, 0⟩
def sfi (d a : BitVec 6) (x : BitVec 32) : SF := ⟨noGuard, d, a, true, 0, false, x⟩
def s1 : State := withV 1 (fun l => BitVec.ofNat 32 (2 ^ 31 - 1 - l)) (withV 2 (fun l => BitVec.ofNat 32 (l + 1)))

/-- 2^31 − 1 + 1 wraps to −2^31, and saturates to 2^31 − 1 (R132, R133). -/
theorem test_iadd_wrap : lane (.iadd { pl with d := 3, a := .v 1, b := .v 2, ty := .i32 }) s1 3 0 = some 0x80000000 ∧
    lane (.iadd { pl with d := 3, a := .v 1, b := .v 2, ty := .i32, sat := true }) s1 3 31 = some 0x7FFFFFFF := by decide +kernel
/-- (2^31 − 1) · 2 = 2^32 − 2, whose high word is 0 in signed and unsigned form; (−1) · 3 has −1 there in signed form, 2 in the other. -/
theorem test_imulhi :
    (let s := withV 4 (fun _ => 0xFFFFFFFF) (withV 5 (fun _ => 3))
     lane (.imulhi { pl with d := 3, a := .v 4, b := .v 5, ty := .i32 }) s 3 0 = some 0xFFFFFFFF ∧
     lane (.imulhi { pl with d := 3, a := .v 4, b := .v 5, ty := .n32 }) s 3 0 = some 2) := by decide +kernel
/-- The majority table 0xE8 of R143. -/
theorem test_blut_majority :
    (let s := withV 4 (fun _ => 0x0F0F00FF) (withV 5 (fun _ => 0x33330F0F) (withV 6 (fun _ => 0x55553333)))
     lane (.blut { pl with d := 3, a := .v 4, b := .v 5, c := .v 6, nb := true, xa := true, xb := true, sub := 8 }) s 3 0
       = some 0x1717033F) := by decide +kernel
/-- 1 + 1.5 · 2^−24 lies 0.75 units above 1: to nearest it is 1 + 2^−23, toward zero it is 1. -/
theorem test_fadd_rounding :
    (let s := withV 4 (fun _ => 0x3F800000) (withV 5 (fun _ => 0x33C00000))
     lane (.fadd { pl with d := 3, a := .v 4, b := .v 5, ty := .f32 }) s 3 7 = some 0x3F800001 ∧
     lane (.fadd { pl with d := 3, a := .v 4, b := .v 5, ty := .f32, rm := .rtz }) s 3 7 = some 0x3F800000) := by decide +kernel
/-- The example of R109: lane 0 in state 1 rounds 0x3F804000 to 0x3F81 and goes on from 0x00042021; to nearest it is 0x3F80. -/
theorem test_cvt_stochastic :
    (let s := withGroup (fun g => { g with xs := 1 :: List.replicate 31 0 }) (withV 4 (fun _ => 0x3F804000) (withV 5 (fun _ => 0)))
     let f : VF := { pl with d := 3, a := .v 4, b := .v 5, ty := .bf16x2, sub := 5 }
     (lane (.cvt { f with rm := .sr }) s 3 0).map (· &&& 0xFFFF) = some 0x3F81 ∧
     (lane (.cvt f) s 3 0).map (· &&& 0xFFFF) = some 0x3F80) := by decide +kernel
/-- 24 bits set below a leading 8 zeros. -/
theorem test_bit_counts :
    (let s := withV 4 (fun _ => 0x00FFFFFF)
     lane (.popc { pl with d := 3, a := .v 4 }) s 3 9 = some 24 ∧ lane (.clz { pl with d := 3, a := .v 4 }) s 3 9 = some 8 ∧
     lane (.brev { pl with d := 3, a := .v 4 }) s 3 9 = some 0xFFFFFF00) := by decide +kernel
/-- A guard leaves the other lanes' registers alone (R66). -/
theorem test_guard :
    (let s := withV 1 (fun _ => 5) sGuard
     lane (.movi { g := ⟨false, 1⟩, d := 1, imm := 9 }) s 1 15 = some 9 ∧ lane (.movi { g := ⟨false, 1⟩, d := 1, imm := 9 }) s 1 16 = some 5) := by
  decide +kernel
/-- 1 + … + 32 = 528. -/
theorem test_gred_sum : lane (.gred { pl with d := 3, a := .v 2, ty := .n32, sub := 0 }) s1 3 31 = some 528 := by decide +kernel
/-- 64-bit scalar arithmetic wraps; a count goes down by 1. -/
theorem test_scalars :
    (let s := withS 4 0xFFFFFFFFFFFFFFFF (withS 5 2)
     scal (.sadd (sf 6 4 5)) s 6 = some 1 ∧ scal (.ssub (sf 6 5 4)) s 6 = some 3 ∧
     scal (.loop ⟨noGuard, 0xFFFFFFA, 5, .nonzero⟩) s 5 = some 1) := by decide +kernel
/-- The words of R158: RM reads 5 and the rest of FMT stays. -/
theorem test_fmtset : after (.fmtset (sfi 4 0 0x5000)) s0 (fun g => g.arm0.fmt ^^^ (s0.grp 0).arm0.fmt) = some 0x5000 := by decide +kernel
/-- brp whose lanes all take it goes to its target 4 words on, in one arm (R173). -/
theorem test_brp_uniform : after (.brp ⟨noGuard, 4, 8⟩) s0 (fun g => (g.arm0.mask, g.arm1.live, g.arm0.pc - (s0.grp 0).arm0.pc))
    = some (0xFFFFFFFF, false, 32) := by decide +kernel
/-- A software trap enters the handler with cause 0 and its number (R435). -/
theorem test_trap_enters :
    after (.trapSw ⟨noGuard, 0, 0, 0, .lane, 0, 7⟩) (withLaunch fun l => { l with hvec := 0x800 })
      (fun g => (g.arm0.handler, g.arm0.trapc.toNat, g.arm0.trapx.toNat)) = some (true, 0, 7) := by decide +kernel
/-- Without a handler the group ends with that cause (R438). -/
theorem test_trap_ends : after (.trapSw ⟨noGuard, 0, 0, 0, .lane, 0, 7⟩) s0 (fun g => (g.live, g.cause.map (·.cause))) = some (false, some 0) := by
  decide +kernel
/-- exit under a guard that holds in every lane ends the group without a cause (R191). -/
theorem test_exit : after (.exitG ⟨noGuard, 0, 0, .always⟩) s0 (fun g => (g.live, g.cause.isNone)) = some (false, true) := by decide +kernel

/-- R134: under a 64-bit TY a vector source of cvt is an even register, unless it is one that is read as n32. -/
theorem test_cvt_pairs :
    (Instr.cvt { pl with ty := .i64, sub := 1, a := .v 3 }).wf = false ∧ (Instr.cvt { pl with ty := .i64, sub := 1, a := .v 2 }).wf = true ∧
    (Instr.cvt { pl with ty := .i64, sub := 2, a := .v 3 }).wf = true ∧ (Instr.cvt { pl with ty := .i32, sub := 3, a := .v 3 }).wf = false := by decide

/-- R422: a pending accld holds an instruction that names one of its registers; cpy names none, whatever the fields it does not use hold. -/
theorem test_names :
    (Instr.accld { tF with v := 224 }).names.d = [(224, 32)] ∧ (Instr.cpy xF).names.v = [] ∧ (Instr.cpy xF).names.d = [] ∧
    (Instr.mov { pl with d := 1, a := .v 224 }).names.v = [(224, 1)] ∧ (Instr.cpym { xF with v := 225 }).names.v = [(225, 1)] := by decide

/-- R87: a misaligned subon traps ALIGN (15) ahead of the SUB_RANGE (47) that a subscription lost at a resume waits to raise. -/
theorem test_subon_order :
    let s := withTeam (fun t => { t with subLost := some 0x40 }) (withLaunch (fun l => { l with hvec := 0x800 }) (withS 5 8 (withS 6 64 (sD []))))
    (match exec (.subon { xF with imm := 1 }) s with | .next t => t.ca.trapc | _ => 0) = 15 ∧
    (match exec (.subon { xF with imm := 1 }) (withS 5 64 s) with | .next t => t.ca.trapc | _ => 0) = 47 := by decide +kernel

end Sys2Proof.Tests
end

section
/-! The frame of accesses: what no access to memory, to a scratchpad or to a queue register, and no traffic to another device, changes. -/

namespace Sys2Proof.Machine.State

/-- The machine without the parts that an access to memory, to a scratchpad or to a queue register changes, or traffic to another device:
what is left holds the groups, the contexts, the launches and the hook's lists. -/
def beyondAccess (s : State) : State :=
  { s with freeCtr := 0, teams := [], cores := [], diesSt := [], mem := [], psn := [], dir := [], dirty := [], mlines := [], checks := [], hits := [],
           hostMem := [], hostLog := {}, dev := {}, leafs := [], ingressTlb := [], events := [], subs := [], planes := [], used := [],
           retiring := [], rowErrs := [], spareRows := [], host := {}, msix := [] }

/-- An update of these parts alone. -/
@[simp] theorem update_beyondAccess (s : State) (freeCtr : Nat) (teams : SMap Team) (cores : SMap CoreSt) (diesSt : SMap DieSt)
    (mem : SMap Byte) (psn : SMap Bool) (dir : SMap DirEntry) (dirty : SMap Bool) (mlines : SMap (List Nat))
    (checks : SMap (List CheckRec)) (hits : SMap Bool) (hostMem : SMap Byte) (hostLog : ErrLog) (dev : DevRegs) (leafs ingressTlb : List TlbEntry)
    (events : List DevEvent) (subs : SMap Subscr) (planes : SMap Plane) (used : SMap Nat) (retiring : List Nat) (rowErrs spareRows : SMap Nat) (host : HostIf)
    (msix : SMap MsixVec) :
    ({ s with freeCtr, teams, cores, diesSt, mem, psn, dir, dirty, mlines, checks, hits, hostMem, hostLog, dev, leafs, ingressTlb, events, subs,
              planes, used, retiring, rowErrs, spareRows, host, msix } : State).beyondAccess = s.beyondAccess := rfl

/-- A chain of operations, each of which changes these parts alone. -/
theorem foldl_beyondAccess {α : Type} {f : State → α → State} (hf : ∀ s a, (f s a).beyondAccess = s.beyondAccess) (l : List α) (s : State) :
    (l.foldl f s).beyondAccess = s.beyondAccess := by
  induction l generalizing s with
  | nil => rfl
  | cons a l ih => exact (ih _).trans (hf s a)

/-- A choice between two such operations. -/
@[simp] theorem ite_beyondAccess (c : Prop) [Decidable c] (s t : State) :
    (if c then s else t).beyondAccess = if c then s.beyondAccess else t.beyondAccess := apply_ite ..

section
variable (s : State)

@[simp] theorem setTeam_beyondAccess (k : Nat) (x : Team) : (s.setTeam k x).beyondAccess = s.beyondAccess := rfl
@[simp] theorem setCore_beyondAccess (k : Nat) (x : CoreSt) : (s.setCore k x).beyondAccess = s.beyondAccess := rfl
@[simp] theorem setDie_beyondAccess (k : Nat) (x : DieSt) : (s.setDie k x).beyondAccess = s.beyondAccess := rfl
@[simp] theorem setDir_beyondAccess (k : Nat) (e : DirEntry) : (s.setDir k e).beyondAccess = s.beyondAccess := rfl
@[simp] theorem setPlane_beyondAccess (k : Nat) (b : Bool) (p : Plane) : (s.setPlane k b p).beyondAccess = s.beyondAccess := rfl
@[simp] theorem bump_beyondAccess : s.bump.beyondAccess = s.beyondAccess := rfl
@[simp] theorem holeLog_beyondAccess (pa : Nat) : (s.holeLog pa).beyondAccess = s.beyondAccess := rfl
@[simp] theorem l2put_beyondAccess (d c : Nat) (b : Bool) (k : Nat) (x : L2Sect) : (s.l2put d c b k x).beyondAccess = s.beyondAccess := rfl
@[simp] theorem l2drop_beyondAccess (d k : Nat) : (s.l2drop d k).beyondAccess = s.beyondAccess := rfl
@[simp] theorem updStrip_beyondAccess (c k : Nat) : (s.updStrip c k).beyondAccess = s.beyondAccess := rfl
@[simp] theorem homeWrite_beyondAccess (k : Nat) (m : BitVec 64) (d : List Byte) (p : Bool) :
    (s.homeWrite k m d p).beyondAccess = s.beyondAccess := rfl
@[simp] theorem spWrite_beyondAccess (t o : Nat) (bs : List Byte) (p : Bool) : (s.spWrite t o bs p).beyondAccess = s.beyondAccess := rfl
@[simp] theorem spStore_beyondAccess (t o : Nat) (bs : List Byte) (p : Bool) : (s.spStore t o bs p).beyondAccess = s.beyondAccess := rfl
@[simp] theorem applyUpdate_beyondAccess (x : Subscr) (u : Update) : (s.applyUpdate x u).beyondAccess = s.beyondAccess := rfl

@[simp] theorem noteStore_beyondAccess (k : Nat) : (s.noteStore k).beyondAccess = s.beyondAccess := by
  unfold noteStore; split <;> simp

@[simp] theorem sendMsix_beyondAccess (v : Nat) : (s.sendMsix v).beyondAccess = s.beyondAccess := by
  unfold sendMsix; dsimp only; split <;> simp

@[simp] theorem charge_beyondAccess (k u p n : Nat) : (s.charge k u p n).beyondAccess = s.beyondAccess := by
  unfold charge; dsimp only; split <;> simp

@[simp] theorem logError_beyondAccess (c u : Nat) (e : LogEntry) (b : Bool) : (s.logError c u e b).beyondAccess = s.beyondAccess := by
  unfold logError; dsimp only; split <;> simp

@[simp] theorem fireInj_beyondAccess (y c u : Nat) (a : Option Word) : (s.fireInj y c u a).beyondAccess = s.beyondAccess := by
  unfold fireInj; dsimp only; split <;> simp

@[simp] theorem hopFlit_beyondAccess (i j : Nat) : (s.hopFlit i j).beyondAccess = s.beyondAccess := by
  unfold hopFlit; split <;> simp

@[simp] theorem hopFlits_beyondAccess (i j : Nat) : (s.hopFlits i j).beyondAccess = s.beyondAccess := by
  unfold hopFlits; dsimp only; split <;> simp

@[simp] theorem chargeHomes_beyondAccess (d p : Nat) (l : List (Nat × Bool)) : (s.chargeHomes d p l).beyondAccess = s.beyondAccess :=
  foldl_beyondAccess (fun _ _ => by simp) l s

/-! Homes and the L2s of the dies. -/

@[simp] theorem deltasHome_beyondAccess (k c : Nat) : (s.deltasHome k c).beyondAccess = s.beyondAccess := by
  unfold deltasHome
  dsimp only
  split
  · exact foldl_beyondAccess (fun _ _ => by simp) _ s
  · exact (updStrip_beyondAccess ..).trans (foldl_beyondAccess (fun _ _ => by simp) _ s)

@[simp] theorem deltasDie_beyondAccess (l : List Nat) (k : Nat) : (l.foldl (fun s c => s.deltasHome k c) s).beyondAccess = s.beyondAccess :=
  foldl_beyondAccess (fun s c => s.deltasHome_beyondAccess k c) l s

@[simp] theorem l2Recall_beyondAccess (d k : Nat) (b : Bool) : (s.l2Recall d k b).beyondAccess = s.beyondAccess := by
  unfold l2Recall; split <;> simp

@[simp] theorem recalls_beyondAccess (l : List Nat) (k : Nat) (b : Bool) :
    (l.foldl (fun s d => s.l2Recall d k b) s).beyondAccess = s.beyondAccess :=
  foldl_beyondAccess (fun s d => s.l2Recall_beyondAccess d k b) l s

@[simp] theorem homeClear_beyondAccess (k : Nat) (w : Bool) : (s.homeClear k w).beyondAccess = s.beyondAccess := by
  unfold homeClear; dsimp only; split <;> simp

@[simp] theorem homeEvict_beyondAccess (k : Nat) : (s.homeEvict k).beyondAccess = s.beyondAccess := by
  have hf := foldl_beyondAccess (fun s j => s.homeClear_beyondAccess (k * 4 + j) true) (List.range 4) s
  simp only [homeEvict, update_beyondAccess, hf]

@[simp] theorem homeLine_beyondAccess (k : Nat) : (s.homeLine k).beyondAccess = s.beyondAccess := by
  unfold homeLine; dsimp only; split <;> simp

@[simp] theorem homeReadShared_beyondAccess (r k : Nat) : (s.homeReadShared r k).beyondAccess = s.beyondAccess := by
  unfold homeReadShared; dsimp only; split <;> simp

@[simp] theorem homeReadOwn_beyondAccess (r k : Nat) : (s.homeReadOwn r k).beyondAccess = s.beyondAccess := by
  simp [homeReadOwn]

@[simp] theorem l2Own_beyondAccess (d c k : Nat) : (s.l2Own d c k).beyondAccess = s.beyondAccess := by
  simp [l2Own]

@[simp] theorem giveUp_beyondAccess (d k : Nat) (b : Bool) : (s.giveUp d k b).beyondAccess = s.beyondAccess := by
  simp [giveUp]

@[simp] theorem homeTake_beyondAccess (k : Nat) (w : Bool) : (s.homeTake k w).beyondAccess = s.beyondAccess := by
  simp [homeTake]

@[simp] theorem homeMerge_beyondAccess (k : Nat) (m : BitVec 64) (d : List Byte) (p : Bool) :
    (s.homeMerge k m d p).beyondAccess = s.beyondAccess := by
  simp [homeMerge]

@[simp] theorem swWriteBack_beyondAccess (d k : Nat) : (s.swWriteBack d k).beyondAccess = s.beyondAccess := by
  unfold swWriteBack; split <;> simp

@[simp] theorem l2Fill_beyondAccess (d c : Nat) (b : Bool) (k : Nat) (m : BitVec 64) :
    (s.l2Fill d c b k m).1.beyondAccess = s.beyondAccess := by
  unfold l2Fill
  dsimp only
  repeat' split
  all_goals simp

@[simp] theorem l2Store_beyondAccess (d c : Nat) (b : Bool) (k : Nat) (m : BitVec 64) (x : List Byte) (p : Bool) :
    (s.l2Store d c b k m x p).beyondAccess = s.beyondAccess := by
  unfold l2Store
  cases b with
  | true => simp
  | false => cases s.listFull d c (s.lineSlice d (k / 4)) k <;> simp

@[simp] theorem deltasL2_beyondAccess (c : Nat) (b : Bool) (k : Nat) : (s.deltasL2 c b k).beyondAccess = s.beyondAccess :=
  foldl_beyondAccess (fun s u => by cases b <;> simp) _ s

@[simp] theorem l2Turn_beyondAccess (d : Nat) (b : Bool) (k : Nat) : (s.l2Turn d b k).beyondAccess = s.beyondAccess := by
  unfold l2Turn
  split
  · rfl
  · split
    · rfl
    · refine (l2drop_beyondAccess ..).trans (foldl_beyondAccess (fun s j => ?_) _ s)
      simp [foldl_beyondAccess fun s c => s.deltasL2_beyondAccess c false (k * 4 + j)]

@[simp] theorem moveList_beyondAccess (d line sl k : Nat) : (s.moveList d line sl k).beyondAccess = s.beyondAccess := by
  unfold moveList
  split
  · split
    · rfl
    · refine (setDie_beyondAccess ..).trans ?_
      split
      · split <;> simp
      · rfl
  · rfl

@[simp] theorem l2Place_beyondAccess (d c : Nat) (b : Bool) (sl k : Nat) : (s.l2Place d c b sl k).beyondAccess = s.beyondAccess := by
  unfold l2Place
  split
  · simp
  · simp [foldl_beyondAccess fun s j => s.moveList_beyondAccess d k sl j]

@[simp] theorem l2Reach_beyondAccess (d c : Nat) (b : Bool) (sl k : Nat) : (s.l2Reach d c b sl k).beyondAccess = s.beyondAccess := by
  simp [l2Reach]

@[simp] theorem mergeSect_beyondAccess (c : Nat) (u : UpdLine) (k : Nat) : (s.mergeSect c u k).beyondAccess = s.beyondAccess := by
  simp [mergeSect]

@[simp] theorem mergeUpd_beyondAccess (c : Nat) (p : UpdLine → Bool) : (s.mergeUpd c p).beyondAccess = s.beyondAccess :=
  foldl_beyondAccess (fun s u => foldl_beyondAccess (fun s k => s.mergeSect_beyondAccess c u (u.line * 4 + k)) _ s) _ s

@[simp] theorem writeBackCtx_beyondAccess (d c : Nat) : (s.writeBackCtx d c).beyondAccess = s.beyondAccess := by
  refine foldl_beyondAccess (fun s p => ?_) _ s
  split
  · split
    · rfl
    · exact foldl_beyondAccess (fun _ _ => by simp) _ s
  · rfl

@[simp] theorem homeRmw_beyondAccess (pa n : Nat) (f : Nat → Nat) : (s.homeRmw pa n f).1.beyondAccess = s.beyondAccess := by
  unfold homeRmw; dsimp only; split <;> simp

@[simp] theorem orPte_beyondAccess (e : TlbEntry) (m : Nat) : (s.orPte e m).beyondAccess = s.beyondAccess := s.homeRmw_beyondAccess ..

@[simp] theorem devWrite_beyondAccess (pa : Nat) (bs : List Byte) (p : Bool) : (s.devWrite pa bs p).beyondAccess = s.beyondAccess :=
  foldl_beyondAccess (fun _ _ => by simp) _ s

/-- Pending updates of a core's published regions are applied, R385. -/
@[simp] theorem drainSubs_beyondAccess (c : Nat) : (s.drainSubs c).beyondAccess = s.beyondAccess := by
  have hf := fun l => foldl_beyondAccess (fun (s : State) (p : Nat × Subscr) =>
    foldl_beyondAccess (fun s u => s.applyUpdate_beyondAccess p.2 u) (p.2.sent ++ p.2.batch) s) l s
  simp only [drainSubs, update_beyondAccess, hf]

end

end Sys2Proof.Machine.State
end

section
namespace Sys2Proof.Machine.State

variable (s : State)

/-! Traffic to other devices, and the hook's deliveries. -/

@[simp] theorem carry_beyondAccess (dev : Nat) (bulk : Bool) : (s.carry dev bulk).beyondAccess = s.beyondAccess := by
  unfold carry; dsimp only; split <;> simp

@[simp] theorem transmit_beyondAccess (dev : Nat) (bulk : Bool) (e : DevEvent) : (s.transmit dev bulk e).beyondAccess = s.beyondAccess := by
  simp [transmit]

@[simp] theorem postQ_beyondAccess (t q : Nat) (e : QEntry) : (s.postQ t q e).beyondAccess = s.beyondAccess := by
  unfold postQ
  dsimp only
  split
  · rfl
  · split <;> simp

@[simp] theorem ingressXlate_beyondAccess (c : Nat) (va : Word) : (s.ingressXlate c va).1.beyondAccess = s.beyondAccess := by
  unfold ingressXlate
  dsimp only
  split
  · rfl
  · split
    · rfl
    · split
      · split <;> simp
      · rfl

@[simp] theorem hookCharge_beyondAccess (c : Nat) (l : List Word) (w : Bool) : (s.hookCharge c l w).beyondAccess = s.beyondAccess := by
  simp [hookCharge]

@[simp] theorem hookClean_beyondAccess (c : Nat) (l : List Nat) : (s.hookClean c l).beyondAccess = s.beyondAccess := by
  refine foldl_beyondAccess (fun s k => ?_) l s
  have hx := s.ingressXlate_beyondAccess c (BitVec.ofNat 64 (64 * k))
  split
  · rfl
  · next h => rw [h] at hx; simpa using hx

theorem hookWrite1_beyondAccess {s t : State} {c : Nat} {va : Word} {b : Byte} {p : Bool} (h : s.hookWrite1 c va b p = some t) :
    t.beyondAccess = s.beyondAccess := by
  have hx := s.ingressXlate_beyondAccess c va
  unfold hookWrite1 at h
  split at h
  · cases h
  · next u e he =>
    rw [he] at hx
    dsimp only at h hx
    rw [← hx]
    split at h
    · cases h
    · have hd : (if e.d = true then u else u.orPte e 128).beyondAccess = u.beyondAccess := by simp
      generalize (if e.d = true then u else u.orPte e 128) = v at h hd
      rw [← hd]
      split_ifs at h <;> obtain rfl := Option.some.inj h <;> simp

theorem tensorWrite1_beyondAccess {s t : State} {r : Posted} {k : Nat} {b : Byte} {p : Bool} (h : s.tensorWrite1 r k b p = some t) :
    t.beyondAccess = s.beyondAccess := by
  unfold tensorWrite1 at h
  split at h
  · exact hookWrite1_beyondAccess h
  · obtain ⟨x, -, rfl⟩ := Option.map_eq_some_iff.mp h
    exact spStore_beyondAccess ..

@[simp] theorem tensorWriteFrom_beyondAccess (r : Posted) (k : Nat) (bs : List MarkedByte) :
    (s.tensorWriteFrom r k bs).1.beyondAccess = s.beyondAccess := by
  induction bs generalizing s k with
  | nil => rfl
  | cons b bs ih =>
    unfold tensorWriteFrom
    split
    · rfl
    · next h => exact (ih ..).trans (tensorWrite1_beyondAccess h)

@[simp] theorem tensorWrite_beyondAccess (r : Posted) (bs : List MarkedByte) : (s.tensorWrite r bs).1.beyondAccess = s.beyondAccess := by
  unfold tensorWrite; dsimp only; split <;> simp

@[simp] theorem recvBytes_beyondAccess (r : Posted) (m : Message) (bs : List MarkedByte) :
    (s.recvBytes r m bs).beyondAccess = s.beyondAccess := by
  simp [recvBytes, recvPost]

/-! The parts that are left. -/

variable {s} {t : State} (h : t.beyondAccess = s.beyondAccess)
include h

theorem cur_of_beyondAccess : t.cur = s.cur := by have := congrArg State.cur h; exact this
theorem groups_of_beyondAccess : t.groups = s.groups := by have := congrArg State.groups h; exact this
theorem ctxs_of_beyondAccess : t.ctxs = s.ctxs := by have := congrArg State.ctxs h; exact this
theorem hook_of_beyondAccess : t.hook = s.hook := by have := congrArg State.hook h; exact this

end Sys2Proof.Machine.State
end

section
/-! An instruction that goes on behind itself: its arm's place, and the registers of its group and arm. -/

namespace Sys2Proof.Machine

open Sys2Proof.Safety

/-- From `s` to `t` the executing arm stays at its instruction, in its team and context, with its registers, masks and FMT. -/
structure Stands (s t : State) : Prop where
  regs : SameRegs s t
  clause : t.ca.clause = s.ca.clause
  pc : t.ca.pc = s.ca.pc
  ctx : t.cg.ctx = s.cg.ctx
  tid : t.cg.tid = s.cg.tid

/-- The next place of an arm depends on its place alone. -/
theorem advance_place {a b : Arm} (hc : b.clause = a.clause) (hp : b.pc = a.pc) :
    b.advance.clause = a.advance.clause ∧ b.advance.pc = a.advance.pc := by
  simp only [Arm.advance, hc]
  split
  · exact ⟨rfl, hp⟩
  · split
    · exact ⟨rfl, hp⟩
    · exact ⟨rfl, rfl⟩

theorem advance_park (a : Arm) : a.advance.park = none := by
  simp only [Arm.advance]
  split
  · rfl
  · split <;> rfl

theorem advance_mask_fmt (a : Arm) : a.advance.mask = a.mask ∧ a.advance.fmt = a.fmt := by
  simp only [Arm.advance]
  split
  · exact ⟨rfl, rfl⟩
  · split <;> exact ⟨rfl, rfl⟩

/-- An effect that leaves the arm in its place and retires goes on behind the instruction. -/
theorem goesOn_retire {s t : State} (hc : t.ca.clause = s.ca.clause) (hp : t.ca.pc = s.ca.pc) : GoesOn s t.retire := by
  obtain ⟨h1, h2⟩ := advance_place hc hp
  exact ⟨by rw [ca_retire, h1], by rw [ca_retire, h2], by rw [ca_retire, advance_park]⟩

/-- Retiring changes no register, mask or FMT. -/
theorem sameRegs_retire (s : State) : SameRegs s s.retire := by
  obtain ⟨h1, h2⟩ := State.advance_scal s.ca
  obtain ⟨h3, h4⟩ := advance_mask_fmt s.ca
  simp [SameRegs, h1, h2, h3, h4]

theorem sameRegs_trans {s t u : State} (h1 : SameRegs s t) (h2 : SameRegs t u) : SameRegs s u := by
  unfold SameRegs at *
  grind

namespace Stands

variable {s t u : State}

theorem refl (s : State) : Stands s s := by constructor <;> simp [SameRegs]

theorem trans (h1 : Stands s t) (h2 : Stands t u) : Stands s u :=
  ⟨sameRegs_trans h1.regs h2.regs, h2.clause.trans h1.clause, h2.pc.trans h1.pc, h2.ctx.trans h1.ctx, h2.tid.trans h1.tid⟩

/-- The groups and the choice of the executing arm are all that the relation speaks of. -/
theorem of_groups (hc : t.cur = s.cur) (hg : t.groups = s.groups) : Stands s t := by
  have h1 : t.cg = s.cg := by unfold State.cg State.grp State.gid; rw [hc, hg]
  have h2 : t.ca = s.ca := by unfold State.ca State.slot; rw [h1, hc]
  constructor <;> simp [SameRegs, h1, h2]

theorem of_beyondAccess (h : t.beyondAccess = s.beyondAccess) : Stands s t :=
  of_groups (State.cur_of_beyondAccess h) (State.groups_of_beyondAccess h)

theorem goesOn (h : Stands s t) : GoesOn s t.retire := goesOn_retire h.clause h.pc

theorem sameRegs (h : Stands s t) : SameRegs s t.retire := sameRegs_trans h.regs (sameRegs_retire t)

end Stands

namespace State

variable (s : State)

/-- The stores of the executing arm are acknowledged, and it asks nothing more of homes. -/
theorem ackStores_stands : Stands s (s.modA fun a => { a with stores := 0, asks := none }) := by
  constructor <;> simp [SameRegs]

/-- A group's note of the homes with check records of it is no part of what stands. -/
theorem setChkHomes_stands (k : Nat) (x : BitVec 16) : Stands s (s.setGrp k { s.grp k with chkHomes := x }) := by
  by_cases hk : s.gid = k
  · subst hk
    have hg : (s.setGrp s.gid { s.grp s.gid with chkHomes := x }).cg = { s.cg with chkHomes := x } := grp_setGrp_same ..
    have ha : (s.setGrp s.gid { s.grp s.gid with chkHomes := x }).ca = s.ca := by unfold ca; rw [hg]; rfl
    constructor <;> simp [SameRegs, hg, ha]
  · have hg : (s.setGrp k { s.grp k with chkHomes := x }).cg = s.cg := grp_setGrp_other _ _ _ _ hk
    have ha : (s.setGrp k { s.grp k with chkHomes := x }).ca = s.ca := by unfold ca; rw [hg]; rfl
    constructor <;> simp [SameRegs, hg, ha]

end State

end Sys2Proof.Machine
end

section
/-! The release actions of a scope, and what follows a match of the hook, as the executing arm sees them. -/

namespace Sys2Proof.Machine.State

open Sys2Proof.Safety

variable (s : State)

/-- A close of check records writes them and the group's note of their homes, R305. -/
theorem closeAt_frame (k : Nat) (hs : BitVec 16) :
    Stands s (s.closeAt k hs) ∧ (s.closeAt k hs).ctxs = s.ctxs ∧ (s.closeAt k hs).hook = s.hook := by
  unfold closeAt
  dsimp only
  split
  · exact ⟨.refl s, rfl, rfl⟩
  · have note : ∀ u : State, u.beyondAccess = s.beyondAccess → ∀ x, let v := u.setGrp k { u.grp k with chkHomes := x }
        Stands s v ∧ v.ctxs = s.ctxs ∧ v.hook = s.hook := fun u hu x =>
      ⟨(Stands.of_beyondAccess hu).trans (u.setChkHomes_stands k x), (ctxs_of_beyondAccess hu :), (hook_of_beyondAccess hu :)⟩
    refine note _ ?_ _
    exact foldl_beyondAccess (fun _ _ => by simp) _ s

/-- The release actions leave the arm, the contexts and the hook as they stand, R276. -/
theorem releaseAct_frame (sc : Nat) :
    Stands s (s.releaseAct sc) ∧ (s.releaseAct sc).ctxs = s.ctxs ∧ (s.releaseAct sc).hook = s.hook := by
  have h1 := s.chargeHomes_beyondAccess s.cdie s.cctx.part (s.relNeeds sc)
  generalize hu : s.chargeHomes s.cdie s.cctx.part (s.relNeeds sc) = u at h1
  obtain ⟨h3, hx, hh⟩ := (u.modA fun a => { a with stores := 0, asks := none }).closeAt_frame u.gid (BitVec.allOnes 16)
  generalize hv : (u.modA fun a => { a with stores := 0, asks := none }).closeAt u.gid (BitVec.allOnes 16) = v at h3 hx hh
  have h4 : (s.releaseAct sc).beyondAccess = v.beyondAccess := by
    simp only [releaseAct, closeChecks, hu, hv]
    simp
  refine ⟨(Stands.of_beyondAccess h1).trans (u.ackStores_stands.trans (h3.trans (.of_beyondAccess h4))), ?_, ?_⟩
  · rw [ctxs_of_beyondAccess h4, hx, ← ctxs_of_beyondAccess h1]; rfl
  · rw [hook_of_beyondAccess h4, hh, ← hook_of_beyondAccess h1]; rfl

/-- What follows a match is a delivery, or a pull that joins the hook's and is asked for, R375. -/
theorem takeNow_frame (r : Posted) (m : Message) :
    Stands s (s.takeNow r m) ∧ (s.takeNow r m).hook.unexpected = s.hook.unexpected ∧ (s.takeNow r m).hook.posted = s.hook.posted := by
  unfold takeNow
  split
  · have h := s.recvBytes_beyondAccess r m m.payload
    exact ⟨.of_beyondAccess h, by rw [hook_of_beyondAccess h], by rw [hook_of_beyondAccess h]⟩
  · have h : ∀ u : State, (if m.self.isSome = true then u else
        u.transmit m.sdev false (.pull m.sdev m.tag (min m.len r.capacity))).beyondAccess = u.beyondAccess := by simp
    have hu := h { s with hook := { s.hook with pulls := s.hook.pulls ++ [⟨s.uids, r, m⟩] }, uids := s.uids + 1 }
    have h1 : Stands s { s with hook := { s.hook with pulls := s.hook.pulls ++ [⟨s.uids, r, m⟩] }, uids := s.uids + 1 } :=
      .of_groups rfl rfl
    exact ⟨h1.trans (.of_beyondAccess hu), by rw [hook_of_beyondAccess hu], by rw [hook_of_beyondAccess hu]⟩

/-- A match moves neither the arm nor another receive or message of the lists, R373, R375. -/
theorem hookTake_frame (r : Posted) (m : Message) :
    Stands s (s.hookTake r m) ∧ (s.hookTake r m).hook.unexpected = s.hook.unexpected ∧ (s.hookTake r m).hook.posted = s.hook.posted := by
  unfold hookTake
  split
  · exact ⟨.of_groups rfl rfl, rfl, rfl⟩
  · exact s.takeNow_frame r m

end Sys2Proof.Machine.State
end

section
/-! msend, mpost, mcancel and mprobe (R13, R373-R381). -/

namespace Sys2Proof.Machine

open Sys2Proof.Safety

namespace State

variable (s : State)

@[simp] theorem sreg_retire (n : Nat) : s.retire.sreg n = s.sreg n := by
  unfold sreg
  rw [cg_retire, slot_retire]
  exact (sreg_advance s.cg s.slot n).1

theorem sreg_setS (n k : Nat) (x : Word) : (s.setS n x).sreg k = if k = n then x else s.sreg k := by
  unfold sreg
  rw [cg_setS, slot_setS, Group.sreg_markS, Group.sreg_setS]

/-- A write of a scalar leaves the arm in its place. -/
theorem place_setS (n : Nat) (x : Word) : (s.setS n x).ca.clause = s.ca.clause ∧ (s.setS n x).ca.pc = s.ca.pc := by
  unfold ca
  rw [cg_setS, slot_setS]
  unfold Group.setS Group.markS
  split
  · exact ⟨rfl, rfl⟩
  · simp

/-- The writes of two successive scalars leave the arm in its place. -/
theorem place_setS_setS (n : Nat) (x y : Word) :
    ((s.setS n x).setS (n + 1) y).ca.clause = s.ca.clause ∧ ((s.setS n x).setS (n + 1) y).ca.pc = s.ca.pc := by
  obtain ⟨h1, h2⟩ := s.place_setS n x
  obtain ⟨h3, h4⟩ := (s.setS n x).place_setS (n + 1) y
  exact ⟨h3.trans h1, h4.trans h2⟩

/-- A descriptor that stands where the scalar says passes the probe, R380. -/
theorem descProbe_eq {s : State} {reg n al : Nat} {d : List Byte} (h : DescAt s reg n al d) (act : BitVec 32) (k : List Byte → Eff) :
    s.descProbe reg n al act k = k d := by
  obtain ⟨ha, hr, hd⟩ := h
  simp [descProbe, descRead, ha, hd, Nat.not_lt.mpr hr]

/-- A scalar that the group may write, R75. -/
theorem divergedScalar_none {s : State} {d : Nat} (h : d < 32 → s.cg.converged = true) : s.divergedScalar d = none := by
  simpa [divergedScalar] using h

/-! ### msend -/

/-- What msend does with its descriptor `d` once a team lane is active, R374, R380, R381. -/
def msendDesc (s : State) (f : XF) (d : List Byte) : Eff :=
  let p := du d 10 1
  if !s.peerValid p then .trap (msgPeer 1)
  else if !sendValid d then .trap (msgPeer 2)
  else if s.peerDown p then .trap (trapOf 61 (s.sreg f.s1.toNat) (remoteX 0 p 0))
  else if s.relWaits (wideScope f.sc.code) then .stay (s.relStay (wideScope f.sc.code))
  else
    let u := s.releaseAct (wideScope f.sc.code)
    let c : SendCmd := ⟨u.uids, u.cg.ctx, u.cg.tid, d, (mget 0 u.cctx.peers p).toNat % 256, false, false⟩
    .retire { u with hook := { u.hook with sends := u.hook.sends ++ [c] }, uids := u.uids + 1 }

variable {s} {f : XF}

/-- A send of helper lanes alone is suppressed, R13. -/
theorem exec_msend_helpers (ha : Acts s f.g) (hp : Passes s f.g [] [.s f.s1.toNat]) (ht : s.teamOnly (s.active f.g) = 0) :
    exec (.msend f) s = .next s.retire := by
  show s.conclude (s.msendEff f) = _
  rw [msendEff, guarded_passes _ hp fun _ => ha, ht]
  rfl

theorem exec_msend_team {d : List Byte} (ha : Acts s f.g) (hp : Passes s f.g [] [.s f.s1.toNat]) (hd : DescAt s f.s1.toNat 64 64 d)
    (ht : s.teamOnly (s.active f.g) ≠ 0) : exec (.msend f) s = s.conclude (s.msendDesc f d) := by
  show s.conclude (s.msendEff f) = _
  rw [msendEff, guarded_passes _ hp fun _ => ha, descProbe_eq hd, if_neg (by simpa using ht)]
  rfl

/-- A send joins the hook's queue, behind those that stand there, R374, R381. -/
theorem msendDesc_sends {d : List Byte} (hv : s.peerValid (du d 10 1) = true) (hs : sendValid d = true)
    (hu : s.peerDown (du d 10 1) = false) (hw : s.relWaits (wideScope f.sc.code) = false) :
    ∃ t c, s.conclude (s.msendDesc f d) = .next t ∧ GoesOn s t ∧ SameRegs s t ∧ t.hook = { s.hook with sends := s.hook.sends ++ [c] } ∧
      c.desc = d ∧ c.ctx = s.cg.ctx ∧ c.tid = s.cg.tid ∧ c.dev = (mget 0 s.cctx.peers (du d 10 1)).toNat % 256 := by
  obtain ⟨hst, hx, hh⟩ := s.releaseAct_frame (wideScope f.sc.code)
  simp only [msendDesc, hv, hs, hu, hw, Bool.not_true, Bool.false_eq_true, if_false, conclude_retire]
  generalize s.releaseAct (wideScope f.sc.code) = u at hst hx hh
  have hc : u.cctx = s.cctx := by unfold cctx ctx; rw [hx, hst.ctx]
  rw [hh, hc]
  refine ⟨_, _, rfl, (hst.trans (.of_groups rfl rfl)).goesOn, (hst.trans (.of_groups rfl rfl)).sameRegs, rfl, rfl, hst.ctx, hst.tid, rfl⟩

/-! ### mpost -/

/-- The receive that an mpost of the executing arm posts, and the unexpected messages that it may take, R373. -/
def received (s : State) (d : List Byte) : Posted := ⟨s.cg.ctx, s.cg.tid, d⟩
def takes (s : State) (d : List Byte) (u : Unexp) : Bool :=
  u.ctx == s.cg.ctx && s.specMatches s.cg.ctx (s.received d).src (s.received d).tag (s.received d).mask u.msg

/-- An mpost begins with a valid descriptor, R380. -/
abbrev MpostBegins (s : State) (f : XF) (d : List Byte) : Prop :=
  (∀ x cs o, s.ca.park ≠ some (.queue x cs o)) ∧ Acts s f.g ∧ Passes s f.g [] [.s f.s1.toNat] ∧ DescAt s f.s1.toNat 64 64 d ∧
    ((s.received d).src = 0x100 ∨ s.peerValid (s.received d).src = true) ∧ recvValid (s.received d) = true

/-- An mpost that begins, or goes on with the descriptor that it read before it waited, is one event of the hook, R381. -/
theorem exec_mpost {d : List Byte} (h : MpostBegins s f d ∨ ∃ cs o, s.ca.park = some (.queue d cs o)) :
    exec (.mpost f) s = s.conclude (s.mpostGo d) := by
  show s.conclude (s.mpostEff f) = _
  unfold mpostEff resumed
  rcases h with ⟨hq, ha, hp, hd, hv, hr⟩ | ⟨cs, o, hq⟩
  · split
    · next x cs o hx => exact absurd hx (hq x cs o)
    · rw [guarded_passes _ hp fun _ => ha, descProbe_eq hd]
      change s.conclude (if ((s.received d).src != 0x100 && !s.peerValid (s.received d).src) = true then _ else
        if (!recvValid (s.received d)) = true then _ else _) = _
      rcases hv with hv | hv <;> simp [hv, hr]
  · rw [hq]

/-- The posted list and the context's share of it have room, R372. -/
abbrev PostRoom (s : State) : Prop :=
  s.hook.posted.length < Config.postedMax ∧ (s.cctx.hooksh.toNat % 65536 = 0 ∨
    (s.hook.posted.filter fun x => x.ctx == s.cg.ctx).length < s.cctx.hooksh.toNat % 65536)

theorem postFull_false (h : PostRoom s) : (decide (Config.postedMax ≤ s.hook.posted.length) || (s.cctx.hooksh.toNat % 65536 != 0 &&
    decide (s.cctx.hooksh.toNat % 65536 ≤ (s.hook.posted.filter fun x => x.ctx == s.cg.ctx).length))) = false := by
  obtain ⟨hl, hs | hs⟩ := h <;> simp [hl, hs]

/-- The first message that matches leaves the unexpected queue to the receive, or the receive is posted, R373. -/
def mpostDone (s : State) (d : List Byte) : State :=
  match s.hook.unexpected.find? (s.takes d) with
  | some u => { s with hook := { s.hook with unexpected := s.hook.unexpected.eraseP (s.takes d) } }.hookTake (s.received d) u.msg
  | none => { s with hook := { s.hook with posted := s.hook.posted ++ [s.received d] } }

theorem mpostGo_room (d : List Byte) (h : PostRoom s) : s.mpostGo d = .retire (s.mpostDone d) := by
  unfold mpostGo mpostDone
  dsimp only
  rw [if_neg (by simp [postFull_false h])]
  change (match s.hook.unexpected.find? (s.takes d) with | some u => _ | none => _) = _
  cases s.hook.unexpected.find? (s.takes d) <;> rfl

/-- In either case the arm goes on behind the mpost with its registers. -/
theorem mpostDone_stands (s : State) (d : List Byte) : Stands s (s.mpostDone d) := by
  unfold mpostDone
  split
  · refine Stands.trans ?_ (hookTake_frame _ _ _).1
    exact .of_groups rfl rfl
  · exact .of_groups rfl rfl

theorem mpostDone_posts {d : List Byte} (hn : ∀ u ∈ s.hook.unexpected, s.takes d u = false) :
    (s.mpostDone d).mem = s.mem ∧ (s.mpostDone d).hook = { s.hook with posted := s.hook.posted ++ [s.received d] } := by
  have hf : s.hook.unexpected.find? (s.takes d) = none := List.find?_eq_none.mpr fun u hu => by simp [hn u hu]
  simp [mpostDone, hf]

theorem mpostDone_takes {d : List Byte} {u : Unexp} (hf : s.hook.unexpected.find? (s.takes d) = some u) :
    (s.mpostDone d).hook.unexpected = s.hook.unexpected.eraseP (s.takes d) ∧ (s.mpostDone d).hook.posted = s.hook.posted := by
  simp only [mpostDone, hf]
  exact (hookTake_frame _ _ _).2

/-! ### mcancel -/

/-- mcancel removes the team's first posted receive with the cookie and says whether it did, R381. -/
theorem exec_mcancel (ha : Acts s f.g) (hp : Passes s f.g [] [.s f.s1.toNat]) (hc : f.s2.toNat < 32 → s.cg.converged = true) :
    let mine := fun (r : Posted) => r.tid == s.cg.tid && r.cookie == (s.sreg f.s1.toNat).toNat % 65536
    exec (.mcancel f) s =
      .next ({ s with hook := { s.hook with posted := s.hook.posted.eraseP mine } }.setS f.s2.toNat
        (if s.hook.posted.any mine then 1 else 0)).retire := by
  intro mine
  show s.conclude (s.mcancelEff f) = _
  rw [mcancelEff, guarded_passes _ hp fun _ => ha, divergedScalar_none hc]
  dsimp only
  by_cases hm : s.hook.posted.any mine = true
  · rw [if_pos hm, if_pos hm]
    rfl
  · have he : s.hook.posted.eraseP mine = s.hook.posted := List.eraseP_of_forall_not (by simpa using hm)
    rw [if_neg hm, if_neg hm, he]
    rfl

theorem mcancel_completes (ha : Acts s f.g) (hp : Passes s f.g [] [.s f.s1.toNat]) (hc : f.s2.toNat < 32 → s.cg.converged = true) :
    let mine := fun (r : Posted) => r.tid == s.cg.tid && r.cookie == (s.sreg f.s1.toNat).toNat % 65536
    ∃ t, exec (.mcancel f) s = .next t ∧ GoesOn s t ∧ t.mem = s.mem ∧ t.hook.posted = s.hook.posted.eraseP mine ∧
      t.sreg f.s2.toNat = (if s.hook.posted.any mine then 1 else 0) ∧ ∀ n, n < 64 → n ≠ f.s2.toNat → t.sreg n = s.sreg n := by
  intro mine
  refine ⟨_, exec_mcancel ha hp hc, ?_, rfl, rfl, ?_, fun n _ hn => ?_⟩
  · obtain ⟨h1, h2⟩ := place_setS { s with hook := { s.hook with posted := s.hook.posted.eraseP mine } } f.s2.toNat
      (if s.hook.posted.any mine then 1 else 0)
    exact goesOn_retire h1 h2
  · rw [sreg_retire, sreg_setS, if_pos rfl]
  · rw [sreg_retire, sreg_setS, if_neg hn]
    rfl

/-! ### mprobe -/

/-- The unexpected messages that an mprobe of the executing arm asks for, R381. -/
def probes (s : State) (f : XF) (u : Unexp) : Bool :=
  u.ctx == s.cg.ctx && s.specMatches s.cg.ctx ((s.sreg f.s1.toNat).toNat / 2 ^ 32) (BitVec.ofNat 32 (s.sreg f.s1.toNat).toNat)
    (BitVec.ofNat 32 (s.sreg f.s2.toNat).toNat) u.msg

/-- The word by which mprobe tells of a message of source peer `p`, R381. -/
def probeWord (p : Nat) (m : Message) : Word := BitVec.ofNat 64 (2 ^ 40 + (if m.eager then 0 else 2 ^ 41) + 2 ^ 32 * p + m.len % 2 ^ 32)

theorem probeWord_fields {p : Nat} (hp : p < 256) (m : Message) :
    bit (probeWord p m) 40 = true ∧ bit (probeWord p m) 41 = !m.eager ∧ (probeWord p m).toNat % 2 ^ 32 = m.len % 2 ^ 32 := by
  have hl : m.len % 2 ^ 32 < 2 ^ 32 := Nat.mod_lt _ (by norm_num)
  simp only [probeWord, bit, BitVec.getLsbD_ofNat, BitVec.toNat_ofNat, Nat.testBit_eq_decide_div_mod_eq]
  cases m.eager <;> refine ⟨?_, ?_, ?_⟩ <;> simp <;> omega

/-- The lowest peer that names a device is one of 256, R373. -/
theorem peersOf_head_lt (c dev : Nat) : ((s.peersOf c dev).head?).getD 0 < 256 := by
  cases h : (s.peersOf c dev).head? with
  | none => simp
  | some p =>
    have hm := List.mem_of_head? h
    simp only [peersOf, List.mem_filter, List.mem_range] at hm
    exact hm.1

/-- What mprobe answers in its two registers, R381. -/
def probeAnswer (s : State) (f : XF) : Word × Word :=
  match s.hook.unexpected.find? (s.probes f) with
  | none => (0, 0)
  | some u => (probeWord ((s.peersOf s.cg.ctx u.msg.sdev).head?.getD 0) u.msg, u.msg.tag.setWidth 64)

theorem exec_mprobe (ha : Acts s f.g) (hp : Passes s f.g [] [.s f.s1.toNat, .s f.s2.toNat])
    (hc : f.imm.toNat % 64 < 32 → s.cg.converged = true) (hs : (s.sreg f.s1.toNat).toNat < 2 ^ 41) :
    exec (.mprobe f) s =
      .next ((s.setS (f.imm.toNat % 64) (s.probeAnswer f).1).setS (f.imm.toNat % 64 + 1) (s.probeAnswer f).2).retire := by
  show s.conclude (s.mprobeEff f) = _
  rw [mprobeEff, guarded_passes _ hp fun _ => ha]
  dsimp only
  rw [divergedScalar_none hc]
  dsimp only
  rw [if_neg (Nat.not_le.mpr hs)]
  change s.conclude (match s.hook.unexpected.find? (s.probes f) with | none => _ | some u => _) = _
  unfold probeAnswer
  cases s.hook.unexpected.find? (s.probes f) <;> rfl

/-- mprobe writes its answer in two successive scalars and changes nothing of the hook. -/
theorem mprobe_completes (ha : Acts s f.g) (hp : Passes s f.g [] [.s f.s1.toNat, .s f.s2.toNat])
    (hc : f.imm.toNat % 64 < 32 → s.cg.converged = true) (hs : (s.sreg f.s1.toNat).toNat < 2 ^ 41) :
    let d := f.imm.toNat % 64
    ∃ t, exec (.mprobe f) s = .next t ∧ GoesOn s t ∧ t.hook = s.hook ∧ t.mem = s.mem ∧
      (∀ n, n < 64 → n ≠ d → n ≠ d + 1 → t.sreg n = s.sreg n) ∧
      t.sreg d = (s.probeAnswer f).1 ∧ t.sreg (d + 1) = (s.probeAnswer f).2 := by
  intro d
  obtain ⟨h1, h2⟩ := s.place_setS_setS d (s.probeAnswer f).1 (s.probeAnswer f).2
  refine ⟨_, exec_mprobe ha hp hc hs, goesOn_retire h1 h2, rfl, rfl, fun n _ hn hn1 => ?_, ?_, ?_⟩ <;>
    rw [sreg_retire, sreg_setS]
  · rw [if_neg hn1, sreg_setS, if_neg hn]
  · rw [if_neg (by omega), sreg_setS, if_pos rfl]
  · rw [if_pos rfl]

end State

end Sys2Proof.Machine
end

section
namespace Sys2Proof.Machine

open Sys2Proof.Safety State

/-- Settles O44: msend, mpost, mcancel and mprobe each by its own theorem above. -/
theorem messagesComplete : Obligations.MessagesComplete := by
  unfold Obligations.MessagesComplete
  refine ⟨fun s f d ha hp hd => ⟨exec_msend_helpers ha hp, fun ht => ?_⟩, fun s f d h => ?_,
    fun s f ha hp hc => mcancel_completes ha hp hc, ?_⟩
  · rw [exec_msend_team ha hp hd ht]
    refine ⟨msendDesc_sends, fun hv => ?_, fun hv hs => ?_, fun hv hs hu => ?_⟩
    · simp only [msendDesc, hv]
      rfl
    · simp only [msendDesc, hv, hs]
      rfl
    · simp only [msendDesc, hv, hs, hu]
      rfl
  · intro r fits share hl hs
    rw [exec_mpost h, mpostGo_room d ⟨hl, hs⟩]
    have hst := mpostDone_stands s d
    refine ⟨fun hn => ?_, fun u hu => ?_⟩
    · obtain ⟨hm, hh⟩ := mpostDone_posts (s := s) (d := d) hn
      exact ⟨_, rfl, hst.goesOn, hst.sameRegs, hm, hh⟩
    · obtain ⟨hx, hq⟩ := mpostDone_takes (s := s) (d := d) hu
      exact ⟨_, rfl, hst.goesOn, hst.sameRegs, hx, hq⟩
  · intro s f ha hp d hc _ hs spec fits
    obtain ⟨t, he, hg, hh, hm, hn, h0, h1⟩ := mprobe_completes ha hp hc hs
    refine ⟨t, he, hg, hh, hm, hn, ?_⟩
    unfold probeAnswer at h0 h1
    change match s.hook.unexpected.find? (s.probes f) with | none => _ | some u => _
    cases hf : s.hook.unexpected.find? (s.probes f) with
    | none =>
      rw [hf] at h0 h1
      exact ⟨h0, h1⟩
    | some u =>
      rw [hf] at h0 h1
      obtain ⟨h40, h41, hlen⟩ := probeWord_fields (s.peersOf_head_lt s.cg.ctx u.msg.sdev) u.msg
      exact ⟨h0 ▸ h40, h0 ▸ h41, h0 ▸ hlen, h1⟩

end Sys2Proof.Machine
end

section
/-! Encoding: fields packed into words and read back (R61-R83), each code and field there and back again. -/
namespace Sys2Proof

theorem pack_lt (fs : List (Nat × Nat)) : pack fs < 2 ^ (fs.map Prod.fst).sum := by
  induction fs with
  | nil => simp [pack]
  | cons p fs ih =>
    have hv : p.2 % 2 ^ p.1 < 2 ^ p.1 := Nat.mod_lt _ (Nat.two_pow_pos _)
    have hr : 2 ^ p.1 * (pack fs + 1) ≤ 2 ^ p.1 * 2 ^ (fs.map Prod.fst).sum := Nat.mul_le_mul_left _ ih
    rw [List.map_cons, List.sum_cons, pow_add]
    simp only [pack]
    rw [Nat.mul_succ] at hr
    omega

/-- What is unpacked is each value, reduced to its field. -/
theorem unpack_pack (fs : List (Nat × Nat)) : unpack (fs.map Prod.fst) (pack fs) = fs.map fun p => p.2 % 2 ^ p.1 := by
  induction fs with
  | nil => rfl
  | cons p fs ih =>
    have hp : 0 < 2 ^ p.1 := Nat.two_pow_pos _
    simp only [List.map_cons, unpack, pack]
    rw [Nat.add_mul_mod_self_left, Nat.mod_mod, Nat.add_mul_div_left _ _ hp, Nat.div_eq_of_lt (Nat.mod_lt _ hp), Nat.zero_add, ih]

/-- Packing what was unpacked gives the number back, up to the width of the layout. -/
theorem pack_zip_unpack (ws : List Nat) (n : Nat) : pack (ws.zip (unpack ws n)) = n % 2 ^ ws.sum := by
  induction ws generalizing n with
  | nil => simp [unpack, pack, Nat.mod_one]
  | cons w ws ih =>
    simp only [unpack, List.zip_cons_cons, pack, ih, List.sum_cons, pow_add, Nat.mod_mod]
    rw [Nat.mod_mul]

theorem pack_append (fs gs : List (Nat × Nat)) : pack (fs ++ gs) = pack fs + 2 ^ (fs.map Prod.fst).sum * pack gs := by
  induction fs with
  | nil => simp [pack]
  | cons p fs ih => simp only [List.cons_append, pack, ih, List.map_cons, List.sum_cons, pow_add]; ring

theorem unpack_append (as bs : List Nat) (n : Nat) : unpack (as ++ bs) n = unpack as n ++ unpack bs (n / 2 ^ as.sum) := by
  induction as generalizing n with
  | nil => simp [unpack]
  | cons a as ih => simp only [List.cons_append, unpack, ih, List.sum_cons, pow_add, Nat.div_div_eq_div_mul]

/-! ### Whole words -/

theorem toNat_word {fs : List (Nat × Nat)} (hs : (fs.map Prod.fst).sum = 64) : (BitVec.ofNat 64 (pack fs)).toNat = pack fs := by
  rw [BitVec.toNat_ofNat, Nat.mod_eq_of_lt]
  exact hs ▸ pack_lt fs

/-- The fields of a word of a format are read back, each reduced to its width. -/
theorem unpack_word {lay : List Nat} {fs : List (Nat × Nat)} (hl : fs.map Prod.fst = lay) (hs : lay.sum = 64) :
    unpack lay (BitVec.ofNat 64 (pack fs)).toNat = fs.map fun p => p.2 % 2 ^ p.1 := by
  subst hl
  rw [toNat_word hs, unpack_pack]

/-- The fields read from a word make up the word. -/
theorem word_of_fields {lay : List Nat} {fs : List (Nat × Nat)} {w : Word} (hs : lay.sum = 64) (h : fs = lay.zip (unpack lay w.toNat)) :
    BitVec.ofNat 64 (pack fs) = w := by
  rw [h, pack_zip_unpack, hs, Nat.mod_eq_of_lt w.isLt, BitVec.ofNat_toNat, BitVec.setWidth_eq]

/-- The opcode of a word of a format, R61. -/
theorem opcOf_word {lay : List Nat} {fs : List (Nat × Nat)} {o : Nat} {g : Guard} (hl : (fs ++ encTop o g).map Prod.fst = lay)
    (hs : lay.sum = 64) (ho : o < 256) : opcOf (BitVec.ofNat 64 (pack (fs ++ encTop o g))) = o := by
  subst hl
  have h52 : (fs.map Prod.fst).sum = 52 := by simpa [encTop] using hs
  have hf := h52 ▸ pack_lt fs
  have hb : boolCode g.pn < 2 := by unfold boolCode; split <;> omega
  have hp := g.ps.isLt
  rw [opcOf, toNat_word hs, pack_append, h52]
  simp only [encTop, pack]
  omega

/-- The top three fields of a word, R61. -/
theorem unpack_top {lay : List Nat} (hs : lay.sum = 52) (w : Word) :
    unpack (lay ++ [3, 1, 8]) w.toNat = unpack lay w.toNat ++ [w.toNat / 2 ^ 52 % 2 ^ 3, w.toNat / 2 ^ 55 % 2 ^ 1, opcOf w] := by
  have h1 : w.toNat / 2 ^ 52 / 2 ^ 3 % 2 ^ 1 = w.toNat / 2 ^ 55 % 2 ^ 1 := by omega
  have h2 : w.toNat / 2 ^ 52 / 2 ^ 3 / 2 ^ 1 % 2 ^ 8 = opcOf w := by have := w.isLt; unfold opcOf; omega
  rw [unpack_append, hs]
  simp only [unpack, h1, h2]

/-! ### Fields that are written and read back -/

theorem ofNat_toNat_field {n : Nat} (x : BitVec n) : BitVec.ofNat n (x.toNat % 2 ^ n) = x := by
  rw [Nat.mod_eq_of_lt x.isLt, BitVec.ofNat_toNat, BitVec.setWidth_eq]

theorem boolCode_field (b : Bool) : (boolCode b % 2 ^ 1 == 1) = b := by cases b <;> rfl

theorem decTop_field (g : Guard) : decTop (g.ps.toNat % 2 ^ 3) (boolCode g.pn % 2 ^ 1) = g := by
  rw [decTop, ofNat_toNat_field, boolCode_field]

theorem Ty.ofCode_field (t : Ty) : Ty.ofCode (t.code % 2 ^ 4) = some t := by cases t <;> rfl
theorem Rm.ofCode_field (r : Rm) : Rm.ofCode (r.code % 2 ^ 3) = some r := by cases r <;> rfl
theorem Scope.ofCode_field (s : Scope) : Scope.ofCode (s.code % 2 ^ 4) = some s := by cases s <;> rfl
theorem Order.ofCode_field (o : Order) : Order.ofCode (o.code % 2 ^ 3) = some o := by cases o <;> rfl
theorem Size.ofCode_field (z : Size) : Size.ofCode (z.code % 2 ^ 3) = some z := by cases z <;> rfl
theorem Aop.ofCode_field (a : Aop) : Aop.ofCode (a.code % 2 ^ 4) = some a := by cases a <;> rfl
theorem Ck.ofCode_field (c : Ck) : Ck.ofCode (c.code % 2 ^ 2) = some c := by cases c <;> rfl
theorem Ct.ofCode_field (c : Ct) : Ct.ofCode (c.code % 2 ^ 3) = some c := by cases c <;> rfl

theorem Src.ofField_field (x : Src) : Src.ofField (x.flag % 2 ^ 1) (x.field % 2 ^ 8) = some x := by
  cases x with
  | v r => simp only [flag, field, ofField, ofNat_toNat_field]; rfl
  | s r =>
    have hr := r.isLt
    have h : r.toNat % 256 = r.toNat := by omega
    simp [flag, field, ofField, h, hr]
  | imm k =>
    have hk := k.isLt
    have h : (64 + k.toNat) % 256 = 64 + k.toNat := by omega
    have h2 : 64 + k.toNat < 128 := by omega
    simp [flag, field, ofField, h, h2]

/-! ### Fields that are read and written back -/

theorem toNat_ofNat_field (n x : Nat) : (BitVec.ofNat n (x % 2 ^ n)).toNat = x % 2 ^ n := by
  rw [BitVec.toNat_ofNat, Nat.mod_mod]

theorem boolCode_of_field (x : Nat) : boolCode (x % 2 ^ 1 == 1) = x % 2 ^ 1 := by
  rcases Nat.mod_two_eq_zero_or_one x with h | h <;> rw [pow_one, h] <;> rfl

theorem encTop_of_fields (o x y : Nat) :
    encTop o (decTop (x % 2 ^ 3) (y % 2 ^ 1)) = [(3, x % 2 ^ 3), (1, y % 2 ^ 1), (8, o)] := by
  simp only [encTop, decTop, toNat_ofNat_field, boolCode_of_field]

theorem Ty.code_of_ofCode {n : Nat} {t : Ty} (h : Ty.ofCode n = some t) : t.code = n := by
  unfold Ty.ofCode at h; split at h <;> cases h <;> rfl
theorem Rm.code_of_ofCode {n : Nat} {r : Rm} (h : Rm.ofCode n = some r) : r.code = n := by
  unfold Rm.ofCode at h; split at h <;> cases h <;> rfl
theorem Scope.code_of_ofCode {n : Nat} {s : Scope} (h : Scope.ofCode n = some s) : s.code = n := by
  unfold Scope.ofCode at h; split at h <;> cases h <;> rfl
theorem Order.code_of_ofCode {n : Nat} {o : Order} (h : Order.ofCode n = some o) : o.code = n := by
  unfold Order.ofCode at h; split at h <;> cases h <;> rfl
theorem Size.code_of_ofCode {n : Nat} {z : Size} (h : Size.ofCode n = some z) : z.code = n := by
  unfold Size.ofCode at h; split at h <;> cases h <;> rfl
theorem Aop.code_of_ofCode {n : Nat} {a : Aop} (h : Aop.ofCode n = some a) : a.code = n := by
  unfold Aop.ofCode at h; split at h <;> cases h <;> rfl
theorem Ck.code_of_ofCode {n : Nat} {c : Ck} (h : Ck.ofCode n = some c) : c.code = n := by
  unfold Ck.ofCode at h; split at h <;> cases h <;> rfl
theorem Ct.code_of_ofCode {n : Nat} {c : Ct} (h : Ct.ofCode n = some c) : c.code = n := by
  unfold Ct.ofCode at h; split at h <;> cases h <;> rfl

theorem Src.fields_of_ofField {x y : Nat} {s : Src} (h : Src.ofField (x % 2 ^ 1) (y % 2 ^ 8) = some s) :
    s.flag = x % 2 ^ 1 ∧ s.field = y % 2 ^ 8 := by
  unfold Src.ofField at h
  split at h
  · next h0 =>
    cases h
    exact ⟨(beq_iff_eq.mp h0).symm, toNat_ofNat_field 8 y⟩
  · next h0 =>
    have h1 : x % 2 ^ 1 = 1 := by simp at h0; omega
    split at h
    · cases h
      simp only [flag, field, BitVec.toNat_ofNat]; omega
    · split at h
      · cases h
        simp only [flag, field, BitVec.toNat_ofNat]; omega
      · cases h

/-! ### The formats -/

theorem decV_encV (o : Nat) (f : VF) : decV (encV o f) = some f := by
  have h : unpack layV (encV o f).toNat = _ := unpack_word rfl rfl
  simp only [decV, h, encTop, List.map, List.cons_append, List.nil_append, ofNat_toNat_field, boolCode_field, decTop_field,
    Rm.ofCode_field, Ty.ofCode_field, Src.ofField_field]

theorem encV_of_decV {w : Word} {f : VF} (h : decV w = some f) : encV (opcOf w) f = w := by
  have hu : unpack layV w.toNat = _ := unpack_top (lay := [5, 1, 1, 1, 1, 1, 3, 1, 1, 1, 4, 8, 8, 8, 8]) rfl w
  simp only [decV, hu, unpack, List.cons_append, List.nil_append] at h
  split at h
  · next h1 h2 h3 h4 h5 =>
    cases h
    refine word_of_fields (lay := layV) rfl ?_
    rw [hu]
    simp only [Rm.code_of_ofCode h1, Ty.code_of_ofCode h2, Src.fields_of_ofField h3, Src.fields_of_ofField h4, Src.fields_of_ofField h5,
      toNat_ofNat_field, boolCode_of_field, encTop_of_fields, unpack]
    rfl
  · cases h

theorem decMovi_encMovi (o : Nat) (f : MoviF) : decMovi (encMovi o f) = some f := by
  have h : unpack layMovi (encMovi o f).toNat = _ := unpack_word rfl rfl
  simp only [decMovi, h, encTop, List.map, List.cons_append, List.nil_append, ofNat_toNat_field, decTop_field, Nat.zero_mod,
    bne_self_eq_false, Bool.false_eq_true, if_false]

theorem encMovi_of_decMovi {w : Word} {f : MoviF} (h : decMovi w = some f) : encMovi (opcOf w) f = w := by
  have hu : unpack layMovi w.toNat = _ := unpack_top (lay := [12, 32, 8]) rfl w
  simp only [decMovi, hu, unpack, List.cons_append, List.nil_append] at h
  split at h
  · cases h
  · next h0 =>
    have h0 := of_not_not (mt bne_iff_ne.mpr h0)
    cases h
    refine word_of_fields (lay := layMovi) rfl ?_
    rw [hu]
    simp only [h0, toNat_ofNat_field, encTop_of_fields, unpack]
    rfl

theorem decS_encS (o : Nat) (f : SF) : decS (encS o f) = some f := by
  have h : unpack layS (encS o f).toNat = _ := unpack_word rfl rfl
  simp only [decS, h, encTop, List.map, List.cons_append, List.nil_append, ofNat_toNat_field, boolCode_field, decTop_field]

theorem encS_of_decS {w : Word} {f : SF} (h : decS w = some f) : encS (opcOf w) f = w := by
  have hu : unpack layS w.toNat = _ := unpack_top (lay := [32, 1, 6, 1, 6, 6]) rfl w
  simp only [decS, hu, unpack, List.cons_append, List.nil_append] at h
  cases h
  refine word_of_fields (lay := layS) rfl ?_
  rw [hu]
  simp only [toNat_ofNat_field, boolCode_of_field, encTop_of_fields, unpack]
  rfl

theorem decM_encM (o : Nat) (f : MF) : decM (encM o f) = some f := by
  have h : unpack layM (encM o f).toNat = _ := unpack_word rfl rfl
  simp only [decM, h, encTop, List.map, List.cons_append, List.nil_append, ofNat_toNat_field, decTop_field, Size.ofCode_field,
    Order.ofCode_field, Scope.ofCode_field]

theorem encM_of_decM {w : Word} {f : MF} (h : decM w = some f) : encM (opcOf w) f = w := by
  have hu : unpack layM w.toNat = _ := unpack_top (lay := [20, 3, 3, 4, 8, 6, 8]) rfl w
  simp only [decM, hu, unpack, List.cons_append, List.nil_append] at h
  split at h
  · next h1 h2 h3 =>
    cases h
    refine word_of_fields (lay := layM) rfl ?_
    rw [hu]
    simp only [Size.code_of_ofCode h1, Order.code_of_ofCode h2, Scope.code_of_ofCode h3, toNat_ofNat_field, encTop_of_fields, unpack]
    rfl
  · cases h

theorem decA_encA (o : Nat) (f : AF) : decA (encA o f) = some f := by
  have h : unpack layA (encA o f).toNat = _ := unpack_word rfl rfl
  simp only [decA, h, encTop, List.map, List.cons_append, List.nil_append, ofNat_toNat_field, decTop_field, Aop.ofCode_field,
    Size.ofCode_field, Order.ofCode_field, Scope.ofCode_field]

theorem encA_of_decA {w : Word} {f : AF} (h : decA w = some f) : encA (opcOf w) f = w := by
  have hu : unpack layA w.toNat = _ := unpack_top (lay := [8, 8, 4, 3, 3, 4, 8, 6, 8]) rfl w
  simp only [decA, hu, unpack, List.cons_append, List.nil_append] at h
  split at h
  · next h1 h2 h3 h4 =>
    cases h
    refine word_of_fields (lay := layA) rfl ?_
    rw [hu]
    simp only [Aop.code_of_ofCode h1, Size.code_of_ofCode h2, Order.code_of_ofCode h3, Scope.code_of_ofCode h4, toNat_ofNat_field,
      encTop_of_fields, unpack]
    rfl
  · cases h

theorem decB_encB (o : Nat) (f : BF) : decB (encB o f) = some f := by
  have h : unpack layB (encB o f).toNat = _ := unpack_word rfl rfl
  simp only [decB, h, encTop, List.map, List.cons_append, List.nil_append, ofNat_toNat_field, decTop_field, Ck.ofCode_field,
    Nat.zero_mod, bne_self_eq_false, Bool.false_eq_true, if_false]

theorem encB_of_decB {w : Word} {f : BF} (h : decB w = some f) : encB (opcOf w) f = w := by
  have hu : unpack layB w.toNat = _ := unpack_top (lay := [16, 2, 6, 28]) rfl w
  simp only [decB, hu, unpack, List.cons_append, List.nil_append] at h
  split at h
  · cases h
  · next h0 =>
    have h0 := of_not_not (mt bne_iff_ne.mpr h0)
    split at h
    · next h1 =>
      cases h
      refine word_of_fields (lay := layB) rfl ?_
      rw [hu]
      simp only [h0, Ck.code_of_ofCode h1, toNat_ofNat_field, encTop_of_fields, unpack]
      rfl
    · cases h

theorem decP_encP (o : Nat) (f : PF) : decP (encP o f) = some f := by
  have h : unpack layP (encP o f).toNat = _ := unpack_word rfl rfl
  simp only [decP, h, encTop, List.map, List.cons_append, List.nil_append, ofNat_toNat_field, decTop_field, Nat.zero_mod,
    bne_self_eq_false, Bool.false_eq_true, if_false]

theorem encP_of_decP {w : Word} {f : PF} (h : decP w = some f) : encP (opcOf w) f = w := by
  have hu : unpack layP w.toNat = _ := unpack_top (lay := [12, 20, 20]) rfl w
  simp only [decP, hu, unpack, List.cons_append, List.nil_append] at h
  split at h
  · cases h
  · next h0 =>
    have h0 := of_not_not (mt bne_iff_ne.mpr h0)
    cases h
    refine word_of_fields (lay := layP) rfl ?_
    rw [hu]
    simp only [h0, toNat_ofNat_field, encTop_of_fields, unpack]
    rfl

theorem decT_encT (o : Nat) (f : TF) : decT (encT o f) = some f := by
  have h : unpack layT (encT o f).toNat = _ := unpack_word rfl rfl
  simp only [decT, h, encTop, List.map, List.cons_append, List.nil_append, ofNat_toNat_field, decTop_field, Nat.zero_mod,
    bne_self_eq_false, Bool.false_eq_true, if_false]

theorem encT_of_decT {w : Word} {f : TF} (h : decT w = some f) : encT (opcOf w) f = w := by
  have hu : unpack layT w.toNat = _ := unpack_top (lay := [11, 4, 6, 5, 6, 6, 6, 8]) rfl w
  simp only [decT, hu, unpack, List.cons_append, List.nil_append] at h
  split at h
  · cases h
  · next h0 =>
    have h0 := of_not_not (mt bne_iff_ne.mpr h0)
    cases h
    refine word_of_fields (lay := layT) rfl ?_
    rw [hu]
    simp only [h0, toNat_ofNat_field, encTop_of_fields, unpack]
    rfl

theorem decX_encX (o : Nat) (f : XF) : decX (encX o f) = some f := by
  have h : unpack layX (encX o f).toNat = _ := unpack_word rfl rfl
  simp only [decX, h, encTop, List.map, List.cons_append, List.nil_append, ofNat_toNat_field, decTop_field, Scope.ofCode_field,
    Ct.ofCode_field]

theorem encX_of_decX {w : Word} {f : XF} (h : decX w = some f) : encX (opcOf w) f = w := by
  have hu : unpack layX w.toNat = _ := unpack_top (lay := [17, 4, 6, 3, 2, 8, 6, 6]) rfl w
  simp only [decX, hu, unpack, List.cons_append, List.nil_append] at h
  split at h
  · next h1 h2 =>
    cases h
    refine word_of_fields (lay := layX) rfl ?_
    rw [hu]
    simp only [Scope.code_of_ofCode h1, Ct.code_of_ofCode h2, toNat_ofNat_field, encTop_of_fields, unpack]
    rfl
  · cases h

theorem decQ_encQ (o : Nat) (f : QF) : decQ (encQ o f) = some f := by
  have h : unpack layQ (encQ o f).toNat = _ := unpack_word rfl rfl
  simp only [decQ, h, encTop, List.map, List.cons_append, List.nil_append, ofNat_toNat_field, decTop_field, Nat.zero_mod,
    bne_self_eq_false, Bool.or_false, Bool.false_eq_true, if_false]

theorem encQ_of_decQ {w : Word} {f : QF} (h : decQ w = some f) : encQ (opcOf w) f = w := by
  have hu : unpack layQ w.toNat = _ := unpack_top (lay := [31, 3, 3, 1, 6, 8]) rfl w
  simp only [decQ, hu, unpack, List.cons_append, List.nil_append] at h
  split at h
  · cases h
  · next h0 =>
    simp only [Bool.or_eq_true, bne_iff_ne, not_or, not_not] at h0
    cases h
    refine word_of_fields (lay := layQ) rfl ?_
    rw [hu]
    simp only [h0.1, h0.2, toNat_ofNat_field, encTop_of_fields, unpack]
    rfl

theorem decY_encY (o : Nat) (f : YF) : decY (encY o f) = some f := by
  have h : unpack layY (encY o f).toNat = _ := unpack_word rfl rfl
  simp only [decY, h, encTop, List.map, List.cons_append, List.nil_append, ofNat_toNat_field, decTop_field, Scope.ofCode_field,
    Nat.zero_mod, bne_self_eq_false, Bool.false_eq_true, if_false]

theorem encY_of_decY {w : Word} {f : YF} (h : decY w = some f) : encY (opcOf w) f = w := by
  have hu : unpack layY w.toNat = _ := unpack_top (lay := [16, 10, 4, 4, 6, 6, 6]) rfl w
  simp only [decY, hu, unpack, List.cons_append, List.nil_append] at h
  split at h
  · cases h
  · next h0 =>
    have h0 := of_not_not (mt bne_iff_ne.mpr h0)
    split at h
    · next h1 =>
      cases h
      refine word_of_fields (lay := layY) rfl ?_
      rw [hu]
      simp only [h0, Scope.code_of_ofCode h1, toNat_ofNat_field, encTop_of_fields, unpack]
      rfl
    · cases h

end Sys2Proof
end

section
/-! Each format with its opcodes, and the round trip of decoding and encoding over all of them (R84-R87). -/
namespace Sys2Proof

/-- A format as decoding uses it: the instructions of its opcodes, the reader of its fields and their writer. -/
structure IsFormat {α : Type} (op : Nat → Option (α → Instr)) (dec : Word → Option α) (enc : Nat → α → Word) : Prop where
  read : ∀ o f, dec (enc o f) = some f
  written : ∀ {w f}, dec w = some f → enc (opcOf w) f = w
  opcode : ∀ {o} f, o < 256 → opcOf (enc o f) = o
  word : ∀ {o k} f, op o = some k → encode (k f) = enc o f
  assigned : ∀ {o k}, op o = some k → opcAssigned o = true
  decodes : ∀ {w k}, op (opcOf w) = some k → decodeFields w = (dec w).map k

theorem lt_of_opcAssigned {o : Nat} (h : opcAssigned o = true) : o < 256 := by
  simp only [opcAssigned, Bool.or_eq_true, Bool.and_eq_true, decide_eq_true_eq] at h
  omega

namespace IsFormat

variable {α : Type} {op : Nat → Option (α → Instr)} {dec : Word → Option α} {enc : Nat → α → Word} (hf : IsFormat op dec enc)
include hf

/-- The word of an opcode of the format decodes to its instruction. -/
theorem decode_encode {o : Nat} {k : α → Instr} (h : op o = some k) (f : α) : decodeFields (enc o f) = some (k f) := by
  have ho := hf.opcode f (lt_of_opcAssigned (hf.assigned h))
  rw [hf.decodes (k := k) (by rw [ho, h]), hf.read, Option.map_some]

/-- What the format reads from a word has that word; the word may instead be left to the formats behind it. -/
theorem encode_decode {w : Word} {i : Instr} {rest : Option Instr} (hr : rest = some i → encode i = w)
    (h : (if (op (opcOf w)).isSome then (op (opcOf w)).bind fun k => (dec w).map k else rest) = some i) : encode i = w := by
  split at h
  · obtain ⟨k, hk, h⟩ := Option.bind_eq_some_iff.mp h
    obtain ⟨f, hd, rfl⟩ := Option.map_eq_some_iff.mp h
    rw [hf.word f hk, hf.written hd]
  · exact hr h

end IsFormat

/-! ### The eleven formats, opcode by opcode -/

theorem formatV : IsFormat opV decV encV where
  read := decV_encV
  written := encV_of_decV
  opcode f ho := opcOf_word (lay := layV) (g := f.g) rfl rfl ho
  word _ h := by unfold opV at h; split at h <;> cases h <;> rfl
  assigned h := by unfold opV at h; split at h <;> cases h <;> rfl
  decodes h := by unfold opV at h; split at h <;> cases h <;> next ho => simp only [decodeFields, ho]; rfl

theorem formatMovi : IsFormat opMovi decMovi encMovi where
  read := decMovi_encMovi
  written := encMovi_of_decMovi
  opcode f ho := opcOf_word (lay := layMovi) (g := f.g) rfl rfl ho
  word _ h := by unfold opMovi at h; split at h <;> cases h; rfl
  assigned h := by unfold opMovi at h; split at h <;> cases h; rfl
  decodes h := by unfold opMovi at h; split at h <;> cases h; next ho => simp only [decodeFields, ho]; rfl

theorem formatS : IsFormat opS decS encS where
  read := decS_encS
  written := encS_of_decS
  opcode f ho := opcOf_word (lay := layS) (g := f.g) rfl rfl ho
  word _ h := by
    unfold opS at h; split at h <;> cases h
    case h_13 => dsimp only; split <;> rfl
    all_goals rfl
  assigned h := by unfold opS at h; split at h <;> cases h <;> rfl
  decodes h := by unfold opS at h; split at h <;> cases h <;> next ho => simp only [decodeFields, ho]; rfl

theorem formatB : IsFormat opB decB encB where
  read := decB_encB
  written := encB_of_decB
  opcode f ho := opcOf_word (lay := layB) (g := f.g) rfl rfl ho
  word _ h := by unfold opB at h; split at h <;> cases h <;> rfl
  assigned h := by unfold opB at h; split at h <;> cases h <;> rfl
  decodes h := by unfold opB at h; split at h <;> cases h <;> next ho => simp only [decodeFields, ho]; rfl

theorem formatP : IsFormat opP decP encP where
  read := decP_encP
  written := encP_of_decP
  opcode f ho := opcOf_word (lay := layP) (g := f.g) rfl rfl ho
  word _ h := by unfold opP at h; split at h <;> cases h; rfl
  assigned h := by unfold opP at h; split at h <;> cases h; rfl
  decodes h := by unfold opP at h; split at h <;> cases h; next ho => simp only [decodeFields, ho]; rfl

theorem formatM : IsFormat opM decM encM where
  read := decM_encM
  written := encM_of_decM
  opcode f ho := opcOf_word (lay := layM) (g := f.g) rfl rfl ho
  word _ h := by unfold opM at h; split at h <;> cases h <;> rfl
  assigned h := by unfold opM at h; split at h <;> cases h <;> rfl
  decodes h := by unfold opM at h; split at h <;> cases h <;> next ho => simp only [decodeFields, ho]; rfl

theorem formatA : IsFormat opA decA encA where
  read := decA_encA
  written := encA_of_decA
  opcode f ho := opcOf_word (lay := layA) (g := f.g) rfl rfl ho
  word _ h := by unfold opA at h; split at h <;> cases h <;> rfl
  assigned h := by unfold opA at h; split at h <;> cases h <;> rfl
  decodes h := by unfold opA at h; split at h <;> cases h <;> next ho => simp only [decodeFields, ho]; rfl

theorem formatX : IsFormat opX decX encX where
  read := decX_encX
  written := encX_of_decX
  opcode f ho := opcOf_word (lay := layX) (g := f.g) rfl rfl ho
  word _ h := by unfold opX at h; split at h <;> cases h <;> rfl
  assigned h := by unfold opX at h; split at h <;> cases h <;> rfl
  decodes h := by unfold opX at h; split at h <;> cases h <;> next ho => simp only [decodeFields, ho]; rfl

theorem formatQ : IsFormat opQ decQ encQ where
  read := decQ_encQ
  written := encQ_of_decQ
  opcode f ho := opcOf_word (lay := layQ) (g := f.g) rfl rfl ho
  word _ h := by unfold opQ at h; split at h <;> cases h <;> rfl
  assigned h := by unfold opQ at h; split at h <;> cases h <;> rfl
  decodes h := by unfold opQ at h; split at h <;> cases h <;> next ho => simp only [decodeFields, ho]; rfl

theorem formatT : IsFormat opT decT encT where
  read := decT_encT
  written := encT_of_decT
  opcode f ho := opcOf_word (lay := layT) (g := f.g) rfl rfl ho
  word _ h := by unfold opT at h; split at h <;> cases h <;> rfl
  assigned h := by unfold opT at h; split at h <;> cases h <;> rfl
  decodes h := by unfold opT at h; split at h <;> cases h <;> next ho => simp only [decodeFields, ho]; rfl

theorem formatY : IsFormat opY decY encY where
  read := decY_encY
  written := encY_of_decY
  opcode f ho := opcOf_word (lay := layY) (g := f.g) rfl rfl ho
  word _ h := by
    unfold opY at h; split at h <;> cases h
    case h_5 => dsimp only; split_ifs <;> rfl
    case h_6 => dsimp only; split_ifs <;> rfl
    all_goals rfl
  assigned h := by unfold opY at h; split at h <;> cases h <;> rfl
  decodes h := by unfold opY at h; split at h <;> cases h <;> next ho => simp only [decodeFields, ho]; rfl

/-- mts writes FMT or a trap register, never SEED, which is mtsSeed, R163. -/
theorem ne_of_wfMts {f : SF} (h : f.wfMts = true) : ¬ (f.imm == 0x0D) = true := by
  intro hd
  simp [SF.wfMts, beq_iff_eq.mp hd] at h

theorem imm_of_wfMtsSeed {f : SF} (h : f.wfMtsSeed = true) : (f.imm == 0x0D) = true := by
  simp only [SF.wfMtsSeed, Bool.and_eq_true] at h
  exact h.2

/-! The rows of syswr share no register, R447. -/

theorem not_privRoute_of_privHvec {n : Nat} (h : privHvec n = true) : privRoute n = false := by
  rw [beq_iff_eq.mp h]; rfl

theorem not_others_of_privInjctl {n : Nat} (h : privInjctl n = true) : privRoute n = false ∧ privHvec n = false := by
  simp only [privInjctl, privRoute, privHvec, Bool.and_eq_true, decide_eq_true_eq, decide_eq_false_iff_not, beq_eq_false_iff_ne] at *
  omega

/-- The fields that the word of a well-formed instruction spells are that instruction. -/
theorem decodeFields_encode (i : Instr) (h : i.wf = true) : decodeFields (encode i) = some i := by
  cases i
  case iadd f | isub f | imul f | imulhi f | imad f | imin f | imax f | iabs f | vand f | vor f | vxor f | blut f | shl f | shr
      f | sar f | funnel f | popc f | clz f | brev f | bfe f | bfi f | icmp f | sel f | mov f | ishadd f | bytesel f | fadd f
      | fsub f | fmul f | fma f | fmin f | fmax f | fcmp f | fclass f | frcp f | frsq f | fsqrt f | fexp2 f | flog2 f | frred
      f | fsin f | fcos f | cvt f | fdot2 f | lcdec f | fscale f | qswap f | qbcast f | lxch f | gred f | gscan f | rand f |
      vrd f | vwr f | vote f | tvote f => exact formatV.decode_encode rfl f
  case movi f =>
    exact formatMovi.decode_encode rfl f
  case sadd f | ssub f | smul f | sand f | sor f | sxor f | sshl f | sshr f | ssar f | scmp f | smovi f | mfs f | fmtset f |
      jmp f | bwait f | bar f | bararr f | barwait f | barexp f | pbar f | tcall f | tret f | fork f | join f | skgive f |
      sktake f | gangset f =>
    exact formatS.decode_encode rfl f
  case bra f | call f | ret f | exitG f | yield f | nop f | loop f =>
    exact formatB.decode_encode rfl f
  case brp f =>
    exact formatP.decode_encode rfl f
  case ld f | st f | lds f | sts f | ldc f | stc f | sld f | sst f | pref f | cwb f | cinv f | cwbi f | fence f | rld f |
      rst f =>
    exact formatM.decode_encode rfl f
  case atom f | red f | atoms f | ratom f =>
    exact formatA.decode_encode rfl f
  case cpy f | cpym f | patadv f | patq f | qfence f | gath f | cpyres f | msend f | mpost f | mcancel f | mprobe f |
      subon f | suboff f | subflush f | xshfl f | coll f =>
    exact formatX.decode_encode rfl f
  case qpush f | qpop f | qtry f =>
    exact formatQ.decode_encode rfl f
  case accalloc f | accfree f | acczero f | mma f | accld f | accst f | fifodrop f | fifostat f =>
    exact formatT.decode_encode rfl f
  case trapSw f | eret f | pmark f | sysrd f | errinj f | brk f | gkill f =>
    exact formatY.decode_encode rfl f
  case mts f => exact (formatS.decode_encode (o := 0x4E) rfl f).trans (congrArg some (if_neg (ne_of_wfMts h)))
  case mtsSeed f => exact (formatS.decode_encode (o := 0x4E) rfl f).trans (congrArg some (if_pos (imm_of_wfMtsSeed h)))
  case syswr f =>
    simp only [Instr.wf, YF.wfSyswr, Bool.and_eq_true, Bool.not_eq_true'] at h
    exact (formatY.decode_encode (o := 0xD4) rfl f).trans (by simp [h])
  case syswrRoute f =>
    simp only [Instr.wf, Bool.and_eq_true] at h
    exact (formatY.decode_encode (o := 0xD4) rfl f).trans (by simp [h])
  case syswrHvec f =>
    simp only [Instr.wf, Bool.and_eq_true] at h
    exact (formatY.decode_encode (o := 0xD4) rfl f).trans (by simp [h, not_privRoute_of_privHvec h.2])
  case syswrInjctl f =>
    simp only [Instr.wf, Bool.and_eq_true] at h
    exact (formatY.decode_encode (o := 0xD4) rfl f).trans (by simp [h, not_others_of_privInjctl h.2])
  case xinvPage f | xinvRange f | xinvCtx f =>
    simp only [Instr.wf, YF.wfXinv, Bool.and_eq_true, beq_iff_eq] at h
    exact (formatY.decode_encode (o := 0xD5) rfl f).trans (by simp [h])
  case illegalOp w =>
    have ha : (!opcAssigned (opcOf w)) = true := h
    simp only [encode, decodeFields, ha, if_true]
  all_goals cases h

/-- The instruction that a word spells has that word. -/
theorem encode_decodeFields {w : Word} {i : Instr} (h : decodeFields w = some i) : encode i = w := by
  unfold decodeFields at h
  by_cases ha : opcAssigned (opcOf w) = true
  · simp only [ha, Bool.not_true, Bool.false_eq_true, if_false] at h
    refine formatV.encode_decode (formatMovi.encode_decode <| formatS.encode_decode <| formatB.encode_decode <|
      formatP.encode_decode <| formatM.encode_decode <| formatA.encode_decode <| formatX.encode_decode <|
      formatQ.encode_decode <| formatT.encode_decode <| formatY.encode_decode ?_) h
    simp
  · simp only [ha, Bool.not_false, if_true] at h
    cases h
    rfl

/-- Settles O56, format by format: what a word's fields spell has that word, and an instruction's word spells it. -/
theorem decodeAndEncodeAgree : Obligations.DecodeAndEncodeAgree := by
  unfold Obligations.DecodeAndEncodeAgree
  refine ⟨fun i h => ?_, fun w i h => ?_⟩
  · rw [decodeWord, decodeFields_encode i h]
    exact if_pos h
  · unfold decodeWord at h
    split at h
    · next j hj =>
      split at h
      · next hw =>
        cases h
        exact ⟨encode_decodeFields hj, hw⟩
      · cases h
    · cases h

end Sys2Proof
end

section
/-! What the checks before an effect trap: a privileged opcode at user level (R86), a register beyond the window (R64), a poisoned read
(R500), a write of s0-s31 in a diverged group (R75); and an arm that a trap sends to its handler (R435). -/

namespace Sys2Proof.Machine

open Sys2Proof.Safety

namespace State

variable {s : State}

/-- Decode step 3 stops a privileged opcode at user level, R86, R87. -/
theorem conclude_privileged (hu : s.ca.handler = false) (opc : Nat) (k : Eff) :
    s.conclude (s.privileged opc k) = .next (s.takeTrap ⟨5, 0, BitVec.ofNat 64 opc⟩) := by
  simp only [privileged, hu, Bool.false_eq_true, if_false, conclude_trap]
  rfl

/-- With a clean guard, a register beyond the window traps before anything is read, whatever the effect is. -/
theorem guarded_unmapped {g : Guard} {regs : List (Nat × Nat)} (reads : BitVec 32 → List Rd) (k : BitVec 32 → Eff)
    (hg : s.rdTrap (.p g.ps.toNat s.armMask) = none) {t : TrapInfo} (ht : s.winTrap regs = some t) :
    s.guarded g false regs reads k = .trap t := by
  simp only [guarded, hg, Bool.false_and, Bool.false_eq_true, if_false, ht]

/-- With a clean guard and every register mapped, a poisoned read traps, whatever the effect is. -/
theorem guarded_poisoned {g : Guard} {regs : List (Nat × Nat)} {reads : BitVec 32 → List Rd} (k : BitVec 32 → Eff)
    (hg : s.rdTrap (.p g.ps.toNat s.armMask) = none) (hw : s.winTrap regs = none) {t : TrapInfo}
    (ht : s.rdTraps (reads (s.active g)) = some t) : s.guarded g false regs reads k = .trap t := by
  simp only [guarded, hg, Bool.false_and, Bool.false_eq_true, if_false, hw, ht]

/-- A poisoned read traps UE_DATA, R500. -/
theorem rdTrap_cause {r : Rd} {t : TrapInfo} (h : s.rdTrap r = some t) : ∃ x, t = ⟨51, 0, x⟩ := by
  cases r with
  | v r n m =>
    obtain ⟨k, -, hk⟩ := List.exists_of_findSome?_eq_some h
    dsimp only at hk
    split at hk
    · cases hk
    · exact ⟨_, (Option.some.inj hk).symm⟩
  | s r =>
    simp only [rdTrap] at h
    split at h
    · exact ⟨_, (Option.some.inj h).symm⟩
    · cases h
  | p r m =>
    simp only [rdTrap] at h
    split at h
    · cases h
    · exact ⟨_, (Option.some.inj h).symm⟩

/-- Where some read is poisoned, the reads trap UE_DATA. -/
theorem rdTraps_poisoned {rs : List Rd} (h : ∃ r ∈ rs, s.rdTrap r ≠ none) : ∃ x, s.rdTraps rs = some ⟨51, 0, x⟩ := by
  obtain ⟨r, hr, hp⟩ := h
  obtain ⟨t, ht⟩ : ∃ t, s.rdTraps rs = some t :=
    Option.ne_none_iff_exists'.mp fun hn => hp ((rdTraps_none s rs).mp hn r hr)
  obtain ⟨r', -, hr'⟩ := List.exists_of_findSome?_eq_some ht
  obtain ⟨x, rfl⟩ := rdTrap_cause hr'
  exact ⟨x, ht⟩

/-- Where some register is beyond the window, one of them is named in the trap REG_UNMAPPED. -/
theorem winTrap_unmapped {regs : List (Nat × Nat)} (h : ∃ r ∈ regs, s.cg.window < r.1 + r.2) :
    ∃ r ∈ regs, s.cg.window < r.1 + r.2 ∧ s.winTrap regs = some ⟨6, 0, BitVec.ofNat 64 (max r.1 s.cg.window)⟩ := by
  obtain ⟨r, hr, hw⟩ := h
  obtain ⟨t, ht⟩ : ∃ t, s.winTrap regs = some t :=
    Option.ne_none_iff_exists'.mp fun hn => absurd ((winTrap_none s regs).mp hn r hr) (by omega)
  obtain ⟨r', hr', hw', rfl⟩ := winTrap_some s regs t ht
  exact ⟨r', hr', hw', ht⟩

/-- A scalar operation that would write s0-s31 in a diverged group, R75. -/
theorem scalarEff_diverged {f : SF} (op : Nat → Nat → Nat → Nat) (ha : Acts s f.g)
    (hp : Passes s f.g [] (.s f.a.toNat :: if f.immf then [] else [.s f.b.toNat])) (hd : f.d.toNat < 32)
    (hc : s.cg.converged = false) : s.scalarEff f true op = .trap ⟨7, 0, f.d.setWidth 64⟩ := by
  have ht : s.divergedScalar f.d.toNat = some ⟨7, 0, f.d.setWidth 64⟩ := by
    simp only [divergedScalar, hd, hc, decide_true, Bool.not_false, Bool.and_self, if_true, trapOf, BitVec.ofNat_toNat]
    rfl
  unfold scalarEff
  rw [guarded_passes _ hp fun _ => ha, ht]

/-- A trap with a handler at hand, whose cause ends no group, enters the handler, R435. -/
theorem ca_takeTrap {t : TrapInfo} (h : TakesHandler s s.gid s.slot) (hc : endsGroups t.cause = false) :
    (s.takeTrap t).ca = enterHandler
      { s.ca with trapc := t.cause, trappc := s.ipc, trapad := t.ad, trapx := t.x, walkFaults := [], asks := none, ue := none }
      (s.hvec s.gid) := by
  obtain ⟨-, hu, hv, hn⟩ := h
  have hb := (handlerElse_false_iff _ _).mpr hn
  rcases takeTrapAt_cases s s.gid s.slot t s.ipc with ⟨h1, -⟩ | ⟨-, h1, -⟩ | ⟨-, -, -, h1, -⟩ | ⟨-, -, -, -, he⟩
  · exact absurd h1 (by simp [hu])
  · exact absurd h1 (not_or.mpr ⟨by simp [hc], hv⟩)
  · exact absurd h1 (by simp [hb])
  · rw [takeTrap, he]
    simp only [ca, cg, gid_setGrp, slot_setGrp, grp_setGrp_same, Group.arm_setArm_same]

end State

/-- The checks of a per-lane instruction that raises nothing are those of its destination and its sources. -/
theorem vEff_guarded (s : State) (f : VF) (wide : Bool) (srcs : List (Src × Bool)) (val : Nat → Nat) : ∃ e, s.vEff f wide srcs val =
    s.guarded f.g false ((f.d.toNat, if wide then 2 else 1) :: srcRegs srcs) (fun m => srcReads m srcs) e := ⟨_, rfl⟩

/-- So are those of one that may raise exceptions. -/
theorem fEff_guarded (s : State) (f : VF) (rounds wide : Bool) (srcs : List (Src × Bool))
    (fn : FCtl → Nat → BitVec 32 → Nat × FFlags × BitVec 32) : ∃ e, s.fEff f rounds wide srcs (fun _ => []) fn =
    s.guarded f.g false ((f.d.toNat, if wide then 2 else 1) :: srcRegs srcs) (fun m => srcReads m srcs) e := by
  unfold State.fEff
  simp only [List.append_nil]
  exact ⟨_, rfl⟩

/-- fmin and fmax in one lane: the flags and the choice element by element, and no step of the xorshift state (R147). -/
def pickLane (mx : Bool) (s : State) (f : VF) (c : FCtl) (l : Nat) : BitVec 32 → Nat × FFlags × BitVec 32 :=
  perElem f.ty.width (fun k xs =>
    let r := pickFp (fmtOf f.ty) mx c.ftzi c.ftz (signMod (fmtOf f.ty) f.xa f.na (elemAt f.ty.width k (s.raw f.ty l f.a)))
      (signMod (fmtOf f.ty) f.xb f.nb (elemAt f.ty.width k (s.raw f.ty l f.b)))
    (r.1, r.2, xs)) (List.range f.ty.elems)

theorem fpickEff_eq (s : State) (f : VF) (mx : Bool) :
    s.fpickEff f mx = s.fEff f false false (fAB f) (fun _ => []) (pickLane mx s f) := rfl

/-- The per-lane kinds differ in their effect alone: their checks are those of the destination and the sources. -/
theorem laneKinds_guarded : ∀ k ∈ laneKinds, ∀ (s : State) (f : VF), ∃ e, exec (k.1 f) s =
    s.conclude (s.guarded f.g false ((f.d.toNat, if k.2.1 f then 2 else 1) :: srcRegs (k.2.2 f)) (fun m => srcReads m (k.2.2 f)) e) := by
  have int : ∀ {s : State} {f : VF} {i : Instr} {wide srcs val}, exec i s = s.conclude (s.vEff f wide srcs val) → ∃ e, exec i s =
      s.conclude (s.guarded f.g false ((f.d.toNat, if wide then 2 else 1) :: srcRegs srcs) (fun m => srcReads m srcs) e) := by
    intro s f i wide srcs val h
    obtain ⟨e, he⟩ := vEff_guarded s f wide srcs val
    exact ⟨e, h.trans (congrArg s.conclude he)⟩
  have fp : ∀ {s : State} {f : VF} {i : Instr} {rounds wide srcs fn}, exec i s = s.conclude (s.fEff f rounds wide srcs (fun _ => []) fn) →
      ∃ e, exec i s =
        s.conclude (s.guarded f.g false ((f.d.toNat, if wide then 2 else 1) :: srcRegs srcs) (fun m => srcReads m srcs) e) := by
    intro s f i rounds wide srcs fn h
    obtain ⟨e, he⟩ := fEff_guarded s f rounds wide srcs fn
    exact ⟨e, h.trans (congrArg s.conclude he)⟩
  simp only [laneKinds, List.forall_mem_cons]
  exact ⟨fun _ _ => int rfl, fun _ _ => int rfl, fun _ _ => int rfl, fun _ _ => int rfl, fun _ _ => int rfl, fun _ _ => int rfl,
    fun _ _ => int rfl, fun _ _ => int rfl, fun _ _ => int rfl, fun _ _ => int rfl, fun _ _ => int rfl, fun _ _ => int rfl,
    fun _ _ => fp rfl, fun _ _ => fp rfl, fun _ _ => fp rfl, fun _ _ => fp rfl, fun s f => fp (congrArg s.conclude (fpickEff_eq s f _)),
    fun s f => fp (congrArg s.conclude (fpickEff_eq s f _)), fun _ h => nomatch h⟩

/-- Settles O28: decode step 3 comes before everything else of the ten instructions. -/
theorem privilegedTrapAtUserLevel : Obligations.PrivilegedTrapAtUserLevel := by
  unfold Obligations.PrivilegedTrapAtUserLevel
  intro s f hu
  have priv := fun opc k => State.conclude_privileged hu opc k
  exact ⟨priv 0xD3 _, priv 0xD4 _, priv 0xD4 _, priv 0xD4 _, priv 0xD4 _, priv 0xD5 _, priv 0xD5 _, priv 0xD5 _, priv 0xD6 _, priv 0xD8 _⟩

/-- Settles O26: each takes its trap by its effect alone, and such a trap enters the handler. -/
theorem softwareTrapsTaken : Obligations.SoftwareTrapsTaken := by
  unfold Obligations.SoftwareTrapsTaken
  have enters : ∀ (i : Instr) (s : State) (cause : Cause) (x : Word), exec i s = .next (s.takeTrap ⟨cause, 0, x⟩) →
      State.endsGroups cause = false → exec i s = .next (s.takeTrap ⟨cause, 0, x⟩) ∧ (TakesHandler s s.gid s.slot →
        ∃ t, exec i s = .next t ∧ t.ca.handler = true ∧ t.ca.pc = s.hvec s.gid ∧ t.ca.trapc = cause ∧ t.ca.trappc = s.ipc ∧ t.ca.trapx = x) := by
    intro i s cause x he hc
    refine ⟨he, fun hh => ⟨_, he, ?_⟩⟩
    rw [State.ca_takeTrap hh hc]
    exact ⟨rfl, rfl, rfl, rfl, rfl⟩
  refine ⟨fun s f ha hp => enters _ s 0 _ ?_ rfl, fun s f ha hp => enters _ s 55 _ ?_ rfl, fun s w => enters _ s 1 _ ?_ rfl⟩
  · change s.conclude (s.guarded f.g true [] (fun _ => []) fun _ => .trap (trapOf 0 0 (f.imm.setWidth 64))) = _
    rw [State.guarded_passes _ hp fun _ => ha]
    rfl
  · change s.conclude (s.guarded f.g true [] (fun _ => []) fun _ => .trap (trapOf 55 0 (f.imm.setWidth 64))) = _
    rw [State.guarded_passes _ hp fun _ => ha]
    rfl
  · have hx : BitVec.ofNat 64 (opcOf w) = w >>> 56 := by
      rw [opcOf, ← Nat.shiftRight_eq_div_pow]
      exact BitVec.eq_of_toNat_eq (by simp [Nat.mod_eq_of_lt (lt_of_le_of_lt (Nat.shiftRight_le _ _) w.isLt)])
    rw [← hx]
    rfl

/-- Settles O27: the checks of the per-lane kinds come before their effect, and those of the scalar operations before the write. -/
theorem registerChecksTrap : Obligations.RegisterChecksTrap := by
  unfold Obligations.RegisterChecksTrap
  refine ⟨fun k hk s f hg => ?_, ?_⟩
  · obtain ⟨e, he⟩ := laneKinds_guarded k hk s f
    dsimp only
    rw [he]
    refine ⟨fun hu => ?_, fun hm hp => ?_⟩
    · obtain ⟨r, hr, hw, ht⟩ := State.winTrap_unmapped hu
      exact ⟨r, hr, hw, by rw [State.guarded_unmapped _ _ hg ht, State.conclude_trap]⟩
    · obtain ⟨x, hx⟩ := State.rdTraps_poisoned hp
      exact ⟨x, by rw [State.guarded_poisoned e hg ((State.winTrap_none s _).mpr hm) hx, State.conclude_trap]⟩
  · have traps : ∀ (op : Nat → Nat → Nat → Nat) (s : State) (f : SF), Acts s f.g →
        Passes s f.g [] (.s f.a.toNat :: if f.immf then [] else [.s f.b.toNat]) → f.d.toNat < 32 → s.cg.converged = false →
        s.conclude (s.scalarEff f true op) = .next (s.takeTrap ⟨7, 0, f.d.setWidth 64⟩) := by
      intro op s f ha hp hd hc
      rw [State.scalarEff_diverged op ha hp hd hc, State.conclude_trap]
    dsimp only
    simp only [List.forall_mem_cons]
    exact ⟨traps _, traps _, traps _, traps _, traps _, traps _, traps _, traps _, traps _, traps _, fun _ h => nomatch h⟩

end Sys2Proof.Machine
end

section
/-! One step: the item that the agenda names, around it what every step does (R87, R169, R170), and the word that `withFetchWord` places. -/

namespace Sys2Proof.Machine

namespace State

variable {s : State}

/-- The item at the head of the agenda moves next. -/
theorem takeItem_cons {x : Item} {rest : List Item} (h : s.agenda = x :: rest) :
    s.takeItem = ({ s with tick := s.tick + 1, agenda := rest }, some x) := by
  simp only [takeItem, h]

theorem step_cons {x : Item} {rest : List Item} (h : s.agenda = x :: rest) :
    let s1 := { s with tick := s.tick + 1, agenda := rest }
    step s = s1.finish (s1.runItem x) := by
  simp only [step, takeItem_cons h]

/-- An arm that can issue enters a clause or goes on in its own. -/
theorem runItem_issue {gid slot : Nat} (h : s.canIssue gid slot = true) :
    let u := s.issued gid slot
    s.runItem (.issue gid slot) = u.closed (if u.ca.clause.isNone then u.enterNext else u.goOn) := by
  simp only [runItem, issueStep, h, if_true]

theorem enterNext_due (h : (s.ca.park.isNone && s.deadlineDue s.gid s.ca) = false) : s.enterNext = exec .clauseEntry s := by
  simp only [enterNext, h, Bool.false_eq_true, if_false]

/-- An arm that waits neither at its header nor for a result runs the word at its head. -/
theorem goOn_runs (hp : s.ca.park ≠ some .header) (hi : s.interlocked s.headWord = false) : s.goOn = s.runWord s.headWord := by
  have hb : (s.ca.park == some .header) = false := beq_eq_false_iff_ne.mpr hp
  simp only [goOn, hb, hi, Bool.false_eq_true, if_false]

theorem runWord_ok {w : Word} {i : Instr} (h : decodeWord w = .ok i) : s.runWord w = exec i (s.readsInject i) := by
  unfold runWord; rw [h]

theorem runWord_error {w : Word} {o : Nat} (h : decodeWord w = .error (.illegalField o)) :
    s.runWord w = .next (s.takeTrap (s.rejectTrap o)) := by
  unfold runWord; rw [h]

theorem readsInject_none (i : Instr) (h : s.dev.injctl = []) : s.readsInject i = s := by
  simp only [readsInject, h, List.isEmpty_nil, if_true]

theorem closed_next {t : State} (h : s.closesCut t = false) : s.closed (.next t) = .next t := by
  simp only [closed, h, Bool.false_eq_true, if_false]

theorem closed_stop {o : Host.Outcome State Fault Refusal} (h : ∀ t, o ≠ .next t) : s.closed o = o := by
  cases o with
  | next t => exact absurd rfl (h t)
  | fault r => rfl
  | refused r => rfl

theorem finish_stop {o : Host.Outcome State Fault Refusal} (h : ∀ t, o ≠ .next t) : s.finish o = o := by
  cases o with
  | next t => exact absurd rfl (h t)
  | fault r => rfl
  | refused r => rfl

theorem gid_issued (gid slot : Nat) : (s.issued gid slot).gid = gid := by
  have hc : ∀ (u : State) kind unit part n, (u.charge kind unit part n).cur = u.cur := by
    intro u kind unit part n
    unfold charge
    dsimp only
    split <;> rfl
  rw [issued, gid_modA, State.gid, hc]

/-- A step in which the agenda lets an arm issue that can, between clauses, with no deadline due. -/
theorem step_entersNext {gid slot : Nat} {rest : List Item} (h : s.agenda = .issue gid slot :: rest) :
    let s1 := { s with tick := s.tick + 1, agenda := rest }
    let u := s1.issued gid slot
    s1.canIssue gid slot = true → u.ca.clause = none → (u.ca.park.isNone && u.deadlineDue gid u.ca) = false →
      step s = s1.finish (u.closed (exec .clauseEntry u)) := by
  intro s1 u hs hc hd
  have hg : u.gid = gid := gid_issued gid slot
  have hn : u.ca.clause.isNone = true := by rw [hc]; rfl
  rw [step_cons h, runItem_issue hs, ← enterNext_due (hg.symm ▸ hd)]
  change s1.finish (u.closed (if u.ca.clause.isNone then u.enterNext else u.goOn)) = _
  rw [if_pos hn]

/-- A step in which the agenda lets an arm issue that can, in a clause, with nothing to wait for. -/
theorem step_runsHead {gid slot : Nat} {rest : List Item} (h : s.agenda = .issue gid slot :: rest) :
    let s1 := { s with tick := s.tick + 1, agenda := rest }
    let u := s1.issued gid slot
    s1.canIssue gid slot = true → u.ca.clause.isSome = true → u.ca.park ≠ some .header → u.interlocked u.headWord = false →
      step s = s1.finish (u.closed (u.runWord u.headWord)) := by
  intro s1 u hs hc hp hi
  have hn : u.ca.clause.isNone = false := by rw [← Option.not_isSome, hc]; rfl
  rw [step_cons h, runItem_issue hs, ← goOn_runs hp hi]
  change s1.finish (u.closed (if u.ca.clause.isNone then u.enterNext else u.goOn)) = _
  rw [if_neg (by rw [hn]; nofun)]

/-! ### The word that `withFetchWord` places (log 5) -/

/-- The state of the step that executes the placed word: the agenda's item is taken. -/
def fetching (s : State) (w : Word) : State := { s.withWord w with tick := s.tick + 1, agenda := [] }

/-- An enforcer without allowances counts nothing, R480. -/
theorem charge_free (h : s.allow = []) (kind unit part n : Nat) : s.charge kind unit part n = s := by
  simp only [charge, h, mget_nil, beq_self_eq_true, if_true]

theorem issued_fetching (w : Word) : (s.fetching w).issued 0 0 =
    ({ s.fetching w with cur := (0, 0) } : State).modA fun a => { a with lastIssue := s.tick + 1, yielded := a.yielded && !begins a } := by
  rw [issued, charge_free rfl]
  rfl

/-- The arm that executes the placed word. -/
theorem ca_issued_fetching (w : Word) : ((s.fetching w).issued 0 0).ca =
    { live := true, mask := BitVec.allOnes 32, clause := some ⟨0, plainHeader, [w], 0⟩, lastIssue := s.tick + 1 } := by
  rw [issued_fetching, ca_modA]
  rfl

/-- Its group is active and not chosen for a swap-out, and no allowance holds it. -/
theorem canIssue_fetching (w : Word) : (s.fetching w).canIssue 0 0 = true := rfl

theorem headWord_fetching (w : Word) : ((s.fetching w).issued 0 0).headWord = w := by
  rw [headWord, ca_issued_fetching]
  rfl

/-- It waits for no load and no accld. -/
theorem interlocked_fetching (w x : Word) : ((s.fetching w).issued 0 0).interlocked x = false := by
  have hc : ((s.fetching w).issued 0 0).cteam.accOps = [] := by
    rw [issued_fetching, cteam, cg_modA, Group.setArm_tid]
    rfl
  simp only [interlocked, ca_issued_fetching, hc, List.any_nil, Bool.or_false]

theorem mem_issued_fetching (w : Word) : ((s.fetching w).issued 0 0).mem = s.mem := by
  rw [issued_fetching]
  rfl

/-- The step from the state with a placed word executes that word. -/
theorem step_withWord (w : Word) :
    let u := (s.fetching w).issued 0 0
    step (s.withWord w) = (s.fetching w).finish (u.closed (u.runWord w)) := by
  have h := step_runsHead (s := s.withWord w) (rest := []) rfl (canIssue_fetching w)
  have hu : ({ s.withWord w with tick := (s.withWord w).tick + 1, agenda := [] } : State) = s.fetching w := rfl
  rw [hu, headWord_fetching] at h
  exact h (by rw [ca_issued_fetching]; rfl) (by rw [ca_issued_fetching]; nofun) (interlocked_fetching w w)

end State

/-- Settles O58: the step's item, its surroundings, and the placed word. -/
theorem stepRunsDecoded : Obligations.StepRunsDecoded := by
  unfold Obligations.StepRunsDecoded
  refine ⟨fun s gid slot rest h hs => ⟨State.step_entersNext h hs, fun c hc hp hi => ⟨fun i hw => ?_, fun o hw => ?_⟩⟩,
    fun u t i => ⟨State.readsInject_none i, State.closed_next⟩, fun u o => State.closed_stop, fun s i rest h he => ?_,
    fun s o => ⟨fun t ht => ht ▸ rfl, State.finish_stop⟩, fun s n w i hw => ?_⟩
  · rw [State.step_runsHead h hs (Option.isSome_iff_exists.mpr ⟨c, hc⟩) hp hi, State.runWord_ok hw]
  · rw [State.step_runsHead h hs (Option.isSome_iff_exists.mpr ⟨c, hc⟩) hp hi, State.runWord_error hw]
  · rw [State.step_cons h]
    simp only [State.runItem, he, if_true]
  · refine ⟨s.fetching (BitVec.ofNat 64 w), (s.fetching (BitVec.ofNat 64 w)).issued 0 0, State.headWord_fetching _, ?_,
      State.mem_issued_fetching _, ?_⟩
    · rw [State.ca_issued_fetching]
    · rw [← State.runWord_ok hw]
      exact State.step_withWord _

end Sys2Proof.Machine
end

section
/-! Exceptions of floating-point instructions (R105): which lane traps, what is written where none does, and the flags of a lane
element by element (R110). -/

namespace Sys2Proof.Machine

open Sys2Proof.Safety

/-! ### The lanes in order -/

theorem mem_maskList {m : BitVec 32} {l : Nat} : l ∈ maskList m ↔ l < 32 ∧ bit m l = true := by simp [maskList]

theorem maskList_sorted (m : BitVec 32) : (maskList m).Pairwise (· < ·) := List.pairwise_lt_range.filter _

/-- A lane's state among those of the others stays what it was while these are written. -/
theorem getD_set_ne (xs : List (BitVec 32)) {i j : Nat} (h : i ≠ j) (x : BitVec 32) : (xs.set i x).getD j 0 = xs.getD j 0 := by
  simp [List.getD, List.getElem?_set_ne h]

/-- No lane raises an enabled exception: each has its value. -/
theorem fpLanes_ok {fen : Nat} {fn : Nat → BitVec 32 → Nat × FFlags × BitVec 32} {ls : List Nat} (hs : ls.Pairwise (· < ·))
    {xs : List (BitVec 32)} {acc : List (Nat × Nat)} (h : ∀ l ∈ ls, (fn l (xs.getD l 0)).2.1 &&& fen = 0) :
    ∃ xs', fpLanes fen fn ls xs acc = .ok (acc ++ ls.map fun l => (l, (fn l (xs.getD l 0)).1), xs') := by
  induction ls generalizing xs acc with
  | nil => exact ⟨xs, by simp [fpLanes]⟩
  | cons l ls ih =>
    obtain ⟨hl, hs⟩ := List.pairwise_cons.mp hs
    have hx : ∀ j ∈ ls, (xs.set l (fn l (xs.getD l 0)).2.2).getD j 0 = xs.getD j 0 :=
      fun j hj => getD_set_ne xs (Nat.ne_of_lt (hl j hj)) _
    obtain ⟨xs', h'⟩ := ih hs (acc := acc ++ [(l, (fn l (xs.getD l 0)).1)]) fun j hj => (hx j hj).symm ▸ h j (List.mem_cons_of_mem _ hj)
    refine ⟨xs', ?_⟩
    have h0 : ((fn l (xs.getD l 0)).2.1 &&& fen != 0) = false := bne_eq_false_iff_eq.mpr (h l List.mem_cons_self)
    rw [fpLanes]
    simp only [h0, Bool.false_eq_true, if_false, h', List.append_assoc, List.map_cons, List.singleton_append]
    rw [List.map_congr_left fun j hj => by rw [hx j hj]]

/-- The lowest lane that raises an enabled exception traps. -/
theorem fpLanes_error {fen : Nat} {fn : Nat → BitVec 32 → Nat × FFlags × BitVec 32} {ls : List Nat} (hs : ls.Pairwise (· < ·))
    {xs : List (BitVec 32)} {acc : List (Nat × Nat)} {l : Nat} (hl : l ∈ ls) (hr : (fn l (xs.getD l 0)).2.1 &&& fen ≠ 0)
    (hn : ∀ j ∈ ls, j < l → (fn j (xs.getD j 0)).2.1 &&& fen = 0) :
    fpLanes fen fn ls xs acc = .error (fpExc l (fn l (xs.getD l 0)).2.1) := by
  induction ls generalizing xs acc with
  | nil => cases hl
  | cons k ls ih =>
    obtain ⟨hk, hs⟩ := List.pairwise_cons.mp hs
    rw [fpLanes]
    rcases List.mem_cons.mp hl with rfl | hl
    · exact if_pos (bne_iff_ne.mpr hr)
    · have hx : ∀ j ∈ ls, (xs.set k (fn k (xs.getD k 0)).2.2).getD j 0 = xs.getD j 0 :=
        fun j hj => getD_set_ne xs (Nat.ne_of_lt (hk j hj)) _
      have h0 : ((fn k (xs.getD k 0)).2.1 &&& fen != 0) = false :=
        bne_eq_false_iff_eq.mpr (hn k List.mem_cons_self (hk l hl))
      simp only [h0, Bool.false_eq_true, if_false]
      rw [ih hs hl ((hx l hl).symm ▸ hr) fun j hj hlt => (hx j hj).symm ▸ hn j (List.mem_cons_of_mem _ hj) hlt, hx l hl]

theorem xsRow_getD (g : Group) {l : Nat} (h : l < 32) : g.xsRow.getD l 0 = g.xs.getD l 0 := by
  simp [Group.xsRow, List.getD, h]

/-- Lane `l` of `act` raises an exception that `fen` enables. -/
abbrev Raises (act : BitVec 32) (fen : Nat) (flags : Nat → FFlags) (l : Nat) : Prop := bit act l = true ∧ flags l &&& fen ≠ 0

/-- Over the active lanes of a group, with `flags` what the lane function raises: the lowest lane that raises an enabled exception traps,
and where none does every lane has its value. -/
theorem fpLanes_active (g : Group) (act : BitVec 32) (fen : Nat) {fn : Nat → BitVec 32 → Nat × FFlags × BitVec 32} {flags : Nat → FFlags}
    (hf : ∀ l, bit act l = true → (fn l (g.xs.getD l 0)).2.1 = flags l) :
    (∀ l, Raises act fen flags l → (∀ j, j < l → ¬ Raises act fen flags j) →
      fpLanes fen fn (maskList act) g.xsRow [] = .error (fpExc l (flags l))) ∧
    ((∀ l, ¬ Raises act fen flags l) → ∃ xs', fpLanes fen fn (maskList act) g.xsRow [] =
      .ok ((maskList act).map fun l => (l, (fn l (g.xsRow.getD l 0)).1), xs')) := by
  have hx : ∀ l ∈ maskList act, (fn l (g.xsRow.getD l 0)).2.1 = flags l := fun l hl => by
    obtain ⟨h32, hb⟩ := mem_maskList.mp hl
    rw [xsRow_getD g h32, hf l hb]
  refine ⟨fun l hr hn => ?_, fun hn => ?_⟩
  · have hl : l ∈ maskList act := mem_maskList.mpr ⟨bit_lt _ _ hr.1, hr.1⟩
    rw [fpLanes_error (maskList_sorted act) hl (hx l hl ▸ hr.2) fun j hj hlt => ?_, hx l hl]
    rw [hx j hj]
    exact not_not.mp fun h => hn j hlt ⟨(mem_maskList.mp hj).2, h⟩
  · obtain ⟨xs', h⟩ := fpLanes_ok (fen := fen) (fn := fn) (acc := []) (maskList_sorted act) (xs := g.xsRow) fun l hl =>
      (hx l hl).symm ▸ not_not.mp fun h => hn l ⟨(mem_maskList.mp hl).2, h⟩
    exact ⟨xs', h⟩

/-! ### The write -/

/-- A clean write of a register or pair by an instruction that also steps xorshift states and retires. -/
theorem wroteV_putV_xs (s : State) (g : Guard) (d : Nat) (wide : Bool) (val : Nat → Nat) (xs : List (BitVec 32)) :
    WroteV s (s.modG fun x => { x.putV d wide (s.active g) val with xs := xs }).retire g d wide true fun _ _ => True := by
  obtain ⟨⟨-, -, -, hcg, -, harm, hsame, hv, hp, hn⟩, hw⟩ := wroteV_putV s g d wide val
  have ht : (s.modG fun x => { x.putV d wide (s.active g) val with xs := xs }).retire.cg =
      { (s.modG fun x => x.putV d wide (s.active g) val).retire.cg with xs := xs } := by
    rw [State.cg_retire, State.cg_retire]
    simp only [State.ca, State.cg_modG, State.slot_modG]
    unfold Group.setArm
    split <;> rfl
  have ha : (s.modG fun x => { x.putV d wide (s.active g) val with xs := xs }).retire.ca =
      (s.modG fun x => x.putV d wide (s.active g) val).retire.ca := by
    unfold State.ca
    rw [ht]
    rfl
  refine ⟨⟨rfl, fun _ => rfl, fun k hk => (mget_mset_other _ _ _ hk).trans (mget_mset_other _ _ _ hk), ?_, nofun, ?_, ?_, ?_, ?_, ?_⟩,
    fun l hl => ⟨trivial, ?_⟩⟩
  · rw [ht]; exact hcg
  · rw [ht]; exact harm
  · rw [ha]; exact hsame
  · rw [ht]; exact hv
  · rw [ht]; exact hp
  · unfold State.sreg at hn ⊢
    rw [ht]; exact hn
  · rw [ht]; exact (hw l hl).2

/-! ### An instruction on its sources -/

/-- What any instruction on sources that may raise exceptions does, from the flags of its lane function. -/
theorem fpTrapsOrWrites_of {mk : VF → Instr} {rounds wide : VF → Bool} {srcs : VF → List (Src × Bool)} {own : VF → BitVec 32 → List Rd}
    {flags : State → VF → FCtl → Nat → FFlags} (fn : State → VF → FCtl → Nat → BitVec 32 → Nat × FFlags × BitVec 32)
    (he : ∀ s f, exec (mk f) s = s.conclude (s.fEff f (rounds f) (wide f) (srcs f) (own f) (fn s f)))
    (hf : ∀ s f c l, (rounds f = false → c.mode = 0) → (fn s f c l (s.cg.xs.getD l 0)).2.1 = flags s f c l) :
    FpTrapsOrWrites mk rounds wide srcs own flags := by
  intro s f mode _ ⟨hp, hm⟩
  have hmode : (if rounds f then s.roundMode f.rm else .ok 0) = .ok mode := by
    split at hm
    · rw [if_pos ‹_›, hm]
    · rw [if_neg ‹_›, hm]
  have h0 : rounds f = false → (s.fctl mode).mode = 0 := fun hr => by rwa [hr, if_neg Bool.false_ne_true] at hm
  obtain ⟨htrap, hwrite⟩ := fpLanes_active s.cg (s.active f.g) (s.fctl mode).fen (fn := fn s f (s.fctl mode))
    (flags := flags s f (s.fctl mode)) fun l _ => hf s f _ l h0
  rw [he]
  unfold State.fEff
  rw [State.guarded_passes _ hp fun h => absurd h Bool.false_ne_true, hmode]
  refine ⟨fun l hr hn => ?_, fun hn => ?_⟩
  · simp only [htrap l hr hn]
    rfl
  · obtain ⟨xs, h⟩ := hwrite hn
    simp only [h]
    exact ⟨_, rfl, wroteV_putV_xs s f.g f.d.toNat (wide f) _ xs⟩

/-! ### The flags of a lane, element by element -/

/-- A lane's flags are those of its elements, where `st k` is the xorshift state that element `k` meets. -/
theorem perElem_flags {fn : Nat → BitVec 32 → Nat × FFlags × BitVec 32} {st : Nat → BitVec 32} (hs : ∀ k, (fn k (st k)).2.2 = st (k + 1))
    (w n : Nat) : (perElem w fn (List.range n) (st 0)).2.1 = (List.range n).foldl (fun fl k => fl ||| (fn k (st k)).2.1) 0 := by
  have h : ∀ (n i : Nat) (fl : FFlags), fl ||| (perElem w fn (List.range' i n) (st i)).2.1 =
      (List.range' i n).foldl (fun fl k => fl ||| (fn k (st k)).2.1) fl := by
    intro n
    induction n with
    | zero => intro i fl; exact Nat.or_zero fl
    | succ n ih =>
      intro i fl
      rw [List.range'_succ, List.foldl_cons, ← ih, Nat.or_assoc, ← hs]
      rfl
  rw [List.range_eq_range', ← h]
  exact (Nat.zero_or _).symm

/-- One value rounded steps the state of the lane under SR alone. -/
theorem srState_succ (s : State) (c : FCtl) (l k : Nat) :
    (if c.mode == 5 then xorshift (srState s c l k) else srState s c l k) = srState s c l (k + 1) := by
  by_cases h : c.mode = 5
  · simp only [srState, h, beq_self_eq_true, if_true, Function.iterate_succ_apply']
  · simp only [srState, h, beq_eq_false_iff_ne.mpr h, Bool.false_eq_true, if_false]

theorem round_step (s : State) (c : FCtl) (l k : Nat) (f : FFmt) (v : Fp) : (c.round f v (srState s c l k)).2.2 = srState s c l (k + 1) :=
  srState_succ s c l k

theorem round_flags (s : State) (c : FCtl) (l k : Nat) (f : FFmt) (v : Fp) :
    (c.round f v (srState s c l k)).2.1 = (roundTo f c.mode c.ftz c.satf (srState s c l (k + 1)).toNat v).2 := by
  rw [← round_step s c l k f v]
  rfl

theorem srState_zero (s : State) (c : FCtl) (l : Nat) : srState s c l 0 = s.cg.xs.getD l 0 := by
  unfold srState
  split <;> rfl

/-- Element `k` of an instruction that rounds each element once: the flags of the operation, then those of the rounding. -/
def roundElem (f : VF) (c : FCtl) (op : Nat → Fp × FFlags) (k : Nat) (xs : BitVec 32) : Nat × FFlags × BitVec 32 :=
  let r := c.round (fmtOf f.ty) (op k).1 xs
  (r.1, orFl (op k).2 r.2.1, r.2.2)

theorem roundElem_flags (s : State) (f : VF) (c : FCtl) (l : Nat) (op : Nat → Fp × FFlags) :
    (perElem f.ty.width (roundElem f c op) (List.range f.ty.elems) (s.cg.xs.getD l 0)).2.1 = elemFlags s f c l op := by
  rw [← srState_zero s c l, perElem_flags (fn := roundElem f c op) (st := srState s c l) fun k =>
    round_step s c l k (fmtOf f.ty) (op k).1]
  refine List.foldl_ext _ _ _ fun fl k _ => ?_
  rw [Nat.or_assoc, ← round_flags]
  rfl

/-- Element `k` of lcdec: rounded, with the flags of the rounding under f16x2 alone (R154). -/
def lcdecElem (s : State) (f : VF) (c : FCtl) (l k : Nat) (xs : BitVec 32) : Nat × FFlags × BitVec 32 :=
  let r := c.round (fmtOf f.ty) (lc2Value (elemAt 16 (if bit f.sub 3 then 1 else 0) (s.raw f.ty l f.a))
    (if f.ty == .f32 then f.sub.toNat % 8 else 2 * (f.sub.toNat % 4) + k) (s.raw .i32 l f.b % 256)) xs
  (r.1, if f.ty == .f16x2 then r.2.1 else 0, r.2.2)

theorem lcdecElem_flags (s : State) (f : VF) (c : FCtl) (l : Nat) :
    (perElem f.ty.width (lcdecElem s f c l) (List.range f.ty.elems) (s.cg.xs.getD l 0)).2.1 =
    if f.ty = .f16x2 then elemFlags s f c l fun k =>
      (lc2Value (elemAt 16 (if bit f.sub 3 then 1 else 0) (s.raw f.ty l f.a)) (2 * (f.sub.toNat % 4) + k) (s.raw .i32 l f.b % 256), 0)
    else 0 := by
  rw [← srState_zero s c l, perElem_flags (fn := lcdecElem s f c l) (st := srState s c l) fun k => srState_succ s c l k]
  unfold lcdecElem
  by_cases h : f.ty = .f16x2
  · rw [if_pos h]
    refine List.foldl_ext _ _ _ fun fl k _ => ?_
    simp only [h, beq_self_eq_true, if_true, round_flags, Nat.or_zero]
    rfl
  · simp only [h, beq_eq_false_iff_ne.mpr h, Bool.false_eq_true, if_false, Nat.or_zero]
    exact List.foldl_fixed _

/-- The flags of fdot2 in a lane, with the terms of R153 in order. -/
def dotLane (s : State) (f : VF) (c : FCtl) (l : Nat) (xs : BitVec 32) : Nat × FFlags × BitVec 32 :=
  let p := fun k => mulFp (fpElem c f.ty false f.na k (s.raw f.ty l f.a)) (fpElem c f.ty false f.nb k (s.raw f.ty l f.b))
  let v := sumFp c.rdn [(p 0).1, (p 1).1, unpackF fmtF32 c.ftzi (s.raw .f32 l f.c)]
  let r := c.round fmtF32 v.1 xs
  (r.1, orFl (orFl (p 0).2 (p 1).2) (orFl v.2 r.2.1), r.2.2)

theorem dotLane_flags (s : State) (f : VF) (c : FCtl) (l : Nat) : (dotLane s f c l (s.cg.xs.getD l 0)).2.1 = dotFlags s f c l := by
  unfold dotLane dotFlags orFl
  rw [← srState_zero s c l]
  simp only [round_flags, ← Nat.or_assoc]
  rfl

theorem pickLane_flags (mx : Bool) (s : State) (f : VF) (c : FCtl) (l : Nat) (xs : BitVec 32) : (pickLane mx s f c l xs).2.1 =
    (List.range f.ty.elems).foldl (fun fl k => fl |||
      (pickFp (fmtOf f.ty) mx c.ftzi c.ftz (signMod (fmtOf f.ty) f.xa f.na (elemAt f.ty.width k (s.raw f.ty l f.a)))
        (signMod (fmtOf f.ty) f.xb f.nb (elemAt f.ty.width k (s.raw f.ty l f.b)))).2) 0 :=
  perElem_flags (st := fun _ => xs) (fun _ => rfl) _ _

/-! ### cvt -/

/-- Element `k` of a lane of cvt: converted, or the one that its destination keeps (R152). -/
def cvtStep (s : State) (f : VF) (c : FCtl) (l k : Nat) (xs : BitVec 32) : Nat × FFlags × BitVec 32 :=
  match cvtAt f k with
  | some (fromB, j) =>
    cvtElem c f.sat f.ty (cvtSrc f) (elemAt (cvtSrc f).width j (s.raw (cvtSrc f) l (if fromB then f.b else f.a))) xs
  | none => (elemAt f.ty.width k (s.cg.vlane f.d.toNat l).toNat, 0, xs)

theorem execCvt_eq (s : State) (f : VF) : exec (.cvt f) s = s.conclude (s.fEff f (cvtRounds f) f.ty.is64 (cvtSrcs f) (cvtOwn f)
    fun c l => perElem f.ty.width (cvtStep s f c l) (List.range f.ty.elems)) := by
  show s.conclude (s.cvtEff f) = _
  unfold State.cvtEff cvtSrcs cvtOwn
  simp only [decide_eq_true_eq, beq_iff_eq]
  rfl

/-- An element converted takes one step of the lane's state where cvt rounds. -/
theorem cvtElem_step (s : State) (c : FCtl) (l k : Nat) (sat : Bool) {dty sty : Ty} (x : Nat)
    (h : (dty.isFloat || sty.isFloat) = false → c.mode = 0) :
    (cvtElem c sat dty sty x (srState s c l k)).2.2 = srState s c l (k + 1) := by
  unfold cvtElem
  cases hs : sty.isFloat <;> cases hd : dty.isFloat
  case false.false =>
    have h5 : c.mode ≠ 5 := by rw [h (by rw [hs, hd]; rfl)]; decide
    simp only [srState, h5, Bool.false_eq_true, if_false]
  all_goals exact srState_succ s c l k

theorem cvtDone_succ (f : VF) (k : Nat) : cvtDone f (k + 1) = cvtDone f k + if (cvtAt f k).isSome then 1 else 0 := by
  unfold cvtDone
  rw [List.range_succ, List.filter_append, List.length_append, List.filter_singleton]
  cases (cvtAt f k).isSome <;> rfl

theorem cvtStep_step (s : State) (f : VF) (c : FCtl) (l k : Nat) (h : cvtRounds f = false → c.mode = 0) :
    (cvtStep s f c l k (srState s c l (cvtDone f k))).2.2 = srState s c l (cvtDone f (k + 1)) := by
  rw [cvtDone_succ]
  unfold cvtStep
  cases cvtAt f k with
  | none => rfl
  | some x => exact cvtElem_step s c l _ _ _ h

theorem cvtStep_flags (s : State) (f : VF) (c : FCtl) (l : Nat) (h : cvtRounds f = false → c.mode = 0) :
    (perElem f.ty.width (cvtStep s f c l) (List.range f.ty.elems) (s.cg.xs.getD l 0)).2.1 = cvtFlags s f c l := by
  rw [← srState_zero s c l, show srState s c l 0 = srState s c l (cvtDone f 0) from rfl,
    perElem_flags (st := fun k => srState s c l (cvtDone f k)) fun k => cvtStep_step s f c l k h]
  refine List.foldl_ext _ _ _ fun fl k _ => ?_
  unfold cvtStep
  cases cvtAt f k <;> rfl

/-! ### gred and gscan under f32 -/

/-- Contributor `j` counts for lane `l` (R158). -/
def counts (f : VF) (scan : Bool) (l j : Nat) : Bool := !scan || if bit f.sub 4 then decide (j < l) else decide (j ≤ l)

/-- The contributors of a lane, in lane order. -/
theorem counted_members (s : State) (f : VF) (scan : Bool) (val : Nat → Nat) (l : Nat) :
    ((((maskList (s.teamOnly (s.active f.g))).map fun j => (j, val j)).filter fun x => counts f scan l x.1).map (·.2)) =
      (members s f scan l).map val := by
  rw [List.filter_map, List.map_map, maskList, List.filter_filter]
  simp only [Function.comp_def, members, counts, Bool.and_comm]

/-- The flags of a lane of an f32 reduction, as R158 gives them. -/
def reduceFlags (s : State) (f : VF) (scan : Bool) (c : FCtl) (l : Nat) : FFlags :=
  let xs := (members s f scan l).map fun j => s.raw .f32 j f.a
  let v := sumFp (c.mode == 2) (xs.map fun x => unpackF fmtF32 c.ftzi x)
  if f.sub.toNat % 8 = 0 then
    (if xs = [] then 0 else v.2 ||| (roundTo fmtF32 c.mode c.ftz c.satf (srState s c l 1).toNat v.1).2)
  else if xs.any fun x => (unpackF fmtF32 false x).isSig then 1 else 0

theorem reducePick_flags (c : FCtl) (mx : Bool) (xs : List Nat) :
    (reducePick c mx xs).2 = if xs.any fun x => (unpackF fmtF32 false x).isSig then 1 else 0 := by
  unfold reducePick
  generalize xs.filter (fun x => !(unpackF fmtF32 false x).isNan) = nums
  cases xs with
  | nil => rfl
  | cons x xs => cases nums <;> rfl

theorem reduceF_flags (s : State) (f : VF) (scan : Bool) (c : FCtl) (l : Nat) :
    (reduceF c (f.sub.toNat % 8) ((members s f scan l).map fun j => s.raw .f32 j f.a) (s.cg.xs.getD l 0)).2.1 = reduceFlags s f scan c l := by
  unfold reduceF reduceFlags
  by_cases h0 : f.sub.toNat % 8 = 0
  · simp only [h0, beq_self_eq_true, if_true, List.isEmpty_iff]
    split
    · rfl
    · rw [← srState_zero s c l, ← round_flags]
      rfl
  · simp only [h0, beq_eq_false_iff_ne.mpr h0, Bool.false_eq_true, if_false]
    exact reducePick_flags ..

theorem reduceEff_trapsOrWrites {s : State} {f : VF} {mode : Nat} (scan : Bool) (ht : f.ty = .f32) (hm : s.roundMode f.rm = .ok mode)
    (hp : Passes s f.g ((f.d.toNat, 1) :: f.a.regs false) (f.a.reads false (s.teamOnly (s.active f.g)))) :
    let raises := Raises (s.active f.g) (s.fctl mode).fen (reduceFlags s f scan (s.fctl mode))
    (∀ l, raises l → (∀ j, j < l → ¬ raises j) → s.conclude (s.reduceEff f (counts f scan)) =
      .next (s.takeTrap ⟨57, 0, BitVec.ofNat 64 (l + 32 * reduceFlags s f scan (s.fctl mode) l)⟩)) ∧
    ((∀ l, ¬ raises l) → ∃ t, s.conclude (s.reduceEff f (counts f scan)) = .next t ∧
      WroteV s t f.g f.d.toNat false true fun _ _ => True) := by
  obtain ⟨htrap, hwrite⟩ := fpLanes_active s.cg (s.active f.g) (s.fctl mode).fen
    fun l _ => reduceF_flags s f scan (s.fctl mode) l
  unfold State.reduceEff
  simp only [ht, show Ty.f32.is64 = false from rfl, Bool.false_eq_true, if_false]
  rw [State.guarded_passes _ hp fun h => absurd h Bool.false_ne_true]
  simp only [beq_self_eq_true, if_true, hm, counted_members]
  refine ⟨fun l hr hn => ?_, fun hn => ?_⟩
  · simp only [htrap l hr hn]
    rfl
  · obtain ⟨xs, h⟩ := hwrite hn
    simp only [h]
    exact ⟨_, rfl, wroteV_putV_xs s f.g f.d.toNat false _ xs⟩

/-! ### fcmp -/

theorem bit_or_two_pow (m : BitVec 32) (b : Bool) (n : Nat) {l : Nat} (h : l < 32) :
    bit (if b then m ||| BitVec.ofNat 32 (2 ^ n) else m) l = (bit m l || (b && decide (n = l))) := by
  have hb : bit (BitVec.ofNat 32 (2 ^ n)) l = decide (n = l) := by
    rw [bit, BitVec.getLsbD_ofNat, Nat.testBit_two_pow, decide_eq_true h, Bool.true_and]
  cases b
  · exact (Bool.or_false _).symm
  · rw [if_pos rfl, bit_or, hb, Bool.true_and]

theorem bit_maskOf (p : Nat → Bool) {l : Nat} (h : l < 32) : bit (maskOf p) l = p l := by
  have hf : ∀ n, bit ((List.range n).foldl (fun m l => if p l then m ||| BitVec.ofNat 32 (2 ^ l) else m) (0 : BitVec 32)) l =
      (decide (l < n) && p l) := by
    intro n
    induction n with
    | zero => exact bit_zero l
    | succ n ih =>
      rw [List.range_succ, List.foldl_append, List.foldl_cons, List.foldl_nil, bit_or_two_pow _ _ _ h, ih]
      by_cases hn : n = l
      · subst hn
        simp
      · have hlt : l < n + 1 ↔ l < n := by omega
        simp [hn, hlt]
  exact (hf 32).trans (by simp [h])

/-- A lane of fcmp: 1 where it compares true, and its flags (R148). -/
def fcmpLane (s : State) (f : VF) (l : Nat) (xs : BitVec 32) : Nat × FFlags × BitVec 32 :=
  let r := cmpFp fmtF32 (s.fctl 0).ftzi f.sub.toNat (signMod fmtF32 f.xa f.na (s.raw .f32 l f.a))
    (signMod fmtF32 f.xb f.nb (s.raw .f32 l f.b))
  (if r.1 then 1 else 0, r.2, xs)

/-- The effect of fcmp on the active lanes. -/
def fcmpAct (s : State) (f : VF) (act : BitVec 32) : Eff :=
  match fpLanes (s.fctl 0).fen (fcmpLane s f) (maskList act) s.cg.xsRow [] with
  | .error t => .trap t
  | .ok (vals, _) => .retire (s.modG fun g =>
      (g.setPred (f.d.toNat % 8) act (maskOf fun l => vals.contains (l, 1))).markPred (f.d.toNat % 8) act 0)

theorem fcmpEff_eq (s : State) (f : VF) : s.fcmpEff f = s.guarded f.g false (f.a.regs false ++ f.b.regs false)
    (fun act => f.a.reads false act ++ f.b.reads false act) (fcmpAct s f) := rfl

/-- The lanes whose value is 1 are those of the mask that compare true. -/
theorem contains_fcmpLane (s : State) (f : VF) {act : BitVec 32} {l : Nat} (h : bit act l = true) :
    (((maskList act).map fun l => (l, (fcmpLane s f l (s.cg.xsRow.getD l 0)).1)).contains (l, 1)) =
      (cmpFp fmtF32 (s.fctl 0).ftzi f.sub.toNat (signMod fmtF32 f.xa f.na (s.raw .f32 l f.a))
        (signMod fmtF32 f.xb f.nb (s.raw .f32 l f.b))).1 := by
  have hl : l ∈ maskList act := mem_maskList.mpr ⟨bit_lt _ _ h, h⟩
  rw [Bool.eq_iff_iff, List.contains_iff_mem, List.mem_map]
  refine ⟨fun ⟨j, _, hj⟩ => ?_, fun hr => ⟨l, hl, ?_⟩⟩
  · obtain ⟨rfl, h1⟩ := Prod.mk.inj hj
    by_contra hr
    exact absurd ((if_neg hr).symm.trans h1) Nat.zero_ne_one
  · exact congrArg (Prod.mk l) (if_pos hr)

theorem execFcmp_trapsOrWrites {s : State} {f : VF} (hwf : (Instr.fcmp f).wf = true)
    (hp : Passes s f.g (f.a.regs false ++ f.b.regs false) (f.a.reads false (s.active f.g) ++ f.b.reads false (s.active f.g))) :
    let r := fun l => cmpFp fmtF32 (s.fctl 0).ftzi f.sub.toNat (signMod fmtF32 f.xa f.na (s.raw .f32 l f.a))
      (signMod fmtF32 f.xb f.nb (s.raw .f32 l f.b))
    let raises := Raises (s.active f.g) (s.fctl 0).fen fun l => (r l).2
    (∀ l, raises l → (∀ j, j < l → ¬ raises j) → exec (.fcmp f) s = .next (s.takeTrap ⟨57, 0, BitVec.ofNat 64 (l + 32 * (r l).2)⟩)) ∧
    ((∀ l, ¬ raises l) → ∃ t, exec (.fcmp f) s = .next t ∧ PerLaneP s t f.g f.d.toNat fun l => (r l).1) := by
  intro r raises
  obtain ⟨htrap, hwrite⟩ := fpLanes_active s.cg (s.active f.g) (s.fctl 0).fen (fn := fcmpLane s f) (flags := fun l => (r l).2)
    fun l _ => rfl
  have hd : f.d.toNat % 8 = f.d.toNat := by
    have h : f.wfFcmp = true := hwf
    simp only [VF.wfFcmp, VF.dPred, Bool.and_eq_true, decide_eq_true_eq] at h
    omega
  have he : exec (.fcmp f) s = s.conclude (fcmpAct s f (s.active f.g)) := by
    rw [show exec (.fcmp f) s = s.conclude (s.fcmpEff f) from rfl, fcmpEff_eq,
      State.guarded_passes _ hp fun h => absurd h Bool.false_ne_true]
  rw [he]
  unfold fcmpAct
  refine ⟨fun l hr hn => ?_, fun hn => ?_⟩
  · simp only [htrap l hr hn]
    rfl
  · obtain ⟨xs, h⟩ := hwrite hn
    simp only [h, hd]
    obtain ⟨ho, hb⟩ := wroteP_setPred s f.g f.d.toNat (maskOf fun l =>
      ((maskList (s.active f.g)).map fun l => (l, (fcmpLane s f l (s.cg.xsRow.getD l 0)).1)).contains (l, 1))
    refine ⟨_, rfl, ho, fun l h32 ha hd0 => ?_⟩
    obtain ⟨hv, hc⟩ := hb l h32 ha hd0
    exact ⟨hv.trans ((bit_maskOf _ h32).trans (contains_fcmpLane s f ha)), hc⟩

/-- fscale, whose operation itself raises nothing. -/
theorem execFscale_eq (s : State) (f : VF) : exec (.fscale f) s = s.conclude (s.fEff f true false (fAB f) (fun _ => []) fun c l =>
    perElem f.ty.width (roundElem f c fun k => ((aFp s f c l k).scale (s.fscaleExp f l k), 0)) (List.range f.ty.elems)) := by
  unfold roundElem orFl
  simp only [Nat.zero_or]
  rfl

/-- Settles O10: an instruction's lanes run in order, so the lowest lane that raises an enabled exception traps; each lane's flags are
those of its elements in order. -/
theorem floatExceptionsTrap : Obligations.FloatExceptionsTrap := by
  unfold Obligations.FloatExceptionsTrap
  intro no yes own pick trans reduce
  have arith : ∀ {mk : VF → Instr} {srcs : VF → List (Src × Bool)} (op : State → VF → FCtl → Nat → Nat → Fp × FFlags),
      (∀ s f, exec (mk f) s = s.conclude (s.fEff f true false (srcs f) (fun _ => [])
        fun c l => perElem f.ty.width (roundElem f c (op s f c l)) (List.range f.ty.elems))) →
      FpTrapsOrWrites mk yes no srcs own fun s f c l => elemFlags s f c l (op s f c l) := fun op he =>
    fpTrapsOrWrites_of _ he fun s f c l _ => roundElem_flags s f c l (op s f c l)
  have choice : ∀ (mk : VF → Instr) (mx : Bool), (∀ s f, exec (mk f) s = s.conclude (s.fpickEff f mx)) →
      FpTrapsOrWrites mk no no fAB own (pick mx) := fun mk mx he =>
    fpTrapsOrWrites_of (pickLane mx) (fun s f => (he s f).trans (congrArg s.conclude (fpickEff_eq s f mx)))
      fun s f c l _ => pickLane_flags mx s f c l _
  have special : ∀ (mk : VF → Instr) (opc : BitVec 8) (ulps : Nat) (op : Fp → TRes),
      (∀ s f, exec (mk f) s = s.conclude (s.transEff f opc ulps op)) → trans mk opc ulps op := fun mk opc ulps op he =>
    fpTrapsOrWrites_of (fun s f c l xs => ((transOut opc ulps op s f c l).1, (transOut opc ulps op s f c l).2, xs)) he
      fun _ _ _ _ _ => rfl
  have reduction : ∀ (mk : VF → Instr) (scan : Bool), (∀ s f, exec (mk f) s = s.conclude (s.reduceEff f (counts f scan))) →
      reduce mk scan := fun mk scan he s f mode _ ht hm hp => by
    rw [he]
    exact reduceEff_trapsOrWrites scan ht hm hp
  exact ⟨arith _ fun _ _ => rfl, arith _ fun _ _ => rfl, arith _ fun _ _ => rfl, arith _ fun _ _ => rfl,
    choice .fmin false fun _ _ => rfl, choice .fmax true fun _ _ => rfl,
    fpTrapsOrWrites_of dotLane (fun _ _ => rfl) fun s f c l _ => dotLane_flags s f c l,
    arith _ execFscale_eq,
    fpTrapsOrWrites_of (fun s f c l => perElem f.ty.width (lcdecElem s f c l) (List.range f.ty.elems)) (fun _ _ => rfl)
      fun s f c l _ => lcdecElem_flags s f c l,
    fpTrapsOrWrites_of (fun s f c l => perElem f.ty.width (cvtStep s f c l) (List.range f.ty.elems)) execCvt_eq cvtStep_flags,
    special .frcp _ _ _ fun _ _ => rfl, special .frsq _ _ _ fun _ _ => rfl, special .fsqrt _ _ _ fun _ _ => rfl,
    special .fexp2 _ _ _ fun _ _ => rfl, special .flog2 _ _ _ fun _ _ => rfl, special .frred _ _ _ fun _ _ => rfl,
    special .fsin _ _ _ fun _ _ => rfl, special .fcos _ _ _ fun _ _ => rfl,
    reduction .gred false fun _ _ => rfl, reduction .gscan true fun _ _ => rfl, fun _ _ => execFcmp_trapsOrWrites⟩

end Sys2Proof.Machine
end

section
/-! Rounding of a magnitude to a multiple of a power of two (R106), and integer addition without modifiers (R96, R135). -/

namespace Sys2Proof.Machine

open Sys2Proof.Safety

/-! ### Rounding a magnitude -/

section
variable (mode : Nat) (neg : Bool) (m d x : Nat)

/-- A multiple of 2^d is not rounded. -/
theorem roundMag_exact (h : m % 2 ^ d = 0) : roundMag mode neg m 0 d x = (m / 2 ^ d, false) := by
  unfold roundMag
  split
  · next hq =>
    obtain rfl : d = 0 := by omega
    simp
  · simp [h]

/-- Division by 2^0 leaves no remainder. -/
theorem ne_zero_of_mod_two_pow_ne_zero {m d : Nat} (h : m % 2 ^ d ≠ 0) : d ≠ 0 := by
  rintro rfl
  exact h (Nat.mod_one m)

/-- To nearest, ties to even: up above a half, and at a half from an odd multiple. -/
theorem roundMag_nearestEven : roundMag 0 neg m 0 d x =
    (if 2 ^ d < 2 * (m % 2 ^ d) ∨ 2 * (m % 2 ^ d) = 2 ^ d ∧ m / 2 ^ d % 2 = 1 then m / 2 ^ d + 1 else m / 2 ^ d,
      decide (m % 2 ^ d ≠ 0)) := by
  by_cases h : m % 2 ^ d = 0
  · simp [roundMag_exact, h, (Nat.two_pow_pos d).ne]
  · simp [roundMag, ne_zero_of_mod_two_pow_ne_zero h, h]

/-- Toward zero: never up. -/
theorem roundMag_towardZero : roundMag 1 neg m 0 d x = (m / 2 ^ d, decide (m % 2 ^ d ≠ 0)) := by
  by_cases h : m % 2 ^ d = 0
  · simp [roundMag_exact, h]
  · simp [roundMag, ne_zero_of_mod_two_pow_ne_zero h, h]

/-- To nearest, ties away: up from a half. -/
theorem roundMag_nearestAway : roundMag 4 neg m 0 d x =
    (if 2 ^ d ≤ 2 * (m % 2 ^ d) then m / 2 ^ d + 1 else m / 2 ^ d, decide (m % 2 ^ d ≠ 0)) := by
  by_cases h : m % 2 ^ d = 0
  · simp [roundMag_exact, h]
  · simp [roundMag, ne_zero_of_mod_two_pow_ne_zero h, h]

end

/-- Settles O11: the quotient by 2^d and its remainder decide each mode; with the products multiplied out, the bounds are linear. -/
theorem roundingIsNearest : Obligations.RoundingIsNearest := by
  unfold Obligations.RoundingIsNearest
  intro neg m d x
  rw [roundMag_nearestEven, roundMag_towardZero, roundMag_nearestAway]
  have hm : m / 2 ^ d * 2 ^ d + m % 2 ^ d = m := Nat.div_add_mod' m (2 ^ d)
  have hr : m % 2 ^ d < 2 ^ d := Nat.mod_lt m (Nat.two_pow_pos d)
  refine ⟨?nearestEven, ?towardZero, ?nearestAway, rfl⟩
  case nearestEven =>
    dsimp only
    split <;> simp only [Nat.add_mul, Nat.mul_add, Nat.mul_assoc]
    case isTrue hup => exact ⟨by omega, by omega, by omega⟩
    case isFalse hup => exact ⟨by omega, by omega, by omega⟩
  case towardZero =>
    simp only [Nat.add_mul]
    exact ⟨by omega, by omega⟩
  case nearestAway =>
    dsimp only
    split <;> simp only [Nat.add_mul, Nat.mul_add, Nat.mul_assoc]
    case isTrue hup => exact ⟨by omega, by omega⟩
    case isFalse hup => exact ⟨by omega, by omega⟩

/-! ### Integer addition without modifiers -/

theorem lowBits_eq_toNat_ofInt (w : Nat) (x : Int) : lowBits w x = (BitVec.ofInt w x).toNat := (BitVec.toNat_ofInt x).symm

theorem ofInt_toSigned (w x : Nat) : BitVec.ofInt w (toSigned w x) = BitVec.ofNat w x := by
  refine BitVec.eq_of_toNat_eq ?_
  rw [BitVec.toNat_ofInt, BitVec.toNat_ofNat, toSigned]
  split
  · rw [Int.sub_emod_right, ← Int.natCast_emod, Int.toNat_natCast, Nat.mod_mod]
  · rw [← Int.natCast_emod, Int.toNat_natCast, Nat.mod_mod]

/-- The lowest element of a lane, as a number, has the lane's low bits whatever the sign of the type. -/
theorem ofInt_elemInt_zero (ty : Ty) (x : Nat) : BitVec.ofInt ty.width (elemInt ty 0 x) = BitVec.ofNat ty.width x := by
  have he : BitVec.ofNat ty.width (elemAt ty.width 0 x) = BitVec.ofNat ty.width x :=
    BitVec.eq_of_toNat_eq (by simp [elemAt])
  rw [← he, elemInt]
  split
  · exact ofInt_toSigned _ _
  · exact BitVec.ofInt_natCast _ _

/-- Without modifiers a source element counts as it is. -/
theorem absNeg_of_noSign {f : VF} (h : f.noSign = true) (x : Int) :
    absNeg f.ty f.xa f.na x = x ∧ absNeg f.ty f.xb f.nb x = x := by
  simp only [VF.noSign, Bool.and_eq_true, Bool.not_eq_true'] at h
  obtain ⟨⟨⟨hna, hnb⟩, hxa⟩, hxb⟩ := h
  simp [absNeg, hna, hnb, hxa, hxb]

/-- A lane of iadd without modifiers, of a type with one element: the sum of the lanes modulo 2^width. -/
theorem intLane_add_plain {f : VF} (he : f.ty.elems = 1) (hs : f.sat = false) (hm : f.noSign = true) (a b : Nat) :
    intLane f (fun x y _ => x + y) a b 0 % 2 ^ (if wideTy f then 64 else 32) =
      (BitVec.ofNat f.ty.width a + BitVec.ofNat f.ty.width b).toNat := by
  have hw : (if wideTy f then 64 else 32) = f.ty.width := by
    rw [← Nat.mul_one f.ty.width, ← he]
    exact (width_elems f.ty).symm
  have hr := intLane_result f (fun x y _ => x + y) a b 0 0 (by omega)
  simp only [(absNeg_of_noSign hm _).1, (absNeg_of_noSign hm _).2, hs, Bool.false_eq_true, if_false, elemAt, hw,
    Nat.mul_zero, pow_zero, Nat.div_one, Nat.mod_mod] at hr
  rw [hw, hr, lowBits_eq_toNat_ofInt, BitVec.ofInt_add, ofInt_elemInt_zero, ofInt_elemInt_zero]

/-- iadd without modifiers completes for the types with one element. -/
theorem execIadd_plain {s : State} {f : VF} {wide : Bool} {w : Nat} (hty : f.ty.elems = 1 ∧ f.ty.is64 = wide ∧ f.ty.width = w)
    (hs : f.sat = false) (hm : f.noSign = true)
    (hp : Passes s f.g ((f.d.toNat, if wide then 2 else 1) :: srcRegs [(f.a, wide), (f.b, wide)])
      (srcReads (s.active f.g) [(f.a, wide), (f.b, wide)])) :
    ∃ t, exec (.iadd f) s = .next t ∧ ∀ l, Writes s f.g l → laneVal t.cg wide f.d.toNat l =
      (BitVec.ofNat w (s.raw f.ty l f.a) + BitVec.ofNat w (s.raw f.ty l f.b)).toNat := by
  obtain ⟨he, rfl, rfl⟩ := hty
  obtain ⟨t, ht, -, hv⟩ := vEff_wrote s f f.ty.is64 [(f.a, f.ty.is64), (f.b, f.ty.is64)]
    (fun l => intLane f (fun x y _ => x + y) (s.raw f.ty l f.a) (s.raw f.ty l f.b) 0) hp
  exact ⟨t, ht, fun l hl => (hv l hl).1.trans (intLane_add_plain he hs hm _ _)⟩

/-- Settles O2: the types of one width differ in their sign alone, which does not show in the sum's bits. -/
theorem integerAddWraps : Obligations.IntegerAddWraps := by
  unfold Obligations.IntegerAddWraps
  refine ⟨fun s f _ hty hs hm hp => ?_, fun s f _ hty hs hm hp => ?_⟩
  · have h : f.ty.elems = 1 ∧ f.ty.is64 = false ∧ f.ty.width = 32 := by rcases hty with h | h <;> rw [h] <;> decide
    obtain ⟨t, ht, hv⟩ := execIadd_plain h hs hm hp
    exact ⟨t, ht, fun l hl => BitVec.eq_of_toNat_eq (hv l hl)⟩
  · have h : f.ty.elems = 1 ∧ f.ty.is64 = true ∧ f.ty.width = 64 := by rcases hty with h | h <;> rw [h] <;> decide
    obtain ⟨t, ht, hv⟩ := execIadd_plain h hs hm hp
    exact ⟨t, ht, fun l hl => BitVec.eq_of_toNat_eq (hv l hl)⟩

end Sys2Proof.Machine
end

section
/-! The writes of state registers: mts, mts of SEED and fmtset (R109, R163, R164). -/

namespace Sys2Proof.Machine

open Sys2Proof.Safety

/-! ### A change of the executing arm or of its group, and the arm that goes on -/

theorem setArm_setArm (g : Group) (slot : Nat) (a b : Arm) : (g.setArm slot a).setArm slot b = g.setArm slot b := by
  unfold Group.setArm
  split <;> rfl

/-- Retiring leaves FMT and the trap registers as they are. -/
theorem advance_stateRegs (a : Arm) : a.advance.fmt = a.fmt ∧ a.advance.trapc = a.trapc ∧ a.advance.trappc = a.trappc ∧
    a.advance.trapad = a.trapad ∧ a.advance.trapx = a.trapx := by
  simp only [Arm.advance]
  split
  · exact ⟨rfl, rfl, rfl, rfl, rfl⟩
  · split <;> exact ⟨rfl, rfl, rfl, rfl, rfl⟩

/-- A change of the executing arm that keeps its scalars, behind which it retires, changes nothing else. -/
theorem armOnly_modA_retire (s : State) (m : Arm → Arm) (h : (m s.ca).scal = s.ca.scal ∧ (m s.ca).spois = s.ca.spois) :
    ArmOnly s (s.modA m).retire := by
  obtain ⟨hscal, hspois⟩ := State.advance_scal (m s.ca)
  refine ⟨rfl, fun k hk => (mget_mset_other _ _ _ hk).trans (mget_mset_other _ _ _ hk), ?_, ?_, ?_⟩
  · rw [State.cg_retire, State.cg_modA, State.slot_modA, ca_retire, ca_modA, setArm_setArm]
  · rw [ca_retire, ca_modA, hscal, h.1]
  · rw [ca_retire, ca_modA, hspois, h.2]

/-! ### mts -/

/-- The arm after state register `n`, FMT or one of the trap registers, has taken `v` (R123, R163). -/
def writeStateReg (n : Nat) (v : Word) (a : Arm) : Arm :=
  { a with
    fmt := if n = 0x0C then v.setWidth 32 &&& 0x7FFFFF else a.fmt
    trapc := if n = 0x11 then v.setWidth 6 else a.trapc
    trappc := if n = 0x12 then v else a.trappc
    trapad := if n = 0x13 then v else a.trapad
    trapx := if n = 0x14 then v else a.trapx }

/-- The low 23 bits of a scalar, which FMT takes. -/
theorem ofNat_mod_fmt (v : Word) : BitVec.ofNat 32 (v.toNat % 2 ^ 23) = v.setWidth 32 &&& 0x7FFFFF := by
  refine BitVec.eq_of_toNat_eq ?_
  rw [BitVec.toNat_and, BitVec.toNat_ofNat, BitVec.toNat_setWidth, show (0x7FFFFF : BitVec 32).toNat = 2 ^ 23 - 1 from rfl,
    Nat.and_two_pow_sub_one_eq_mod]
  omega

/-- The state registers that a well-formed mts writes. -/
theorem num_of_wfMts {f : SF} (h : f.wfMts = true) : f.num = 0x0C ∨ f.num = 0x11 ∨ f.num = 0x12 ∨ f.num = 0x13 ∨ f.num = 0x14 := by
  simp only [SF.wfMts, Bool.and_eq_true, Bool.or_eq_true, beq_iff_eq] at h
  obtain ⟨-, h⟩ := h
  unfold SF.num
  rcases h with (((h | h) | h) | h) | h <;> rw [h] <;> decide

theorem execMts_passes {s : State} {f : SF} (hw : (Instr.mts f).wf = true) (hh : f.num = 0x0C ∨ s.ca.handler = true) (ha : Acts s f.g)
    (hp : Passes s f.g [] [.s f.a.toNat]) :
    exec (.mts f) s = .next (s.modA (writeStateReg f.num (s.sreg f.a.toNat))).retire := by
  have hu : (f.num != 0x0C && !s.ca.handler) = false := by rcases hh with h | h <;> simp [h]
  show s.conclude (s.mtsEff f) = _
  unfold State.mtsEff writeStateReg
  rw [hu, if_neg Bool.false_ne_true, State.guarded_passes _ hp fun _ => ha]
  rcases num_of_wfMts hw with h | h | h | h | h <;> simp only [h, ← ofNat_mod_fmt] <;> rfl

/-! ### mts of SEED -/

/-- The group of rank `r` in its team, after SEED has taken `v`: every lane is seeded from its number in the team (R109). -/
def reseed (v : BitVec 32) (r : Nat) (g : Group) : Group :=
  { g with seed := v, xs := (List.range 32).map fun l => seedLane v (32 * r + l) }

theorem reseed_xs (v : BitVec 32) (r : Nat) (g : Group) {l : Nat} (h : l < 32) :
    (reseed v r g).xs.getD l 0 = seedLane v (32 * r + l) := by
  simp [reseed, List.getD, h]

theorem execMtsSeed_passes {s : State} {f : SF} (hc : s.cg.converged = true) (ha : Acts s f.g) (hp : Passes s f.g [] [.s f.a.toNat]) :
    exec (.mtsSeed f) s = .next (s.modG (reseed ((s.sreg f.a.toNat).setWidth 32) s.rank)).retire := by
  show s.conclude (s.mtsSeedEff f) = _
  unfold State.mtsSeedEff
  rw [State.guarded_passes _ hp fun _ => ha, hc]
  rfl

/-! ### fmtset -/

/-- Bit `n` of FMT belongs to a field that the selector chooses (R164). -/
def inFmtField (sel : BitVec 6) (n : Nat) : Bool :=
  if n < 8 then bit sel 0 else if n < 12 then bit sel 1 else if n < 15 then bit sel 2
  else if n < 18 then bit sel 3 else if n < 23 then bit sel 4 else false

/-- The mask of a selector is the sum of disjoint fields, so its bits are those of the fields chosen. -/
theorem bit_fmtSelMask (sel : BitVec 6) {n : Nat} (h : n < 32) :
    bit (BitVec.ofNat 32 (fmtSelMask sel.toNat)) n = inFmtField sel n := by
  have fields : ∀ (b₀ b₁ b₂ b₃ b₄ : Bool) (n : Fin 32),
      ((if b₀ then 0xFF else 0) + (if b₁ then 0xF00 else 0) + (if b₂ then 0x7000 else 0) + (if b₃ then 0x38000 else 0) +
        (if b₄ then 0x7C0000 else 0)).testBit n =
      if n.val < 8 then b₀ else if n.val < 12 then b₁ else if n.val < 15 then b₂
      else if n.val < 18 then b₃ else if n.val < 23 then b₄ else false := by decide
  have hsel : ∀ k, bit sel k = (sel.toNat / 2 ^ k % 2 == 1) := fun k => Nat.testBit_eq_decide_div_mod_eq
  rw [bit, BitVec.getLsbD_ofNat, decide_eq_true h, Bool.true_and]
  refine Eq.trans ?_ (fields (bit sel 0) (bit sel 1) (bit sel 2) (bit sel 3) (bit sel 4) ⟨n, h⟩)
  simp only [hsel, Nat.pow_zero, Nat.div_one]
  rfl

/-- The low 32 bits of the second operand: IMM32 as it stands, or those of the scalar (R74). -/
theorem ofNat_sOperand (s : State) (f : SF) :
    BitVec.ofNat 32 (s.sOperand f) = if f.immf then f.imm else (s.sreg f.b.toNat).setWidth 32 := by
  have himm : (f.imm.signExtend 64).setWidth 32 = f.imm := by
    refine BitVec.eq_of_getLsbD_eq fun i hi => ?_
    rw [BitVec.getLsbD_setWidth, BitVec.getLsbD_signExtend]
    simp [hi, show i < 64 by omega]
  unfold State.sOperand
  split
  · exact himm
  · rfl

/-- The arm after FMT has taken the fields of `v` that the selector chooses. -/
def mergeFmt (sel : BitVec 6) (v : BitVec 32) (a : Arm) : Arm :=
  { a with fmt := (a.fmt &&& ~~~BitVec.ofNat 32 (fmtSelMask sel.toNat)) ||| (v &&& BitVec.ofNat 32 (fmtSelMask sel.toNat)) }

theorem bit_mergeFmt (sel : BitVec 6) (v : BitVec 32) (a : Arm) {n : Nat} (h : n < 32) :
    bit (mergeFmt sel v a).fmt n = if inFmtField sel n then bit v n else bit a.fmt n := by
  rw [mergeFmt, bit_merge, bit_fmtSelMask _ h]

theorem execFmtset_passes {s : State} {f : SF} (ha : Acts s f.g) (hp : Passes s f.g [] (if f.immf then [] else [.s f.b.toNat])) :
    exec (.fmtset f) s = .next (s.modA (mergeFmt f.d (if f.immf then f.imm else (s.sreg f.b.toNat).setWidth 32))).retire := by
  show s.conclude (s.fmtsetEff f) = _
  unfold State.fmtsetEff
  rw [State.guarded_passes _ hp fun _ => ha, ofNat_sOperand]
  rfl

/-- Settles O17: each instruction is one change of the arm, or for SEED of its group, behind which the arm retires; retiring leaves the
state registers as they are. -/
theorem stateWritesComplete : Obligations.StateWritesComplete := by
  unfold Obligations.StateWritesComplete
  refine ⟨fun s f hw hh ha hp => ?_, fun s f _ hc ha hp => ?_, fun s f _ ha hp => ?_⟩
  · obtain ⟨hfmt, htrapc, htrappc, htrapad, htrapx⟩ := advance_stateRegs (writeStateReg f.num (s.sreg f.a.toNat) s.ca)
    refine ⟨_, execMts_passes hw hh ha hp, armOnly_modA_retire _ _ ⟨rfl, rfl⟩,
      goesOn_retire (by rw [ca_modA, writeStateReg]) (by rw [ca_modA, writeStateReg]), ?_⟩
    rw [ca_retire, ca_modA, hfmt, htrapc, htrappc, htrapad, htrapx]
    exact ⟨State.sameArm_advance (writeStateReg f.num (s.sreg f.a.toNat) s.ca), rfl, rfl, rfl, rfl, rfl⟩
  · have hca : (s.modG (reseed ((s.sreg f.a.toNat).setWidth 32) s.rank)).ca = s.ca := by
      unfold State.ca
      rw [State.cg_modG, State.slot_modG]
      rfl
    obtain ⟨hscal, hspois⟩ := State.advance_scal s.ca
    refine ⟨_, execMtsSeed_passes hc ha hp, rfl, fun k hk => (mget_mset_other _ _ _ hk).trans (mget_mset_other _ _ _ hk), ?_⟩
    rw [ca_retire, State.cg_retire, State.cg_modG, State.slot_modG, hca, Group.setArm_seed, Group.setArm_xs]
    exact ⟨rfl, State.sameArm_advance s.ca, hscal, hspois, goesOn_retire (by rw [hca]) (by rw [hca]), rfl,
      fun l hl => reseed_xs _ _ _ hl⟩
  · obtain ⟨hfmt, -⟩ := advance_stateRegs (mergeFmt f.d (if f.immf then f.imm else (s.sreg f.b.toNat).setWidth 32) s.ca)
    refine ⟨_, execFmtset_passes ha hp, armOnly_modA_retire _ _ ⟨rfl, rfl⟩,
      goesOn_retire (by rw [ca_modA, mergeFmt]) (by rw [ca_modA, mergeFmt]), ?_⟩
    rw [ca_retire, ca_modA, hfmt]
    exact ⟨State.sameArm_advance (mergeFmt f.d _ s.ca), fun n hn => bit_mergeFmt f.d _ s.ca hn⟩

end Sys2Proof.Machine
end

section
/-! Integers bit by bit in two's complement (R94, R96), and the lanes that are put together from bits or elements (R95). -/

namespace Sys2Proof.Machine

open Sys2Proof.Safety

/-! ### The bits of an integer -/

/-- Bit `i` of an integer in two's complement. -/
def intBit (x : Int) (i : Nat) : Bool := decide (x / (2 ^ i : Nat) % 2 = 1)

theorem intBit_natCast (x i : Nat) : intBit x i = x.testBit i := by
  rw [intBit, Nat.testBit_eq_decide_div_mod_eq, decide_eq_decide]
  omega

/-- A floored quotient by a power of two drops the bits below it. -/
theorem intBit_ediv_two_pow (x : Int) (p i : Nat) : intBit (x / (2 ^ p : Nat)) i = intBit x (p + i) := by
  rw [intBit, intBit, Int.ediv_ediv_of_nonneg (Int.natCast_nonneg _), ← Int.natCast_mul, ← Nat.pow_add]

/-- A multiple of 2^w does not show in the bits below w. -/
theorem intBit_add_mul_two_pow (x q : Int) {i w : Nat} (h : i < w) : intBit (x + q * (2 ^ w : Nat)) i = intBit x i := by
  have hq : q * (2 ^ w : Nat) = q * 2 * (2 ^ (w - i - 1) : Nat) * (2 ^ i : Nat) := by
    have hp : 2 ^ w = 2 * (2 ^ (w - i - 1) * 2 ^ i) := by rw [← Nat.pow_add, ← Nat.pow_succ']; congr 1; omega
    rw [hp, Int.natCast_mul, Int.natCast_mul, Int.mul_assoc, Int.mul_assoc]
    rfl
  rw [intBit, intBit, hq, Int.add_mul_ediv_right _ _ (by exact_mod_cast (Nat.two_pow_pos i).ne'), Int.mul_right_comm,
    Int.add_mul_emod_self_right]

theorem testBit_lowBits (w : Nat) (x : Int) (i : Nat) : (lowBits w x).testBit i = (decide (i < w) && intBit x i) := by
  by_cases h : i < w
  · have hn : ((lowBits w x : Nat) : Int) = x % (2 ^ w : Nat) :=
      Int.toNat_of_nonneg (Int.emod_nonneg _ (by exact_mod_cast (Nat.two_pow_pos w).ne'))
    have hx : x = (lowBits w x : Nat) + x / (2 ^ w : Nat) * (2 ^ w : Nat) := by
      rw [hn, Int.mul_comm]
      exact (Int.emod_add_mul_ediv _ _).symm
    rw [decide_eq_true h, Bool.true_and, ← intBit_natCast]
    conv_rhs => rw [hx]
    exact (intBit_add_mul_two_pow _ _ h).symm
  · rw [decide_eq_false h, Bool.false_and]
    exact Nat.testBit_lt_two_pow (lt_of_lt_of_le (lowBits_lt w x) (Nat.pow_le_pow_right (by decide) (by omega)))

/-- The sign bit of a w-bit pattern fills the bits above it. -/
theorem intBit_toSigned {w : Nat} (hw : 0 < w) (x i : Nat) : intBit (toSigned w x) i = x.testBit (min i (w - 1)) := by
  have hp : 2 ^ w = 2 * 2 ^ (w - 1) := by rw [← Nat.pow_succ']; congr; omega
  have hr : x % 2 ^ w < 2 ^ w := Nat.mod_lt _ (Nat.two_pow_pos w)
  by_cases hi : i < w
  · have hs : ∃ q : Int, toSigned w x = (x % 2 ^ w : Nat) + q * (2 ^ w : Nat) := by
      unfold toSigned
      split
      · exact ⟨-1, by omega⟩
      · exact ⟨0, by omega⟩
    obtain ⟨q, hq⟩ := hs
    rw [hq, intBit_add_mul_two_pow _ _ hi, intBit_natCast, Nat.testBit_mod_two_pow, decide_eq_true hi, Bool.true_and,
      show min i (w - 1) = i by omega]
  · have hle : 2 ^ w ≤ 2 ^ i := Nat.pow_le_pow_right (by decide) (by omega)
    have hsign : x.testBit (w - 1) = decide (2 ^ (w - 1) ≤ x % 2 ^ w) := by
      have h := Nat.testBit_mod_two_pow x w (w - 1)
      rw [decide_eq_true (by omega), Bool.true_and] at h
      rw [← h, Nat.testBit_eq_decide_div_mod_eq, decide_eq_decide]
      constructor
      · intro h1
        by_contra hlt
        rw [Nat.div_eq_of_lt (by omega)] at h1
        omega
      · intro h1
        rw [Nat.div_eq_of_lt_le (k := 1) (by omega) (by omega)]
    rw [show min i (w - 1) = w - 1 by omega, hsign, intBit, decide_eq_decide]
    unfold toSigned
    split
    · next h =>
      rw [show ((x % 2 ^ w : Nat) - (2 ^ w : Nat) : Int) / (2 ^ i : Nat) = -1 by
        rw [Int.ediv_eq_iff_of_pos (by exact_mod_cast Nat.two_pow_pos i)]; omega]
      simp [h]
    · next h =>
      rw [← Int.natCast_ediv, Nat.div_eq_of_lt (by omega)]
      simp [h]

/-- An element of an integer type as a number, bit by bit: of a signed type the sign goes on above the width. -/
theorem intBit_elemInt_zero (ty : Ty) (a i : Nat) : intBit (elemInt ty 0 a) i =
    if i < ty.width then a.testBit i else ty.signed && a.testBit (ty.width - 1) := by
  have hw : 0 < ty.width := by cases ty <;> decide
  have he : ∀ j, (elemAt ty.width 0 a).testBit j = (decide (j < ty.width) && a.testBit j) := fun j => by
    rw [elemAt, Nat.mul_zero, pow_zero, Nat.div_one, Nat.testBit_mod_two_pow]
  unfold elemInt
  dsimp only
  cases hs : ty.signed
  · rw [if_neg Bool.false_ne_true, intBit_natCast, he]
    split <;> simp_all
  · rw [if_pos rfl, intBit_toSigned hw, he, decide_eq_true (by omega), Bool.true_and, Bool.true_and]
    split
    · rw [show min i (ty.width - 1) = i by omega]
    · rw [show min i (ty.width - 1) = ty.width - 1 by omega]

/-- An arithmetic right shift copies the sign. -/
theorem testBit_sarBits {w i : Nat} (hi : i < w) (a c : Nat) : (sarBits w a c).testBit i = a.testBit (min (i + c) (w - 1)) := by
  rw [sarBits, testBit_lowBits, decide_eq_true hi, Bool.true_and, intBit_ediv_two_pow, intBit_toSigned (by omega)]
  congr 1
  omega

/-! ### Lanes -/

/-- A lane is as wide as its type or wider. -/
theorem width_le_lane (ty : Ty) : ty.width ≤ if ty.is64 then 64 else 32 := by cases ty <;> decide

/-- The bits of a type's width stand within its lane. -/
theorem testBit_mod_lane {ty : Ty} {i : Nat} (h : i < ty.width) (x : Nat) :
    (x % 2 ^ (if ty.is64 then 64 else 32)).testBit i = x.testBit i := by
  rw [Nat.testBit_mod_two_pow, decide_eq_true (lt_of_lt_of_le h (width_le_lane ty)), Bool.true_and]

/-- Elements that fill a lane, read back. -/
theorem elemAt_lane (ty : Ty) (v : Nat → Nat) {k : Nat} (hk : k < ty.elems) :
    elemAt ty.width k (packElems ty.width ((List.range ty.elems).map v) % 2 ^ (if ty.is64 then 64 else 32)) = v k % 2 ^ ty.width := by
  have h := packElems_lt ty.width ((List.range ty.elems).map v)
  rw [List.length_map, List.length_range, width_elems] at h
  rw [Nat.mod_eq_of_lt h, elemAt_packElems _ _ _ (by simpa using hk)]
  simp [List.getD, hk]

/-- A lane put together bit by bit. -/
theorem testBit_bitwise {ty : Ty} {b : Nat → Nat} (hb : ∀ i, b i ≤ 1) {i : Nat} (h : i < ty.width) :
    ((List.range ty.width).foldl (fun r j => r + b j * 2 ^ j) 0).testBit i = decide (b i = 1) := by
  rw [(testBit_foldl ty.width b hb i).1, decide_eq_true h, Bool.true_and]

theorem div_two_pow_mod_two (x i : Nat) : x / 2 ^ i % 2 = boolCode (x.testBit i) := by
  rw [Nat.testBit_eq_decide_div_mod_eq, boolCode]
  by_cases h : x / 2 ^ i % 2 = 1
  · rw [h]; rfl
  · rw [decide_eq_false h, if_neg Bool.false_ne_true]; omega

end Sys2Proof.Machine
end

section
/-! Integer arithmetic, logic, shifts, bit operations, compares and moves of rows 0x0 and 0x1 (R135-R145). -/

namespace Sys2Proof.Machine

open Sys2Proof.Safety

/-! ### Arithmetic (R135) -/

/-- Arithmetic on A and B completes with the exact result of each element. -/
theorem perLane_arith {mk : VF → Instr} (op : VF → Int → Int → Int)
    (he : ∀ s f, exec (mk f) s = s.conclude (s.arithEff f (op f))) :
    PerLane mk wideTy srcAB fun s f l => IntResult f fun k => op f (aElem s f l k) (bElem s f l k) :=
  perLane_of _ _ _ _ (fun s f l => intLane f (fun x y _ => op f x y) (s.raw f.ty l f.a) (s.raw f.ty l f.b) 0) (fun s f _ => he s f)
    fun s f l _ => intLane_result f (fun x y _ => op f x y) (s.raw f.ty l f.a) (s.raw f.ty l f.b) 0

/-- Settles O1: an integer lane holds the exact result of each element, wrapped or clamped, whatever the operation. -/
theorem integerArithmeticCompletes : Obligations.IntegerArithmeticCompletes := by
  unfold Obligations.IntegerArithmeticCompletes
  refine ⟨perLane_arith (fun _ => (· + ·)) fun _ _ => rfl, perLane_arith (fun _ => (· - ·)) fun _ _ => rfl,
    perLane_arith (fun _ => (· * ·)) fun _ _ => rfl, perLane_arith (fun f x y => x * y / (2 ^ f.ty.width : Nat)) fun _ _ => rfl,
    perLane_arith (fun _ => min) fun _ _ => rfl, perLane_arith (fun _ => max) fun _ _ => rfl, ?imad, ?iabs⟩
  case imad =>
    exact perLane_of _ _ _ _ (fun s f l => intLane f (fun x y z => x * y + z) (s.raw f.ty l f.a) (s.raw f.ty l f.b) (s.raw f.ty l f.c))
      (fun _ _ _ => rfl) fun s f l _ => intLane_result f _ _ _ _
  case iabs =>
    refine perLane_of _ _ _ _ (fun s f l => intLane f (fun x _ _ => (x.natAbs : Int)) (s.raw f.ty l f.a) 0 0) (fun _ _ _ => rfl)
      fun s f l hw => ?_
    have hm : f.noSign = true := by
      have h : f.wfIabs = true := hw
      simp only [VF.wfIabs, Bool.and_eq_true] at h
      exact h.2
    have h := intLane_result f (fun x _ _ => (x.natAbs : Int)) (s.raw f.ty l f.a) 0 0
    simp only [(absNeg_of_noSign hm _).1] at h
    exact h

/-! ### Logic and shifts (R136-R139) -/

/-- A bitwise function of A and B completes bit by bit. -/
theorem perLane_logic {mk : VF → Instr} {op : Nat → Nat → Nat} {b : Bool → Bool → Bool}
    (he : ∀ s f, exec (mk f) s = s.conclude (s.logicEff f op)) (hb : ∀ x y i, (op x y).testBit i = b (x.testBit i) (y.testBit i)) :
    PerLane mk wideTy srcAB fun s f l r =>
      ∀ i, i < f.ty.width → r.testBit i = b ((s.raw f.ty l f.a).testBit i) ((s.raw f.ty l f.b).testBit i) :=
  perLane_of _ _ _ _ (fun s f l => op (s.raw f.ty l f.a) (s.raw f.ty l f.b)) (fun s f _ => he s f)
    fun _ _ _ _ _ hi => (testBit_mod_lane hi _).trans (hb _ _ _)

theorem boolCode_le_one (b : Bool) : boolCode b ≤ 1 := by cases b <;> decide

/-- The table's row of a bit is that of the three sources' bits at its place. -/
theorem testBit_blutLane (tt a b c : Nat) {ty : Ty} {i : Nat} (h : i < ty.width) : (blutLane tt ty.width a b c).testBit i =
    tt.testBit (boolCode (a.testBit i) + 2 * boolCode (b.testBit i) + 4 * boolCode (c.testBit i)) := by
  unfold blutLane
  simp only [div_two_pow_mod_two]
  rw [testBit_bitwise (b := fun i => boolCode (tt.testBit
    (boolCode (a.testBit i) + 2 * boolCode (b.testBit i) + 4 * boolCode (c.testBit i)))) (fun _ => boolCode_le_one _) h]
  cases tt.testBit _ <;> rfl

/-- A shift completes element by element. -/
theorem perLane_shift {mk : VF → Instr} {op : VF → Nat → Nat → Nat} {B : VF → Nat → Nat → Nat → Bool}
    (he : ∀ s f, exec (mk f) s = s.conclude (s.shiftEff f (op f)))
    (hb : ∀ f a c i, a < 2 ^ f.ty.width → i < f.ty.width → (op f a c).testBit i = B f a c i) :
    PerLane mk wideTy (fun f => [(f.a, f.ty.is64), (f.b, false)]) fun s f l r => ∀ k, k < f.ty.elems → ∀ i, i < f.ty.width →
      (elemAt f.ty.width k r).testBit i = B f (elemAt f.ty.width k (s.raw f.ty l f.a)) (s.shiftCount f l k) i := by
  refine perLane_of _ _ _ _ (fun s f l => packElems f.ty.width ((List.range f.ty.elems).map fun k =>
    op f (elemAt f.ty.width k (s.raw f.ty l f.a)) (s.shiftCount f l k))) (fun s f _ => he s f) fun s f l _ k hk i hi => ?_
  refine (congrArg (·.testBit i) (elemAt_lane f.ty _ hk)).trans ?_
  rw [Nat.testBit_mod_two_pow, decide_eq_true hi, Bool.true_and]
  exact hb _ _ _ _ (Nat.mod_lt _ (Nat.two_pow_pos _)) hi

/-- funnel delivers a window of the 64 bits of B:A (R139). -/
theorem funnelLane_eq (left : Bool) {a b n : Nat} (ha : a < 2 ^ 32) (hb : b < 2 ^ 32) (hn : n < 32) :
    let x : BitVec 64 := BitVec.ofNat 32 b ++ BitVec.ofNat 32 a
    funnelLane left a b n = if left then ((x <<< n) >>> 32).toNat % 2 ^ 32 else (x >>> n).toNat % 2 ^ 32 := by
  intro x
  have hx : x.toNat = b * 2 ^ 32 + a := by
    simp only [x, BitVec.toNat_append, BitVec.toNat_ofNat, Nat.mod_eq_of_lt ha, Nat.mod_eq_of_lt hb]
    rw [← Nat.shiftLeft_add_eq_or_of_lt ha, Nat.shiftLeft_eq]
  unfold funnelLane
  rw [← hx]
  cases left
  · simp only [Bool.false_eq_true, if_false, BitVec.toNat_ushiftRight, Nat.shiftRight_eq_div_pow]
  · have hd : x.toNat * 2 ^ n / 2 ^ 32 = x.toNat / 2 ^ (32 - n) := by
      rw [show 2 ^ 32 = 2 ^ (32 - n) * 2 ^ n by rw [← Nat.pow_add]; congr 1; omega,
        Nat.mul_div_mul_right _ _ (Nat.two_pow_pos n)]
    simp only [if_true, BitVec.toNat_ushiftRight, BitVec.toNat_shiftLeft, Nat.shiftRight_eq_div_pow, Nat.shiftLeft_eq]
    rw [show 2 ^ 64 = 2 ^ 32 * 2 ^ 32 from rfl, Nat.mod_mul_right_div_self, Nat.mod_mod, hd]

theorem wfLogic_fields {f : VF} (h : f.wfLogic = true) :
    (f.ty = .b32 ∨ f.ty = .b64) ∧ f.sub = 0 ∧ f.noSign = true ∧ f.sat = false ∧ f.rm = .rne := by
  simp only [VF.wfLogic, VF.plainEnd, VF.noMods, Ty.isB, Bool.and_eq_true, Bool.or_eq_true, beq_iff_eq, Bool.not_eq_true'] at h
  tauto

/-- Settles O3: each bit or element of the lane is a function of the sources' at its place; the well-formedness clauses are R136's and
R139's limits. -/
theorem logicAndShiftsComplete : Obligations.LogicAndShiftsComplete := by
  unfold Obligations.LogicAndShiftsComplete
  refine ⟨perLane_logic (fun _ _ => rfl) Nat.testBit_and, perLane_logic (fun _ _ => rfl) Nat.testBit_or,
    perLane_logic (fun _ _ => rfl) Nat.testBit_xor, ?blut,
    perLane_shift (B := fun _ a c i => decide (c ≤ i) && a.testBit (i - c)) (fun _ _ => rfl) ?shl,
    perLane_shift (B := fun _ a c i => a.testBit (i + c)) (fun _ _ => rfl) ?shr,
    perLane_shift (B := fun f a c i => a.testBit (min (i + c) (f.ty.width - 1))) (fun _ _ => rfl) ?sar, ?funnel,
    fun f h => wfLogic_fields (by rcases h with h | h | h <;> exact h), ?wfFunnel⟩
  case blut =>
    exact perLane_of _ _ _ _ (fun s f l => blutLane (blutTable f) f.ty.width (s.raw f.ty l f.a) (s.raw f.ty l f.b) (s.raw f.ty l f.c))
      (fun _ _ _ => rfl) fun _ _ _ _ _ hi => (testBit_mod_lane hi _).trans (testBit_blutLane _ _ _ _ hi)
  case shl =>
    intro f a c i _ hi
    split
    · rw [Nat.zero_testBit, decide_eq_false (by omega), Bool.false_and]
    · exact Nat.testBit_mul_two_pow a i c
  case shr =>
    intro f a c i ha _
    split
    · have hlt : a < 2 ^ (i + c) := lt_of_lt_of_le ha (Nat.pow_le_pow_right (by decide) (by omega))
      rw [Nat.zero_testBit, Nat.testBit_lt_two_pow hlt]
    · exact Nat.testBit_div_two_pow a i
  case sar => exact fun f a c i _ hi => testBit_sarBits hi a c
  case funnel =>
    refine perLane_of _ _ _ _ (fun s f l => funnelLane (bit f.sub 0) (s.raw .b32 l f.a) (s.raw .b32 l f.b) (s.raw .n32 l f.c % 32))
      (fun _ _ _ => rfl) fun s f l _ => ?_
    have he := funnelLane_eq (bit f.sub 0) (raw_lt s .b32 l f.a) (raw_lt s .b32 l f.b) (Nat.mod_lt (s.raw .n32 l f.c) (by decide))
    have hlt : funnelLane (bit f.sub 0) (s.raw .b32 l f.a) (s.raw .b32 l f.b) (s.raw .n32 l f.c % 32) < 2 ^ 32 := by
      unfold funnelLane
      split <;> exact Nat.mod_lt _ (by decide)
    exact (Nat.mod_eq_of_lt hlt).trans he
  case wfFunnel =>
    intro f h
    have h : f.wfFunnel = true := h
    simp only [VF.wfFunnel, Bool.and_eq_true, beq_iff_eq, decide_eq_true_eq] at h
    tauto

/-! ### Bit operations (R140, R141, R145) -/

/-- A unary bit operation completes with its value, where that fits the type's width. -/
theorem perLane_unary {mk : VF → Instr} {op : Nat → Nat → Nat} {R : Nat → Nat → Nat → Prop}
    (he : ∀ s f, exec (mk f) s = s.conclude (s.unaryEff f op)) (hw : ∀ f, (mk f).wf = f.wfUnaryB)
    (hr : ∀ w x, x < 2 ^ w → op w x < 2 ^ w ∧ R w x (op w x)) :
    PerLane mk wideTy (fun f => [(f.a, f.ty.is64)]) fun s f l r => R f.ty.width (s.raw f.ty l f.a) r := by
  refine perLane_of _ _ _ _ (fun s f l => op f.ty.width (s.raw f.ty l f.a)) (fun s f _ => he s f) fun s f l h => ?_
  rw [hw] at h
  have hb : (if f.ty.is64 then 64 else 32) = f.ty.width := by
    simp only [VF.wfUnaryB, Ty.isB, Bool.and_eq_true, Bool.or_eq_true, beq_iff_eq] at h
    obtain ⟨⟨⟨⟨⟨⟨⟨-, h⟩, -⟩, -⟩, -⟩, -⟩, -⟩, -⟩ := h
    rcases h with h | h <;> rw [h] <;> decide
  obtain ⟨hlt, h⟩ := hr f.ty.width (s.raw f.ty l f.a) (hb ▸ raw_lt s f.ty l f.a)
  have hm : op f.ty.width (s.raw f.ty l f.a) % 2 ^ (if wideTy f then 64 else 32) = op f.ty.width (s.raw f.ty l f.a) :=
    Nat.mod_eq_of_lt (by unfold wideTy; rwa [hb])
  rwa [hm]

/-- The ones among the bits below w. -/
theorem popcNat_eq (w x : Nat) : popcNat w x = (List.range w).countP fun i => x.testBit i := by
  unfold popcNat
  simp only [div_two_pow_mod_two]
  induction w with
  | zero => rfl
  | succ w ih =>
    rw [List.range_succ, List.foldl_append, ih, List.countP_append]
    simp [List.countP_singleton, boolCode]

/-- The zeros above the highest one. -/
theorem clzNat_bounds {w x : Nat} (h : x < 2 ^ w) : clzNat w x ≤ w ∧ x < 2 ^ (w - clzNat w x) ∧
    (clzNat w x < w → 2 ^ (w - clzNat w x - 1) ≤ x) := by
  unfold clzNat
  by_cases hx : x = 0
  · simp [hx]
  · have hlog : Nat.log2 x < w := (Nat.log2_lt hx).mpr h
    rw [if_neg (by simpa using hx), show w - (w - 1 - Nat.log2 x) = Nat.log2 x + 1 by omega, Nat.add_sub_cancel]
    exact ⟨by omega, Nat.lt_log2_self, fun _ => Nat.log2_self_le hx⟩

theorem foldl_range_add (g : Nat → Nat) (w : Nat) : (List.range w).foldl (fun r i => r + g i) 0 = ∑ i ∈ Finset.range w, g i := by
  induction w with
  | zero => rfl
  | succ w ih => rw [List.range_succ, List.foldl_append, ih, Finset.sum_range_succ]; rfl

/-- The bits in reverse order: the sum over the places is the same from the other end. -/
theorem revNat_bits (w x : Nat) : revNat w x < 2 ^ w ∧ ∀ i, i < w → (revNat w x).testBit i = x.testBit (w - 1 - i) := by
  have he : revNat w x = (List.range w).foldl (fun r i => r + x / 2 ^ (w - 1 - i) % 2 * 2 ^ i) 0 := by
    rw [foldl_range_add, ← Finset.sum_range_reflect, revNat, foldl_range_add]
    refine Finset.sum_congr rfl fun i hi => ?_
    rw [show w - 1 - (w - 1 - i) = i by have := Finset.mem_range.mp hi; omega]
  have hb := testBit_foldl w (fun i => x / 2 ^ (w - 1 - i) % 2) fun i => Nat.le_of_lt_succ (Nat.mod_lt _ (by decide))
  rw [he]
  refine ⟨(hb 0).2, fun i hi => ?_⟩
  rw [(hb i).1, decide_eq_true hi, Bool.true_and, Nat.testBit_eq_decide_div_mod_eq]

/-- bfe takes LEN bits from POS; above them stands the sign of the field under a signed type (R140). -/
theorem testBit_bfeLane (ty : Ty) (x pos n : Nat) {i : Nat} (hi : i < ty.width) :
    let w := ty.width
    let len := min n w
    let a := fun i => if i < w then x.testBit i else ty.signed && x.testBit (w - 1)
    (bfeLane ty x pos n).testBit i = if i < len then a (pos + i) else ty.signed && decide (0 < len) && a (pos + len - 1) := by
  intro w len a
  have hv : ∀ j, (lowBits len (elemInt ty 0 x / (2 ^ pos : Nat))).testBit j = (decide (j < len) && a (pos + j)) := fun j => by
    rw [testBit_lowBits, intBit_ediv_two_pow, intBit_elemInt_zero]
  unfold bfeLane
  dsimp only
  by_cases h0 : len = 0
  · have h0' : min n ty.width = 0 := h0
    simp [h0, h0']
  · rw [if_neg (by simpa only [beq_iff_eq] using h0)]
    cases hs : ty.signed
    · rw [if_neg Bool.false_ne_true]
      refine (hv i).trans ?_
      by_cases hl : i < len <;> simp [hl]
    · rw [if_pos rfl, testBit_lowBits, decide_eq_true hi, Bool.true_and, intBit_toSigned (Nat.pos_of_ne_zero h0)]
      refine (hv _).trans ?_
      rw [decide_eq_true (show min i (len - 1) < len by omega), Bool.true_and]
      by_cases hl : i < len
      · rw [if_pos hl, show min i (len - 1) = i by omega]
      · rw [if_neg hl, show pos + min i (len - 1) = pos + len - 1 by omega, decide_eq_true (Nat.pos_of_ne_zero h0)]
        rfl

/-- bfi puts LEN bits of A at POS into C (R140). -/
theorem testBit_bfiLane {ty : Ty} (a pos len c : Nat) {i : Nat} (hi : i < ty.width) : (bfiLane ty.width a pos len c).testBit i =
    if pos ≤ i ∧ i < pos + len then a.testBit (i - pos) else c.testBit i := by
  unfold bfiLane
  dsimp only
  rw [testBit_bitwise (b := fun i => if pos ≤ i && decide (i < pos + len) then a / 2 ^ (i - pos) % 2 else c / 2 ^ i % 2)
    (fun i => by split <;> exact Nat.le_of_lt_succ (Nat.mod_lt _ (by decide))) hi]
  simp only [Bool.and_eq_true, decide_eq_true_eq]
  split <;> rw [Nat.testBit_eq_decide_div_mod_eq]

/-- Settles O4: the value of each lane, bit by bit or as a number; bytesel and ishadd as R141 and R145 give them. -/
theorem bitOperationsComplete : Obligations.BitOperationsComplete := by
  unfold Obligations.BitOperationsComplete
  refine ⟨perLane_unary (R := fun w x r => r = (List.range w).countP fun i => x.testBit i) (fun _ _ => rfl) (fun _ => rfl) ?popc,
    perLane_unary (R := fun w x r => r ≤ w ∧ x < 2 ^ (w - r) ∧ (r < w → 2 ^ (w - r - 1) ≤ x)) (fun _ _ => rfl) (fun _ => rfl) ?clz,
    perLane_unary (R := fun w x r => ∀ i, i < w → r.testBit i = x.testBit (w - 1 - i)) (fun _ _ => rfl) (fun _ => rfl)
      fun w x _ => revNat_bits w x, ?bfe, ?bfi, ?bytesel, ?ishadd⟩
  case popc =>
    intro w x _
    have hle : popcNat w x ≤ w := by
      rw [popcNat_eq]
      exact List.countP_le_length.trans_eq List.length_range
    exact ⟨lt_of_le_of_lt hle Nat.lt_two_pow_self, popcNat_eq w x⟩
  case clz =>
    intro w x hx
    have h := clzNat_bounds hx
    exact ⟨lt_of_le_of_lt h.1 Nat.lt_two_pow_self, h⟩
  case bfe =>
    exact perLane_of _ _ _ _ (fun s f l => bfeLane f.ty (s.raw f.ty l f.a) (s.raw .n32 l f.b % 256) (s.raw .n32 l f.c % 256))
      (fun _ _ _ => rfl) fun _ _ _ _ _ hi => (testBit_mod_lane hi _).trans (testBit_bfeLane _ _ _ _ hi)
  case bfi =>
    exact perLane_of _ _ _ _ (fun s f l => bfiLane f.ty.width (s.raw f.ty l f.a) (s.raw .n32 l f.b % 256) (s.raw .n32 l f.b / 256 % 256)
      (s.raw f.ty l f.c)) (fun _ _ _ => rfl) fun _ _ _ _ _ hi => (testBit_mod_lane hi _).trans (testBit_bfiLane _ _ _ _ hi)
  case bytesel =>
    exact perLane_of _ _ _ _ (fun s f l => packElems 8 ((List.range 4).map fun k =>
      byteselByte (s.raw .b32 l f.a) (s.raw .b32 l f.b) (elemAt 8 k (s.raw .b32 l f.c)))) (fun _ _ _ => rfl)
      fun s f l _ k hk => elemAt_lane .n8x4 (fun k => byteselByte (s.raw .b32 l f.a) (s.raw .b32 l f.b) (elemAt 8 k (s.raw .b32 l f.c))) hk
  case ishadd =>
    refine perLane_of _ _ _ _ (fun s f l => ishaddLane f.ty.width f.na f.nb f.sub.toNat (s.raw f.ty l f.a) (s.raw f.ty l f.b))
      (fun _ _ _ => rfl) fun s f l _ => ?_
    have hlt : ishaddLane f.ty.width f.na f.nb f.sub.toNat (s.raw f.ty l f.a) (s.raw f.ty l f.b) < 2 ^ f.ty.width := lowBits_lt _ _
    have hm := Nat.mod_eq_of_lt (lt_of_lt_of_le hlt (Nat.pow_le_pow_right (by decide) (width_le_lane f.ty)))
    refine (congrArg Nat.cast hm).trans ?_
    unfold ishaddLane lowBits
    rw [Int.toNat_of_nonneg (Int.emod_nonneg _ (by exact_mod_cast (Nat.two_pow_pos _).ne'))]
    simp only [Int.natCast_mul, Int.natCast_pow]
    rfl

/-! ### Compares and moves (R142-R144) -/

/-- The relation of each condition code, R142. -/
theorem icmpRel_code {c : BitVec 5} (h : c.toNat < 6) (x y : Int) : icmpRel c.toNat x y =
    ((c = 0 && x == y) || (c = 1 && x != y) || (c = 2 && decide (x < y)) || (c = 3 && decide (x ≤ y)) ||
      (c = 4 && decide (x > y)) || (c = 5 && decide (x ≥ y))) := by
  obtain ⟨n, hn, rfl⟩ : ∃ n, n < 6 ∧ c = BitVec.ofNat 5 n := ⟨c.toNat, h, by simp⟩
  interval_cases n <;> simp [icmpRel]

theorem execIcmp_passes {s : State} {f : VF} (hw : (Instr.icmp f).wf = true)
    (hp : Passes s f.g (f.a.regs f.ty.is64 ++ f.b.regs f.ty.is64)
      (f.a.reads f.ty.is64 (s.active f.g) ++ f.b.reads f.ty.is64 (s.active f.g))) :
    ∃ t, exec (.icmp f) s = .next t ∧ PerLaneP s t f.g f.d.toNat fun l => icmpRel f.sub.toNat (aElem s f l 0) (bElem s f l 0) := by
  have hd : f.d.toNat % 8 = f.d.toNat := by
    have h : f.wfIcmp = true := hw
    simp only [VF.wfIcmp, VF.dPred, Bool.and_eq_true, decide_eq_true_eq] at h
    omega
  have he : exec (.icmp f) s = .next (s.modG fun g => (g.setPred f.d.toNat (s.active f.g)
      (maskOf fun l => icmpRel f.sub.toNat (aElem s f l 0) (bElem s f l 0))).markPred f.d.toNat (s.active f.g) 0).retire := by
    rw [show exec (.icmp f) s = s.conclude (s.icmpEff f) from rfl, State.icmpEff,
      State.guarded_passes _ hp fun h => absurd h Bool.false_ne_true, hd]
    rfl
  obtain ⟨ho, hb⟩ := wroteP_setPred s f.g f.d.toNat (maskOf fun l => icmpRel f.sub.toNat (aElem s f l 0) (bElem s f l 0))
  exact ⟨_, he, ho, fun l h32 ha hd0 => ⟨(hb l h32 ha hd0).1.trans (bit_maskOf _ h32), (hb l h32 ha hd0).2⟩⟩

/-- Settles O5: icmp writes the mask of the lanes whose elements stand in the relation; sel, mov and movi write a value that fits. -/
theorem selectAndMoveComplete : Obligations.SelectAndMoveComplete := by
  unfold Obligations.SelectAndMoveComplete
  refine ⟨?icmp, ?sel, ?mov, ?movi, ?wfSel⟩
  case icmp =>
    intro s f hw hp
    have hc : f.sub.toNat < 6 := by
      have h : f.wfIcmp = true := hw
      simp only [VF.wfIcmp, Bool.and_eq_true, decide_eq_true_eq] at h
      tauto
    obtain ⟨t, he, ho, hb⟩ := execIcmp_passes hw hp
    refine ⟨t, he, ho, fun l h32 ha hd => ?_⟩
    exact ⟨(hb l h32 ha hd).1.trans (icmpRel_code hc _ _), (hb l h32 ha hd).2⟩
  case sel =>
    intro s f p hw hc hp
    have hp8 : p.toNat % 8 = p.toNat := by
      have h : f.wfSel = true := hw
      simp only [VF.wfSel, hc, Src.isPred, Bool.and_eq_true, decide_eq_true_eq] at h
      omega
    have he : exec (.sel f) s = .next (s.modG fun g => g.putV f.d.toNat f.ty.is64 (s.active f.g) fun l =>
        if bit (s.cg.pred p.toNat) l then s.raw f.ty l f.a else s.raw f.ty l f.b).retire := by
      rw [show exec (.sel f) s = s.conclude (s.selEff f) from rfl, State.selEff]
      simp only [hc, hp8]
      rw [State.guarded_passes _ hp fun h => absurd h Bool.false_ne_true]
      rfl
    refine ⟨_, he, wroteV_mono (wroteV_putV s f.g f.d.toNat f.ty.is64 _) fun l r _ hr => hr.trans (Nat.mod_eq_of_lt ?_)⟩
    split <;> exact raw_lt s f.ty l _
  case mov =>
    exact perLane_of _ _ _ _ (fun s f l => s.raw f.ty l f.a) (fun _ _ _ => rfl) fun s f l _ => Nat.mod_eq_of_lt (raw_lt s f.ty l f.a)
  case movi =>
    intro s f _ hp
    have he : exec (.movi f) s = .next (s.modG fun g => g.putV f.d.toNat false (s.active f.g) fun _ => f.imm.toNat).retire := by
      rw [show exec (.movi f) s = s.conclude (s.moviEff f) from rfl, State.moviEff,
        State.guarded_passes _ hp fun h => absurd h Bool.false_ne_true]
      rfl
    exact ⟨_, he, wroteV_mono (wroteV_putV s f.g f.d.toNat false _) fun l r _ hr => hr.trans (Nat.mod_eq_of_lt f.imm.isLt)⟩
  case wfSel =>
    intro f h
    have h : f.wfSel = true := h
    simp only [VF.wfSel, VF.plainEnd, Ty.isB, Bool.and_eq_true, Bool.or_eq_true, beq_iff_eq] at h
    obtain ⟨⟨⟨⟨⟨⟨⟨-, ht⟩, -, hs⟩, hc⟩, -⟩, -⟩, -⟩, -⟩ := h
    refine ⟨ht, hs, ?_⟩
    cases hf : f.c with
    | v r => exact ⟨r, rfl, by simpa [hf, Src.isPred] using hc⟩
    | s r => simp [hf, Src.isPred] at hc
    | imm k => simp [hf, Src.isPred] at hc

end Sys2Proof.Machine
end

section
/-! Floating-point instructions that complete (R105, R110): every lane's value, the xorshift states after it, and the sizes of the
encodings that rounding, choosing and the transcendental unit deliver (R98, R106-R108). -/

namespace Sys2Proof.Machine

open Sys2Proof.Safety

/-! ### The lanes in order -/

/-- After the lanes have run, each lane's xorshift state is the one that its function left; no other lane's has moved. -/
theorem fpLanes_states {fen : Nat} {fn : Nat → BitVec 32 → Nat × FFlags × BitVec 32} {ls : List Nat} (hs : ls.Pairwise (· < ·))
    {xs : List (BitVec 32)} (hl : ∀ l ∈ ls, l < xs.length) {acc : List (Nat × Nat)} {r : List (Nat × Nat) × List (BitVec 32)}
    (h : fpLanes fen fn ls xs acc = .ok r) (l : Nat) :
    r.2.getD l 0 = if l ∈ ls then (fn l (xs.getD l 0)).2.2 else xs.getD l 0 := by
  induction ls generalizing xs acc with
  | nil =>
    obtain rfl := Except.ok.inj h
    simp
  | cons k ls ih =>
    obtain ⟨hk, hs⟩ := List.pairwise_cons.mp hs
    rw [fpLanes] at h
    dsimp only at h
    split at h
    · cases h
    · have hmem : k ∉ ls := fun hm => absurd (hk k hm) (Nat.lt_irrefl k)
      rw [ih hs (fun j hj => by rw [List.length_set]; exact hl j (List.mem_cons_of_mem _ hj)) h]
      by_cases he : l = k
      · subst he
        have hlen := hl l List.mem_cons_self
        simp [hmem, List.getD, hlen]
      · rw [getD_set_ne xs (Ne.symm he)]
        simp [he]

/-- The value found for a lane is the lane's own. -/
theorem find_lane (v : Nat → Nat) {ls : List Nat} {l : Nat} (h : l ∈ ls) :
    (((ls.map fun l => (l, v l)).find? fun x => x.1 == l).map (·.2)).getD 0 = v l := by
  induction ls with
  | nil => cases h
  | cons k ls ih =>
    by_cases hk : k = l
    · subst hk
      simp
    · rw [List.map_cons, List.find?_cons_of_neg (by simpa using hk)]
      exact ih (List.mem_of_ne_of_mem (Ne.symm hk) h)

/-- A clean write of a register or pair and of the group's xorshift states by an instruction that retires: each lane written holds its
value, and the states are those written. -/
theorem wroteV_putV_states (s : State) (g : Guard) (d : Nat) (wide : Bool) (val : Nat → Nat) (xs : List (BitVec 32)) :
    let t := (s.modG fun x => { x.putV d wide (s.active g) val with xs := xs }).retire
    WroteV s t g d wide true (fun l r => r = val l % 2 ^ (if wide then 64 else 32)) ∧ t.cg.xs = xs := by
  intro t
  have hlane : ∀ r l, t.cg.vlane r l = (s.modG fun x => x.putV d wide (s.active g) val).retire.cg.vlane r l := fun r l => by
    rw [State.cg_retire, State.cg_retire, Group.vlane_setArm, Group.vlane_setArm, State.cg_modG, State.cg_modG]
    rfl
  obtain ⟨ho, hp⟩ := wroteV_putV_xs s g d wide val xs
  refine ⟨⟨ho, fun l hl => ⟨?_, (hp l hl).2⟩⟩, ?_⟩
  · refine Eq.trans ?_ ((wroteV_putV s g d wide val).2 l hl).1
    unfold laneVal Group.vlane64
    simp only [hlane]
  · rw [State.cg_retire, Group.setArm_xs, State.cg_modG]

theorem active_of_writes {s : State} {g : Guard} {l : Nat} (h : Writes s g l) : bit (s.active g) l = true := by
  unfold Writes at h
  rw [bit_and, Bool.and_eq_true] at h
  exact h.1

/-- Lane functions that raise no enabled exception complete: each active lane holds its value, and its xorshift state is the one that
its function left. -/
theorem fpLanes_complete (s : State) (g : Guard) (d : Nat) (wide : Bool) {fen : Nat} (hf : fen = 0)
    (fn : Nat → BitVec 32 → Nat × FFlags × BitVec 32) :
    ∃ vals xs, fpLanes fen fn (maskList (s.active g)) s.cg.xsRow [] = .ok (vals, xs) ∧
      let t := (s.modG fun x => { x.putV d wide (s.active g)
        (fun l => ((vals.find? fun v => v.1 == l).map (·.2)).getD 0) with xs := xs }).retire
      WroteV s t g d wide true (fun l r => r = (fn l (s.cg.xs.getD l 0)).1 % 2 ^ (if wide then 64 else 32)) ∧
        ∀ l, l < 32 → t.cg.xs.getD l 0 = if bit (s.active g) l then (fn l (s.cg.xs.getD l 0)).2.2 else s.cg.xs.getD l 0 := by
  subst hf
  obtain ⟨xs, h⟩ := fpLanes_ok (fen := 0) (fn := fn) (acc := []) (maskList_sorted (s.active g)) (xs := s.cg.xsRow)
    fun l _ => Nat.and_zero _
  refine ⟨_, xs, h, ?_⟩
  obtain ⟨hw, hx⟩ := wroteV_putV_states s g d wide
    (fun l => ((((maskList (s.active g)).map fun l => (l, (fn l (s.cg.xsRow.getD l 0)).1)).find? fun v => v.1 == l).map (·.2)).getD 0) xs
  refine ⟨wroteV_mono hw fun l r hl hr => ?_, fun l hl => ?_⟩
  · have ha := active_of_writes hl
    rw [hr, find_lane (fun l => (fn l (s.cg.xsRow.getD l 0)).1) (mem_maskList.mpr ⟨bit_lt _ _ ha, ha⟩), xsRow_getD _ (bit_lt _ _ ha)]
  · refine (congrArg (·.getD l 0) hx).trans ?_
    rw [fpLanes_states (maskList_sorted _) (fun j hj => by simpa [Group.xsRow] using (mem_maskList.mp hj).1) h l, xsRow_getD _ hl]
    simp only [mem_maskList, hl, true_and]

/-- An instruction on its sources completes where no exception is enabled. -/
theorem fEff_completes {s : State} {f : VF} {rounds wide : Bool} {srcs : List (Src × Bool)} {own : BitVec 32 → List Rd} {mode : Nat}
    (fn : FCtl → Nat → BitVec 32 → Nat × FFlags × BitVec 32) (hr : FpReady s f rounds wide srcs (own (s.active f.g)) mode)
    (hf : (s.fctl mode).fen = 0) :
    ∃ t, s.conclude (s.fEff f rounds wide srcs own fn) = .next t ∧
      WroteV s t f.g f.d.toNat wide true (fun l r => r = (fn (s.fctl mode) l (s.cg.xs.getD l 0)).1 % 2 ^ (if wide then 64 else 32)) ∧
      ∀ l, l < 32 → t.cg.xs.getD l 0 =
        if bit (s.active f.g) l then (fn (s.fctl mode) l (s.cg.xs.getD l 0)).2.2 else s.cg.xs.getD l 0 := by
  obtain ⟨hp, hm⟩ := hr
  have hmode : (if rounds then s.roundMode f.rm else .ok 0) = .ok mode := by
    split at hm
    · rw [if_pos ‹_›, hm]
    · rw [if_neg ‹_›, hm]
  obtain ⟨vals, xs, hl, hw, hx⟩ := fpLanes_complete s f.g f.d.toNat wide hf (fn (s.fctl mode))
  refine ⟨_, ?_, hw, hx⟩
  unfold State.fEff
  rw [State.guarded_passes _ hp fun h => absurd h Bool.false_ne_true, hmode]
  simp only [hl]
  rfl

/-- What FpCompletes asks of a lane function: its value, and as many steps of the xorshift state as values are rounded. -/
theorem fpCompletes_of {mk : VF → Instr} {rounds : Bool} {n : VF → Nat} {wide : VF → Bool} {srcs : VF → List (Src × Bool)}
    {own : VF → BitVec 32 → List Rd} {R : State → VF → FCtl → Nat → Nat → Prop}
    (fn : State → VF → FCtl → Nat → BitVec 32 → Nat × FFlags × BitVec 32)
    (he : ∀ s f, exec (mk f) s = s.conclude (s.fEff f rounds (wide f) (srcs f) (own f) (fn s f)))
    (hv : ∀ s f c l, (mk f).wf = true → R s f c l ((fn s f c l (s.cg.xs.getD l 0)).1 % 2 ^ (if wide f then 64 else 32)))
    (hx : ∀ s f c l, (fn s f c l (s.cg.xs.getD l 0)).2.2 = srState s c l (n f)) : FpCompletes mk rounds n wide srcs own R := by
  intro s f mode hw hr hf
  obtain ⟨t, ht, hwrote, hxs⟩ := fEff_completes (fn s f) hr hf
  refine ⟨t, (he s f).trans ht, wroteV_mono hwrote fun l r _ h => h ▸ hv s f _ l hw, fun l hl => ?_⟩
  rw [hxs l hl, hx]

/-! ### Element by element -/

/-- A lane's last xorshift state, where `st k` is the state that element `k` meets. -/
theorem perElem_state {fn : Nat → BitVec 32 → Nat × FFlags × BitVec 32} {st : Nat → BitVec 32} (hs : ∀ k, (fn k (st k)).2.2 = st (k + 1))
    (w n : Nat) : (perElem w fn (List.range n) (st 0)).2.2 = st n := by
  have h : ∀ n i, (perElem w fn (List.range' i n) (st i)).2.2 = st (i + n) := by
    intro n
    induction n with
    | zero => exact fun _ => rfl
    | succ n ih =>
      intro i
      rw [List.range'_succ, perElem]
      dsimp only
      rw [hs, ih (i + 1)]
      exact congrArg st (by omega)
  rw [List.range_eq_range', h, Nat.zero_add]

/-- A lane's elements, packed where every one fits. -/
theorem perElem_value {fn : Nat → BitVec 32 → Nat × FFlags × BitVec 32} {st : Nat → BitVec 32} (hs : ∀ k, (fn k (st k)).2.2 = st (k + 1))
    {w : Nat} (hv : ∀ k, (fn k (st k)).1 < 2 ^ w) (n : Nat) :
    (perElem w fn (List.range n) (st 0)).1 = packElems w ((List.range n).map fun k => (fn k (st k)).1) := by
  have h : ∀ n i, (perElem w fn (List.range' i n) (st i)).1 =
      2 ^ (w * i) * packElems w ((List.range' i n).map fun k => (fn k (st k)).1) := by
    intro n
    induction n with
    | zero => exact fun _ => (Nat.mul_zero _).symm
    | succ n ih =>
      intro i
      rw [List.range'_succ, List.map_cons, packElems, Nat.mod_eq_of_lt (hv i), perElem]
      dsimp only
      rw [hs, ih (i + 1), Nat.mul_succ, Nat.pow_add, Nat.mul_assoc, Nat.mul_comm _ (2 ^ (w * i)), ← Nat.mul_add]
  rw [List.range_eq_range', h, Nat.mul_zero, Nat.pow_zero, Nat.one_mul]

/-- Element `k` of a lane that is computed element by element. -/
theorem elemAt_perElem {ty : Ty} {fn : Nat → BitVec 32 → Nat × FFlags × BitVec 32} {st : Nat → BitVec 32}
    (hs : ∀ k, (fn k (st k)).2.2 = st (k + 1)) (hv : ∀ k, (fn k (st k)).1 < 2 ^ ty.width) {k : Nat} (hk : k < ty.elems) :
    elemAt ty.width k ((perElem ty.width fn (List.range ty.elems) (st 0)).1 % 2 ^ (if ty.is64 then 64 else 32)) = (fn k (st k)).1 := by
  rw [perElem_value hs hv, elemAt_lane ty _ hk, Nat.mod_eq_of_lt (hv k)]

/-! ### The sizes of encodings -/

/-- The encodings of a type's format have the width of its elements; its largest ones stand below the sign bit. -/
theorem fmtOf_fits {ty : Ty} (h : ty.isFloat = true) : 2 * (fmtOf ty).signBit = 2 ^ ty.width ∧
    (fmtOf ty).maxBits < (fmtOf ty).signBit ∧ (fmtOf ty).infBits < (fmtOf ty).signBit ∧ (fmtOf ty).canonNan < (fmtOf ty).signBit := by
  cases ty with
  | f32 | f16x2 | bf16x2 | e4m3x4 | e5m2x4 => decide
  | _ => exact absurd h (by decide)

theorem signed_lt {f : FFmt} (neg : Bool) {m : Nat} (h : m < f.signBit) : f.signed neg m < 2 * f.signBit := by
  unfold FFmt.signed
  split <;> omega

/-- A rounded value is an encoding of its format. -/
theorem roundTo_lt {f : FFmt} (hmax : f.maxBits < f.signBit) (hinf : f.infBits < f.signBit) (hnan : f.canonNan < f.signBit)
    (mode : Nat) (ftz satf : Bool) (x : Nat) (v : Fp) : (roundTo f mode ftz satf x v).1 < 2 * f.signBit := by
  have hnan2 : f.canonNan < 2 * f.signBit := by omega
  cases v with
  | nan sig => exact hnan2
  | inf neg =>
    unfold roundTo
    dsimp only
    split
    · split
      · exact signed_lt neg hmax
      · exact hnan2
    · exact signed_lt neg hinf
  | fin neg m e =>
    have hres : infResult f satf neg < 2 * f.signBit := by
      unfold infResult
      split
      · exact signed_lt neg hmax
      · split
        · exact hnan2
        · exact signed_lt neg hinf
    unfold roundTo
    dsimp only
    split
    · exact signed_lt neg (by omega)
    · split
      · split
        · exact hres
        · exact signed_lt neg hmax
      · split
        · split
          · exact signed_lt neg (by omega)
          · exact signed_lt neg (by omega)
        · exact signed_lt neg (by omega)

theorem roundTo_lt_width {ty : Ty} (h : ty.isFloat = true) (mode : Nat) (ftz satf : Bool) (x : Nat) (v : Fp) :
    (roundTo (fmtOf ty) mode ftz satf x v).1 < 2 ^ ty.width := by
  obtain ⟨hw, hmax, hinf, hnan⟩ := fmtOf_fits h
  exact hw ▸ roundTo_lt hmax hinf hnan mode ftz satf x v

/-- A value of f32 fits a lane. -/
theorem roundTo_f32_lt (mode : Nat) (ftz satf : Bool) (x : Nat) (v : Fp) : (roundTo fmtF32 mode ftz satf x v).1 < 2 ^ 32 :=
  roundTo_lt_width (ty := .f32) rfl mode ftz satf x v

theorem signMod_lt (f : FFmt) (xa na : Bool) (x : Nat) : signMod f xa na x < 2 * f.signBit :=
  signed_lt _ (Nat.mod_lt _ (Nat.two_pow_pos _))

theorem flushIn_le (f : FFmt) (z : Bool) (x : Nat) : flushIn f z x ≤ x := by
  unfold flushIn
  split
  · exact (Nat.mul_le_mul_right _ (Nat.mod_le _ _)).trans (Nat.div_mul_le_self _ _)
  · exact Nat.le_refl x

/-- The encoding that fmin or fmax chooses is one of its operands' or the canonical NaN, at most flushed. -/
theorem pickFp_lt {f : FFmt} (hnan : f.canonNan < 2 * f.signBit) (mx ftzi ftz : Bool) {a b : Nat} (ha : a < 2 * f.signBit)
    (hb : b < 2 * f.signBit) : (pickFp f mx ftzi ftz a b).1 < 2 * f.signBit := by
  have ha' := lt_of_le_of_lt (flushIn_le f ftzi a) ha
  have hb' := lt_of_le_of_lt (flushIn_le f ftzi b) hb
  unfold pickFp
  refine lt_of_le_of_lt (flushIn_le f ftz _) ?_
  split
  · split
    · exact hnan
    · exact hb'
  · split
    · exact ha'
    · split <;> split <;> assumption

theorem fst_ite_lt {c : Prop} [Decidable c] {p q : Nat × FFlags} {n : Nat} (hp : p.1 < n) (hq : q.1 < n) :
    (if c then p else q).1 < n := by
  split
  · exact hp
  · exact hq

/-- What the transcendental unit delivers is an encoding of f32. -/
theorem deliverT_lt (ulps : Nat) (c : FCtl) (pick : Nat) (r : TRes) : (deliverT ulps c pick r).1 < 2 ^ 32 := by
  cases r with
  | special v fl => exact roundTo_f32_lt 0 c.ftz c.satf 0 v
  | real neg n sc exact =>
    have hpick : ∀ (xs : List Nat) (i mag : Nat) (p : Nat → Bool), mag < fmtF32.signBit →
        (xs.filter fun x => decide (x ≤ fmtF32.maxBits) && p x).getD i mag < fmtF32.signBit := by
      intro xs i mag p hm
      by_cases hi : i < (xs.filter fun x => decide (x ≤ fmtF32.maxBits) && p x).length
      · have hx := List.getElem_mem hi
        rw [List.mem_filter, Bool.and_eq_true, decide_eq_true_eq] at hx
        rw [List.getD_eq_getElem _ _ hi]
        exact lt_of_le_of_lt hx.2.1 (by decide)
      · rwa [List.getD_eq_default _ _ (by omega)]
    unfold deliverT
    dsimp only
    refine fst_ite_lt ?_ (fst_ite_lt ?_ ?_)
    · exact roundTo_f32_lt ..
    · exact signed_lt (f := fmtF32) neg (by decide)
    · exact signed_lt (f := fmtF32) neg (hpick _ _ _ _ (Nat.mod_lt _ (by decide)))

end Sys2Proof.Machine
end

section
/-! Floating-point arithmetic, compares, the transcendental unit and conversions of rows 0x2 and 0x3 (R146-R155). -/

namespace Sys2Proof.Machine

open Sys2Proof.Safety

/-! ### Arithmetic (R146, R147) -/

theorem isFloat_of_isFp {ty : Ty} (h : ty.isFp = true) : ty.isFloat = true := by
  cases ty with
  | f32 | f16x2 | bf16x2 => rfl
  | _ => exact absurd h (by decide)

/-- A lane of a floating-point type is 32 bits wide. -/
theorem lane_of_isFloat {ty : Ty} (h : ty.isFloat = true) : (if ty.is64 then 64 else 32) = 32 := by
  cases ty with
  | i64 | n64 | b64 => exact absurd h (by decide)
  | _ => rfl

theorem round_value (s : State) (c : FCtl) (l k : Nat) (f : FFmt) (v : Fp) :
    (c.round f v (srState s c l k)).1 = (roundTo f c.mode c.ftz c.satf (srState s c l (k + 1)).toNat v).1 := by
  rw [← round_step s c l k f v]
  rfl

/-- An instruction that rounds one value for each element completes, with each element rounded and one step of the state for each. -/
theorem fpCompletes_round {mk : VF → Instr} {srcs : VF → List (Src × Bool)}
    (el : State → VF → FCtl → Nat → Nat → BitVec 32 → Nat × FFlags × BitVec 32) (v : State → VF → FCtl → Nat → Nat → Fp)
    (he : ∀ s f, exec (mk f) s = s.conclude (s.fEff f true false (srcs f) (fun _ => [])
      fun c l => perElem f.ty.width (el s f c l) (List.range f.ty.elems)))
    (hel : ∀ s f c l k xs, (el s f c l k xs).1 = (c.round (fmtOf f.ty) (v s f c l k) xs).1 ∧
      (el s f c l k xs).2.2 = (c.round (fmtOf f.ty) (v s f c l k) xs).2.2)
    (hw : ∀ f, (mk f).wf = true → f.ty.isFp = true) :
    FpCompletes mk true (fun f => f.ty.elems) (fun _ => false) srcs (fun _ _ => []) fun s f c l => FpResult s f c l (v s f c l) := by
  have hs : ∀ s f c l k, (el s f c l k (srState s c l k)).2.2 = srState s c l (k + 1) := fun s f c l k =>
    (hel s f c l k _).2.trans (round_step s c l k _ _)
  refine fpCompletes_of (fun s f c l => perElem f.ty.width (el s f c l) (List.range f.ty.elems)) he
    (fun s f c l h k hk => ?_) fun s f c l => srState_zero s c l ▸ perElem_state (hs s f c l) _ _
  have hfl := isFloat_of_isFp (hw f h)
  have hval : ∀ k, (el s f c l k (srState s c l k)).1 =
      (roundTo (fmtOf f.ty) c.mode c.ftz c.satf (srState s c l (k + 1)).toNat (v s f c l k)).1 := fun k =>
    (hel s f c l k _).1.trans (round_value s c l k _ _)
  have h := elemAt_perElem (ty := f.ty) (hs s f c l) (fun k => hval k ▸ roundTo_lt_width hfl ..) hk
  rw [lane_of_isFloat hfl, srState_zero] at h
  exact h.trans (hval k)

theorem isFp_of_wfFp {f : VF} {useC rm : Bool} (h : f.wfFp useC rm = true) : f.ty.isFp = true := by
  simp only [VF.wfFp, Bool.and_eq_true] at h
  tauto

/-- Settles O6: each element is the operation's exact value, rounded once with the state that its rounding meets. -/
theorem floatArithmeticCompletes : Obligations.FloatArithmeticCompletes := by
  unfold Obligations.FloatArithmeticCompletes
  have arith : ∀ {mk : VF → Instr} {srcs : VF → List (Src × Bool)} (op : State → VF → FCtl → Nat → Nat → Fp × FFlags),
      (∀ s f, exec (mk f) s = s.conclude (s.fEff f true false (srcs f) (fun _ => [])
        fun c l => perElem f.ty.width (roundElem f c (op s f c l)) (List.range f.ty.elems))) →
      (∀ f, (mk f).wf = true → f.ty.isFp = true) → FpCompletes mk true (fun f => f.ty.elems) (fun _ => false) srcs (fun _ _ => [])
        fun s f c l => FpResult s f c l fun k => (op s f c l k).1 := fun op he hw =>
    fpCompletes_round (fun s f c l => roundElem f c (op s f c l)) _ he (fun _ _ _ _ _ _ => ⟨rfl, rfl⟩) hw
  exact ⟨arith (fun s f c l k => sumFp (c.mode == 2) [aFp s f c l k, bFp s f c l k]) (fun _ _ => rfl) fun _ => isFp_of_wfFp,
    arith (fun s f c l k => sumFp (c.mode == 2) [aFp s f c l k, (bFp s f c l k).flip]) (fun _ _ => rfl) fun _ => isFp_of_wfFp,
    arith (fun s f c l k => mulFp (aFp s f c l k) (bFp s f c l k)) (fun _ _ => rfl) fun _ => isFp_of_wfFp,
    arith (fun s f c l k => fmaFp c.rdn (aFp s f c l k) (bFp s f c l k) (cFp s f c l k)) (fun _ _ => rfl) fun _ => isFp_of_wfFp⟩

/-! ### Compares (R147-R149) -/

/-- fmin and fmax choose element by element and step no state. -/
theorem fpCompletes_pick {mk : VF → Instr} (mx : Bool) (he : ∀ s f, exec (mk f) s = s.conclude (s.fpickEff f mx))
    (hw : ∀ f, (mk f).wf = true → f.ty.isFp = true) :
    FpCompletes mk false (fun _ => 0) (fun _ => false) fAB (fun _ _ => []) fun s f c l r => ∀ k, k < f.ty.elems →
      elemAt f.ty.width k r = (pickFp (fmtOf f.ty) mx c.ftzi c.ftz
        (signMod (fmtOf f.ty) f.xa f.na (elemAt f.ty.width k (s.raw f.ty l f.a)))
        (signMod (fmtOf f.ty) f.xb f.nb (elemAt f.ty.width k (s.raw f.ty l f.b)))).1 := by
  refine fpCompletes_of (pickLane mx) (fun s f => (he s f).trans (congrArg s.conclude (fpickEff_eq s f mx)))
    (fun s f c l h k hk => ?_) fun s f c l => ?_
  · have hfl := isFloat_of_isFp (hw f h)
    obtain ⟨hbits, -, -, hnan⟩ := fmtOf_fits hfl
    have h := elemAt_perElem (ty := f.ty) (fn := fun k xs =>
        let r := pickFp (fmtOf f.ty) mx c.ftzi c.ftz (signMod (fmtOf f.ty) f.xa f.na (elemAt f.ty.width k (s.raw f.ty l f.a)))
          (signMod (fmtOf f.ty) f.xb f.nb (elemAt f.ty.width k (s.raw f.ty l f.b)))
        (r.1, r.2, xs)) (st := fun _ => s.cg.xs.getD l 0) (fun _ => rfl)
      (fun k => hbits ▸ pickFp_lt (by omega) mx c.ftzi c.ftz (signMod_lt ..) (signMod_lt ..)) hk
    rw [lane_of_isFloat hfl] at h
    exact h
  · exact (perElem_state (st := fun _ => s.cg.xs.getD l 0) (fun _ => rfl) _ _).trans (srState_zero s c l).symm

theorem classFp_lt (f : FFmt) (x : Nat) : classFp f x < 16 := by
  unfold classFp
  dsimp only
  cases unpackF f false x with
  | nan sig => dsimp only; split <;> decide
  | inf neg => dsimp only; split <;> decide
  | fin neg m e => dsimp only; split_ifs <;> decide

/-- Settles O7: fmin and fmax choose element by element; with no exception enabled no lane of fcmp raises one; a class is a bit of 16. -/
theorem floatComparesComplete : Obligations.FloatComparesComplete := by
  unfold Obligations.FloatComparesComplete
  refine ⟨fpCompletes_pick false (fun _ _ => rfl) fun _ => isFp_of_wfFp, fpCompletes_pick true (fun _ _ => rfl) fun _ => isFp_of_wfFp,
    fun s f hw hf hp => (execFcmp_trapsOrWrites hw hp).2 fun l h => h.2 (by rw [hf, Nat.and_zero]), ?fclass⟩
  refine perLane_of _ _ _ _ (fun s f l =>
    packElems 16 ((List.range f.ty.elems).map fun k => 2 ^ classFp (fmtOf f.ty) (elemAt f.ty.width k (s.raw f.ty l f.a))))
    (fun _ _ _ => rfl) fun s f l hw k hk => ?_
  have hty : f.ty.isFp = true := by
    have h : f.wfFclass = true := hw
    simp only [VF.wfFclass, Bool.and_eq_true] at h
    tauto
  have hlane : 2 ^ (16 * f.ty.elems) ≤ 2 ^ 32 := Nat.pow_le_pow_right (by decide) (by
    revert hty
    cases f.ty <;> decide)
  have hlt := packElems_lt 16 ((List.range f.ty.elems).map fun k => 2 ^ classFp (fmtOf f.ty) (elemAt f.ty.width k (s.raw f.ty l f.a)))
  rw [List.length_map, List.length_range] at hlt
  refine (congrArg (elemAt 16 k) (Nat.mod_eq_of_lt (lt_of_lt_of_le hlt hlane))).trans ?_
  rw [elemAt_packElems _ _ _ (by simpa using hk)]
  simp [List.getD, hk, Nat.mod_eq_of_lt (Nat.pow_lt_pow_right (a := 2) (by decide) (classFp_lt (fmtOf f.ty) _))]

/-! ### The transcendental unit (R129, R150, R151) -/

/-- A transcendental instruction delivers what the unit delivers, and with it whatever is true of that. -/
theorem fpCompletes_trans {mk : VF → Instr} {opc : BitVec 8} {ulps : Nat} {op : Fp → TRes} {P : State → VF → FCtl → Nat → Nat → Prop}
    (he : ∀ s f, exec (mk f) s = s.conclude (s.transEff f opc ulps op)) (hP : ∀ s f c l, P s f c l (transOut opc ulps op s f c l).1) :
    FpCompletes mk false (fun _ => 0) (fun _ => false) (fun f => [(f.a, false)]) (fun _ _ => []) fun s f c l r =>
      r = (transOut opc ulps op s f c l).1 ∧ P s f c l r := by
  refine fpCompletes_of (fun s f c l xs => ((transOut opc ulps op s f c l).1, (transOut opc ulps op s f c l).2, xs)) he
    (fun s f c l _ => ?_) fun s f c l => (srState_zero s c l).symm
  have h : (transOut opc ulps op s f c l).1 % 2 ^ 32 = (transOut opc ulps op s f c l).1 := Nat.mod_eq_of_lt (deliverT_lt ..)
  exact ⟨h, h.symm ▸ hP s f c l⟩

/-- On an input whose result the manual gives exactly, the unit delivers that result. -/
theorem transOut_special {opc : BitVec 8} {ulps : Nat} {op : Fp → TRes} {s : State} {f : VF} {c : FCtl} {l x r : Nat} {v : Fp}
    {fl : FFlags} (hx : flushIn fmtF32 c.ftzi (signMod fmtF32 f.xa f.na (s.raw .f32 l f.a)) = x)
    (ho : op (unpackF fmtF32 false x) = .special v fl) (hr : ∀ ftz satf, (roundTo fmtF32 0 ftz satf 0 v).1 = r) :
    (transOut opc ulps op s f c l).1 = r := by
  unfold transOut
  dsimp only
  rw [hx, ho]
  exact hr c.ftz c.satf

theorem roundTo_inf (neg ftz satf : Bool) : (roundTo fmtF32 0 ftz satf 0 (.inf neg)).1 = fmtF32.signed neg fmtF32.infBits := rfl
theorem roundTo_zero (neg : Bool) (e : Int) (ftz satf : Bool) : (roundTo fmtF32 0 ftz satf 0 (.fin neg 0 e)).1 = fmtF32.signed neg 0 := rfl
theorem roundTo_one (ftz satf : Bool) : (roundTo fmtF32 0 ftz satf 0 (.fin false 1 0)).1 = 0x3F800000 := by
  cases ftz <;> cases satf <;> decide

/-- Settles O8: each special input's result is a value of R150 or R151, which rounds to the encoding named. -/
theorem transcendentalsComplete : Obligations.TranscendentalsComplete := by
  unfold Obligations.TranscendentalsComplete
  exact ⟨fpCompletes_trans (fun _ _ => rfl) fun _ _ _ _ => ⟨fun hx _ => transOut_special hx rfl (roundTo_inf false),
      fun hx _ => transOut_special hx rfl (roundTo_inf true), fun hx => transOut_special hx rfl (roundTo_zero false 0),
      fun hx => transOut_special hx rfl (roundTo_zero true 0)⟩,
    fpCompletes_trans (fun _ _ => rfl) fun _ _ _ _ => ⟨fun hx _ => transOut_special hx rfl (roundTo_inf false),
      fun hx => transOut_special hx rfl (roundTo_zero false 0)⟩,
    fpCompletes_trans (fun _ _ => rfl) fun _ _ _ _ => ⟨fun hx => transOut_special hx rfl (roundTo_zero false 0),
      fun hx => transOut_special hx rfl (roundTo_zero true 0)⟩,
    fpCompletes_trans (fun _ _ => rfl) fun _ _ _ _ => ⟨fun hx => transOut_special hx rfl roundTo_one,
      fun hx => transOut_special hx rfl (roundTo_zero false 0)⟩,
    fpCompletes_trans (fun _ _ => rfl) fun _ _ _ _ hx => transOut_special hx rfl (roundTo_zero false 0),
    fpCompletes_trans (fun _ _ => rfl) fun _ _ _ _ hx => transOut_special hx rfl (roundTo_zero false 0),
    fpCompletes_trans (fun _ _ => rfl) fun _ _ _ _ hx => transOut_special hx rfl (roundTo_zero false 0),
    fpCompletes_trans (fun _ _ => rfl) fun _ _ _ _ hx => transOut_special hx rfl roundTo_one⟩

/-! ### Conversions (R152-R155) -/

theorem round_lt_width (c : FCtl) {ty : Ty} (h : ty.isFloat = true) (v : Fp) (xs : BitVec 32) :
    (c.round (fmtOf ty) v xs).1 < 2 ^ ty.width := roundTo_lt_width h ..

/-- An element that cvt converts fits the destination's elements. -/
theorem cvtElem_lt (c : FCtl) (sat : Bool) (dty sty : Ty) (x : Nat) (xs : BitVec 32) :
    (cvtElem c sat dty sty x xs).1 < 2 ^ dty.width := by
  unfold cvtElem
  dsimp only
  split
  · split
    · exact round_lt_width c ‹_› _ _
    · exact lowBits_lt _ _
  · split
    · exact round_lt_width c ‹_› _ _
    · exact lowBits_lt _ _

theorem cvtStep_lt (s : State) (f : VF) (c : FCtl) (l k : Nat) (xs : BitVec 32) : (cvtStep s f c l k xs).1 < 2 ^ f.ty.width := by
  unfold cvtStep
  cases cvtAt f k with
  | none => exact Nat.mod_lt _ (Nat.two_pow_pos _)
  | some x => exact cvtElem_lt ..

/-- Each element of cvt, with the state that the elements converted before it leave. -/
theorem execCvt_completes {s : State} {f : VF} {mode : Nat}
    (hr : FpReady s f (cvtRounds f) f.ty.is64 (cvtSrcs f) (cvtOwn f (s.active f.g)) mode) (hf : (s.fctl mode).fen = 0) :
    ∃ t, exec (.cvt f) s = .next t ∧ Stepped s t f.g (s.fctl mode) (fun _ => cvtDone f f.ty.elems) ∧
      WroteV s t f.g f.d.toNat f.ty.is64 true fun l r => ∀ k, k < f.ty.elems →
        elemAt f.ty.width k r = (cvtStep s f (s.fctl mode) l k (srState s (s.fctl mode) l (cvtDone f k))).1 := by
  have h0 : cvtRounds f = false → (s.fctl mode).mode = 0 := fun h => by
    have hm := hr.2
    rwa [h, if_neg Bool.false_ne_true] at hm
  have hs : ∀ l k, (cvtStep s f (s.fctl mode) l k (srState s (s.fctl mode) l (cvtDone f k))).2.2 =
      srState s (s.fctl mode) l (cvtDone f (k + 1)) := fun l k => cvtStep_step s f _ l k h0
  have hz : ∀ l, srState s (s.fctl mode) l (cvtDone f 0) = s.cg.xs.getD l 0 := srState_zero s _
  obtain ⟨t, ht, hw, hx⟩ := fEff_completes (fun c l => perElem f.ty.width (cvtStep s f c l) (List.range f.ty.elems)) hr hf
  refine ⟨t, (execCvt_eq s f).trans ht, fun l hl => ?_, wroteV_mono hw fun l r _ h k hk => ?_⟩
  · rw [hx l hl, ← hz l, perElem_state (st := fun k => srState s (s.fctl mode) l (cvtDone f k)) (hs l)]
  · rw [h, ← hz l]
    exact elemAt_perElem (st := fun k => srState s (s.fctl mode) l (cvtDone f k)) (hs l) (fun k => cvtStep_lt ..) hk

/-- Settles O9: the elements of cvt run in order, each from its source or kept; fdot2 rounds one value, lcdec and fscale one for each
element. -/
theorem conversionsComplete : Obligations.ConversionsComplete := by
  unfold Obligations.ConversionsComplete
  refine ⟨fun s f mode _ hr hf => ?cvt, ?fdot2, ?lcdec, ?fscale⟩
  case cvt =>
    obtain ⟨t, ht, hx, hw⟩ := execCvt_completes hr hf
    refine ⟨t, ht, hx, wroteV_mono hw fun l r _ h k hk => (h k hk).trans ?_⟩
    unfold cvtStep
    cases cvtAt f k <;> rfl
  case fdot2 =>
    refine fpCompletes_of dotLane (fun _ _ => rfl) (fun s f c l _ => ?_) fun s f c l => ?_
    · rw [← srState_zero s c l]
      exact (Nat.mod_eq_of_lt (roundTo_f32_lt ..)).trans (round_value s c l 0 fmtF32 _)
    · rw [← srState_zero s c l]
      exact srState_succ s c l 0
  case lcdec =>
    refine fpCompletes_round lcdecElem _ (fun _ _ => rfl) (fun s f c l k xs => ?_) fun f h => ?_
    · simp only [lcdecElem, beq_iff_eq, and_self]
    · have h : f.wfLcdec = true := h
      simp only [VF.wfLcdec, Bool.and_eq_true] at h
      tauto
  case fscale =>
    refine fpCompletes_round (fun s f c l => roundElem f c fun k => ((aFp s f c l k).scale (s.fscaleExp f l k), 0)) _ execFscale_eq
      (fun _ _ _ _ _ _ => ⟨rfl, rfl⟩) fun f h => ?_
    have h : f.wfFscale = true := h
    simp only [VF.wfFscale, Bool.and_eq_true] at h
    tauto

end Sys2Proof.Machine
end

section
/-! Exchanges across lanes, and rand (R132, R156, R157, R159). -/

namespace Sys2Proof.Machine

open Sys2Proof.Safety

/-- An exchange completes: each active lane receives A of its source lane. -/
theorem exchEff_completes {s : State} {f : VF} {a : BitVec 8} {b : List Src} {src : Nat → Nat} (ha : f.a = .v a)
    (hp : Passes s f.g ((f.d.toNat, if f.ty.is64 then 2 else 1) :: (a.toNat, if f.ty.is64 then 2 else 1) :: b.flatMap fun x => x.regs false)
      ((b.flatMap fun x => x.reads false (s.active f.g)) ++
        [.v a.toNat (if f.ty.is64 then 2 else 1) (maskOf fun j => (maskList (s.active f.g)).any fun l => src l == j)])) :
    ∃ t, s.conclude (s.exchEff f b src) = .next t ∧
      WroteV s t f.g f.d.toNat f.ty.is64 false fun l r => r = laneVal s.cg f.ty.is64 a.toNat (src l) := by
  have he : s.conclude (s.exchEff f b src) =
      .next (s.modG fun g => g.putV f.d.toNat f.ty.is64 (s.active f.g) fun l => laneVal s.cg f.ty.is64 a.toNat (src l)).retire := by
    unfold State.exchEff
    simp only [ha, srcV]
    rw [State.guarded_passes _ hp fun h => absurd h Bool.false_ne_true]
    rfl
  refine ⟨_, he, wroteV_mono (wroteV_putV s f.g f.d.toNat f.ty.is64 _) fun l r _ hr => hr.trans (Nat.mod_eq_of_lt ?_)⟩
  unfold laneVal
  split
  · exact BitVec.isLt _
  · exact BitVec.isLt _

/-- The source lane of each mode of lxch, R157. -/
theorem lxchLane_sub {m : BitVec 5} (h : m.toNat < 4) (l c : Nat) : lxchLane (m.toNat % 4) l c =
    if m = 0 then c else if m = 1 then (l + c) % 32 else if m = 2 then (l ^^^ c) % 32 else l / 8 * 8 + c % 8 := by
  obtain ⟨n, hn, rfl⟩ : ∃ n, n < 4 ∧ m = BitVec.ofNat 5 n := ⟨m.toNat, h, by simp⟩
  interval_cases n <;> simp [lxchLane, Nat.mul_comm]

/-- Settles O12: an exchange is one write of each active lane from the registers as they were. -/
theorem exchangesComplete : Obligations.ExchangesComplete := by
  unfold Obligations.ExchangesComplete
  refine ⟨fun s f a _ ha hp => exchEff_completes (b := []) ha hp, fun s f a _ ha hp => ?qbcast, fun s f a hw ha hp => ?lxch⟩
  case qbcast =>
    have he : exec (.qbcast f) s = s.conclude (s.exchEff f [] fun l => l / 4 * 4 + f.sub.toNat % 4) := by
      simp only [Nat.mul_comm _ 4]
      rfl
    rw [he]
    exact exchEff_completes ha hp
  case lxch =>
    have hm : f.sub.toNat < 4 := by
      have h : f.wfLxch = true := hw
      simp only [VF.wfLxch, Bool.and_eq_true, decide_eq_true_eq] at h
      exact h.2
    have he : exec (.lxch f) s = s.conclude (s.exchEff f [f.b] fun l => lxchLane (f.sub.toNat % 4) l (s.raw .n32 l f.b % 32)) := rfl
    simp only [he, lxchLane_sub hm]
    exact exchEff_completes ha hp

/-- rand steps the state of each active lane once and gives it to the lane. -/
theorem execRand_completes {s : State} {f : VF} (hp : Passes s f.g [(f.d.toNat, 1)] []) :
    ∃ t, exec (.rand f) s = .next t ∧ (WroteV s t f.g f.d.toNat false true fun l r => r = (xorshift (s.cg.xs.getD l 0)).toNat) ∧
      ∀ l, l < 32 → t.cg.xs.getD l 0 = if bit (s.active f.g) l then xorshift (s.cg.xs.getD l 0) else s.cg.xs.getD l 0 := by
  let step := fun l => if bit (s.active f.g) l then xorshift (s.cg.xs.getD l 0) else s.cg.xs.getD l 0
  have he : exec (.rand f) s = .next (s.modG fun g =>
      { g.putV f.d.toNat false (s.active f.g) fun l => (step l).toNat with xs := (List.range 32).map step }).retire := by
    rw [show exec (.rand f) s = s.conclude (s.randEff f) from rfl, State.randEff,
      State.guarded_passes _ hp fun h => absurd h Bool.false_ne_true]
    rfl
  obtain ⟨hw, hx⟩ := wroteV_putV_states s f.g f.d.toNat false (fun l => (step l).toNat) ((List.range 32).map step)
  refine ⟨_, he, wroteV_mono hw fun l r hl hr => ?_, fun l hl => ?_⟩
  · rw [hr]
    exact (Nat.mod_eq_of_lt (step l).isLt).trans (congrArg BitVec.toNat (if_pos (active_of_writes hl)))
  · refine (congrArg (·.getD l 0) hx).trans ?_
    simp [List.getD, hl, step]

end Sys2Proof.Machine
end

section
/-! Reductions across lanes (R158): integers by value and by bits, and f32 numbers by their order (R147). -/

namespace Sys2Proof.Machine

open Sys2Proof.Safety

/-! ### Integer reductions -/

/-- The least of a list, or the bound where it is empty. -/
theorem foldl_min {α : Type} [LinearOrder α] (vs : List α) (hi : α) (h : ∀ v ∈ vs, v ≤ hi) : vs.foldl min hi ≤ hi ∧
    (∀ v ∈ vs, vs.foldl min hi ≤ v) ∧ (vs ≠ [] → vs.foldl min hi ∈ vs) ∧ (vs = [] → vs.foldl min hi = hi) := by
  have hf : ∀ (vs : List α) (a : α), vs.foldl min a ≤ a ∧ (∀ v ∈ vs, vs.foldl min a ≤ v) ∧ (vs.foldl min a = a ∨ vs.foldl min a ∈ vs) := by
    intro vs
    induction vs with
    | nil => exact fun a => ⟨le_refl a, nofun, .inl rfl⟩
    | cons v vs ih =>
      intro a
      obtain ⟨h1, h2, h3⟩ := ih (min a v)
      rw [List.foldl_cons]
      refine ⟨h1.trans (min_le_left a v), fun w hw => ?_, ?_⟩
      · rcases List.mem_cons.mp hw with rfl | hw
        · exact h1.trans (min_le_right a w)
        · exact h2 w hw
      · rcases h3 with h3 | h3
        · rcases min_choice a v with hm | hm
          · exact .inl (h3.trans hm)
          · exact .inr (List.mem_cons.mpr (.inl (h3.trans hm)))
        · exact .inr (List.mem_cons_of_mem _ h3)
  obtain ⟨h1, h2, h3⟩ := hf vs hi
  refine ⟨h1, h2, fun hne => ?_, fun he => by rw [he, List.foldl_nil]⟩
  rcases h3 with h3 | h3
  · obtain ⟨v, hv⟩ := List.exists_mem_of_ne_nil vs hne
    have he : v = vs.foldl min hi := le_antisymm ((h v hv).trans h3.ge) (h2 v hv)
    exact he ▸ hv
  · exact h3

/-- The bounds that a wide integer reduction starts from are those of the type. -/
theorem elemInt_bounds {ty : Ty} (h : ty.isWideInt = true) (x : Nat) :
    clampInt ty (-(2 ^ 70 : Nat)) ≤ elemInt ty 0 x ∧ elemInt ty 0 x ≤ clampInt ty (2 ^ 70 : Nat) := by
  cases ty with
  | i32 | n32 | i64 | n64 =>
    simp only [clampInt, elemInt, elemAt, toSigned, Ty.signed, Ty.width]
    norm_num
    omega
  | _ => exact absurd h (by decide)

/-- A value within the type's bounds is read back as it is. -/
theorem elemInt_lowBits {ty : Ty} (h : ty.isWideInt = true) {m : Int} (hlo : clampInt ty (-(2 ^ 70 : Nat)) ≤ m)
    (hhi : m ≤ clampInt ty (2 ^ 70 : Nat)) : elemInt ty 0 (lowBits ty.width m) = m := by
  cases ty with
  | i32 | n32 | i64 | n64 =>
    simp only [clampInt, elemInt, elemAt, toSigned, lowBits, Ty.signed, Ty.width] at hlo hhi ⊢
    norm_num at hlo hhi ⊢
    omega
  | _ => exact absurd h (by decide)

/-- A bit of a conjunction, a disjunction and a sum modulo 2 over a list. -/
theorem testBit_foldl_and (xs : List Nat) (a i : Nat) :
    (xs.foldl (fun a x => a &&& x) a).testBit i = (a.testBit i && xs.all fun x => x.testBit i) := by
  induction xs generalizing a with
  | nil => simp
  | cons x xs ih => rw [List.foldl_cons, ih, Nat.testBit_and, List.all_cons, Bool.and_assoc]

theorem testBit_foldl_or (xs : List Nat) (a i : Nat) :
    (xs.foldl (fun a x => a ||| x) a).testBit i = (a.testBit i || xs.any fun x => x.testBit i) := by
  induction xs generalizing a with
  | nil => simp
  | cons x xs ih => rw [List.foldl_cons, ih, Nat.testBit_or, List.any_cons, Bool.or_assoc]

theorem testBit_foldl_xor (xs : List Nat) (a i : Nat) :
    (xs.foldl (fun a x => a ^^^ x) a).testBit i = (a.testBit i ^^ decide ((xs.countP fun x => x.testBit i) % 2 = 1)) := by
  induction xs generalizing a with
  | nil => simp
  | cons x xs ih =>
    rw [List.foldl_cons, ih, Nat.testBit_xor, List.countP_cons, Bool.xor_assoc]
    congr 1
    rcases Nat.mod_two_eq_zero_or_one (xs.countP fun x => x.testBit i) with h | h <;> cases x.testBit i <;> simp [h, Nat.add_mod]

/-- What R158 asks of a reduction of the values `x j` of the members `js` under an integer or bit type. -/
def IntReduction (ty : Ty) (op : Nat) (sat : Bool) (js : List Nat) (x : Nat → Nat) (r : Nat) : Prop :=
  let val := fun j => elemInt ty 0 (x j)
  let bits := fun i => js.countP fun j => (x j).testBit i
  let sum := (js.map val).sum
  (op = 0 → r = lowBits ty.width (if sat then clampInt ty sum else sum)) ∧
  (op = 1 → (∀ j ∈ js, elemInt ty 0 r ≤ val j) ∧ (js ≠ [] → ∃ j ∈ js, elemInt ty 0 r = val j) ∧
    (js = [] → ∀ x, elemInt ty 0 x ≤ elemInt ty 0 r)) ∧
  (op = 2 → (∀ j ∈ js, val j ≤ elemInt ty 0 r) ∧ (js ≠ [] → ∃ j ∈ js, elemInt ty 0 r = val j) ∧
    (js = [] → ∀ x, elemInt ty 0 r ≤ elemInt ty 0 x)) ∧
  (op = 3 → ∀ i, i < ty.width → (r.testBit i = true ↔ bits i = js.length)) ∧
  (op = 4 → ∀ i, i < ty.width → (r.testBit i = true ↔ bits i ≠ 0)) ∧
  (op = 5 → ∀ i, i < ty.width → (r.testBit i = true ↔ bits i % 2 = 1))

/-- A value of the type's width is the whole of its lane. -/
theorem lowBits_mod_lane (ty : Ty) (x : Int) : lowBits ty.width x % 2 ^ (if ty.is64 then 64 else 32) = lowBits ty.width x :=
  Nat.mod_eq_of_lt (lt_of_lt_of_le (lowBits_lt _ _) (Nat.pow_le_pow_right (by decide) (width_le_lane ty)))

/-- The least of the members' values under a wide integer type. -/
theorem reduceInt_min {ty : Ty} (h : ty.isWideInt = true) (sat : Bool) (js : List Nat) (x : Nat → Nat) :
    let val := fun j => elemInt ty 0 (x j)
    let r := elemInt ty 0 (reduceInt ty 1 sat (js.map x))
    (∀ j ∈ js, r ≤ val j) ∧ (js ≠ [] → ∃ j ∈ js, r = val j) ∧ (js = [] → ∀ x, elemInt ty 0 x ≤ r) := by
  intro val r
  obtain ⟨h1, h2, h3, h4⟩ := foldl_min (js.map val) (clampInt ty (2 ^ 70 : Nat)) fun v hv => by
    obtain ⟨j, -, rfl⟩ := List.mem_map.mp hv
    exact (elemInt_bounds h _).2
  have hlo : clampInt ty (-(2 ^ 70 : Nat)) ≤ (js.map val).foldl min (clampInt ty (2 ^ 70 : Nat)) := by
    by_cases hne : js.map val = []
    · rw [h4 hne]
      exact (elemInt_bounds h 0).1.trans (elemInt_bounds h 0).2
    · obtain ⟨j, -, hj⟩ := List.mem_map.mp (h3 hne)
      exact hj ▸ (elemInt_bounds h (x j)).1
  have hr : r = (js.map val).foldl min (clampInt ty (2 ^ 70 : Nat)) := by
    refine Eq.trans ?_ (elemInt_lowBits h hlo h1)
    simp only [r, val, reduceInt, List.map_map, Function.comp_def]
  rw [hr]
  refine ⟨fun j hj => h2 _ (List.mem_map_of_mem hj), fun hne => ?_, fun he y => ?_⟩
  · obtain ⟨j, hj, he⟩ := List.mem_map.mp (h3 (by simpa using hne))
    exact ⟨j, hj, he.symm⟩
  · rw [h4 (by simp [he])]
    exact (elemInt_bounds h y).2

/-- The greatest of them: the least in the opposite order. -/
theorem reduceInt_max {ty : Ty} (h : ty.isWideInt = true) (sat : Bool) (js : List Nat) (x : Nat → Nat) :
    let val := fun j => elemInt ty 0 (x j)
    let r := elemInt ty 0 (reduceInt ty 2 sat (js.map x))
    (∀ j ∈ js, val j ≤ r) ∧ (js ≠ [] → ∃ j ∈ js, r = val j) ∧ (js = [] → ∀ x, r ≤ elemInt ty 0 x) := by
  intro val r
  obtain ⟨h1, h2, h3, h4⟩ := foldl_min (α := Intᵒᵈ) (js.map val) (clampInt ty (-(2 ^ 70 : Nat))) fun v hv => by
    obtain ⟨j, -, rfl⟩ := List.mem_map.mp hv
    exact (elemInt_bounds h (x j)).1
  have hhi : (js.map val).foldl max (clampInt ty (-(2 ^ 70 : Nat))) ≤ clampInt ty (2 ^ 70 : Nat) := by
    by_cases hne : js.map val = []
    · refine le_of_eq_of_le (h4 hne) ?_
      exact (elemInt_bounds h 0).1.trans (elemInt_bounds h 0).2
    · obtain ⟨j, -, hj⟩ := List.mem_map.mp (h3 hne)
      exact le_of_eq_of_le hj.symm (elemInt_bounds h (x j)).2
  have hr : r = (js.map val).foldl max (clampInt ty (-(2 ^ 70 : Nat))) := by
    refine Eq.trans ?_ (elemInt_lowBits h h1 hhi)
    simp only [r, val, reduceInt, List.map_map, Function.comp_def]
  rw [hr]
  refine ⟨fun j hj => h2 _ (List.mem_map_of_mem hj), fun hne => ?_, fun he y => ?_⟩
  · obtain ⟨j, hj, he⟩ := List.mem_map.mp (h3 (mt List.map_eq_nil_iff.mp hne))
    exact ⟨j, hj, he.symm⟩
  · exact le_of_eq_of_le (h4 (List.map_eq_nil_iff.mpr he)) (elemInt_bounds h y).1

theorem foldl_add_eq_sum (vs : List Int) (a : Int) : vs.foldl (fun a x => a + x) a = a + vs.sum := by
  induction vs generalizing a with
  | nil => simp
  | cons v vs ih => rw [List.foldl_cons, ih, List.sum_cons, Int.add_assoc]

/-- Each reduction of a well-formed gred or gscan under an integer or bit type. -/
theorem reduceInt_reduction {ty : Ty} {op : Nat} (hty : if op < 3 then ty.isWideInt = true else True) (sat : Bool) (js : List Nat)
    (x : Nat → Nat) :
    IntReduction ty op sat js x (reduceInt ty op sat (js.map x) % 2 ^ (if ty.is64 then 64 else 32)) := by
  refine ⟨?sum, ?least, ?greatest, ?and, ?or, ?xor⟩
  case sum =>
    rintro rfl
    refine (lowBits_mod_lane ty _).trans ?_
    simp only [foldl_add_eq_sum, List.map_map, Function.comp_def, Int.zero_add]
  case least =>
    rintro rfl
    rw [show reduceInt ty 1 sat (js.map x) % 2 ^ (if ty.is64 then 64 else 32) = reduceInt ty 1 sat (js.map x) from
      lowBits_mod_lane ty _]
    exact reduceInt_min hty sat js x
  case greatest =>
    rintro rfl
    rw [show reduceInt ty 2 sat (js.map x) % 2 ^ (if ty.is64 then 64 else 32) = reduceInt ty 2 sat (js.map x) from
      lowBits_mod_lane ty _]
    exact reduceInt_max hty sat js x
  all_goals
    rintro rfl i hi
    rw [testBit_mod_lane hi]
    simp only [reduceInt]
  case and =>
    rw [testBit_foldl_and, Nat.testBit_two_pow_sub_one, decide_eq_true hi, Bool.true_and, List.all_map, List.all_eq_true,
      List.countP_eq_length]
    rfl
  case or =>
    rw [testBit_foldl_or, Nat.zero_testBit, Bool.false_or, List.any_map, List.any_eq_true, Nat.ne_zero_iff_zero_lt,
      List.countP_pos_iff]
    rfl
  case xor =>
    rw [testBit_foldl_xor, Nat.zero_testBit, Bool.false_xor, decide_eq_true_eq, List.countP_map]
    rfl

/-- gred and gscan under an integer or bit type complete. -/
theorem reduceEff_int {s : State} {f : VF} (scan : Bool) (hw : f.wfReduce scan = true) (ht : f.ty ≠ .f32)
    (hp : Passes s f.g ((f.d.toNat, if f.ty.is64 then 2 else 1) :: f.a.regs f.ty.is64)
      (f.a.reads f.ty.is64 (s.teamOnly (s.active f.g)))) :
    ∃ t, s.conclude (s.reduceEff f (counts f scan)) = .next t ∧ WroteV s t f.g f.d.toNat f.ty.is64 false fun l r =>
      IntReduction f.ty (f.sub.toNat % 8) f.sat (members s f scan l) (fun j => s.raw f.ty j f.a) r := by
  have hty : if f.sub.toNat % 8 < 3 then f.ty.isWideInt = true else True := by
    split
    · next hop =>
      simp only [VF.wfReduce, hop, if_true, Bool.and_eq_true, Bool.or_eq_true, beq_iff_eq] at hw
      tauto
    · trivial
  have he : s.conclude (s.reduceEff f (counts f scan)) = .next (s.modG fun g => g.putV f.d.toNat f.ty.is64 (s.active f.g) fun l =>
      reduceInt f.ty (f.sub.toNat % 8) f.sat ((members s f scan l).map fun j => s.raw f.ty j f.a)).retire := by
    unfold State.reduceEff
    dsimp only
    rw [State.guarded_passes _ hp fun h => absurd h Bool.false_ne_true]
    simp only [beq_eq_false_iff_ne.mpr ht, Bool.false_eq_true, if_false, counted_members]
    rfl
  exact ⟨_, he, wroteV_mono (wroteV_putV s f.g f.d.toNat f.ty.is64 _) fun l r _ hr => hr ▸ reduceInt_reduction hty f.sat _ _⟩

/-! ### Choosing among f32 numbers -/

/-- The order in which a reduction chooses: that of the values for .min, and its opposite for .max. -/
def pickKey (mx : Bool) (x : Nat) : Int := if mx then -f32Key x else f32Key x

/-- An encoding of f32 by its sign and its magnitude. -/
theorem f32Key_eq (x : Nat) : f32Key x = if x / 2 ^ 31 % 2 = 1 then -(2 * (x % 2 ^ 31 : Nat) : Int) - 1 else 2 * (x % 2 ^ 31 : Nat) := by
  simp only [f32Key, orderKey, show fmtF32.signBit = 2 ^ 31 from rfl, beq_iff_eq]
  split <;> omega

theorem flushIn_f32 (z : Bool) (x : Nat) :
    flushIn fmtF32 z x = if z = true ∧ x % 2 ^ 31 < 2 ^ 23 then x / 2 ^ 31 % 2 * 2 ^ 31 else x := by
  simp only [flushIn, show fmtF32.signBit = 2 ^ 31 from rfl, show fmtF32.fb = 23 from rfl, Bool.and_eq_true, decide_eq_true_eq]

theorem pickKey_inj (mx : Bool) {x y : Nat} (hx : x < 2 ^ 32) (hy : y < 2 ^ 32) (h : pickKey mx x = pickKey mx y) : x = y := by
  have h : f32Key x = f32Key y := by
    unfold pickKey at h
    split at h <;> omega
  rw [f32Key_eq, f32Key_eq] at h
  split at h <;> split at h <;> omega

/-- A flush keeps the order. -/
theorem pickKey_flushIn_mono (mx z : Bool) {x y : Nat} (h : pickKey mx x ≤ pickKey mx y) :
    pickKey mx (flushIn fmtF32 z x) ≤ pickKey mx (flushIn fmtF32 z y) := by
  have mono : ∀ {x y}, f32Key x ≤ f32Key y → f32Key (flushIn fmtF32 z x) ≤ f32Key (flushIn fmtF32 z y) := by
    intro x y h
    cases z with
    | false => exact h
    | true =>
      simp only [f32Key_eq, flushIn_f32, true_and] at h ⊢
      split_ifs at h ⊢ <;> omega
  unfold pickKey at h ⊢
  split
  · next hm =>
    rw [if_pos hm, if_pos hm] at h
    exact Int.neg_le_neg (mono (by omega))
  · next hm =>
    rw [if_neg hm, if_neg hm] at h
    exact mono h

theorem flushIn_flushIn (z : Bool) (x : Nat) : flushIn fmtF32 z (flushIn fmtF32 z x) = flushIn fmtF32 z x := by
  simp only [flushIn_f32]
  split_ifs <;> omega

/-- The encoding that a chosen operand becomes: read under FTZI, delivered under FTZ. -/
def delivered (c : FCtl) (x : Nat) : Nat := flushIn fmtF32 c.ftz (flushIn fmtF32 c.ftzi x)

/-- One that has been delivered is read as it is. -/
theorem flushIn_delivered (c : FCtl) (x : Nat) : flushIn fmtF32 c.ftzi (delivered c x) = delivered c x := by
  unfold delivered
  cases c.ftzi
  case false => rfl
  case true =>
    cases c.ftz
    case false => exact flushIn_flushIn true x
    case true => exact flushIn_flushIn true _

/-- A magnitude below the normal numbers is no NaN, flushed or not. -/
theorem isNan_of_subnormal {x : Nat} (h : x % 2 ^ 31 < 2 ^ 23) : (unpackF fmtF32 false x).isNan = false := by
  have hex : x / 2 ^ 23 % 2 ^ 8 = 0 := by omega
  simp only [unpackF, show fmtF32.fb = 23 from rfl, show fmtF32.eb = 8 from rfl, hex, beq_self_eq_true, if_true]
  rfl

theorem isNan_flushIn (z : Bool) (x : Nat) : (unpackF fmtF32 false (flushIn fmtF32 z x)).isNan = (unpackF fmtF32 false x).isNan := by
  rw [flushIn_f32]
  split
  · next h => rw [isNan_of_subnormal h.2, isNan_of_subnormal (by omega)]
  · rfl

theorem f32Key_eq_below (x : Nat) : (if (x / fmtF32.signBit % 2 == 1) = true then orderKey fmtF32 x * 2 - 1 else orderKey fmtF32 x * 2) =
    f32Key x := by
  simp only [f32Key, show fmtF32.signBit = 2 ^ 31 from rfl, beq_iff_eq]
  split <;> omega

/-- fmin or fmax of two numbers takes the first in its order, the second operand only where it is before the first. -/
theorem pickFp_numbers (c : FCtl) (mx : Bool) {a b : Nat} (ha : (unpackF fmtF32 false a).isNan = false)
    (hb : (unpackF fmtF32 false b).isNan = false) : (pickFp fmtF32 mx c.ftzi c.ftz a b).1 =
      flushIn fmtF32 c.ftz (if pickKey mx (flushIn fmtF32 c.ftzi b) < pickKey mx (flushIn fmtF32 c.ftzi a) then flushIn fmtF32 c.ftzi b
        else flushIn fmtF32 c.ftzi a) := by
  unfold pickFp
  simp only [isNan_flushIn, ha, hb, Bool.false_eq_true, if_false, f32Key_eq_below]
  cases mx
  · rfl
  · simp only [pickKey, if_true, Int.neg_lt_neg_iff]

/-- A choice among operands already chosen is one among them as they were read: the flush keeps the order, and where it joins two of
them it delivers the same. -/
theorem pickFp_delivered (c : FCtl) (mx : Bool) {x y : Nat} (hx : x < 2 ^ 32) (hy : y < 2 ^ 32)
    (nx : (unpackF fmtF32 false x).isNan = false) (ny : (unpackF fmtF32 false y).isNan = false) :
    (pickFp fmtF32 mx c.ftzi c.ftz (delivered c y) x).1 =
      delivered c (if pickKey mx (flushIn fmtF32 c.ftzi x) < pickKey mx (flushIn fmtF32 c.ftzi y) then x else y) := by
  have nd : (unpackF fmtF32 false (delivered c y)).isNan = false := by rw [delivered, isNan_flushIn, isNan_flushIn, ny]
  rw [pickFp_numbers c mx nd nx, flushIn_delivered]
  have hlt : ∀ {z}, z < 2 ^ 32 → delivered c z < 2 ^ 32 := fun h =>
    lt_of_le_of_lt ((flushIn_le ..).trans (flushIn_le ..)) h
  have hmono : ∀ {u v}, pickKey mx u ≤ pickKey mx v → pickKey mx (flushIn fmtF32 c.ftz u) ≤ pickKey mx (flushIn fmtF32 c.ftz v) :=
    pickKey_flushIn_mono mx c.ftz
  have hflush : flushIn fmtF32 c.ftz (delivered c y) = delivered c y := flushIn_flushIn c.ftz _
  by_cases h1 : pickKey mx (flushIn fmtF32 c.ftzi x) < pickKey mx (delivered c y) <;>
    by_cases h2 : pickKey mx (flushIn fmtF32 c.ftzi x) < pickKey mx (flushIn fmtF32 c.ftzi y)
  · rw [if_pos h1, if_pos h2]
    rfl
  · rw [if_pos h1, if_neg h2]
    have hle := hmono (Int.not_lt.mp h2)
    have hge := hmono h1.le
    rw [hflush] at hge
    exact pickKey_inj mx (hlt hx) (hlt hy) (Int.le_antisymm hge hle)
  · rw [if_neg h1, if_pos h2, hflush]
    have hle := hmono h2.le
    have hge := hmono (Int.not_lt.mp h1)
    rw [hflush] at hge
    exact pickKey_inj mx (hlt hy) (hlt hx) (Int.le_antisymm hge hle)
  · rw [if_neg h1, if_neg h2, hflush]

/-- A fold of choices over numbers delivers one that comes first in the order. -/
theorem foldl_pickFp (c : FCtl) (mx : Bool) {y : Nat} {ys : List Nat}
    (h : ∀ x ∈ y :: ys, x < 2 ^ 32 ∧ (unpackF fmtF32 false x).isNan = false) :
    ∃ x ∈ y :: ys, ys.foldl (fun a x => (pickFp fmtF32 mx c.ftzi c.ftz a x).1) (delivered c y) = delivered c x ∧
      ∀ z ∈ y :: ys, pickKey mx (flushIn fmtF32 c.ftzi x) ≤ pickKey mx (flushIn fmtF32 c.ftzi z) := by
  induction ys generalizing y with
  | nil =>
    refine ⟨y, List.mem_cons_self, rfl, fun z hz => ?_⟩
    obtain rfl := List.mem_singleton.mp hz
    exact Int.le_refl _
  | cons x ys ih =>
    simp only [List.forall_mem_cons] at h ih ⊢
    obtain ⟨hy, hx, hys⟩ := h
    rw [List.foldl_cons, pickFp_delivered c mx hx.1 hy.1 hx.2 hy.2]
    by_cases hlt : pickKey mx (flushIn fmtF32 c.ftzi x) < pickKey mx (flushIn fmtF32 c.ftzi y)
    · rw [if_pos hlt]
      obtain ⟨w, hw, he, hwx, hws⟩ := ih ⟨hx, hys⟩
      exact ⟨w, List.mem_cons_of_mem _ hw, he, hwx.trans hlt.le, hwx, hws⟩
    · rw [if_neg hlt]
      obtain ⟨w, hw, he, hwy, hws⟩ := ih ⟨hy, hys⟩
      refine ⟨w, ?_, he, hwy, hwy.trans (Int.not_lt.mp hlt), hws⟩
      rcases List.mem_cons.mp hw with rfl | hw
      · exact List.mem_cons_self
      · exact List.mem_cons_of_mem _ (List.mem_cons_of_mem _ hw)

/-! ### f32 reductions -/

/-- What .min (or .max) delivers for a set of f32 encodings, R147, R158. -/
theorem reducePick_spec (c : FCtl) (mx : Bool) {xs : List Nat} (hxs : ∀ x ∈ xs, x < 2 ^ 32) :
    let nums := xs.filter fun x => !(unpackF fmtF32 false x).isNan
    let r := (reducePick c mx xs).1
    (xs = [] → r = fmtF32.signed mx fmtF32.infBits) ∧ (xs ≠ [] → nums = [] → r = 0x7FC00000) ∧
      (nums ≠ [] → ∃ x ∈ nums, r = delivered c x ∧
        ∀ y ∈ nums, pickKey mx (flushIn fmtF32 c.ftzi x) ≤ pickKey mx (flushIn fmtF32 c.ftzi y)) := by
  intro nums r
  have hnums : ∀ x ∈ nums, x < 2 ^ 32 ∧ (unpackF fmtF32 false x).isNan = false := fun x hx => by
    rw [List.mem_filter, Bool.not_eq_true'] at hx
    exact ⟨hxs x hx.1, hx.2⟩
  refine ⟨?empty, ?nans, ?numbers⟩
  case empty =>
    rintro rfl
    rfl
  case nans =>
    intro hne hn
    obtain ⟨x, xs', rfl⟩ := List.exists_cons_of_ne_nil hne
    simp only [r, reducePick, show (x :: xs').filter (fun x => !(unpackF fmtF32 false x).isNan) = [] from hn]
    rfl
  case numbers =>
    intro hn
    obtain ⟨y, ys, hy⟩ := List.exists_cons_of_ne_nil hn
    have hne : xs ≠ [] := by
      rintro rfl
      exact hn rfl
    obtain ⟨x, xs', rfl⟩ := List.exists_cons_of_ne_nil hne
    rw [hy] at hnums ⊢
    have hyy : (pickFp fmtF32 mx c.ftzi c.ftz y y).1 = delivered c y := by
      have ny := (hnums y List.mem_cons_self).2
      rw [pickFp_numbers c mx ny ny, ite_self]
      rfl
    have hr : r = ys.foldl (fun a x => (pickFp fmtF32 mx c.ftzi c.ftz a x).1) (delivered c y) := by
      rw [← hyy]
      simp only [r, reducePick, show (x :: xs').filter (fun x => !(unpackF fmtF32 false x).isNan) = y :: ys from hy]
    rw [hr]
    exact foldl_pickFp c mx hnums

/-- gred and gscan under f32 with no exception enabled run lane by lane. -/
theorem reduceEff_f32 {s : State} {f : VF} {mode : Nat} (scan : Bool) (ht : f.ty = .f32) (hm : s.roundMode f.rm = .ok mode)
    (hf : (s.fctl mode).fen = 0)
    (hp : Passes s f.g ((f.d.toNat, 1) :: f.a.regs false) (f.a.reads false (s.teamOnly (s.active f.g)))) :
    let fn := fun l => reduceF (s.fctl mode) (f.sub.toNat % 8) ((members s f scan l).map fun j => s.raw .f32 j f.a)
    ∃ t, s.conclude (s.reduceEff f (counts f scan)) = .next t ∧
      WroteV s t f.g f.d.toNat false true (fun l r => r = (fn l (s.cg.xs.getD l 0)).1 % 2 ^ 32) ∧
      ∀ l, l < 32 → t.cg.xs.getD l 0 = if bit (s.active f.g) l then (fn l (s.cg.xs.getD l 0)).2.2 else s.cg.xs.getD l 0 := by
  intro fn
  obtain ⟨vals, xs, hl, hw, hx⟩ := fpLanes_complete s f.g f.d.toNat false hf fn
  refine ⟨_, ?_, hw, hx⟩
  unfold State.reduceEff
  simp only [ht, show Ty.f32.is64 = false from rfl, Bool.false_eq_true, if_false]
  rw [State.guarded_passes _ hp fun h => absurd h Bool.false_ne_true]
  simp only [beq_self_eq_true, if_true, hm, counted_members]
  simp only [fn] at hl
  simp only [hl]
  rfl

/-- The state of a lane whose sum is rounded steps once. -/
theorem reduceF_state (s : State) (c : FCtl) (l op : Nat) (xs : List Nat) :
    (reduceF c op xs (s.cg.xs.getD l 0)).2.2 = srState s c l (if op = 0 ∧ xs ≠ [] then 1 else 0) := by
  rw [← srState_zero s c l]
  unfold reduceF
  by_cases h0 : op = 0
  · by_cases hx : xs = []
    · simp [h0, hx]
    · rw [if_pos (by simpa using h0), if_neg (by simpa using hx), if_pos ⟨h0, hx⟩]
      exact srState_succ s c l 0
  · rw [if_neg (by simpa using h0), if_neg (by simp [h0])]

theorem reduceF_sum (s : State) (c : FCtl) (l : Nat) (xs : List Nat) :
    (reduceF c 0 xs (s.cg.xs.getD l 0)).1 = if xs = [] then 0 else (roundTo fmtF32 c.mode c.ftz c.satf (srState s c l 1).toNat
      (sumFp (c.mode == 2) (xs.map fun x => unpackF fmtF32 c.ftzi x)).1).1 := by
  rw [← srState_zero s c l]
  unfold reduceF
  by_cases hx : xs = []
  · simp [hx]
  · rw [if_pos (beq_self_eq_true 0), if_neg (by simpa using hx), if_neg hx]
    exact round_value s c l 0 fmtF32 _

theorem reduceF_pick (c : FCtl) {op : Nat} (h : op ≠ 0) (xs : List Nat) (st : BitVec 32) :
    (reduceF c op xs st).1 = (reducePick c (op == 2) xs).1 := by
  unfold reduceF
  rw [if_neg (by simpa using h)]

theorem reducePick_lt (c : FCtl) (mx : Bool) {xs : List Nat} (hxs : ∀ x ∈ xs, x < 2 ^ 32) : (reducePick c mx xs).1 < 2 ^ 32 := by
  obtain ⟨hempty, hnans, hnums⟩ := reducePick_spec c mx hxs
  by_cases he : xs = []
  · rw [hempty he]
    cases mx <;> decide
  · by_cases hn : xs.filter (fun x => !(unpackF fmtF32 false x).isNan) = []
    · rw [hnans he hn]
      decide
    · obtain ⟨x, hx, hr, -⟩ := hnums hn
      rw [hr]
      exact lt_of_le_of_lt ((flushIn_le ..).trans (flushIn_le ..)) (hxs x (List.mem_of_mem_filter hx))

/-- A lane of an f32 reduction is an encoding of f32. -/
theorem reduceF_lt (s : State) (c : FCtl) (l op : Nat) {xs : List Nat} (hxs : ∀ x ∈ xs, x < 2 ^ 32) :
    (reduceF c op xs (s.cg.xs.getD l 0)).1 < 2 ^ 32 := by
  by_cases h0 : op = 0
  · subst h0
    rw [reduceF_sum]
    split
    · decide
    · exact roundTo_f32_lt ..
  · rw [reduceF_pick c h0]
    exact reducePick_lt c _ hxs

/-- Settles O13: an integer reduction by the value or the bits of its members; an f32 one by the sum rounded once, or by the number that
comes first in the order; rand by the state of each lane. -/
theorem reductionsAndRandComplete : Obligations.ReductionsAndRandComplete := by
  unfold Obligations.ReductionsAndRandComplete
  intro one two
  have int : ∀ (mk : VF → Instr) (scan : Bool), (∀ s f, exec (mk f) s = s.conclude (s.reduceEff f (counts f scan))) →
      (∀ f, (mk f).wf = f.wfReduce scan) → one mk scan := fun mk scan he hwf s f hw ht hp => by
    rw [he]
    exact reduceEff_int scan (hwf f ▸ hw) ht hp
  have f32 : ∀ (mk : VF → Instr) (scan : Bool), (∀ s f, exec (mk f) s = s.conclude (s.reduceEff f (counts f scan))) → two mk scan := by
    intro mk scan he s f mode _ ht hm hf hp c
    obtain ⟨t, h, hw, hx⟩ := reduceEff_f32 scan ht hm hf hp
    refine ⟨t, (he s f).trans h, fun l hl => ?_, wroteV_mono hw fun l r _ hr => ?_⟩
    · rw [hx l hl, reduceF_state]
      simp only [ne_eq, List.map_eq_nil_iff]
      rfl
    · intro xs nums key chosen
      have hxs : ∀ x ∈ xs, x < 2 ^ 32 := fun x hx => by
        obtain ⟨j, -, rfl⟩ := List.mem_map.mp hx
        exact raw_lt s .f32 j f.a
      rw [Nat.mod_eq_of_lt (reduceF_lt s _ l _ hxs)] at hr
      have hpick : f.sub.toNat % 8 ≠ 0 → r = (reducePick c (f.sub.toNat % 8 == 2) xs).1 := fun h0 => hr.trans (reduceF_pick _ h0 _ _)
      refine ⟨fun h0 => ?_, fun h1 => ?_, fun h2 => ?_⟩
      · rw [hr, h0]
        exact reduceF_sum s c l xs
      · rw [hpick (by omega), h1]
        exact reducePick_spec c false hxs
      · rw [hpick (by omega), h2]
        obtain ⟨hempty, hnans, hnums⟩ := reducePick_spec c true hxs
        refine ⟨hempty, hnans, fun hn => ?_⟩
        obtain ⟨x, hx, hr, hmax⟩ := hnums hn
        exact ⟨x, hx, hr, fun y hy => Int.neg_le_neg_iff.mp (hmax y hy)⟩
  exact ⟨int .gred false (fun _ _ => rfl) fun _ => rfl, f32 .gred false fun _ _ => rfl,
    int .gscan true (fun _ _ => rfl) fun _ => rfl, f32 .gscan true fun _ _ => rfl, fun _ _ _ => execRand_completes⟩

end Sys2Proof.Machine
end

section
/-! The scalar unit, and the reads of lanes and state registers, of row 0x4 (R160-R163). -/

namespace Sys2Proof.Machine

open Sys2Proof.Safety

/-! ### Scalar operations (R160, R161) -/

theorem divergedScalar_none {s : State} {d : Nat} (h : d < 32 → s.cg.converged = true) : s.divergedScalar d = none := by
  unfold State.divergedScalar
  rw [if_neg]
  simp only [Bool.and_eq_true, decide_eq_true_eq, Bool.not_eq_true', not_and, Bool.not_eq_false]
  exact h

/-- The second operand as a word: IMM32 sign-extended, or the scalar (R74). -/
def secondWord (s : State) (f : SF) : Word := if f.immf then f.imm.signExtend 64 else s.sreg f.b.toNat

theorem sOperand_eq (s : State) (f : SF) : s.sOperand f = (secondWord s f).toNat := by
  unfold State.sOperand secondWord
  split <;> rfl

/-- A scalar operation completes: its destination holds the function of the operands at the operation's width. -/
theorem scalarEff_completes {s : State} {f : SF} {useA : Bool} (op : Nat → Nat → Nat → Nat) (ha : Acts s f.g)
    (hd : f.d.toNat < 32 → s.cg.converged = true)
    (hp : Passes s f.g [] ((if useA then [.s f.a.toNat] else []) ++ if f.immf then [] else [.s f.b.toNat])) :
    ∃ t, s.conclude (s.scalarEff f useA op) = .next t ∧ WroteS s t f.d.toNat (BitVec.ofNat 64
      (op (SF_width f) ((s.sreg f.a.toNat).toNat % 2 ^ SF_width f) ((secondWord s f).toNat % 2 ^ SF_width f) % 2 ^ SF_width f)) := by
  refine ⟨_, ?_, wroteS_retire s f.d.toNat _ f.d.isLt⟩
  unfold State.scalarEff
  rw [State.guarded_passes _ hp fun _ => ha, divergedScalar_none hd, sOperand_eq]
  rfl

/-- A function of words of every width, computed on numbers, at the width of the operation. -/
theorem scalarValue {op : Nat → Nat → Nat → Nat} {F : ∀ w, BitVec w → BitVec w → BitVec w}
    (h : ∀ w (x y : BitVec w), BitVec.ofNat w (op w x.toNat y.toNat) = F w x y) (f : SF) (a b : Word) :
    BitVec.ofNat 64 (op (SF_width f) (a.toNat % 2 ^ SF_width f) (b.toNat % 2 ^ SF_width f) % 2 ^ SF_width f) =
      if f.w64 then F 64 a b else (F 32 (a.setWidth 32) (b.setWidth 32)).setWidth 64 := by
  unfold SF_width
  cases f.w64
  · rw [if_neg Bool.false_ne_true, if_neg Bool.false_ne_true, ← h, BitVec.toNat_setWidth, BitVec.toNat_setWidth]
    refine BitVec.eq_of_toNat_eq ?_
    rw [BitVec.toNat_setWidth, BitVec.toNat_ofNat, BitVec.toNat_ofNat]
  · rw [if_pos rfl, if_pos rfl, ← h, Nat.mod_eq_of_lt a.isLt, Nat.mod_eq_of_lt b.isLt]
    exact BitVec.eq_of_toNat_eq (by rw [BitVec.toNat_ofNat, BitVec.toNat_ofNat, Nat.mod_mod])

/-- Settles O14: each operation on numbers is that on words, at 64 or 32 bits. -/
theorem scalarArithmeticCompletes : Obligations.ScalarArithmeticCompletes := by
  unfold Obligations.ScalarArithmeticCompletes
  intro one
  have of : ∀ {mk : SF → Instr} {op : Nat → Nat → Nat → Nat} (F : ∀ w, BitVec w → BitVec w → BitVec w),
      (∀ s f, exec (mk f) s = s.conclude (s.scalarEff f true op)) →
      (∀ w (x y : BitVec w), BitVec.ofNat w (op w x.toNat y.toNat) = F w x y) → one mk (F 64) (F 32) := by
    intro mk op F he hF s f _ ha hd hp
    obtain ⟨t, ht, hw⟩ := scalarEff_completes (useA := true) op ha hd hp
    exact ⟨t, (he s f).trans ht, scalarValue hF f _ _ ▸ hw⟩
  refine ⟨of (fun _ x y => x + y) (fun _ _ => rfl) fun w x y => ?add, of (fun _ x y => x - y) (fun _ _ => rfl) fun w x y => ?sub,
    of (fun _ x y => x * y) (fun _ _ => rfl) fun w x y => ?mul, of (fun _ x y => x &&& y) (fun _ _ => rfl) fun w x y => ?and,
    of (fun _ x y => x ||| y) (fun _ _ => rfl) fun w x y => ?or, of (fun _ x y => x ^^^ y) (fun _ _ => rfl) fun w x y => ?xor⟩
  case add => exact BitVec.eq_of_toNat_eq (by rw [BitVec.toNat_ofNat, BitVec.toNat_add])
  case sub => exact BitVec.eq_of_toNat_eq (by rw [BitVec.toNat_ofNat, BitVec.toNat_sub, Nat.add_comm])
  case mul => exact BitVec.eq_of_toNat_eq (by rw [BitVec.toNat_ofNat, BitVec.toNat_mul])
  case and => rw [← BitVec.toNat_and, BitVec.ofNat_toNat, BitVec.setWidth_eq]
  case or => rw [← BitVec.toNat_or, BitVec.ofNat_toNat, BitVec.setWidth_eq]
  case xor => rw [← BitVec.toNat_xor, BitVec.ofNat_toNat, BitVec.setWidth_eq]

theorem ofNat_shiftLeft {w : Nat} (x : BitVec w) (c : Nat) :
    BitVec.ofNat w (if w ≤ c then 0 else x.toNat * 2 ^ c) = x <<< c := by
  split
  · exact (BitVec.shiftLeft_eq_zero ‹_›).symm
  · exact BitVec.eq_of_toNat_eq (by rw [BitVec.toNat_ofNat, BitVec.toNat_shiftLeft, Nat.shiftLeft_eq])

theorem ofNat_shiftRight {w : Nat} (x : BitVec w) (c : Nat) :
    BitVec.ofNat w (if w ≤ c then 0 else x.toNat / 2 ^ c) = x >>> c := by
  refine BitVec.eq_of_toNat_eq ?_
  rw [BitVec.toNat_ofNat, BitVec.toNat_ushiftRight, Nat.shiftRight_eq_div_pow]
  split
  · have hlt : x.toNat < 2 ^ c := lt_of_lt_of_le x.isLt (Nat.pow_le_pow_right (by decide) ‹_›)
    rw [Nat.div_eq_of_lt hlt, Nat.zero_mod]
  · exact Nat.mod_eq_of_lt (lt_of_le_of_lt (Nat.div_le_self _ _) x.isLt)

theorem ofNat_sarBits {w : Nat} (x : BitVec w) (c : Nat) : BitVec.ofNat w (sarBits w x.toNat c) = x.sshiftRight c := by
  refine BitVec.eq_of_getLsbD_eq fun i hi => ?_
  rw [BitVec.getLsbD_ofNat, decide_eq_true hi, Bool.true_and, testBit_sarBits hi, BitVec.getLsbD_sshiftRight,
    decide_eq_false (by omega), Bool.not_false, Bool.true_and, BitVec.msb_eq_getLsbD_last]
  split
  · rw [show min (i + c) (w - 1) = c + i by omega]
    rfl
  · rw [show min (i + c) (w - 1) = w - 1 by omega]
    rfl

/-- The flag word of scmp stands below every width. -/
theorem scmpWord_eq (w x y : Nat) (hw : 5 ≤ w) : scmpWord w x y % 2 ^ w = boolCode (decide (x = y)) +
    2 * boolCode (decide (toSigned w x < toSigned w y)) + 4 * boolCode (decide (x < y)) +
      8 * boolCode (decide (toSigned w y < toSigned w x)) + 16 * boolCode (decide (y < x)) := by
  have he : scmpWord w x y = boolCode (decide (x = y)) + 2 * boolCode (decide (toSigned w x < toSigned w y)) +
      4 * boolCode (decide (x < y)) + 8 * boolCode (decide (toSigned w y < toSigned w x)) + 16 * boolCode (decide (y < x)) := by
    simp only [scmpWord, boolCode, beq_iff_eq, decide_eq_true_eq, mul_ite, Nat.mul_one, Nat.mul_zero]
  have h32 : 2 ^ 5 ≤ 2 ^ w := Nat.pow_le_pow_right (by decide) hw
  rw [he, Nat.mod_eq_of_lt]
  have := boolCode_le_one (decide (x = y))
  have := boolCode_le_one (decide (toSigned w x < toSigned w y))
  have := boolCode_le_one (decide (x < y))
  have := boolCode_le_one (decide (toSigned w y < toSigned w x))
  have := boolCode_le_one (decide (y < x))
  omega

/-- Settles O15: a shift on numbers is that on words, its count the low six bits at either width; scmp's flags fit every width. -/
theorem scalarShiftsAndComparesComplete : Obligations.ScalarShiftsAndComparesComplete := by
  unfold Obligations.ScalarShiftsAndComparesComplete
  intro one
  have of : ∀ {mk : SF → Instr} {useA : Bool} {op : Nat → Nat → Nat → Nat} {R : SF → Word → Word → Word},
      (∀ s f, exec (mk f) s = s.conclude (s.scalarEff f useA op)) →
      (∀ f a b, BitVec.ofNat 64 (op (SF_width f) (a.toNat % 2 ^ SF_width f) (b.toNat % 2 ^ SF_width f) % 2 ^ SF_width f) = R f a b) →
      one mk useA R := by
    intro mk useA op R he hR s f _ ha hd hp
    obtain ⟨t, ht, hw⟩ := scalarEff_completes op ha hd hp
    exact ⟨t, (he s f).trans ht, hR f _ _ ▸ hw⟩
  have count : ∀ b : Word, (b.setWidth 32).toNat % 64 = b.toNat % 64 := fun b => by
    rw [BitVec.toNat_setWidth, Nat.mod_mod_of_dvd _ (by decide)]
  clear_value one
  refine ⟨of (fun _ _ => rfl) fun f a b => ?sshl, of (fun _ _ => rfl) fun f a b => ?sshr, of (fun _ _ => rfl) fun f a b => ?ssar,
    of (fun _ _ => rfl) fun f a b => ?scmp, of (fun _ _ => rfl) fun f a b => ?smovi⟩
  case sshl =>
    exact count b ▸ scalarValue (op := fun w a b => if w ≤ b % 64 then 0 else a * 2 ^ (b % 64)) (F := fun _ x y => x <<< (y.toNat % 64))
      (fun _ x y => ofNat_shiftLeft x _) f a b
  case sshr =>
    exact count b ▸ scalarValue (op := fun w a b => if w ≤ b % 64 then 0 else a / 2 ^ (b % 64)) (F := fun _ x y => x >>> (y.toNat % 64))
      (fun _ x y => ofNat_shiftRight x _) f a b
  case ssar =>
    exact count b ▸ scalarValue (op := fun w a b => sarBits w a (b % 64)) (F := fun _ x y => x.sshiftRight (y.toNat % 64))
      (fun _ x y => ofNat_sarBits x _) f a b
  case scmp =>
    unfold SF_width
    rw [scmpWord_eq _ _ _ (by split <;> decide)]
  case smovi =>
    exact scalarValue (op := fun _ _ b => b) (F := fun _ _ y => y) (fun _ _ y => by rw [BitVec.ofNat_toNat, BitVec.setWidth_eq]) f a b

/-! ### vrd and vwr (R162) -/

/-- A write of a vector register keeps whatever does not depend on the vector registers and their marks. -/
theorem putV_keeps {α : Type} (p : Group → α) (hp : ∀ (g : Group) v w x, p { g with vregs := v, vpois := w, skeinVals := x } = p g)
    (g : Group) (d : Nat) (wide : Bool) (m : BitVec 32) (val : Nat → Nat) : p (g.putV d wide m val) = p g :=
  (hp _ g.vregs g.vpois g.skeinVals).symm.trans (congrArg p (Group.putV_else g d wide m val))

/-- A clean write of a register or pair under any mask changes nothing but the lanes of the mask. -/
theorem onlyWrites_putV (s : State) (d : Nat) (wide : Bool) (m : BitVec 32) (val : Nat → Nat) :
    OnlyWrites s (s.modG fun g => g.putV d wide m val).retire (vDest d wide m) := by
  refine frame_of_group s (fun g => g.putV d wide m val) Arm.advance _ ?_ (fun _ => putV_keeps Group.xs (fun _ _ _ _ => rfl) ..)
    (fun _ => putV_keeps (fun g => g.arm (1 - s.slot)) (fun _ _ _ _ => rfl) ..) ?_ (State.advance_scal _) (fun r l h => ?_)
    (fun p l _ => ⟨putV_keeps (fun g => bit (g.pred p) l) (fun _ _ _ _ => rfl) ..,
      putV_keeps (fun g => bit (g.ppoison p) l) (fun _ _ _ _ => rfl) ..⟩)
    fun n _ _ => ⟨putV_keeps (fun g => g.sreg s.slot n) (fun _ _ _ _ => rfl) ..,
      putV_keeps (fun g => g.spoison s.slot n) (fun _ _ _ _ => rfl) ..⟩
  · cases wide <;> simp only [Group.putV, Group.setV, Group.markV, if_true, if_false, Bool.false_eq_true]
  · rw [show (Group.putV s.cg d wide m val).arm s.slot = s.ca from putV_keeps (fun g => g.arm s.slot) (fun _ _ _ _ => rfl) ..]
    exact State.sameArm_advance _
  · rw [Group.vlane_putV, Group.vpoison_putV, bit_and]
    cases hb : bit m l
    · simp
    · have hr : r ≠ d ∧ ¬ (wide = true ∧ r = d + 1) := by simpa [vDest, hb] using h
      simp [hr.1, hr.2]

theorem laneVal_putV (g : Group) (d : Nat) (wide : Bool) {m : BitVec 32} (val : Nat → Nat) {l : Nat}
    (h : bit (m &&& g.present) l = true) : laneVal (g.putV d wide m val) wide d l = val l % 2 ^ (if wide then 64 else 32) := by
  unfold laneVal Group.vlane64
  simp only [Group.vlane_putV, h, if_true]
  cases wide
  · simp
  · simp only [if_true, true_and, show ¬ d = d + 1 by omega, if_false, BitVec.toNat_append, BitVec.toNat_ofNat]
    rw [← Nat.shiftLeft_add_eq_or_of_lt (Nat.mod_lt _ (by decide)), Nat.shiftLeft_eq]
    omega

theorem laneVal_setArm (g : Group) (slot : Nat) (a : Arm) (wide : Bool) (d l : Nat) :
    laneVal (g.setArm slot a) wide d l = laneVal g wide d l := by
  unfold laneVal Group.vlane64
  simp only [Group.vlane_setArm]

theorem execVrd_completes {s : State} {f : VF} {a : BitVec 8} (hw : (Instr.vrd f).wf = true) (hfa : f.a = .v a) (ha : Acts s f.g)
    (hd : f.d.toNat < 32 → s.cg.converged = true)
    (hp : Passes s f.g [(a.toNat, if f.ty.is64 then 2 else 1)]
      (f.b.reads false 0 ++ [.v a.toNat (if f.ty.is64 then 2 else 1) (maskOf fun l => l == s.laneArg f)])) :
    ∃ t, exec (.vrd f) s = .next t ∧
      WroteS s t f.d.toNat (BitVec.ofNat 64 (laneVal s.cg f.ty.is64 a.toNat (s.raw .n32 0 f.b % 32))) := by
  have hd64 : f.d.toNat < 64 := by
    have h : f.wfVrd = true := hw
    simp only [VF.wfVrd, Bool.and_eq_true, decide_eq_true_eq] at h
    tauto
  have hv : (if f.ty.is64 then s.cg.vlane64 a.toNat (s.laneArg f) else (s.cg.vlane a.toNat (s.laneArg f)).setWidth 64) =
      BitVec.ofNat 64 (laneVal s.cg f.ty.is64 a.toNat (s.raw .n32 0 f.b % 32)) := by
    unfold laneVal
    cases f.ty.is64
    · exact (BitVec.ofNat_toNat 64 _).symm
    · exact ((BitVec.ofNat_toNat 64 _).trans (BitVec.setWidth_eq _)).symm
  refine ⟨_, ?_, wroteS_retire s f.d.toNat _ hd64⟩
  show s.conclude (s.vrdEff f) = _
  unfold State.vrdEff
  simp only [hfa, Nat.mod_eq_of_lt hd64]
  rw [State.guarded_passes _ hp fun _ => ha, divergedScalar_none hd, ← hv]
  rfl

theorem execVwr_completes {s : State} {f : VF} (ha : Acts s f.g)
    (hp : Passes s f.g [(f.d.toNat, if f.ty.is64 then 2 else 1)] (f.a.reads f.ty.is64 0 ++ f.b.reads false 0)) :
    let l := s.raw .n32 0 f.b % 32
    ∃ t, exec (.vwr f) s = .next t ∧
      OnlyWrites s t { v := fun r k => (r == f.d.toNat || (f.ty.is64 && r == f.d.toNat + 1)) && k == l && bit s.armMask l } ∧
      (bit (s.armMask &&& s.cg.present) l = true → laneVal t.cg f.ty.is64 f.d.toNat l = s.raw f.ty 0 f.a) := by
  intro l
  have hl : l < 32 := Nat.mod_lt _ (by decide)
  have hm : ∀ k, bit (s.armMask &&& maskOf fun j => j == l) k = (k == l && bit s.armMask l) := fun k => by
    rw [bit_and]
    by_cases hk : k < 32
    · rw [bit_maskOf _ hk, Bool.and_comm]
      by_cases he : k = l
      · rw [he]
      · rw [beq_eq_false_iff_ne.mpr he, Bool.false_and, Bool.false_and]
    · rw [show bit s.armMask k = false from BitVec.getLsbD_of_ge _ k (by omega), Bool.false_and,
        beq_eq_false_iff_ne.mpr (by omega), Bool.false_and]
  have he : exec (.vwr f) s = .next (s.modG fun g => g.putV f.d.toNat f.ty.is64 (s.armMask &&& maskOf fun j => j == l)
      fun _ => s.raw f.ty 0 f.a).retire := by
    show s.conclude (s.vwrEff f) = _
    unfold State.vwrEff
    rw [State.guarded_passes _ hp fun _ => ha]
    rfl
  refine ⟨_, he, ?_, fun hb => ?_⟩
  · have h := onlyWrites_putV s f.d.toNat f.ty.is64 (s.armMask &&& maskOf fun j => j == l) fun _ => s.raw f.ty 0 f.a
    simp only [vDest, hm, ← Bool.and_assoc] at h
    exact h
  · rw [bit_and, Bool.and_eq_true] at hb
    rw [State.cg_retire, laneVal_setArm, State.cg_modG, laneVal_putV _ _ _ _ (by rw [bit_and, hm, beq_self_eq_true, hb.1, hb.2]; rfl),
      Nat.mod_eq_of_lt (raw_lt s f.ty 0 f.a)]

/-! ### mfs (R163) -/

/-- mfs of LANE: each active lane receives its number. -/
theorem execMfs_lane {s : State} {f : SF} (h0 : f.num = 0) (hp : Passes s f.g [(f.vreg, 1)] []) :
    ∃ t, exec (.mfs f) s = .next t ∧ WroteV s t f.g f.vreg false false fun l r => r = l := by
  have he : exec (.mfs f) s = .next (s.modG fun g => g.putV f.vreg false (s.active f.g) fun l => l).retire := by
    show s.conclude (s.mfsEff f) = _
    unfold State.mfsEff
    rw [h0, if_pos (beq_self_eq_true 0), State.guarded_passes _ hp fun h => absurd h Bool.false_ne_true]
    rfl
  refine ⟨_, he, wroteV_mono (wroteV_putV s f.g f.vreg false fun l => l) fun l r hl hr => hr.trans (Nat.mod_eq_of_lt ?_)⟩
  exact lt_trans (bit_lt _ _ hl) (by decide)

/-- mfs of any other register reads it once, for the arm. -/
theorem execMfs_scalar {s : State} {f : SF} (h0 : f.num ≠ 0) (ha : Acts s f.g) (hd : f.d.toNat < 32 → s.cg.converged = true)
    (hp : Passes s f.g [] []) : exec (.mfs f) s =
      if f.num = 0x10 then .next (s.readCycle.1.setS f.d.toNat s.readCycle.2).retire
      else .next (s.setS f.d.toNat (BitVec.ofNat 64 (s.stateReg f.num))).retire := by
  show s.conclude (s.mfsEff f) = _
  unfold State.mfsEff
  rw [if_neg (by simpa using h0), State.guarded_passes _ hp fun _ => ha, divergedScalar_none hd]
  by_cases hc : f.num = 0x10
  · simp only [hc, beq_self_eq_true, if_true]
    rfl
  · simp only [hc, beq_eq_false_iff_ne.mpr hc, Bool.false_eq_true, if_false]
    rfl

/-- Settles O16: vrd and mfs are writes of one scalar, vwr of one lane; CYCLE is read in the state whose count has gone on. -/
theorem laneAndStateReadsComplete : Obligations.LaneAndStateReadsComplete := by
  unfold Obligations.LaneAndStateReadsComplete
  refine ⟨fun s f a hw hfa ha hd hp => execVrd_completes hw hfa ha hd hp, fun s f _ ha hp => execVwr_completes ha hp,
    fun s f _ h0 hp => execMfs_lane h0 hp, fun s f _ h0 hc ha hd hp => ?other, fun s f _ hc ha hd hp => ?cycle⟩
  case other =>
    have hw := wroteS_retire s f.d.toNat (BitVec.ofNat 64 (s.stateReg f.num)) f.d.isLt
    have he := execMfs_scalar h0 ha hd hp
    rw [if_neg hc] at he
    refine ⟨_, he, hw, fun h => ?_, fun h => ?_, fun h => ?_, fun h => ?_⟩ <;> refine hw.2.1.trans ?_ <;> rw [h]
    · exact BitVec.ofNat_toNat _ s.ca.mask
    · exact BitVec.ofNat_toNat _ s.ca.fmt
    · exact (BitVec.ofNat_toNat 64 _).trans (BitVec.setWidth_eq s.ca.trappc)
    · exact (BitVec.ofNat_toNat 64 _).trans (BitVec.setWidth_eq s.ca.trapx)
  case cycle =>
    have he := execMfs_scalar (by rw [hc]; decide) ha hd hp
    rw [if_pos hc] at he
    exact ⟨_, he, wroteS_retire s.readCycle.1 f.d.toNat s.readCycle.2 f.d.isLt⟩

end Sys2Proof.Machine
end

section
/-! Branches (R185, R186): the condition, the target, and the arm that a transfer moves. -/

namespace Sys2Proof.Machine

open Sys2Proof.Safety

/-! ### Conditions and targets -/

/-- The condition of a branch, R185. -/
theorem condition_iff (s : State) (f : BF) : s.condition f = true ↔ Cond s f := by
  unfold State.condition Cond
  cases f.ck <;> simp

theorem target_eq {n : Nat} (s : State) (d : BitVec n) : s.target d.toInt = s.hdr + 8 * d.signExtend 64 := by
  unfold State.target BitVec.signExtend
  rw [BitVec.ofInt_mul]
  rfl

/-- The address of the executing instruction depends on the arm's place alone. -/
theorem ipc_of_place {s t : State} (hc : t.ca.clause = s.ca.clause) (hp : t.ca.pc = s.ca.pc) : t.ipc = s.ipc := by
  unfold State.ipc
  rw [hc, hp]

theorem ipc_setS (s : State) (n : Nat) (x : Word) : (s.setS n x).ipc = s.ipc :=
  ipc_of_place (s.place_setS n x).1 (s.place_setS n x).2

/-! ### The arm that moves -/

/-- An arm that jumps from the executing instruction's address is at its target. -/
theorem at_jump {s u : State} (h : u.ipc = s.ipc) (t : Word) : At s (u.jump t) t := by
  unfold At
  rw [ca_jump]
  exact ⟨rfl, rfl, h⟩

theorem onlyWrites_jump (s : State) (t : Word) : OnlyWrites s (s.jump t) {} :=
  onlyWrites_move s _ (moves_jump t s.ipc)

theorem onlyWrites_retire (s : State) : OnlyWrites s s.retire {} := onlyWrites_move s Arm.advance moves_advance

/-- A scalar written by an instruction that jumps. -/
theorem wroteS_jump (s : State) {d : Nat} (x t : Word) (hd : d < 64) : WroteS s ((s.setS d x).jump t) d x :=
  wroteS_setS s d x _ (moves_jump t (s.setS d x).ipc) hd

/-- An instruction that retires as it stands goes on behind itself. -/
theorem goesOn_self (s : State) : GoesOn s s.retire := goesOn_retire rfl rfl

theorem goesOn_setS (s : State) (n : Nat) (x : Word) : GoesOn s (s.setS n x).retire :=
  goesOn_retire (s.place_setS n x).1 (s.place_setS n x).2

/-- A branch that only moves: to its target where its condition holds, and on otherwise. -/
theorem branch_moves {s : State} {c : Bool} {p : Word} {P : Prop} (hc : c = true ↔ P) :
    ∃ t, s.conclude (if c then .stay (s.jump p) else .retire s) = .next t ∧ OnlyWrites s t {} ∧
      (P → At s t p) ∧ (¬ P → GoesOn s t) := by
  cases c with
  | true => exact ⟨_, rfl, onlyWrites_jump s p, fun _ => at_jump rfl p, fun h => absurd (hc.mp rfl) h⟩
  | false => exact ⟨_, rfl, onlyWrites_retire s, fun h => absurd (hc.mpr h) Bool.false_ne_true, fun _ => goesOn_self s⟩

/-! ### bra, call, ret, loop and jmp -/

section
variable {s : State} {f : BF}

theorem execBra_completes (ha : Acts s f.g) (hp : Passes s f.g [] (condReads f)) :
    ∃ t, exec (.bra f) s = .next t ∧ OnlyWrites s t {} ∧ (Cond s f → At s t (s.hdr + 8 * f.disp.signExtend 64)) ∧
      (¬ Cond s f → GoesOn s t) := by
  show ∃ t, s.conclude (s.braEff f) = _ ∧ _
  rw [State.braEff, State.guarded_passes _ hp fun _ => ha, target_eq]
  exact branch_moves (condition_iff s f)

theorem execRet_completes (ha : Acts s f.g) (hp : Passes s f.g [] (condReads f)) (hl : Cond s f → s.rdTrap (.s 63) = none) :
    ∃ t, exec (.ret f) s = .next t ∧ OnlyWrites s t {} ∧ (Cond s f → At s t (s.sreg 63)) ∧ (¬ Cond s f → GoesOn s t) := by
  have hr : Passes s f.g [] (condReads f ++ if s.condition f then [.s 63] else []) := by
    obtain ⟨hguard, hregs, hreads⟩ := hp
    refine ⟨hguard, hregs, fun r hr => ?_⟩
    rcases List.mem_append.mp hr with h | h
    · exact hreads r h
    · split at h
      · next hc => rw [List.mem_singleton.mp h]; exact hl ((condition_iff s f).mp hc)
      · cases h
  show ∃ t, s.conclude (s.retEff f) = _ ∧ _
  rw [State.retEff, State.guarded_passes _ hr fun _ => ha]
  exact branch_moves (condition_iff s f)

theorem execCall_completes (ha : Acts s f.g) (hp : Passes s f.g [] (condReads f)) :
    ∃ t, exec (.call f) s = .next t ∧ (Cond s f → At s t (s.hdr + 8 * f.disp.signExtend 64) ∧
      WroteS s t 63 (s.hdr + BitVec.ofNat 64 (8 * (s.nwords + 1)))) ∧ (¬ Cond s f → GoesOn s t ∧ OnlyWrites s t {}) := by
  show ∃ t, s.conclude (s.callEff f) = _ ∧ _
  rw [State.callEff, State.guarded_passes _ hp fun _ => ha, target_eq, ← condition_iff]
  cases s.condition f with
  | true => exact ⟨_, rfl, fun _ => ⟨at_jump (ipc_setS s 63 _) _, wroteS_jump s _ _ (by decide)⟩, fun h => absurd rfl h⟩
  | false => exact ⟨_, rfl, fun h => absurd h Bool.false_ne_true, fun _ => ⟨goesOn_self s, onlyWrites_retire s⟩⟩

theorem execLoop_completes (ha : Acts s f.g) (hd : f.cs.toNat < 32 → s.cg.converged = true)
    (hp : Passes s f.g [] [.s f.cs.toNat]) :
    ∃ t, exec (.loop f) s = .next t ∧ WroteS s t f.cs.toNat (s.sreg f.cs.toNat - 1) ∧
      (s.sreg f.cs.toNat ≠ 1 → At s t (s.hdr + 8 * f.disp.signExtend 64)) ∧ (s.sreg f.cs.toNat = 1 → GoesOn s t) := by
  show ∃ t, s.conclude (s.loopEff f) = _ ∧ _
  rw [State.loopEff, State.guarded_passes _ hp fun _ => ha, State.divergedScalar_none hd, target_eq]
  have hz : (s.sreg f.cs.toNat - 1 != 0) = true ↔ s.sreg f.cs.toNat ≠ 1 := by
    rw [bne_iff_ne, sub_ne_zero]
  cases hc : s.sreg f.cs.toNat - 1 != 0 with
  | true =>
    refine ⟨_, by simp only [hc, if_true]; rfl, wroteS_jump s _ _ f.cs.isLt, fun _ => at_jump (ipc_setS s _ _) _, fun h => ?_⟩
    exact absurd h (hz.mp hc)
  | false =>
    refine ⟨_, by simp only [hc, Bool.false_eq_true, if_false]; rfl, wroteS_retire s _ _ f.cs.isLt, fun h => ?_, fun _ => goesOn_setS s _ _⟩
    exact absurd (hz.mpr h) (by rw [hc]; exact Bool.false_ne_true)

theorem execJmp_completes {f : SF} (ha : Acts s f.g) (hp : Passes s f.g [] (.s f.a.toNat :: if f.immf then [] else [.s f.b.toNat])) :
    ∃ t, exec (.jmp f) s = .next t ∧ OnlyWrites s t {} ∧
      At s t (s.sreg f.a.toNat + if f.immf then f.imm.signExtend 64 else s.sreg f.b.toNat) := by
  show ∃ t, s.conclude (s.jmpEff f) = _ ∧ _
  rw [State.jmpEff, State.guarded_passes _ hp fun _ => ha]
  exact ⟨_, rfl, onlyWrites_jump s _, at_jump rfl _⟩

end

/-- Settles O18, one lemma for each of the five instructions. -/
theorem branchesComplete : Obligations.BranchesComplete := by
  unfold Obligations.BranchesComplete
  exact ⟨fun s f _ ha hp => execBra_completes ha hp, fun s f _ ha hp => execCall_completes ha hp,
    fun s f _ ha hp hl => execRet_completes ha hp hl, fun s f _ ha hd hp => execLoop_completes ha hd hp,
    fun s f _ ha hp => execJmp_completes ha hp⟩

end Sys2Proof.Machine
end

section
/-! bwait, vote, yield and nop (R188-R190), and instructions whose guard leaves them no lane (R62). -/

namespace Sys2Proof.Machine

open Sys2Proof.Safety

/-! ### Two changes of the executing arm -/

theorem merase_mset {V : Type} [DecidableEq V] (d : V) (m : SMap V) (k : Nat) (v : V) : merase (mset d m k v) k = merase m k := by
  have key : ∀ m' : SMap V, (∀ p ∈ m', p.1 ≠ k) → merase (minsert k v m') k = m' := by
    intro m' hm
    induction m' with
    | nil => simp [minsert, merase]
    | cons p m' ih =>
      obtain ⟨hp, hm⟩ := List.forall_mem_cons.mp hm
      have he : List.filter (fun q : Nat × V => q.1 != k) m' = m' := List.filter_eq_self.mpr fun q hq => by simpa using hm q hq
      unfold merase at ih ⊢
      simp only [minsert]
      split
      · simp [hp, he]
      · simp [hp, ih hm]
  unfold mset
  split
  · simp [merase, List.filter_filter]
  · exact key _ (merase_key m k)

/-- The later of two writes at one key stays. -/
theorem mset_mset {V : Type} [DecidableEq V] (d : V) (m : SMap V) (k : Nat) (v w : V) : mset d (mset d m k v) k w = mset d m k w := by
  show (if w = d then merase (mset d m k v) k else minsert k w (merase (mset d m k v) k)) = _
  rw [merase_mset]
  rfl

theorem modA_modA (s : State) (f g : Arm → Arm) : (s.modA f).modA g = s.modA fun a => g (f a) := by
  have hc : (s.modA f).cg.setArm s.slot (g (s.modA f).ca) = s.cg.setArm s.slot (g (f s.ca)) := by
    rw [State.cg_modA, ca_modA, setArm_setArm]
  show ({ s.modA f with groups := mset {} (s.modA f).groups s.gid ((s.modA f).cg.setArm s.slot (g (s.modA f).ca)) } : State) = _
  rw [hc]
  show ({ s with groups := mset {} (mset {} s.groups s.gid (s.cg.setArm s.slot (f s.ca))) s.gid _ } : State) = _
  rw [mset_mset]
  rfl

theorem moves_comp {m n : Arm → Arm} (hm : Moves m) (hn : Moves n) : Moves fun a => n (m a) := fun a => by
  obtain ⟨h1, h2, h3⟩ := hm a
  obtain ⟨h4, h5, h6⟩ := hn (m a)
  exact ⟨sameArm_trans h1 h4, h5.trans h2, h6.trans h3⟩

/-- The mark of a yield is no register. -/
theorem moves_yielded : Moves fun a => ({ a with yielded := true } : Arm).advance :=
  moves_comp (m := fun a => { a with yielded := true }) (fun _ => ⟨rfl, rfl, rfl⟩) moves_advance

/-- Nor is what bwait is to write next. -/
theorem moves_bw : Moves fun a => ({ a with bw := true } : Arm).advance :=
  moves_comp (m := fun a => { a with bw := true }) (fun _ => ⟨rfl, rfl, rfl⟩) moves_advance

theorem advance_yielded (a : Arm) : a.advance.yielded = a.yielded := by
  simp only [Arm.advance]
  split
  · rfl
  · split <;> rfl

/-! ### bwait, yield and nop -/

section
variable {s : State}

theorem execBwait_completes {f : SF} (ha : Acts s f.g) (hp : Passes s f.g [] (if f.immf then [] else [.s f.b.toNat])) :
    ∃ t, exec (.bwait f) s = .next t ∧
      WroteS s t f.d.toNat (if (∃ c, s.ca.clause = some c ∧ c.idx = 0) ∧ s.ca.bw = false then 0 else 1) := by
  have hw : ∀ x, WroteS s ((s.setS f.d.toNat x).modA fun a => { a with bw := true }).retire f.d.toNat x := fun x => by
    have h := wroteS_setS s f.d.toNat x _ moves_bw f.d.isLt
    rwa [← modA_modA _ fun a => { a with bw := true }] at h
  show ∃ t, s.conclude (s.bwaitEff f) = _ ∧ _
  rw [State.bwaitEff, State.guarded_passes _ hp fun _ => ha]
  refine ⟨_, rfl, ?_⟩
  convert hw _ using 1
  cases s.ca.clause <;> cases s.ca.bw <;> simp

theorem execYield_completes {f : BF} (ha : Acts s f.g) (hp : Passes s f.g [] []) :
    ∃ t, exec (.yield f) s = .next t ∧ OnlyWrites s t {} ∧ GoesOn s t ∧ t.ca.yielded = true := by
  have hw := onlyWrites_move s _ moves_yielded
  rw [← modA_modA _ fun a => { a with yielded := true }] at hw
  refine ⟨(s.modA fun a => { a with yielded := true }).retire, ?_, hw, ?_, ?_⟩
  · show s.conclude (s.yieldEff f) = _
    rw [State.yieldEff, State.guarded_passes _ hp fun _ => ha]
    rfl
  · exact goesOn_retire (by rw [ca_modA]) (by rw [ca_modA])
  · rw [ca_retire, advance_yielded, ca_modA]

end

/-! ### An instruction that acts once for the arm and has no lane (R62) -/

section
variable {s : State} {g : Guard}

/-- The checks of an instruction that acts once for the arm end in a no-op where its guard leaves it no lane. -/
theorem guarded_noLane (h : NoLane s g) (regs : List (Nat × Nat)) (reads : BitVec 32 → List Rd) (k : BitVec 32 → Eff) :
    s.guarded g true regs reads k = .retire s := by
  obtain ⟨hg, ha, -⟩ := h
  simp only [State.guarded, hg, ha, Bool.true_and, beq_self_eq_true, if_true]

theorem conclude_guarded_noLane (h : NoLane s g) {regs : List (Nat × Nat)} {reads : BitVec 32 → List Rd} {k : BitVec 32 → Eff} :
    s.conclude (s.guarded g true regs reads k) = .next s.retire := by
  rw [guarded_noLane h, State.conclude_retire]

theorem park_noLane {g : Guard} (h : NoLane s g) : s.ca.park = none := by
  obtain ⟨-, -, hpark⟩ := h
  exact hpark

/-- An arm that is not parked begins its instruction. -/
theorem resumed_noLane {g : Guard} (h : NoLane s g) (k : List Byte → List Nat → Nat → Eff) (e : Eff) : s.resumed k e = e := by
  simp only [State.resumed, park_noLane h]

theorem xBar_noLane {f : XF} (h : f.ct = .bar → f.bar.toNat < (s.level s.cg.tid s.cg.lid).recs.length) (e : Eff) : s.xBar f e = e := by
  unfold State.xBar State.barIndex
  split
  · next hb => exact if_neg (Nat.not_le.mpr (h (by simpa using hb)))
  · rfl

theorem barIndex_inside {b : Nat} (h : b < (s.level s.cg.tid s.cg.lid).recs.length) (e : Eff) : s.barIndex b e = e :=
  if_neg (Nat.not_le.mpr h)

theorem privileged_handler (h : s.ca.handler = true) (opc : Nat) (e : Eff) : s.privileged opc e = e := if_pos h

theorem execNop_completes {f : BF} (hp : Passes s f.g [] []) :
    ∃ t, exec (.nop f) s = .next t ∧ OnlyWrites s t {} ∧ GoesOn s t := by
  refine ⟨s.retire, ?_, onlyWrites_retire s, goesOn_self s⟩
  show s.conclude (s.guarded f.g true [] (fun _ => []) fun _ => .retire s) = _
  by_cases ha : s.active f.g = 0
  · simp only [State.guarded, hp.1, ha, Bool.true_and, beq_self_eq_true, if_true, State.conclude_retire]
  · rw [State.guarded_passes _ hp fun _ => ha, State.conclude_retire]

end

section
variable {s : State} {g : Guard}

theorem conclude_noLane {e : Eff} (h : e = .retire s) : s.conclude e = .next s.retire := congrArg s.conclude h

theorem scalarEff_noLane {f : SF} (h : NoLane s f.g) (useA : Bool) (op : Nat → Nat → Nat → Nat) : s.scalarEff f useA op = .retire s := by
  simp only [State.scalarEff, guarded_noLane h]

theorem exitEff_noLane {f : BF} (h : NoLane s f.g) : s.exitEff f = .retire s := by
  obtain ⟨hread, hnone, -⟩ := h
  have hp : Passes s f.g [] [] := ⟨hread, List.forall_mem_nil _, List.forall_mem_nil _⟩
  rw [State.exitEff, State.guarded_passes _ hp (absurd · Bool.false_ne_true), hnone]
  rfl

theorem syswrEff_noLane {f : YF} (h : NoLane s f.g) (hh : s.ca.handler = true)
    (hr : sysHandlerRw f.imm.toNat = true ∨ s.serviceCtx = true ∧ (f.imm.toNat < 0x304 ∧ 0x100 ≤ f.imm.toNat ∨ f.imm.toNat = 0x380 ∨
      0x390 ≤ f.imm.toNat ∧ f.imm.toNat ≤ 0x3AF ∨ (routePorts f.imm.toNat).isSome = true)) (write : Nat → Nat → Option State) :
    s.syswrEff f write = .retire s := by
  have hc : (!(sysHandlerRw f.imm.toNat || (((decide (0x100 ≤ f.imm.toNat) && decide (f.imm.toNat ≤ 0x303)) || f.imm.toNat == 0x380 ||
      (decide (0x390 ≤ f.imm.toNat) && decide (f.imm.toNat ≤ 0x3AF)) || (routePorts f.imm.toNat).isSome) && s.serviceCtx))) = false := by
    rcases hr with hr | ⟨hs, hn⟩
    · simp [hr]
    · simp only [hs, Bool.and_true, Bool.not_eq_false', Bool.or_eq_true, Bool.and_eq_true, decide_eq_true_eq, beq_iff_eq]
      refine .inr ?_
      rcases hn with ⟨h1, h2⟩ | h | h | h
      · exact .inl (.inl (.inl ⟨h2, by omega⟩))
      · exact .inl (.inl (.inr h))
      · exact .inl (.inr h)
      · exact .inr h
  simp only [State.syswrEff, privileged_handler hh, hc, Bool.false_eq_true, if_false, guarded_noLane h]

end

section
variable (s : State)

/-- Instructions of row 0x4 and those of rows 0x5 and 0x6 in the S format. -/
theorem noLane_scalar : ∀ mk ∈ ([.sadd, .ssub, .smul, .sand, .sor, .sxor, .sshl, .sshr, .ssar, .scmp, .smovi, .mtsSeed, .fmtset, .jmp, .bwait, .fork, .join] : List (SF → Instr)), ∀ f, NoLane s f.g → exec (mk f) s = .next s.retire := by
  simp only [List.forall_mem_cons, List.not_mem_nil, false_implies, implies_true, and_true]
  exact ⟨fun f h => conclude_noLane (scalarEff_noLane h _ _),
    fun f h => conclude_noLane (scalarEff_noLane h _ _),
    fun f h => conclude_noLane (scalarEff_noLane h _ _),
    fun f h => conclude_noLane (scalarEff_noLane h _ _),
    fun f h => conclude_noLane (scalarEff_noLane h _ _),
    fun f h => conclude_noLane (scalarEff_noLane h _ _),
    fun f h => conclude_noLane (scalarEff_noLane h _ _),
    fun f h => conclude_noLane (scalarEff_noLane h _ _),
    fun f h => conclude_noLane (scalarEff_noLane h _ _),
    fun f h => conclude_noLane (scalarEff_noLane h _ _),
    fun f h => conclude_noLane (scalarEff_noLane h _ _),
    fun f h => conclude_guarded_noLane h,
    fun f h => conclude_guarded_noLane h,
    fun f h => conclude_guarded_noLane h,
    fun f h => conclude_guarded_noLane h,
    fun f h => conclude_noLane (e := s.forkEff f) (by simp only [State.forkEff, guarded_noLane h]),
    fun f h => conclude_guarded_noLane h⟩

/-- vrd and vwr. -/
theorem noLane_lane : ∀ mk ∈ ([.vrd, .vwr] : List (VF → Instr)), ∀ f, NoLane s f.g → exec (mk f) s = .next s.retire := by
  simp only [List.forall_mem_cons, List.not_mem_nil, false_implies, implies_true, and_true]
  exact ⟨fun f h => conclude_noLane (e := s.vrdEff f) (by simp only [State.vrdEff, guarded_noLane h]),
    fun f h => conclude_noLane (e := s.vwrEff f) (by simp only [State.vwrEff, guarded_noLane h])⟩

/-- The B format; exit, which acts per lane, leaves its arm as it is. -/
theorem noLane_branch : ∀ mk ∈ ([.bra, .call, .ret, .loop, .exitG, .yield, .nop] : List (BF → Instr)), ∀ f, NoLane s f.g → exec (mk f) s = .next s.retire := by
  simp only [List.forall_mem_cons, List.not_mem_nil, false_implies, implies_true, and_true]
  exact ⟨fun f h => conclude_guarded_noLane h,
    fun f h => conclude_guarded_noLane h,
    fun f h => conclude_guarded_noLane h,
    fun f h => conclude_guarded_noLane h,
    fun f h => conclude_noLane (exitEff_noLane h),
    fun f h => conclude_guarded_noLane h,
    fun f h => conclude_guarded_noLane h⟩

/-- Scalar accesses, range operations and fence. -/
theorem noLane_memory : ∀ mk ∈ ([.sld, .sst, .cwb, .cinv, .cwbi, .fence] : List (MF → Instr)), ∀ f, NoLane s f.g → exec (mk f) s = .next s.retire := by
  simp only [List.forall_mem_cons, List.not_mem_nil, false_implies, implies_true, and_true]
  exact ⟨fun f h => conclude_noLane (e := s.memEff (.sld f)) (by simp only [State.memEff, guarded_noLane h]),
    fun f h => conclude_noLane (e := s.memEff (.sst f)) (by simp only [State.memEff, guarded_noLane h]),
    fun f h => conclude_guarded_noLane h,
    fun f h => conclude_guarded_noLane h,
    fun f h => conclude_guarded_noLane h,
    fun f h => conclude_guarded_noLane h⟩

/-- Copies, whose record index is checked before. -/
theorem noLane_copies : ∀ mk ∈ ([.cpy, .gath, .cpym] : List (XF → Instr)), ∀ f, NoLane s f.g → 
    (f.ct = .bar → f.bar.toNat < (s.level s.cg.tid s.cg.lid).recs.length) → exec (mk f) s = .next s.retire := by
  simp only [List.forall_mem_cons, List.not_mem_nil, false_implies, implies_true, and_true]
  exact ⟨fun f h hb => conclude_noLane (e := s.cpyEff f) (by simp only [State.cpyEff, resumed_noLane h, xBar_noLane hb, guarded_noLane h]),
    fun f h hb => conclude_noLane (e := s.gathEff f) (by simp only [State.gathEff, resumed_noLane h, xBar_noLane hb, guarded_noLane h]),
    fun f h hb => conclude_noLane (e := s.cpymEff f) (by simp only [State.cpymEff, resumed_noLane h, xBar_noLane hb, guarded_noLane h])⟩

/-- The rest of the X format. -/
theorem noLane_transfers : ∀ mk ∈ ([.patadv, .patq, .cpyres, .qfence, .msend, .mpost, .mcancel, .mprobe, .subon, .suboff, .subflush, .coll] : List (XF → Instr)), ∀ f, NoLane s f.g → exec (mk f) s = .next s.retire := by
  simp only [List.forall_mem_cons, List.not_mem_nil, false_implies, implies_true, and_true]
  exact ⟨fun f h => conclude_noLane (e := s.patadvEff f) (by simp only [State.patadvEff, guarded_noLane h]),
    fun f h => conclude_guarded_noLane h,
    fun f h => conclude_guarded_noLane h,
    fun f h => conclude_guarded_noLane h,
    fun f h => conclude_guarded_noLane h,
    fun f h => conclude_noLane (e := s.mpostEff f) (by simp only [State.mpostEff, resumed_noLane h, guarded_noLane h]),
    fun f h => conclude_guarded_noLane h,
    fun f h => conclude_guarded_noLane h,
    fun f h => conclude_guarded_noLane h,
    fun f h => conclude_guarded_noLane h,
    fun f h => conclude_guarded_noLane h,
    fun f h => conclude_noLane (e := s.collEff f) (by simp only [State.collEff, resumed_noLane h, guarded_noLane h])⟩

/-- Queue registers. -/
theorem noLane_queues : ∀ mk ∈ ([.qpush, .qpop, .qtry] : List (QF → Instr)), ∀ f, NoLane s f.g → exec (mk f) s = .next s.retire := by
  simp only [List.forall_mem_cons, List.not_mem_nil, false_implies, implies_true, and_true]
  exact ⟨fun f h => conclude_noLane (e := s.qpushEff f) (by simp only [State.qpushEff, resumed_noLane h, guarded_noLane h]),
    fun f h => conclude_guarded_noLane h,
    fun f h => conclude_guarded_noLane h⟩

/-- Accumulators and FIFOs. -/
theorem noLane_tiles : ∀ mk ∈ ([.acczero, .fifodrop, .fifostat] : List (TF → Instr)), ∀ f, NoLane s f.g → exec (mk f) s = .next s.retire := by
  simp only [List.forall_mem_cons, List.not_mem_nil, false_implies, implies_true, and_true]
  exact ⟨fun f h => conclude_guarded_noLane h,
    fun f h => conclude_guarded_noLane h,
    fun f h => conclude_guarded_noLane h⟩

/-- Software traps and pmark. -/
theorem noLane_traps : ∀ mk ∈ ([.trapSw, .brk, .pmark] : List (YF → Instr)), ∀ f, NoLane s f.g → exec (mk f) s = .next s.retire := by
  simp only [List.forall_mem_cons, List.not_mem_nil, false_implies, implies_true, and_true]
  exact ⟨fun f h => conclude_guarded_noLane h,
    fun f h => conclude_guarded_noLane h,
    fun f h => conclude_guarded_noLane h⟩

/-- mfs and mts, and the waits and expectations at barrier records. -/
theorem noLane_state (f : SF) (h : NoLane s f.g) : (f.num ≠ 0 → exec (.mfs f) s = .next s.retire) ∧
    (f.num = 0x0C ∨ s.ca.handler = true → exec (.mts f) s = .next s.retire) ∧
    (f.imm.toNat < (s.level s.cg.tid s.cg.lid).recs.length → exec (.barwait f) s = .next s.retire) ∧
    (f.d.toNat < (s.level s.cg.tid s.cg.lid).recs.length → exec (.barexp f) s = .next s.retire) := by
  refine ⟨fun hn => conclude_noLane (e := s.mfsEff f) ?_, fun hn => conclude_noLane (e := s.mtsEff f) ?_,
    fun hb => conclude_noLane (e := s.barwaitEff f) ?_, fun hb => conclude_noLane (e := s.barexpEff f) ?_⟩
  · simp only [State.mfsEff, beq_eq_false_iff_ne.mpr hn, Bool.false_eq_true, if_false, guarded_noLane h]
  · have hc : (f.num != 0x0C && !s.ca.handler) = false := by rcases hn with hn | hn <;> simp [hn]
    simp only [State.mtsEff, hc, Bool.false_eq_true, if_false, guarded_noLane h]
  · simp only [State.barwaitEff, barIndex_inside hb, guarded_noLane h]
  · simp only [State.barexpEff, barIndex_inside hb, guarded_noLane h]

/-- The privileged instructions at handler level. -/
theorem noLane_privileged (f : YF) (h : NoLane s f.g) (hh : s.ca.handler = true) : let n := f.imm.toNat
    exec (.xinvPage f) s = .next s.retire ∧ exec (.xinvRange f) s = .next s.retire ∧ exec (.xinvCtx f) s = .next s.retire ∧
    exec (.gkill f) s = .next s.retire ∧ (s.serviceCtx = true → exec (.errinj f) s = .next s.retire) ∧
    (sysHandler n = true ∨ (sysService n = true ∧ s.serviceCtx = true) → exec (.sysrd f) s = .next s.retire) ∧
    (sysHandlerRw n = true → exec (.syswr f) s = .next s.retire ∧ exec (.syswrHvec f) s = .next s.retire) ∧
    (s.serviceCtx = true → (n < 0x304 ∧ 0x100 ≤ n ∨ n = 0x380 ∨ 0x390 ≤ n ∧ n ≤ 0x3AF ∨ (routePorts n).isSome = true →
      exec (.syswr f) s = .next s.retire ∧ exec (.syswrInjctl f) s = .next s.retire ∧ exec (.syswrRoute f) s = .next s.retire)) := by
  refine ⟨conclude_noLane (e := s.xinvPageEff f) ?_, conclude_noLane (e := s.xinvRangeEff f) ?_, conclude_noLane (e := s.xinvCtxEff f) ?_,
    conclude_noLane (e := s.gkillEff f) ?_, fun hs => conclude_noLane (e := s.errinjEff f) ?_,
    fun hn => conclude_noLane (e := s.sysrdEff f) ?_, fun hn => ⟨?_, ?_⟩, fun hs hn => ⟨?_, ?_, ?_⟩⟩
  · simp only [State.xinvPageEff, privileged_handler hh, guarded_noLane h]
  · simp only [State.xinvRangeEff, privileged_handler hh, guarded_noLane h]
  · simp only [State.xinvCtxEff, privileged_handler hh, guarded_noLane h]
  · simp only [State.gkillEff, privileged_handler hh, park_noLane h, guarded_noLane h]
  · simp only [State.errinjEff, privileged_handler hh, hs, Bool.not_true, Bool.false_eq_true, if_false, guarded_noLane h]
  · have hc : (!(sysHandler f.imm.toNat || (sysService f.imm.toNat && s.serviceCtx))) = false := by
      rcases hn with hn | ⟨hn, hs⟩
      · simp [hn]
      · simp [hn, hs]
    simp only [State.sysrdEff, privileged_handler hh, hc, Bool.false_eq_true, if_false, guarded_noLane h]
  · exact conclude_noLane (syswrEff_noLane h hh (.inl hn) _)
  · exact conclude_noLane (syswrEff_noLane h hh (.inl hn) _)
  · exact conclude_noLane (syswrEff_noLane h hh (.inr ⟨hs, hn⟩) _)
  · exact conclude_noLane (syswrEff_noLane h hh (.inr ⟨hs, hn⟩) _)
  · exact conclude_noLane (syswrEff_noLane h hh (.inr ⟨hs, hn⟩) _)

end

/-! ### vote (R189) -/

theorem bit_allOnes {l : Nat} (h : l < 32) : bit (BitVec.allOnes 32) l = true := by
  rw [bit, BitVec.getLsbD_allOnes, decide_eq_true h]

theorem bit_ite_allOnes (c : Bool) {l : Nat} (h : l < 32) : bit (if c then BitVec.allOnes 32 else 0) l = c := by
  cases c with
  | true => exact bit_allOnes h
  | false => exact bit_zero l

/-- No contributor holds 0 exactly where every contributor holds 1. -/
theorem and_not_and_eq_zero {w : Nat} (con p : BitVec w) : (con &&& ~~~(con &&& p) == 0) = (con &&& p == con) := by
  rw [Bool.eq_iff_iff, beq_iff_eq, beq_iff_eq]
  constructor <;> intro h <;> ext i hi
  · have := congrArg (fun x => x[i]) h
    simp at this ⊢
    tauto
  · have := congrArg (fun x => x[i]) h
    simp at this ⊢
    tauto

/-- The three tests of vote on its contributors and on those of them that hold 1. -/
theorem bit_voteValue (con p : BitVec 32) {l : Nat} (hl : l < 32) {m : BitVec 5} (hm : m.toNat < 3) :
    bit (voteValue m.toNat con (con &&& p)) l =
      if m = 0 then con &&& p != 0 else if m = 1 then con &&& p == con else con &&& p == 0 || con &&& p == con := by
  obtain rfl | rfl | rfl : m = 0 ∨ m = 1 ∨ m = 2 := by bv_omega
  · exact bit_ite_allOnes _ hl
  · exact (bit_ite_allOnes _ hl).trans (and_not_and_eq_zero con p)
  · exact (bit_ite_allOnes _ hl).trans (by rw [and_not_and_eq_zero]; rfl)

/-- The result of a mask mode is written as a vector register. -/
theorem wroteV_mask (s : State) (g : Guard) (d : Nat) (r : BitVec 32) :
    WroteV s (s.modG fun x => (x.setV d (s.active g) fun _ => r).markV d (s.active g) 0).retire g d false false fun _ y => y = r.toNat := by
  have h := wroteV_putV s g d false fun _ => r.toNat
  simp only [Group.putV, BitVec.ofNat_toNat, BitVec.setWidth_eq, Bool.false_eq_true, if_false] at h
  exact wroteV_mono h fun l y _ hy => hy.trans (Nat.mod_eq_of_lt r.isLt)

theorem execVote_completes {s : State} {f : VF} {p : BitVec 8} (hw : (Instr.vote f).wf = true) (hfa : f.a = .v p)
    (hp : Passes s f.g (if 3 ≤ f.sub.toNat then [(f.d.toNat, 1)] else []) [.p p.toNat (s.active f.g)]) :
    let con := s.active f.g &&& s.cg.teamLanes
    let one := con &&& s.cg.pred p.toNat
    ∃ t, exec (.vote f) s = .next t ∧
      (f.sub.toNat < 3 → PerLaneP s t f.g f.d.toNat fun _ =>
        if f.sub = 0 then one != 0 else if f.sub = 1 then one == con else one == 0 || one == con) ∧
      (f.sub = 3 → WroteV s t f.g f.d.toNat false false fun _ r => r = one.toNat) ∧
      (f.sub = 7 → WroteV s t f.g f.d.toNat false false fun _ r => r = (con &&& ~~~one).toNat) := by
  intro con one
  have h8 : p.toNat % 8 = p.toNat := by
    have hv : f.wfVote = true := hw
    simp only [VF.wfVote, hfa, Src.isPred, Bool.and_eq_true, decide_eq_true_eq] at hv
    exact Nat.mod_eq_of_lt hv.1.1.1.2
  have he : s.voteEff f = .retire (s.modG fun g =>
      if decide (3 ≤ f.sub.toNat) then (g.setV f.d.toNat (s.active f.g) fun _ => voteValue f.sub.toNat con one).markV f.d.toNat (s.active f.g) 0
      else (g.setPred f.d.toNat (s.active f.g) (voteValue f.sub.toNat con one)).markPred f.d.toNat (s.active f.g) 0) := by
    simp only [State.voteEff, hfa, h8, decide_eq_true_eq]
    exact State.guarded_passes _ hp (absurd · Bool.false_ne_true)
  refine ⟨_, congrArg s.conclude he, fun hs => ?_, fun hs => ?_, fun hs => ?_⟩
  · have hn : decide (3 ≤ f.sub.toNat) = false := decide_eq_false (by omega)
    simp only [hn, Bool.false_eq_true, if_false]
    obtain ⟨h1, h2⟩ := wroteP_setPred s f.g f.d.toNat (voteValue f.sub.toNat con one)
    refine ⟨h1, fun l hl ha hd => ?_⟩
    obtain ⟨h3, h4⟩ := h2 l hl ha hd
    exact ⟨h3.trans (bit_voteValue con _ hl hs), h4⟩
  · simp only [hs]
    exact wroteV_mask s f.g f.d.toNat one
  · simp only [hs]
    exact wroteV_mask s f.g f.d.toNat (con &&& ~~~one)

/-- Settles O20: each of the marks is one write and a retire, and without lanes the guard is the whole effect of an instruction. -/
theorem votesAndMarksComplete : Obligations.VotesAndMarksComplete := by
  unfold Obligations.VotesAndMarksComplete
  exact ⟨fun s f _ ha hp => execBwait_completes ha hp, fun s f p hw ha hp => execVote_completes hw ha hp,
    fun s f ha hp => execYield_completes ha hp, fun s f hp => execNop_completes hp,
    fun mk hm s f h => noLane_scalar s mk hm f h, fun s f h => noLane_state s f h, fun mk hm s f h => noLane_lane s mk hm f h,
    fun mk hm s f h => noLane_branch s mk hm f h, fun mk hm s f h => noLane_memory s mk hm f h,
    fun mk hm s f h hb => noLane_copies s mk hm f h hb, fun mk hm s f h => noLane_transfers s mk hm f h,
    fun mk hm s f h => noLane_queues s mk hm f h, fun mk hm s f h => noLane_tiles s mk hm f h,
    fun mk hm s f h => noLane_traps s mk hm f h, fun s f h hh => noLane_privileged s f h hh⟩

end Sys2Proof.Machine
end

section
/-! The end of a group (R191): what follows it leaves the causes of every group, and the launches, as they are. -/

namespace Sys2Proof.Machine

/-- A chain of operations, each of which keeps `p`. -/
theorem foldl_keeps {α β γ : Type} {f : α → β → α} {p : α → γ} (h : ∀ a b, p (f a b) = p a) (l : List β) (a : α) :
    p (l.foldl f a) = p a := by
  induction l generalizing a with
  | nil => rfl
  | cons b l ih => exact (ih _).trans (h a b)

namespace State

/-- The executing arm, the launches, and of each group whether it lives and what ended it. -/
def ends (s : State) : (Nat × Nat) × SMap Launch × (Nat → Bool × Option TrapInfo) :=
  (s.cur, s.launches, fun k => ((s.grp k).live, (s.grp k).cause))

variable (s : State)

theorem setGrp_ends {k : Nat} {x : Group} (hl : x.live = (s.grp k).live) (hc : x.cause = (s.grp k).cause) :
    (s.setGrp k x).ends = s.ends := by
  have h : ∀ j, (((s.setGrp k x).grp j).live, ((s.setGrp k x).grp j).cause) = ((s.grp j).live, (s.grp j).cause) := fun j => by
    rw [grp_setGrp]
    split
    · next hj => rw [hj, hl, hc]
    · rfl
  simp only [ends, setGrp_cur, setGrp_launches, h]

@[simp] theorem setTeam_ends (k : Nat) (x : Team) : (s.setTeam k x).ends = s.ends := rfl
@[simp] theorem setPanel_ends (k : Nat) (x : Panel) : (s.setPanel k x).ends = s.ends := rfl
@[simp] theorem setLevel_ends (tid lid : Nat) (l : Level) : (s.setLevel tid lid l).ends = s.ends := rfl
@[simp] theorem checkLevel_ends (tid lid : Nat) : (s.checkLevel tid lid).ends = s.ends := rfl
@[simp] theorem panelEnd_ends (p : Nat) : (s.panelEnd p).ends = s.ends := rfl

theorem setS_live_cause (g : Group) (slot n : Nat) (x : Word) : ((g.setS slot n x).markS slot n false).live = g.live ∧
    ((g.setS slot n x).markS slot n false).cause = g.cause := by
  have h := Group.setS_else g slot n x
  have hl := congrArg Group.live h
  have hc := congrArg Group.cause h
  exact ⟨hl, hc⟩

@[simp] theorem accAnswer_ends (dest base uid : Nat) : (s.accAnswer dest base uid).ends = s.ends := by
  unfold accAnswer
  split
  · rfl
  · refine setGrp_ends s ?_ ?_
    · rw [Group.setArm_live, (setS_live_cause ..).1]
    · rw [Group.setArm_cause, (setS_live_cause ..).2]

@[simp] theorem accGrant_ends (tid fuel : Nat) : (s.accGrant tid fuel).ends = s.ends := by
  induction fuel generalizing s with
  | zero => rfl
  | succ fuel ih =>
    unfold accGrant
    dsimp only
    split
    · rfl
    · split
      · rfl
      · exact (ih _).trans (foldl_keeps (p := ends) (fun s u => s.accAnswer_ends _ _ u) _ _)

@[simp] theorem mapChunks_ends (gid n : Nat) : (s.mapChunks gid n).ends = s.ends := by
  have hl := fun (l : List (Nat × List Lane32)) (g : Group) => foldl_keeps (p := fun g : Group => (g.live, g.cause))
    (f := fun g r => { g with vregs := mset (List.replicate 32 0) g.vregs (g.window + r.1) r.2, vpois := mset 0 g.vpois (g.window + r.1) 0 })
    (fun _ _ => rfl) l g
  exact setGrp_ends s (congrArg Prod.fst (hl _ _)) (congrArg Prod.snd (hl _ _))

@[simp] theorem skeinGrant_ends (tid fuel : Nat) : (s.skeinGrant tid fuel).ends = s.ends := by
  induction fuel generalizing s with
  | zero => rfl
  | succ fuel ih =>
    unfold skeinGrant
    dsimp only
    split
    · split
      · split
        · rw [ih, mapChunks_ends, setTeam_ends]
        · rw [ih, setTeam_ends]
      · rfl
    · rfl

@[simp] theorem skeinReturn_ends (tid n : Nat) : (s.skeinReturn tid n).ends = s.ends := by
  simp [skeinReturn]

@[simp] theorem tileEnd_ends (gid : Nat) : (s.tileEnd gid).ends = s.ends := by
  refine (foldl_keeps (p := ends) (fun s m => ?_) _ _).trans (s.setTeam_ends _ _)
  dsimp only
  split
  · exact setGrp_ends s rfl rfl
  · rfl

@[simp] theorem levelEmptied_ends (tid fuel lid : Nat) : (s.levelEmptied tid fuel lid).ends = s.ends := by
  induction fuel generalizing s lid with
  | zero => rfl
  | succ fuel ih =>
    have hd : ∀ lids, (s.dropLevels tid lids).ends = s.ends := fun lids =>
      foldl_keeps (p := ends) (fun s lid => s.setLevel_ends tid lid {}) lids s
    unfold levelEmptied
    dsimp only
    repeat' split
    all_goals simp [ih, hd]

@[simp] theorem panelCheck_ends (p : Nat) : (s.panelCheck p).ends = s.ends := by
  unfold panelCheck
  dsimp only
  split <;> rfl

@[simp] theorem hook_ends (x : HookSt) : ({ s with hook := x } : State).ends = s.ends := rfl

@[simp] theorem teamEnd_ends (tid : Nat) : (s.teamEnd tid).ends = s.ends := by
  unfold teamEnd
  split
  · rfl
  · dsimp only
    split <;> simp only [panelEnd_ends, panelCheck_ends, setPanel_ends, hook_ends, setTeam_ends]

theorem keepSkein_keeps (g : Group) : (s.keepSkein g).groups = s.groups ∧ (s.keepSkein g).cur = s.cur ∧
    ∀ l, ((s.keepSkein g).launch l).nend = (s.launch l).nend := by
  unfold keepSkein
  split
  · exact ⟨rfl, rfl, fun _ => rfl⟩
  · refine ⟨rfl, rfl, fun l => ?_⟩
    rw [launch_setLaunch]
    split
    · next h => rw [h]
    · rfl

/-- The end of a group stops its arms; what follows keeps every group's life and cause, and the launches. -/
theorem endGroup_none_ends {gid : Nat} (h : (s.grp gid).live = true) : ∃ x : Group, x.live = false ∧ x.cause = none ∧
    (s.endGroup gid none).ends = (((s.dropChecks gid).keepSkein (s.grp gid)).setGrp gid x).ends := by
  apply Exists.intro
  refine ⟨?dead, ?clean, ?ends⟩
  case ends =>
    simp only [endGroup, h, Bool.not_true, Bool.false_eq_true, if_false, teamEnd_ends, levelEmptied_ends, tileEnd_ends, skeinReturn_ends,
      accGrant_ends, setTeam_ends]
    split
    · refine (setGrp_ends _ ?_ ?_).trans (foldl_keeps (fun _ _ => (checkLevel_ends ..).trans (setLevel_ends ..)) _ _)
      · rfl
      · rfl
    · refine (foldl_keeps (p := ends) (fun _ _ => (checkLevel_ends ..).trans (setLevel_ends ..)) _ _).trans ?_
      rfl
  case dead => rfl
  case clean => rfl

/-- A group that ends with no cause is dead and has none, and its launch counts it for none, R191, R471. -/
theorem endGroup_none {gid : Nat} (h : (s.grp gid).live = true) : ((s.endGroup gid none).grp gid).live = false ∧
    ((s.endGroup gid none).grp gid).cause = none ∧ (s.endGroup gid none).cur = s.cur ∧
    ∀ l, ((s.endGroup gid none).launch l).nend = (s.launch l).nend := by
  obtain ⟨x, hl, hc, he⟩ := s.endGroup_none_ends h
  obtain ⟨-, hcur, hn⟩ := (s.dropChecks gid).keepSkein_keeps (s.grp gid)
  simp only [ends, Prod.mk.injEq, setGrp_cur, setGrp_launches] at he
  obtain ⟨hcur', hla, hg⟩ := he
  have hx := congrFun hg gid
  simp only [grp_setGrp_same, Prod.mk.injEq] at hx
  refine ⟨hx.1.trans hl, hx.2.trans hc, hcur'.trans hcur, fun l => ?_⟩
  rw [launch, hla]
  exact hn l

end State
end Sys2Proof.Machine
end

section
/-! exit of a group without frames (R179, R190, R191). -/

namespace Sys2Proof.Machine

open Sys2Proof.Safety

/-! ### A group without frames -/

theorem setG_setG (s : State) (g h : Group) : (s.setG g).setG h = s.setG h := by
  show ({ s with groups := mset {} (mset {} s.groups s.gid g) s.gid h } : State) = { s with groups := mset {} s.groups s.gid h }
  rw [mset_mset]

theorem retire_setG (s : State) (g : Group) : (s.setG g).retire = s.setG (g.setArm s.slot (g.arm s.slot).advance) := by
  show (s.setG g).setG ((s.setG g).cg.setArm s.slot (s.setG g).ca.advance) = _
  rw [setG_setG, State.cg_setG, State.ca_setG]

theorem spoilFrames_intact {s : State} {gid : Nat} (h : s.framesIntact (s.grp gid) = true) : s.spoilFrames gid = s := by
  simp only [State.spoilFrames, h, if_true]

theorem framesIntact_noFrames (s : State) {g : Group} (h : g.frames = []) : s.framesIntact g = true := by
  unfold State.framesIntact
  rw [h]
  rfl

namespace Group

variable {g : Group} (h : g.frames = [])
include h

theorem frame_noFrames (pos : Nat) : g.frame pos = none := by
  unfold frame
  rw [h]
  rfl

theorem mergeAll_noFrames (psn : Nat → Bool) (k : Nat) : g.mergeAll psn k = g := by
  have hm : g.mergeOne psn k = g := by
    unfold mergeOne mergeReady
    rw [h]
    rfl
  exact List.foldl_fixed' (f := fun g _ => mergeOne g psn k) (fun _ => hm) _

theorem settle_noFrames (psn : Nat → Bool) (k : Nat) : g.settle psn k = g := by
  have hr : g.releaseAll = g := by
    unfold releaseAll
    rw [h]
    rfl
  have hs : g.loadSpilled psn = g := by
    unfold loadSpilled spilled
    rw [h]
    cases g.freeSlot <;> rfl
  unfold settle
  rw [mergeAll_noFrames h, hr, hs, hs]

end Group

theorem setFrames_noFrames (s : State) (gid : Nat) {g : Group} (h : g.frames = []) : s.setFrames gid g = s.setGrp gid g := by
  refine List.foldl_fixed' (fun pos => ?_) _
  simp only [State.grp_setGrp_same, Group.frame_noFrames h]

/-! ### The lanes that leave -/

/-- What an exit leaves of a group: all but the lanes' arm, the record of the lanes that have left, the replies still to come and the
group's place. -/
def ExitKeeps (g h : Group) (slot : Nat) (lanes : BitVec 32) : Prop :=
  h.exited = g.exited ||| lanes ∧ h.arm (1 - slot) = g.arm (1 - slot) ∧
    { h with arm0 := g.arm0, arm1 := g.arm1, exited := g.exited, orphans := g.orphans, place := g.place } = g

theorem exitKeeps_setArm {g h : Group} {slot : Nat} {lanes : BitVec 32} (hs : slot ≤ 1) (hk : ExitKeeps g h slot lanes) (a : Arm) :
    ExitKeeps g (h.setArm slot a) slot lanes := by
  obtain ⟨hx, ho, he⟩ := hk
  refine ⟨(Group.setArm_exited ..).trans hx, (Group.arm_setArm_other _ _ _ hs).trans ho, ?_⟩
  refine Eq.trans ?_ he
  unfold Group.setArm
  split <;> rfl

theorem exitKeeps_settlePlace {g h : Group} {slot : Nat} {lanes : BitVec 32} (hk : ExitKeeps g h slot lanes) :
    ExitKeeps g h.settlePlace slot lanes := by
  unfold Group.settlePlace
  split
  · exact hk
  · exact hk

theorem arm_settlePlace (g : Group) (slot : Nat) : g.settlePlace.arm slot = g.arm slot := by
  unfold Group.settlePlace
  split <;> rfl

theorem setArm_orphans (g : Group) (slot : Nat) (a : Arm) : (g.setArm slot a).orphans = g.orphans := by
  unfold Group.setArm
  split <;> rfl

theorem arm_orphans (g : Group) (l : List (List RegW)) (slot : Nat) : ({ g with orphans := l } : Group).arm slot = g.arm slot := rfl

section
variable {g : Group} {slot : Nat} (lanes : BitVec 32)

/-- Some lanes of the arm stay. -/
theorem stripLanes_stays (hf : g.frames = []) (hm : (g.arm slot).mask &&& ~~~lanes ≠ 0) : g.stripLanes slot lanes =
    { g with exited := g.exited ||| lanes }.setArm slot { g.arm slot with mask := (g.arm slot).mask &&& ~~~lanes } := by
  have ha : ({ g with exited := g.exited ||| lanes, frames := [] } : Group).arm slot = g.arm slot := rfl
  simp only [Group.stripLanes, hf, List.map_nil, Group.arm_setArm_same, ha, beq_eq_false_iff_ne.mpr hm, Bool.false_eq_true, if_false]

/-- The arm loses its last lanes, and ends. -/
theorem stripLanes_ends (hs : slot ≤ 1) (hf : g.frames = []) (hm : (g.arm slot).mask &&& ~~~lanes = 0) :
    ExitKeeps g (g.stripLanes slot lanes) slot lanes ∧ (g.stripLanes slot lanes).frames = [] ∧
      ((g.stripLanes slot lanes).arm slot).live = false ∧ ((g.stripLanes slot lanes).arm slot).mask = 0 := by
  have ha : ({ g with exited := g.exited ||| lanes, frames := [] } : Group).arm slot = g.arm slot := rfl
  simp only [Group.stripLanes, hf, List.map_nil, Group.arm_setArm_same, ha, beq_iff_eq.mpr hm, if_true, Group.freeArm, setArm_setArm]
  refine ⟨?_, Group.setArm_frames .., ?_⟩
  · simp only [← hf]
    exact exitKeeps_setArm (g := g) (h := { g with exited := g.exited ||| lanes }) hs ⟨rfl, rfl, rfl⟩ _
  · simp only [arm_orphans, Group.arm_setArm_same, and_self]

end

/-! ### exit -/

theorem empty_noFrames {g : Group} (hf : g.frames = []) {slot : Nat} (hs : slot ≤ 1) :
    g.empty = (!(g.arm slot).live && !(g.arm (1 - slot)).live) := by
  unfold Group.empty Group.arm
  rw [hf]
  obtain rfl | rfl : slot = 0 ∨ slot = 1 := by omega
  · simp
  · simp [Bool.and_comm]

/-- Without frames exit only strips the arm of its lanes: no side merges and none is loaded, and the executing arm goes on, or its group
does, or the group ends. -/
theorem exitEff_noFrames {s : State} {f : BF} {h : Group} (hp : Passes s f.g [] []) (ha : Acts s f.g) (hf : s.cg.frames = [])
    (hh : s.cg.stripLanes s.slot (s.active f.g) = h) (hf' : h.frames = []) :
    s.exitEff f = if s.armMask &&& ~~~(s.active f.g) != 0 then .retire (s.setG h)
      else if h.empty then .stay (s.endGroup s.gid none) else .stay (s.setG h.settlePlace) := by
  have hi : s.spoilFrames s.gid = s := spoilFrames_intact (framesIntact_noFrames s hf)
  have hl : ∀ psn, s.cg.exitLanes psn s.slot (s.active f.g) = h := fun psn => by
    rw [Group.exitLanes, hh, Group.settle_noFrames hf']
  have hm : ∀ psn, s.cg.exitMerges psn s.slot (s.active f.g) = false := fun psn => by
    rw [Group.exitMerges, hh, Group.mergeAll_noFrames hf', bne_self_eq_false]
  have hg : s.setFrames s.gid h = s.setG h := setFrames_noFrames s s.gid hf'
  have ha' : (s.active f.g == 0) = false := beq_eq_false_iff_ne.mpr ha
  rw [State.exitEff, State.guarded_passes _ hp (absurd · Bool.false_ne_true)]
  simp only [ha', hi, hl, hm, hg, Bool.false_eq_true, if_false, State.cg_setG, setG_setG]

section
variable {s : State} {f : BF} (hs : s.slot ≤ 1) (hp : Passes s f.g [] []) (ha : Acts s f.g) (hf : s.cg.frames = [])
include hs hp ha hf

/-- Some lanes stay: the arm goes on with them. -/
theorem exit_someLanes (hl : s.armMask &&& ~~~(s.active f.g) ≠ 0) : ∃ t, exec (.exitG f) s = .next t ∧
    (∃ h, t = s.setG h) ∧ ExitKeeps s.cg t.cg s.slot (s.active f.g) ∧ GoesOn s t ∧
    SameArm { s.ca with mask := s.armMask &&& ~~~(s.active f.g) } t.ca ∧ t.ca.scal = s.ca.scal ∧ t.ca.spois = s.ca.spois ∧
    t.cg.orphans = s.cg.orphans := by
  let a : Arm := { s.ca with mask := s.armMask &&& ~~~(s.active f.g) }
  let g : Group := { s.cg with exited := s.cg.exited ||| s.active f.g }
  have hh : s.cg.stripLanes s.slot (s.active f.g) = g.setArm s.slot a := stripLanes_stays _ hf hl
  have he := exitEff_noFrames hp ha hf hh (by rw [Group.setArm_frames]; exact hf)
  rw [if_pos (bne_iff_ne.mpr hl)] at he
  refine ⟨_, congrArg s.conclude he, ⟨_, retire_setG ..⟩, ?_⟩
  rw [retire_setG, Group.arm_setArm_same, setArm_setArm, GoesOn, State.cg_setG, State.ca_setG, Group.arm_setArm_same]
  obtain ⟨hc, hpc⟩ := advance_place (a := s.ca) (b := a) rfl rfl
  obtain ⟨hsc, hsp⟩ := State.advance_scal a
  exact ⟨exitKeeps_setArm (h := g) hs ⟨rfl, rfl, rfl⟩ _, ⟨hc, hpc, advance_park a⟩, State.sameArm_advance a, hsc, hsp, setArm_orphans g _ _⟩

/-- No lane stays, but the group has another arm: it goes on alone. -/
theorem exit_lastLanes (hl : s.armMask &&& ~~~(s.active f.g) = 0) (ho : (s.cg.arm (1 - s.slot)).live = true) :
    ∃ t, exec (.exitG f) s = .next t ∧ (∃ h, t = s.setG h) ∧ ExitKeeps s.cg t.cg s.slot (s.active f.g) ∧ t.ca.live = false ∧
      t.ca.mask = 0 := by
  obtain ⟨hk, hf', hd, hm⟩ := stripLanes_ends (s.active f.g) hs hf hl
  have hn : (s.cg.stripLanes s.slot (s.active f.g)).empty = false := by
    obtain ⟨-, hother, -⟩ := hk
    rw [empty_noFrames hf' hs, hother, ho, Bool.not_true, Bool.and_false]
  have he := exitEff_noFrames hp ha hf rfl hf'
  rw [if_neg (by simp [hl]), hn, if_neg Bool.false_ne_true] at he
  refine ⟨_, congrArg s.conclude he, ⟨_, rfl⟩, ?_⟩
  show ExitKeeps _ (s.setG _).cg _ _ ∧ (s.setG _).ca.live = _ ∧ (s.setG _).ca.mask = _
  rw [State.cg_setG, State.ca_setG, arm_settlePlace]
  exact ⟨exitKeeps_settlePlace hk, hd, hm⟩

/-- The last lanes of the group leave: it ends, with no cause. -/
theorem exit_lastArm (hg : s.cg.live = true) (hl : s.armMask &&& ~~~(s.active f.g) = 0) (ho : (s.cg.arm (1 - s.slot)).live = false) :
    ∃ t, exec (.exitG f) s = .next t ∧ t.cg.live = false ∧ t.cg.cause = none ∧
      (t.launch s.cg.launch).nend = (s.launch s.cg.launch).nend := by
  obtain ⟨hk, hf', hd, -⟩ := stripLanes_ends (s.active f.g) hs hf hl
  have hn : (s.cg.stripLanes s.slot (s.active f.g)).empty = true := by
    obtain ⟨-, hother, -⟩ := hk
    rw [empty_noFrames hf' hs, hd, hother, ho]
    rfl
  have he := exitEff_noFrames hp ha hf rfl hf'
  rw [if_neg (by simp [hl]), hn, if_pos rfl] at he
  obtain ⟨h1, h2, hcur, h3⟩ := s.endGroup_none hg
  have hgid : (s.endGroup s.gid none).gid = s.gid := congrArg Prod.fst hcur
  refine ⟨s.endGroup s.gid none, congrArg s.conclude he, ?_, ?_, h3 _⟩
  · rw [State.cg, hgid]; exact h1
  · rw [State.cg, hgid]; exact h2

end

/-- Settles O21: without frames an exit only strips the arm of its lanes, and what then ends is the arm, or the group with it. -/
theorem exitCompletes : Obligations.ExitCompletes := by
  unfold Obligations.ExitCompletes
  intro s f hs hp ha hg hf left other kept
  have hk : ∀ {t : State}, (∃ h, t = s.setG h) → ExitKeeps s.cg t.cg s.slot (s.active f.g) → kept t := by
    rintro t ⟨h, rfl⟩ ⟨hx, ho, he⟩
    exact ⟨(congrArg Group.live he).trans hg, hx, ho, he, State.setG_else s h, fun k hk => State.grp_setG_other s h k hk⟩
  refine ⟨fun hl => ?_, fun hl ho => ?_, fun hl ho => exit_lastArm hs hp ha hf hg hl ho⟩
  · obtain ⟨t, hx, ht, he, h⟩ := exit_someLanes hs hp ha hf hl
    exact ⟨t, hx, hk ht he, h⟩
  · obtain ⟨t, hx, ht, he, h⟩ := exit_lastLanes hs hp ha hf hl ho
    exact ⟨t, hx, hk ht he, h⟩

end Sys2Proof.Machine
end

section
/-! Replies and the places of groups (R171, R172, R192-R196). -/

namespace Sys2Proof.Machine

open Sys2Proof.Safety

/-! ### Replies and acknowledgements -/

/-- A write of one group leaves the rest of the machine. -/
theorem setGrp_else (s : State) (gid : Nat) (g : Group) :
    { s.setGrp gid g with groups := s.groups } = s ∧ ∀ k, k ≠ gid → (s.setGrp gid g).grp k = s.grp k :=
  ⟨rfl, fun k hk => State.grp_setGrp_other s gid g k hk⟩

namespace Group

/-- A change of one arm that keeps its replies keeps those of every arm. -/
theorem setArm_loads {g : Group} {slot : Nat} {x : Arm} (h : x.loads = (g.arm slot).loads) (k : Nat) :
    ((g.setArm slot x).arm k).loads = (g.arm k).loads := by
  unfold setArm arm
  unfold arm at h
  by_cases hs : slot = 0
  · rw [if_pos hs] at h ⊢
    by_cases hk : k = 0
    · rw [if_pos hk, if_pos hk, h]
    · rw [if_neg hk, if_neg hk]
  · rw [if_neg hs] at h ⊢
    by_cases hk : k = 0
    · rw [if_pos hk, if_pos hk]
    · rw [if_neg hk, if_neg hk, h]

/-- A reply's write leaves the replies that are still to come. -/
theorem commitW_replies (g : Group) (slot k : Nat) (w : RegW) :
    ((g.commitW slot w).arm k).loads = (g.arm k).loads ∧ (g.commitW slot w).orphans = g.orphans := by
  cases w with
  | v r m vals p => exact ⟨rfl, rfl⟩
  | s r x p =>
    have h1 : ((g.setS slot r x).arm k).loads = (g.arm k).loads ∧ (g.setS slot r x).orphans = g.orphans := by
      unfold setS
      split
      · exact ⟨rfl, rfl⟩
      · exact ⟨setArm_loads (by rfl) k, setArm_orphans ..⟩
    have h2 : (((g.setS slot r x).markS slot r p).arm k).loads = ((g.setS slot r x).arm k).loads ∧
        ((g.setS slot r x).markS slot r p).orphans = (g.setS slot r x).orphans := by
      unfold markS
      split
      · exact ⟨rfl, rfl⟩
      · exact ⟨setArm_loads (by rfl) k, setArm_orphans ..⟩
    exact ⟨h2.1.trans h1.1, h2.2.trans h1.2⟩

theorem commitAll_replies (g : Group) (slot k : Nat) (ws : List RegW) :
    ((g.commitAll slot ws).arm k).loads = (g.arm k).loads ∧ (g.commitAll slot ws).orphans = g.orphans := by
  have h := foldl_keeps (f := fun g w => commitW g slot w) (p := fun g : Group => ((g.arm k).loads, g.orphans))
    (fun g w => Prod.ext (g.commitW_replies slot k w).1 (g.commitW_replies slot k w).2) ws g
  exact ⟨congrArg Prod.fst h, congrArg Prod.snd h⟩

/-- What one vector write of a reply leaves in every lane. -/
theorem vlane_commitAll_v (g : Group) (slot r k l : Nat) (m : BitVec 32) (vals : List Lane32) (p : BitVec 32) :
    (g.commitAll slot [.v r m vals p]).vlane k l =
      if k = r ∧ bit (m &&& g.present) l = true then vals.getD l 0 else g.vlane k l :=
  vlane_setV g r k l m _

end Group

theorem loadReplyCommit_arm {s : State} {gid slot : Nat} {ws : List RegW} {rest : List (List RegW)} (hs : slot ≠ 2)
    (hl : ((s.grp gid).arm slot).loads = ws :: rest) : exec (.loadReplyCommit gid slot) s =
      .next (s.setGrp gid (((s.grp gid).setArm slot { (s.grp gid).arm slot with loads := rest }).commitAll slot ws)) := by
  show execLoadReplyCommit gid slot s = _
  simp only [execLoadReplyCommit, beq_eq_false_iff_ne.mpr hs, Bool.false_eq_true, if_false, hl]

theorem loadReplyCommit_completes {s : State} {gid slot : Nat} {ws : List RegW} {rest : List (List RegW)} (hs : slot ≠ 2)
    (hl : ((s.grp gid).arm slot).loads = ws :: rest) : ∃ t, exec (.loadReplyCommit gid slot) s = .next t ∧
    { t with groups := s.groups } = s ∧ (∀ k, k ≠ gid → t.grp k = s.grp k) ∧ ((t.grp gid).arm slot).loads = rest ∧
    ∀ r m vals p, ws = [.v r m vals p] →
      (∀ l, bit (m &&& (s.grp gid).present) l = true → (t.grp gid).vlane r l = vals.getD l 0) ∧
      ∀ k l, k ≠ r ∨ bit m l = false → (t.grp gid).vlane k l = (s.grp gid).vlane k l := by
  obtain ⟨he, ho⟩ := setGrp_else s gid (((s.grp gid).setArm slot { (s.grp gid).arm slot with loads := rest }).commitAll slot ws)
  refine ⟨_, loadReplyCommit_arm hs hl, he, ho, ?_, ?_⟩
  · rw [State.grp_setGrp_same, (Group.commitAll_replies ..).1, Group.arm_setArm_same]
  · rintro r m vals p rfl
    rw [State.grp_setGrp_same]
    have hv : ∀ k l, (((s.grp gid).setArm slot { (s.grp gid).arm slot with loads := rest }).commitAll slot [.v r m vals p]).vlane k l =
        if k = r ∧ bit (m &&& (s.grp gid).present) l = true then vals.getD l 0 else (s.grp gid).vlane k l := fun k l => by
      rw [Group.vlane_commitAll_v, Group.vlane_setArm, Group.present_setArm]
    refine ⟨fun l hl => (hv r l).trans (if_pos ⟨rfl, hl⟩), fun k l h => (hv k l).trans (if_neg fun ⟨hk, hb⟩ => ?_)⟩
    rcases h with h | h
    · exact h hk
    · rw [bit, BitVec.getLsbD_and, Bool.and_eq_true] at hb
      exact Bool.false_ne_true (h.symm.trans hb.1)

theorem orphanReplyCommit_completes {s : State} {gid : Nat} {ws : List RegW} {rest : List (List RegW)}
    (hl : (s.grp gid).orphans = ws :: rest) : ∃ t, exec (.loadReplyCommit gid 2) s = .next t ∧
    { t with groups := s.groups } = s ∧ (∀ k, k ≠ gid → t.grp k = s.grp k) ∧ (t.grp gid).orphans = rest := by
  have hx : exec (.loadReplyCommit gid 2) s = .next (s.setGrp gid (({ s.grp gid with orphans := rest } : Group).commitAll 2 ws)) := by
    show execLoadReplyCommit gid 2 s = _
    simp only [execLoadReplyCommit, beq_self_eq_true, if_true, hl]
  obtain ⟨he, ho⟩ := setGrp_else s gid (({ s.grp gid with orphans := rest } : Group).commitAll 2 ws)
  refine ⟨_, hx, he, ho, ?_⟩
  rw [State.grp_setGrp_same, (Group.commitAll_replies _ 2 0 ws).2]

theorem storeAck_completes (s : State) (gid slot : Nat) : ∃ t, exec (.storeAck gid slot) s = .next t ∧ { t with groups := s.groups } = s ∧
    (∀ k, k ≠ gid → t.grp k = s.grp k) ∧ ((t.grp gid).arm slot).stores = ((s.grp gid).arm slot).stores - 1 := by
  obtain ⟨he, ho⟩ := setGrp_else s gid ((s.grp gid).setArm slot { (s.grp gid).arm slot with stores := ((s.grp gid).arm slot).stores - 1 })
  refine ⟨_, rfl, he, ho, ?_⟩
  rw [State.grp_setGrp_same, Group.arm_setArm_same]

/-! ### Places -/

/-- The value of a key stands in the map, unless it is the default. -/
theorem mem_of_mget_ne {V : Type} (d : V) (m : SMap V) (k : Nat) (h : mget d m k ≠ d) : (k, mget d m k) ∈ m := by
  induction m with
  | nil => exact absurd rfl h
  | cons p m ih =>
    obtain ⟨j, v⟩ := p
    unfold mget at h ⊢
    split
    · next hj => rw [hj]; exact List.mem_cons_self
    · next hj => rw [if_neg hj] at h; exact List.mem_cons_of_mem _ (ih h)

namespace State

variable (s : State)

/-- A live group stands where its place says. -/
theorem mem_inPlace {g core : Nat} {p : Place} (hl : (s.grp g).live = true) (hc : gidCore g = core) (hp : (s.grp g).place = p) :
    g ∈ s.inPlace core p := by
  have hm : (g, s.grp g) ∈ s.groups := mem_of_mget_ne ({} : Group) s.groups g fun h => by
    rw [grp, h] at hl
    exact Bool.false_ne_true hl
  refine List.mem_map.mpr ⟨_, List.mem_filter.mpr ⟨hm, ?_⟩, rfl⟩
  simp only [hl, hc, hp, beq_self_eq_true, Bool.and_self]

/-- Waking changes groups alone, and the groups that it wakes are pending. -/
theorem wake_places (gids : List Nat) : { s.wake gids with groups := s.groups } = s ∧
    ∀ g ∈ gids, s.groupReady g = true → ((s.wake gids).grp g).place = .pending := by
  have h : ∀ (l : List Nat) (t : State), { t with groups := s.groups } = s →
      let u := l.foldl (fun t g => t.setGrp g { t.grp g with place := .pending, since := t.tick }) t
      { u with groups := s.groups } = s ∧ ∀ g, g ∈ l ∨ (t.grp g).place = .pending → (u.grp g).place = .pending := by
    intro l
    induction l with
    | nil => exact fun t ht => ⟨ht, fun g hg => hg.resolve_left List.not_mem_nil⟩
    | cons x l ih =>
      intro t ht
      obtain ⟨h1, h2⟩ := ih (t.setGrp x { t.grp x with place := .pending, since := t.tick }) ht
      refine ⟨h1, fun g hg => h2 g ?_⟩
      rw [grp_setGrp]
      by_cases hx : g = x
      · rw [if_pos hx]; exact .inr rfl
      · rw [if_neg hx]
        exact hg.imp_left fun hg => (List.mem_cons.mp hg).resolve_left hx
  obtain ⟨h1, h2⟩ := h (gids.filter s.groupReady) s rfl
  exact ⟨h1, fun g hg hr => h2 g (.inl (List.mem_filter.mpr ⟨hg, hr⟩))⟩

end State

/-- The admission wakes, and then admits the head where there is room. -/
theorem groupAdmission_eq (s : State) (core : Nat) : (∃ g, (s.wakeAll core).pendingHead core = some g ∧
      ((s.wakeAll core).inPlace core .active).length < 8 ∧ exec (.groupAdmission core) s =
        .next ((s.wakeAll core).setGrp g { (s.wakeAll core).grp g with place := .active, begun := 0 })) ∨
    ((∀ g, (s.wakeAll core).pendingHead core = some g → 8 ≤ ((s.wakeAll core).inPlace core .active).length) ∧
      exec (.groupAdmission core) s = .next (s.wakeAll core)) := by
  show (∃ g, _ ∧ _ ∧ execGroupAdmission core s = _) ∨ _ ∧ execGroupAdmission core s = _
  unfold execGroupAdmission
  dsimp only
  cases hh : (s.wakeAll core).pendingHead core with
  | none => exact .inr ⟨fun g hg => (nomatch hg), rfl⟩
  | some g =>
    dsimp only
    by_cases hr : Config.activeMax ≤ ((s.wakeAll core).inPlace core .active).length
    · exact .inr ⟨fun _ _ => hr, if_pos hr⟩
    · exact .inl ⟨g, rfl, Nat.lt_of_not_le hr, if_neg hr⟩

theorem groupAdmission_completes (s : State) (core : Nat) : ∃ t, exec (.groupAdmission core) s = .next t ∧
    { t with groups := s.groups } = s ∧
    (∀ g, (s.grp g).live = true → gidCore g = core → (s.grp g).place = .waiting → s.groupReady g = true → (t.grp g).place ≠ .waiting) ∧
    (∀ g, (s.wakeAll core).pendingHead core = some g → ((s.wakeAll core).inPlace core .active).length < 8 → (t.grp g).place = .active ∧
      (t.grp g).begun = 0) ∧
    (8 ≤ ((s.wakeAll core).inPlace core .active).length → t = s.wakeAll core) := by
  obtain ⟨he, hp⟩ := s.wake_places (s.inPlace core .waiting)
  have hw : ∀ g, (s.grp g).live = true → gidCore g = core → (s.grp g).place = .waiting → s.groupReady g = true →
      ((s.wakeAll core).grp g).place ≠ .waiting := fun g hl hc hpl hr => by
    rw [State.wakeAll, hp g (s.mem_inPlace hl hc hpl) hr]
    exact Place.noConfusion
  rcases groupAdmission_eq s core with ⟨x, hx, hr, ht⟩ | ⟨hr, ht⟩
  · refine ⟨_, ht, he, fun g hl hc hpl hrd => ?_, fun g hg _ => ?_, fun h => absurd hr (Nat.not_lt.mpr h)⟩
    · rw [State.grp_setGrp]
      split
      · exact Place.noConfusion
      · exact hw g hl hc hpl hrd
    · obtain rfl := Option.some.inj (hx.symm.trans hg)
      rw [State.grp_setGrp_same]
      exact ⟨rfl, rfl⟩
  · exact ⟨_, ht, he, hw, fun g hg h => absurd h (Nat.not_lt.mpr (hr g hg)), fun _ => rfl⟩

theorem swapGroup_place (s : State) (gid : Nat) : ((s.swapGroup gid).grp gid).place = (if s.groupReady gid then .pending else .waiting) ∧
    ((s.swapGroup gid).grp gid).begun = 0 := by
  unfold State.swapGroup
  rw [State.grp_setGrp_same]
  exact ⟨rfl, rfl⟩

/-- A swap that is due, for a yield or for fairness, R195, R196. -/
theorem swap_completes (s : State) (gid : Nat) (due : Bool) {o : Host.Outcome State Fault Refusal}
    (ho : o = .next (if due then s.swapGroup gid else s)) : ∃ t, o = .next t ∧ (due = false → t = s) ∧ (due = true →
      (t.grp gid).place = (if s.groupReady gid then .pending else .waiting) ∧ (t.grp gid).begun = 0) := by
  cases due with
  | false => exact ⟨_, ho, fun _ => rfl, fun h => absurd h Bool.false_ne_true⟩
  | true => exact ⟨_, ho, fun h => absurd h.symm Bool.false_ne_true, fun _ => swapGroup_place s gid⟩

end Sys2Proof.Machine
end

section
/-! What of a group follows its frames into the spill region (R177). -/

namespace Sys2Proof.Machine.State

variable (s : State)

@[simp] theorem l1Write_beyondAccess (c x : Nat) (b : Bool) (sl k : Nat) (m : BitVec 64) (d : List Byte) (p : Bool) :
    (s.l1Write c x b sl k m d p).beyondAccess = s.beyondAccess := by
  unfold l1Write
  dsimp only
  split <;> simp

@[simp] theorem gput_beyondAccess (c x : Nat) (t : Tr) (bs : List Byte) (p : Bool) : (s.gput c x t bs p).beyondAccess = s.beyondAccess := by
  unfold gput
  dsimp only
  repeat' split
  all_goals simp

@[simp] theorem framePut_beyondAccess (gid : Nat) (f : Frame) (o n : Nat) : (s.framePut gid f o n).beyondAccess = s.beyondAccess :=
  gput_beyondAccess ..

end Sys2Proof.Machine.State

namespace Sys2Proof.Machine

/-! ### Frames that leave the die -/

/-- A frame but for the mark that it has been written out. -/
def Frame.core (f : Frame) : Frame := { f with out := false }

/-- Of a group nothing changes but which of its frames have been written out. -/
def SameFrames (g h : Group) : Prop :=
  { h with frames := g.frames } = g ∧ ∀ q, (h.frame q).map Frame.core = (g.frame q).map Frame.core

theorem SameFrames.refl (g : Group) : SameFrames g g := ⟨rfl, fun _ => rfl⟩

theorem SameFrames.trans {g h i : Group} (hgh : SameFrames g h) (hhi : SameFrames h i) : SameFrames g i := by
  obtain ⟨h1, h2⟩ := hgh
  obtain ⟨h3, h4⟩ := hhi
  refine ⟨?_, fun q => (h4 q).trans (h2 q)⟩
  rw [← h1, ← h3]

theorem frame_setFrame (g : Group) (pos q : Nat) (x : Option Frame) : (g.setFrame pos x).frame q = if q = pos then x else g.frame q :=
  mget_mset ..

theorem sameFrames_setOut {g : Group} {pos : Nat} {f : Frame} (h : g.frame pos = some f) :
    SameFrames g (g.setFrame pos (some { f with out := true })) := by
  refine ⟨rfl, fun q => ?_⟩
  rw [frame_setFrame]
  split
  · next hq => rw [hq, h]; rfl
  · rfl

theorem SameFrames.arm {g h : Group} (hs : SameFrames g h) (slot : Nat) : h.arm slot = g.arm slot := by
  have := congrArg (fun x : Group => x.arm slot) hs.1
  exact this

theorem grp_of_groups {s t : State} (h : t.groups = s.groups) (k : Nat) : t.grp k = s.grp k := by
  rw [State.grp, h, State.grp]

theorem sameFrames_of_beyondAccess {s t : State} (h : t.beyondAccess = s.beyondAccess) (gid : Nat) : SameFrames (s.grp gid) (t.grp gid) :=
  grp_of_groups (State.groups_of_beyondAccess h) gid ▸ SameFrames.refl _

/-- A frame leaves the die. -/
theorem frameOut_sameFrames {s : State} {gid pos : Nat} {f : Frame} (h : (s.grp gid).frame pos = some f) : SameFrames (s.grp gid)
    (((s.frameOut gid f).setGrp gid ((s.grp gid).setFrame pos (some { f with out := true }))).grp gid) := by
  rw [State.grp_setGrp_same]
  exact sameFrames_setOut h

/-- The bytes of the group's frames follow in the spill region, R177. -/
theorem spillOut_sameFrames (s : State) (gid : Nat) (old : Group) : SameFrames (s.grp gid) ((s.spillOut gid old).grp gid) := by
  unfold State.spillOut
  generalize List.range 10 = l
  induction l generalizing s with
  | nil => exact .refl _
  | cons pos l ih =>
    refine SameFrames.trans ?_ (ih _)
    dsimp only
    split
    · exact .refl _
    · next f hf =>
      split
      · split
        · exact .refl _
        · exact sameFrames_of_beyondAccess (s.framePut_beyondAccess ..) gid
      · split
        · exact .refl _
        · exact frameOut_sameFrames hf

/-- A change of a group's arms and frames: but for the marks of the frames, the group is then as given. -/
theorem setFrames_sameFrames (s : State) (gid : Nat) (g : Group) : SameFrames g ((s.setFrames gid g).grp gid) := by
  have h := spillOut_sameFrames (s.setGrp gid g) gid (s.grp gid)
  rw [State.grp_setGrp_same] at h
  exact h

end Sys2Proof.Machine
end

section
/-! A timed wait that ends (R182, R183), and the deadlock of a skein queue (R223). -/

namespace Sys2Proof.Machine

open Sys2Proof.Safety

/-! ### A timed wait -/

/-- Of a group nothing changes but that some frame positions become free. -/
def FreesFrames (g h : Group) : Prop := { h with frames := g.frames } = g ∧ ∀ q, h.frame q = none ∨ h.frame q = g.frame q

theorem FreesFrames.refl (g : Group) : FreesFrames g g := ⟨rfl, fun _ => .inr rfl⟩

theorem FreesFrames.trans {g h i : Group} (hgh : FreesFrames g h) (hhi : FreesFrames h i) : FreesFrames g i := by
  obtain ⟨h1, h2⟩ := hgh
  obtain ⟨h3, h4⟩ := hhi
  refine ⟨?_, fun q => ?_⟩
  · rw [← h1, ← h3]
  · rcases h4 q with h | h
    · exact .inl h
    · rw [h]; exact h2 q

theorem foldl_freesFrames {α : Type} {f : Group → α → Group} (hf : ∀ g a, FreesFrames g (f g a)) (l : List α) (g : Group) :
    FreesFrames g (l.foldl f g) := by
  induction l generalizing g with
  | nil => exact .refl g
  | cons a l ih => exact (hf g a).trans (ih _)

theorem release_frees (g : Group) (pos : Nat) : FreesFrames g (g.release pos) := by
  unfold Group.release
  split
  · exact .refl g
  · split
    · refine ⟨rfl, fun q => ?_⟩
      rw [frame_setFrame]
      split
      · exact .inl rfl
      · exact .inr rfl
    · exact .refl g

theorem releaseAll_frees (g : Group) : FreesFrames g g.releaseAll :=
  foldl_freesFrames (fun h _ => foldl_freesFrames release_frees (mkeys h.frames) h) g.frames g

/-- The arm that waited pops its frame, which dissolves. -/
theorem dissolve_frame {g : Group} {slot pos : Nat} {f : Frame} (hp : (g.arm slot).park = some (.timed pos)) (hf : g.frame pos = some f) :
    FreesFrames ((g.setFrame pos (some { f with dissolved := true })).setArm slot
      { g.arm slot with park := some .header, top := f.parent, bw := false }) (g.dissolve slot) := by
  unfold Group.dissolve
  rw [hp]
  dsimp only
  rw [hf]
  exact releaseAll_frees _

theorem bwaitTimeout_completes {s : State} {gid slot pos : Nat} {f : Frame} (hp : ((s.grp gid).arm slot).park = some (.timed pos))
    (hf : (s.grp gid).frame pos = some f) (hi : s.framesIntact (s.grp gid) = true) : ∃ t, exec (.bwaitTimeout gid slot) s = .next t ∧
      ((t.grp gid).arm slot).park = some .header ∧ ((t.grp gid).arm slot).bw = false ∧ ((t.grp gid).arm slot).top = f.parent ∧
      ∀ y, (t.grp gid).frame pos = some y → { y with out := f.out } = { f with dissolved := true } := by
  have hx : exec (.bwaitTimeout gid slot) s = .next (s.setFrames gid ((s.grp gid).dissolve slot)) := by
    show execBwaitTimeout gid slot s = _
    unfold execBwaitTimeout
    rw [spoilFrames_intact hi]
  have hs := setFrames_sameFrames s gid ((s.grp gid).dissolve slot)
  obtain ⟨hg, hq⟩ := dissolve_frame hp hf
  have ha : ((s.setFrames gid ((s.grp gid).dissolve slot)).grp gid).arm slot =
      { (s.grp gid).arm slot with park := some .header, top := f.parent, bw := false } := by
    rw [hs.arm]
    have := congrArg (fun x : Group => x.arm slot) hg
    exact this.trans (Group.arm_setArm_same ..)
  refine ⟨_, hx, by rw [ha], by rw [ha], by rw [ha], fun y hy => ?_⟩
  obtain ⟨-, hs⟩ := hs
  have hc := hs pos
  rw [hy] at hc
  have hd : (((s.grp gid).setFrame pos (some { f with dissolved := true })).setArm slot
      { (s.grp gid).arm slot with park := some .header, top := f.parent, bw := false }).frame pos = some { f with dissolved := true } := by
    rw [Group.frame, Group.setArm_frames]
    exact (frame_setFrame ..).trans (if_pos rfl)
  rcases hq pos with h | h
  · rw [h] at hc
    exact absurd hc (by simp)
  · rw [h, hd] at hc
    have := congrArg (fun x : Option Frame => x.map fun x => { x with out := f.out }) hc
    exact Option.some.inj this

/-! ### A deadlocked skein queue -/

/-- A trap that a handler takes, at any place. -/
theorem takeTrapAt_handler {s : State} {gid slot : Nat} {x : TrapInfo} {pc : Word} (h : TakesHandler s gid slot)
    (hc : State.endsGroups x.cause = false) : ∃ b : Arm, s.takeTrapAt gid slot x pc = s.setGrp gid ((s.grp gid).setArm slot b) ∧
      b.handler = true ∧ b.pc = s.hvec gid ∧ b.trapc = x.cause ∧ b.trapad = x.ad ∧ b.trapx = x.x := by
  obtain ⟨-, hh, hv, hn⟩ := h
  have hb := (handlerElse_false_iff _ _).mpr hn
  rcases takeTrapAt_cases s gid slot x pc with ⟨h1, -⟩ | ⟨-, h1, -⟩ | ⟨-, -, -, h1, -⟩ | ⟨-, -, -, -, he⟩
  · exact absurd h1 (by simp [hh])
  · exact absurd h1 (not_or.mpr ⟨by simp [hc], hv⟩)
  · exact absurd h1 (by simp [hb])
  · exact ⟨_, he, rfl, rfl, rfl, rfl, rfl⟩

/-- An empty queue grants nothing. -/
theorem skeinGrant_empty {s : State} {tid : Nat} (h : (s.team tid).skeinQ = []) (fuel : Nat) : s.skeinGrant tid fuel = s := by
  cases fuel with
  | zero => rfl
  | succ fuel =>
    unfold State.skeinGrant
    dsimp only
    rw [h]

theorem skeinDeadlockDetect_completes {s : State} {tid uid n gid : Nat} (hs : (s.team tid).saved = false)
    (hq : (s.team tid).skeinQ = [(uid, n)]) (hk : (s.teamGroups tid).all s.skeinStuck = true) (hu : s.findUid uid = some gid)
    (ht : TakesHandler s gid (s.grp gid).soleSlot) : ∃ t, exec (.skeinDeadlockDetect tid) s = .next t ∧ (t.team tid).skeinQ = [] ∧
      InHandler s t gid (s.grp gid).soleSlot ⟨34, BitVec.ofNat 64 (s.team tid).skeinFree, BitVec.ofNat 64 n⟩ := by
  have hc : ((s.team tid).saved || !(s.teamGroups tid).all s.skeinStuck) = false := by rw [hs, hk]; rfl
  have hf : (s.setTeam tid { s.team tid with skeinQ := [] }).findUid uid = some gid := hu
  obtain ⟨b, hb, hin⟩ := takeTrapAt_handler (s := s.setTeam tid { s.team tid with skeinQ := [] })
    (x := trapOf 34 (BitVec.ofNat 64 (s.team tid).skeinFree) (BitVec.ofNat 64 n)) (pc := (s.grp gid).sole.ipc) ht rfl
  have hqu : (((s.setTeam tid { s.team tid with skeinQ := [] }).setGrp gid (((s.setTeam tid { s.team tid with skeinQ := [] }).grp gid).setArm
      (s.grp gid).soleSlot b)).team tid).skeinQ = [] := by
    rw [State.team_setGrp]
    exact congrArg Team.skeinQ (mget_mset_same ..)
  refine ⟨_, ?trap, hqu, ?_⟩
  case trap =>
    show execSkeinDeadlockDetect tid s = _
    simp only [execSkeinDeadlockDetect, hq, hc, hf, Bool.false_eq_true, if_false, List.length_nil]
    exact congrArg Host.Outcome.next ((congrArg (fun t : State => t.skeinGrant tid (0 + 1)) hb).trans (skeinGrant_empty hqu _))
  rw [InHandler, State.grp_setGrp_same, Group.arm_setArm_same]
  exact hin

end Sys2Proof.Machine
end

section
/-! What a fetch leaves as it is (R59, R60, R461). -/

namespace Sys2Proof.Machine.State

variable (s : State)

@[simp] theorem useEntry_beyondAccess (c : Nat) (k : XKind) (e : TlbEntry) : (s.useEntry c k e).beyondAccess = s.beyondAccess := by
  simp [useEntry, l1TlbAdd]

@[simp] theorem markRetire_beyondAccess (c : Nat) : (s.markRetire c).beyondAccess = s.beyondAccess := by
  unfold markRetire
  dsimp only
  split
  · rfl
  · split
    · simp
    · rfl

@[simp] theorem rowError_beyondAccess (chip pa : Nat) : (s.rowError chip pa).beyondAccess = s.beyondAccess := by
  unfold rowError
  dsimp only
  split
  · split
    · rfl
    · split
      · simp
      · rfl
  · rfl

@[simp] theorem wearError_beyondAccess (c u pa : Nat) : (s.wearError c u pa).beyondAccess = s.beyondAccess := by
  unfold wearError
  split
  · split <;> simp
  · split <;> simp

/-- An injection changes what its mark changes, and the logs and reports, R461. -/
theorem injectIf_beyondAccess (cls unit ctx : Nat) (meets : Nat → Bool) (addr : Nat → Word) (mark : Nat → State → State)
    (hm : ∀ x t, (mark x t).beyondAccess = t.beyondAccess) : (s.injectIf cls unit ctx meets addr mark).beyondAccess = s.beyondAccess := by
  have hd : ∀ d : DevRegs, ({ s with dev := d } : State).beyondAccess = s.beyondAccess := fun _ => rfl
  unfold injectIf
  dsimp only
  split
  · rfl
  · split <;> split <;> simp [hm, hd]

theorem injectAt_beyondAccess (cls unit a n ctx : Nat) (mark : Nat → State → State) (hm : ∀ x t, (mark x t).beyondAccess = t.beyondAccess) :
    (s.injectAt cls unit a n ctx mark).beyondAccess = s.beyondAccess := injectIf_beyondAccess s _ _ _ _ _ mark hm

theorem homeInject_beyondAccess (pa n c : Nat) : (s.homeInject pa n c).beyondAccess = s.beyondAccess := by
  unfold homeInject
  split
  · rfl
  · have hm : ∀ (_ : Nat) (t : State), ({ t with psn := mset false t.psn (pa / 64) true } : State).beyondAccess = t.beyondAccess :=
      fun _ _ => rfl
    dsimp only
    rw [injectIf_beyondAccess _ _ _ _ _ _ _ hm, injectAt_beyondAccess _ _ _ _ _ _ _ hm]

theorem dieInject_beyondAccess (d c pa n : Nat) (b : Bool) : (s.dieInject d c pa n b).beyondAccess = s.beyondAccess := by
  unfold dieInject
  split
  · rfl
  · split
    · exact injectAt_beyondAccess s _ _ _ _ _ _ fun _ _ => l2put_beyondAccess ..
    · exact homeInject_beyondAccess ..

theorem fetchInject_beyondAccess (t : Tr) : (s.fetchInject t).beyondAccess = s.beyondAccess := by
  unfold fetchInject
  split
  · rfl
  · split
    · exact injectAt_beyondAccess s _ _ _ _ _ _ fun _ _ => setCore_beyondAccess ..
    · exact dieInject_beyondAccess ..

theorem icacheRoom_beyondAccess (c a : Nat) : (s.icacheRoom c a).beyondAccess = s.beyondAccess := by
  unfold icacheRoom
  dsimp only
  split
  · rfl
  · simp

/-- A fetched word leaves the groups, and everything else beyond an access, as they were. -/
theorem fetchWord_beyondAccess {s u : State} {va w : Word} (h : s.fetchWord va = .word u w) : u.beyondAccess = s.beyondAccess := by
  have hr : ∀ t : Tr, (((s.fetchInject t).chargeHomes s.cdie s.cctx.part (s.fetchNeeds t)).icacheRoom s.ccore t.pa).beyondAccess =
      s.beyondAccess := fun t => by rw [icacheRoom_beyondAccess, chargeHomes_beyondAccess, fetchInject_beyondAccess]
  unfold fetchWord at h
  split at h
  · exact Fetched.noConfusion h
  · exact Fetched.noConfusion h
  · next t e _ =>
    split at h
    · exact Fetched.noConfusion h
    · split at h
      · injection h with h1
        rw [← h1, useEntry_beyondAccess]
      · split at h
        · exact Fetched.noConfusion h
        · split at h
          · exact Fetched.noConfusion h
          · dsimp only at h
            split at h
            · exact Fetched.noConfusion h
            · injection h with h1
              rw [← h1, setCore_beyondAccess, ite_beyondAccess, bump_beyondAccess, ite_self, useEntry_beyondAccess, hr]

/-- The words that follow. -/
theorem fetchWords_beyondAccess {s u : State} {va w : Word} {n : Nat} {acc ws : List Word} (h : s.fetchWords va n acc = (.word u w, ws)) :
    u.beyondAccess = s.beyondAccess := by
  induction n generalizing s va acc with
  | zero =>
    injection h with h1
    injection h1 with h2
    rw [h2]
  | succ n ih =>
    unfold fetchWords at h
    split at h
    · next v x hv => exact (ih h).trans (fetchWord_beyondAccess hv)
    · next hv =>
      injection h with h1
      exact absurd h1 (hv u w)

end Sys2Proof.Machine.State
end

section
/-! Entering a clause (R170): what an entry leaves of the executing group, and the header's waits (R57). -/

namespace Sys2Proof.Machine

open Sys2Proof.Safety

/-- Of the group only its frames, check records and observation mark change. -/
def EntryKeeps (g h : Group) : Prop := { h with frames := g.frames, copyObs := g.copyObs, chkHomes := g.chkHomes } = g

theorem EntryKeeps.trans {g h i : Group} (hgh : EntryKeeps g h) (hhi : EntryKeeps h i) : EntryKeeps g i := by
  unfold EntryKeeps at *
  rw [← hgh, ← hhi]

/-- The executing group and arm are the same ones, and keep all but these. -/
def Enters (s t : State) : Prop := t.cur = s.cur ∧ EntryKeeps s.cg t.cg

theorem Enters.trans {s t u : State} (hst : Enters s t) (htu : Enters t u) : Enters s u := by
  obtain ⟨h1, h2⟩ := hst
  obtain ⟨h3, h4⟩ := htu
  exact ⟨h3.trans h1, h2.trans h4⟩

theorem Enters.ca {s t : State} (h : Enters s t) : t.ca = s.ca := by
  obtain ⟨hc, hg⟩ := h
  have hs : t.slot = s.slot := congrArg Prod.snd hc
  have ha := congrArg (fun g : Group => g.arm s.slot) hg
  rw [State.ca, hs]
  exact ha

/-- The registers of the group are those of a group that keeps all but these, and so are the counts of the waits. -/
theorem Enters.regs {s t : State} (h : Enters s t) : SameRegs s t ∧ t.cg.begun = s.cg.begun ∧ t.cg.copyFlag = s.cg.copyFlag ∧
    t.cg.tileFlag = s.cg.tileFlag ∧ t.cg.copies = s.cg.copies ∧ t.cg.tiles = s.cg.tiles := by
  have ha := h.ca
  obtain ⟨-, hg⟩ := h
  rw [SameRegs, ha, ← hg]
  exact ⟨⟨rfl, rfl, rfl, rfl, rfl, rfl, rfl, rfl, rfl, rfl, rfl⟩, rfl, rfl, rfl, rfl, rfl⟩

theorem enters_of_grp {s t : State} {g : Group} (hc : t.cur = s.cur) (hg : t.grp s.gid = g) (h : EntryKeeps s.cg g) : Enters s t := by
  have hgid : t.gid = s.gid := congrArg Prod.fst hc
  have hcg : t.cg = g := by rw [State.cg, hgid, hg]
  exact ⟨hc, hcg ▸ h⟩

theorem enters_setG {s : State} {g : Group} (h : EntryKeeps s.cg g) : Enters s (s.setG g) :=
  enters_of_grp rfl (State.grp_setGrp_same ..) h

theorem enters_of_groups {s t : State} (hc : t.cur = s.cur) (hg : t.groups = s.groups) : Enters s t :=
  enters_of_grp hc (grp_of_groups hg s.gid) rfl

theorem spoilFrames_enters (s : State) : Enters s (s.spoilFrames s.gid) := by
  unfold State.spoilFrames
  dsimp only
  split
  · exact enters_of_groups rfl rfl
  · refine enters_of_grp (g := { s.cg with frames := _ }) ?_ (State.grp_setGrp_same ..) rfl
    refine foldl_keeps (p := State.cur) (fun s pos => ?_) _ s
    split <;> rfl

/-- A chain of changes of the check records. -/
theorem foldl_checks (f : State → Nat → SMap (List CheckRec)) (l : List Nat) (s : State) :
    ∃ c, l.foldl (fun s h => ({ s with checks := f s h } : State)) s = { s with checks := c } := by
  induction l generalizing s with
  | nil => exact ⟨s.checks, rfl⟩
  | cons h l ih => exact ih { s with checks := f s h }

theorem closeChecks_enters (s : State) : Enters s (s.closeChecks s.gid) := by
  unfold State.closeChecks State.closeAt
  dsimp only
  split
  · exact enters_of_groups rfl rfl
  · apply Exists.elim (foldl_checks _ (maskList ((s.grp s.gid).chkHomes &&& BitVec.allOnes 16)) s)
    intro c hc
    rw [hc]
    exact enters_of_grp rfl (State.grp_setGrp_same ..) rfl

theorem acquireAct_enters (s : State) (sc : Nat) : Enters s (s.acquireAct sc) := by
  unfold State.acquireAct
  dsimp only
  split
  · exact (closeChecks_enters s).trans (enters_of_groups rfl rfl)
  · exact closeChecks_enters s

/-! ### The header's waits -/

theorem ca_park (s : State) (p : Park) : (s.park p).ca = { s.ca with park := some p, asks := none } := by
  refine (State.ca_setG ..).trans ?_
  rw [arm_settlePlace, Group.arm_setArm_same]
  rfl

theorem settlePlace_eq (g : Group) : ∃ p, g.settlePlace = { g with place := p } := by
  unfold Group.settlePlace
  split
  · exact ⟨_, rfl⟩
  · exact ⟨g.place, rfl⟩

/-- A wait parks the arm, and writes no register. -/
theorem park_regs (s : State) (p : Park) : SameRegs s (s.park p) ∧ (s.park p).cg.begun = s.cg.begun := by
  have h : ∃ b, (s.park p).cg = (s.cg.setArm s.slot b).settlePlace := ⟨_, State.cg_setG ..⟩
  obtain ⟨b, hb⟩ := h
  obtain ⟨p, hp⟩ := settlePlace_eq (s.cg.setArm s.slot b)
  simp [SameRegs, ca_park, hb, hp]

/-- A group without fault flags does not trap at its header. -/
theorem flagTrap_none {g : Group} (h : Header) (hc : g.copyFlag = none) (ht : g.tileFlag = none) : flagTrap g h = none := by
  unfold flagTrap flagTrap.tile
  rw [hc, ht]

/-- The header's waits, R57, R171: too high counts park the arm; an arm that they let pass may issue. -/
theorem headerStep_completes {s : State} {c : Clause} (hc : s.ca.clause = some c) (hu : s.ca.ue = none) (hf : s.cg.copyFlag = none)
    (ht : s.cg.tileFlag = none) :
    (waitsMet s.cg s.ca (headerOf c.head) = false → s.headerStep = .next (s.park .header)) ∧
    (waitsMet s.cg s.ca (headerOf c.head) = true → ∃ t, s.headerStep = .next t ∧ Enters (s.modA fun a => { a with park := none }) t) := by
  unfold State.headerStep
  simp only [hc, hu, flagTrap_none (headerOf c.head) hf ht]
  constructor <;> intro hw
  · simp only [hw, Bool.not_false, if_true]
  · simp only [hw, Bool.not_true, Bool.false_eq_true, if_false]
    refine ⟨_, rfl, ?_⟩
    split
    · exact (enters_setG (g := { (s.modA fun a => { a with park := none }).cg with copyObs := false }) rfl).trans (acquireAct_enters _ _)
    · exact enters_of_groups rfl rfl

theorem arrive_noFrame {s : State} (h : s.ca.top = none) (pc : Word) (timed : Bool) (fuel : Nat) : s.arrive pc timed fuel = s.headerStep := by
  cases fuel with
  | zero => rfl
  | succ fuel =>
    unfold State.arrive
    rw [h]

/-- The arm has entered the clause at its place. -/
def State.enter (s : State) (c : Clause) (yh : Bool) : State :=
  s.modG fun g => { g.setArm s.slot { g.arm s.slot with
    clause := some c, park := none, walkFaults := [], asks := none, bw := true, yielded := yh } with begun := g.begun + 1 }

section
variable (s : State) (c : Clause) (yh : Bool)

theorem ca_enter : (s.enter c yh).ca = { s.ca with clause := some c, park := none, walkFaults := [], asks := none, bw := true, yielded := yh } := by
  refine (State.ca_setG ..).trans ?_
  exact Group.arm_setArm_same s.cg s.slot _

theorem enter_regs : SameRegs s (s.enter c yh) ∧ (s.enter c yh).cg.begun = s.cg.begun + 1 ∧ (s.enter c yh).cg.copyFlag = s.cg.copyFlag ∧
    (s.enter c yh).cg.tileFlag = s.cg.tileFlag ∧ (s.enter c yh).cg.copies = s.cg.copies ∧ (s.enter c yh).cg.tiles = s.cg.tiles := by
  have h : ∃ b, (s.enter c yh).cg = { s.cg.setArm s.slot b with begun := s.cg.begun + 1 } := ⟨_, State.cg_setG ..⟩
  obtain ⟨b, hb⟩ := h
  simp [SameRegs, ca_enter, hb]

end

/-! ### The clause -/

/-- An arm whose clause passes its checks enters it, and stands at its header; it has no top frame to arrive at. -/
theorem clauseEntry_enters {s u v : State} {w x : Word} {ws : List Word} (hl : s.ca.live = true) (hc : s.ca.clause = none)
    (hp : s.ca.pc.toNat % 8 = 0) (hw : s.fetchWord s.ca.pc = .word u w) (hh : isHeader w = true)
    (hws : u.fetchWords (s.ca.pc + 8) (headerOf w).n [] = (.word v x, ws)) (hz : w.toNat % 2 ^ 23 = 0)
    (hcl : uncovered (headerOf w).cls ws = none) (ht : earlyTransfer ws = none) (htop : s.ca.top = none) (hu : s.ca.ue = none) :
    ∃ e, Enters (v.enter ⟨s.ca.pc, w, ws, 0⟩ (headerOf w).yh) e ∧ exec .clauseEntry s = e.headerStep := by
  obtain ⟨hcv, hgv⟩ : v.cur = s.cur ∧ v.groups = s.groups := by
    have h := (State.fetchWords_beyondAccess hws).trans (State.fetchWord_beyondAccess hw)
    exact ⟨State.cur_of_beyondAccess h, State.groups_of_beyondAccess h⟩
  have hs := spoilFrames_enters (v.enter ⟨s.ca.pc, w, ws, 0⟩ (headerOf w).yh)
  refine ⟨_, hs, ?_⟩
  have htop' : ((v.enter ⟨s.ca.pc, w, ws, 0⟩ (headerOf w).yh).spoilFrames (v.enter ⟨s.ca.pc, w, ws, 0⟩ (headerOf w).yh).gid).ca.top = none := by
    rw [hs.ca, ca_enter]
    exact (congrArg Arm.top (enters_of_groups hcv hgv).ca).trans htop
  rw [← arrive_noFrame htop' s.ca.pc (opcOf (ws.getD 0 0) == 0x55) 11]
  show execClauseEntry s = _
  have hz' : (w.toNat % 2 ^ 23 != 0) = false := by rw [hz]; rfl
  have hp' : (s.ca.pc.toNat % 8 != 0) = false := by rw [hp]; rfl
  simp only [execClauseEntry, hl, hc, hu, hp', hw, hh, hws, hz', hcl, ht, Option.isSome_none, Bool.not_true, Bool.or_self, Bool.false_eq_true,
    if_false]
  rfl

theorem clauseEntry_completes {s u v : State} {w x : Word} {ws : List Word} (hl : s.ca.live = true) (hc : s.ca.clause = none)
    (hp : s.ca.pc.toNat % 8 = 0) (hw : s.fetchWord s.ca.pc = .word u w) (hh : isHeader w = true)
    (hws : u.fetchWords (s.ca.pc + 8) (headerOf w).n [] = (.word v x, ws)) (hz : w.toNat % 2 ^ 23 = 0)
    (hcl : uncovered (headerOf w).cls ws = none) (ht : earlyTransfer ws = none) (htop : s.ca.top = none) (hu : s.ca.ue = none)
    (hcf : s.cg.copyFlag = none) (htf : s.cg.tileFlag = none) :
    ∃ t, exec .clauseEntry s = .next t ∧ t.ca.clause = some ⟨s.ca.pc, w, ws, 0⟩ ∧ SameRegs s t ∧ t.cg.begun = s.cg.begun + 1 ∧
      t.ca.yielded = (headerOf w).yh ∧
      (waitsMet s.cg s.ca (headerOf w) = true → t.ca.park = none) ∧
      (waitsMet s.cg s.ca (headerOf w) = false → t.ca.park = some .header) := by
  obtain ⟨e, he, hx⟩ := clauseEntry_enters hl hc hp hw hh hws hz hcl ht htop hu
  have hv : Enters s v := by
    have h := (State.fetchWords_beyondAccess hws).trans (State.fetchWord_beyondAccess hw)
    exact enters_of_groups (State.cur_of_beyondAccess h) (State.groups_of_beyondAccess h)
  obtain ⟨r1, b1, c1, t1, n1, m1⟩ := hv.regs
  obtain ⟨r2, b2, c2, t2, n2, m2⟩ := enter_regs v ⟨s.ca.pc, w, ws, 0⟩ (headerOf w).yh
  obtain ⟨r3, b3, c3, t3, n3, m3⟩ := he.regs
  have hr := sameRegs_trans r1 (sameRegs_trans r2 r3)
  have hb : e.cg.begun = s.cg.begun + 1 := by rw [b3, b2, b1]
  have ha : e.ca =
      { s.ca with clause := some ⟨s.ca.pc, w, ws, 0⟩, park := none, walkFaults := [], asks := none, bw := true, yielded := (headerOf w).yh } := by
    rw [he.ca, ca_enter, hv.ca]
  have hm : waitsMet e.cg e.ca (headerOf w) = waitsMet s.cg s.ca (headerOf w) := by
    unfold waitsMet
    rw [ha, n3, n2, n1, m3, m2, m1]
  obtain ⟨h0, h1⟩ := headerStep_completes (s := e) (by rw [ha]) (by rw [ha]; exact hu) (by rw [c3, c2, c1, hcf]) (by rw [t3, t2, t1, htf])
  rw [hm] at h0 h1
  cases hwt : waitsMet s.cg s.ca (headerOf w) with
  | false =>
    obtain ⟨r4, b4⟩ := park_regs e .header
    refine ⟨_, hx.trans (h0 hwt), ?_, sameRegs_trans hr r4, b4.trans hb, ?_, fun h => absurd h Bool.false_ne_true, fun _ => ?_⟩
    · rw [ca_park, ha]
    · rw [ca_park, ha]
    · rw [ca_park]
  | true =>
    obtain ⟨t, ht, hk⟩ := h1 hwt
    have ha4 : t.ca = { e.ca with park := none } := by rw [hk.ca]; simp [State.ca]
    obtain ⟨r4, b4, -⟩ := hk.regs
    have r5 : SameRegs e (e.modA fun a => { a with park := none }) := by simp [SameRegs]
    refine ⟨t, hx.trans ht, ?_, sameRegs_trans hr (sameRegs_trans r5 r4), ?_, ?_, fun _ => ?_, fun h => absurd h.symm Bool.false_ne_true⟩
    · rw [ha4, ha]
    · rw [b4]; simpa using hb
    · rw [ha4, ha]
    · rw [ha4]

/-- Settles O50, an event at a time: the entry of a clause through its fetches, checks and waits, the replies, the timed wait, the
places of groups, and the deadlock of a skein queue. -/
theorem coreEventsComplete : Obligations.CoreEventsComplete := by
  unfold Obligations.CoreEventsComplete
  refine ⟨fun s u v w x ws hl hc hp hw hh hws hz hcl ht htop hu hcf htf => clauseEntry_completes hl hc hp hw hh hws hz hcl ht htop hu hcf htf,
    fun s gid slot ws rest hs hl => loadReplyCommit_completes hs hl, fun s gid ws rest hl => orphanReplyCommit_completes hl,
    fun s gid slot => storeAck_completes s gid slot, fun s gid slot pos f _ hp hf hi => bwaitTimeout_completes hp hf hi,
    fun s core => groupAdmission_completes s core, fun s gid => ⟨?_, swap_completes s gid (s.fairDue gid) rfl⟩,
    fun s tid uid n gid hs hq hk hu ht => skeinDeadlockDetect_completes hs hq hk hu ht⟩
  obtain ⟨t, hx, hn, hd⟩ := swap_completes s gid (s.swapDue gid) (o := exec (.swapOut gid) s) rfl
  exact ⟨t, hx, hn, fun h => (hd h).1⟩

end Sys2Proof.Machine
end

section
/-! A push whose write into the spill region recalls another line (R177, R298, R299). -/

namespace Sys2Proof.Machine

open Sys2Proof.Safety

/-- The frame of the `k`-th push, for all lanes, at its place from 0x1000 of device memory on; its pages are cached in no die. -/
def heldFrame (k : Nat) : Frame :=
  { raddr := 0x100, expect := BitVec.allOnes 32, arrived := 0, sfmt := 0, spmask := 0, sppc := 0, spxfer := 0, parent := none,
    dissolved := false, sscl := [], sspois := 0, sphandler := false, seq := k, waiting := [], tr := ⟨0x1000 + 384 * k, false, false, 3, 0⟩ }

/-- The page of the spill region, with every permission and the dirty bit. -/
def spillPage : TlbEntry := ⟨0, none, 0, 0, 0x34FF, 0⟩

/-- A group whose lanes 0 to 15 hold 1 in predicate 1, and which holds four frames on the die. -/
def fourHeld : State :=
  let s := State.reset.withWord 0
  let g := { s.grp 0 with preds := [(1, 0xFFFF)], frames := (List.range 4).map fun k => (k, some (heldFrame k)) }
  (s.setGrp 0 g).setCore 0 { s.core 0 with tlb := [spillPage] }

/-- The same group, at memory-side caches that hold lines where R296 and R297 let none be: the set of line 16, the first of the oldest
frame, is full of line 17, the second, which belongs to another set; that one holds 17 lines, line 17 and sixteen times line 200. Line 200
is owned by die 0, with byte 0 of its sector 800 dirty. -/
def straySets : State :=
  let s : State := { fourHeld with mlines := [(1, 17 :: List.replicate 16 200), (32769, List.replicate 16 17)] }
  (s.l2put 0 0 true 800 { cst := .o, drt := 1, data := [1] }).setDir 800 { dst := .o, shr := 1 }

/-- The branch that lanes 0 to 15 take. -/
def splitBrp : PF := { g := ⟨false, 1⟩, tdisp := 8, rdisp := 16 }

/-- What the branch asks of the arm, of its stack and of the spill region. -/
theorem straySets_splits : straySets.rdTrap (.p splitBrp.g.ps.toNat straySets.armMask) = none ∧
    straySets.active splitBrp.g ≠ straySets.armMask ∧ straySets.active splitBrp.g ≠ 0 ∧ straySets.slot ≤ 1 ∧ straySets.ca.loads = [] ∧
    straySets.cg.freePos = some 4 ∧ straySets.xlate straySets.ccore straySets.cg.ctx straySets.ca.walkFaults
      (straySets.cg.spill + BitVec.ofNat 64 (384 * 4)) = .ok ⟨1536, false, false, 3, 0⟩ spillPage := by decide +kernel

theorem straySets_frames : straySets.cg.frames =
    [(0, some (heldFrame 0)), (1, some (heldFrame 1)), (2, some (heldFrame 2)), (3, some (heldFrame 3))] := by decide +kernel

/-- Each sector of the oldest frame has a quiet home. -/
theorem straySets_atHome : ∀ k, k < 6 → AtHome straySets { (heldFrame 0).tr with pa := (heldFrame 0).tr.pa + 64 * k } := by decide +kernel

/-- The byte of an outcome's memory at an address. -/
def byteAfter (a : Nat) : Host.Outcome State Fault Refusal → Byte
  | .next t => mget 0 t.mem a
  | _ => 0

/-- The write of the oldest frame evicts line 17 from its own set, and to enter that again it evicts line 200, whose dirty byte returns. -/
theorem brp_straySets_recalls : byteAfter 51200 (exec (.brp splitBrp) straySets) = 1 ∧ mget 0 straySets.mem 51200 = 0 := by decide +kernel

/-- Refutes O19: the push of a fifth frame may write a byte outside the frame, where a memory-side cache holds a line outside its set and
another set holds more than 16 lines; no premise of the statement excludes such sets, in which the home of the frame's second line, quiet
before the push, has room for it no longer once the first line has been written. -/
theorem not_predicatedBranchCompletes : ¬ Obligations.PredicatedBranchCompletes := by
  unfold Obligations.PredicatedBranchCompletes
  rintro ⟨-, -, hdiv, -⟩
  obtain ⟨hp, hne, hz, hs, hl, hf, hx⟩ := straySets_splits
  obtain ⟨t, -, ht, -, -, -, -, -, -, -, -, -, -, -, -, -, -, -, -, -, -, -, -, -, hfifth⟩ :=
    hdiv straySets splitBrp 4 _ spillPage ⟨hp, hne, hz⟩ hs hl hf hx rfl rfl
  obtain ⟨hout, -⟩ := hfifth _ _ _ _ straySets_frames (by decide) (by decide) (by decide) rfl rfl rfl rfl rfl (by decide) straySets_atHome
  have hkept : mget 0 t.mem 51200 = mget 0 straySets.mem 51200 := hout 51200 (by decide)
  obtain ⟨hafter, hbefore⟩ := brp_straySets_recalls
  rw [ht] at hafter
  exact absurd (hafter.symm.trans (hkept.trans hbefore)) (by decide)

end Sys2Proof.Machine
end

section
/-! Group-collective instructions of a diverged group (R203, R387, R409). -/

namespace Sys2Proof.Machine

open Sys2Proof.Safety

variable {s : State}

theorem collective_converged (hc : s.cg.converged = true) (opc : Nat) (k : Eff) : s.collective opc k = k := if_pos hc

theorem collective_diverged (hc : s.cg.converged = false) (opc : Nat) (k : Eff) :
    s.collective opc k = .trap (trapOf 8 0 (BitVec.ofNat 64 opc)) := if_neg (by simp [hc])

/-- The checks pass, and the group is diverged. -/
theorem guarded_collective_diverged (hc : s.cg.converged = false) {g : Guard} {regs : List (Nat × Nat)} {reads : BitVec 32 → List Rd}
    (ha : Acts s g) (hp : Passes s g regs (reads (s.active g))) (opc : Nat) (k : BitVec 32 → Eff) :
    s.conclude (s.guarded g true regs reads fun act => s.collective opc (k act)) = .next (s.takeTrap (trapOf 8 0 (BitVec.ofNat 64 opc))) := by
  rw [State.guarded_passes _ hp fun _ => ha, collective_diverged hc, State.conclude_trap]

/-- A barrier instruction whose record exists. -/
theorem barIndex_collective_diverged (hc : s.cg.converged = false) {b : Nat} (hb : b < (s.level s.cg.tid s.cg.lid).recs.length) (opc : Nat) (k : Eff) :
    s.conclude (s.barIndex b (s.collective opc k)) = .next (s.takeTrap (trapOf 8 0 (BitVec.ofNat 64 opc))) := by
  rw [barIndex_inside hb, collective_diverged hc, State.conclude_trap]

/-- A latched tile instruction at stage 1, R409: it waits at no latch, and no tile fault is flagged. -/
theorem latchedEff_diverged (hc : s.cg.converged = false) (hl : s.ca.park ≠ some .latch) (hf : s.cg.tileFlag = none) (opc : Nat) (word : Word)
    (early : Option TrapInfo) (release : State → State) :
    s.conclude (s.latchedEff opc word early release) = .next (s.takeTrap (trapOf 8 0 (BitVec.ofNat 64 opc))) := by
  have hp : (s.ca.park == some .latch) = false := beq_eq_false_iff_ne.mpr hl
  simp only [State.latchedEff, hp, Bool.false_eq_true, if_false, State.tileFlagged, hf, collective_diverged hc, State.conclude_trap]

/-- The fields that a well-formed tvote holds: a source predicate, and one of four modes, R216. -/
theorem tvote_fields {f : VF} {p : BitVec 8} (hw : (Instr.tvote f).wf = true) (hfa : f.a = .v p) : p.toNat % 8 = p.toNat ∧ f.sub.toNat < 4 := by
  have hv : f.wfTvote = true := hw
  simp only [VF.wfTvote, hfa, Src.isPred, Bool.and_eq_true, decide_eq_true_eq] at hv
  obtain ⟨⟨⟨⟨-, hp⟩, -⟩, -⟩, hm⟩ := hv
  refine ⟨Nat.mod_eq_of_lt hp, ?_⟩
  split at hm
  · next h => omega
  · next h => rw [beq_iff_eq.mp hm]; decide

/-- The destination register that the mode of a team vote names. -/
theorem tvote_regs {f : VF} (hm : f.sub.toNat < 4) : (if f.sub.toNat % 4 == 3 then [(f.d.toNat, 1)] else []) =
    if f.sub = 3 then [(f.d.toNat, 1)] else [] := by
  refine if_congr ?_ rfl rfl
  rw [Nat.mod_eq_of_lt hm, beq_iff_eq, ← BitVec.toNat_inj]
  rfl

/-- Settles O33, by the first check that each instruction makes of its group: on its own, behind the record's index, behind the guard's
checks, or at the latch. -/
theorem divergedCollectivesTrap : Obligations.DivergedCollectivesTrap := by
  unfold Obligations.DivergedCollectivesTrap
  intro s hc
  refine ⟨fun f hb => ⟨barIndex_collective_diverged hc hb _ _, barIndex_collective_diverged hc hb _ _⟩,
    fun f => ⟨?pbar, ?tret⟩, fun f ha hp => guarded_collective_diverged hc ha hp _ _, fun f ha hp hk => ⟨guarded_collective_diverged hc ha hp _ _, ?sktake⟩,
    fun f ha hp => guarded_collective_diverged hc ha hp _ _, fun f p hw hfa ha hp => ?tvote,
    fun f hl hf => ⟨latchedEff_diverged hc hl hf _ _ _ _, latchedEff_diverged hc hl hf _ _ _ _, latchedEff_diverged hc hl hf _ _ _ _⟩,
    fun f hp => ?xshfl⟩
  case pbar => exact congrArg s.conclude (collective_diverged hc _ _)
  case tret => exact congrArg s.conclude (collective_diverged hc _ _)
  case sktake =>
    show s.conclude (s.sktakeEff f) = _
    unfold State.sktakeEff
    split
    · next n h => exact absurd h (hk n)
    · exact guarded_collective_diverged hc ha hp _ _
  case tvote =>
    obtain ⟨h8, hm⟩ := tvote_fields hw hfa
    show s.conclude (s.tvoteEff f) = _
    simp only [State.tvoteEff, hfa, h8, tvote_regs hm]
    exact guarded_collective_diverged hc ha hp _ _
  case xshfl =>
    obtain ⟨hg, hr, hs⟩ := hp
    show s.conclude (s.xshflEff f) = _
    simp only [State.xshflEff, hg, (State.winTrap_none s _).mpr hr, hs _ (List.mem_singleton_self _), collective_diverged hc, State.conclude_trap]
    rfl

end Sys2Proof.Machine
end

section
/-! Changes near the executing group: those of the group, of the teams, of the check records and of the cores' caches, and the release and
acquire actions below cluster scope, which make no other (R226, R276, R305). -/

namespace Sys2Proof.Machine

open Sys2Proof.Safety

/-- From `s` to `t` nothing changes but the executing group, the teams, the check records and the cores. -/
structure Local (s t : State) : Prop where
  rest : { t with groups := s.groups, teams := s.teams, checks := s.checks, cores := s.cores } = s
  grp : ∀ k, k ≠ s.gid → t.grp k = s.grp k

/-- What lies outside the memory hierarchy and the groups keeps all but the teams. -/
theorem outside_of_rest {s t : State} (h : { t with groups := s.groups, teams := s.teams, checks := s.checks, cores := s.cores } = s) :
    { outside t with teams := s.teams } = outside s := by
  have he : t = { s with groups := t.groups, teams := t.teams, checks := t.checks, cores := t.cores } :=
    congrArg (fun x : State => { x with groups := t.groups, teams := t.teams, checks := t.checks, cores := t.cores }) h
  rw [he]
  unfold outside
  dsimp only
  split <;> rfl

namespace Local

variable {s t u : State}

theorem refl (s : State) : Local s s := ⟨rfl, fun _ _ => rfl⟩

theorem cur (h : Local s t) : t.cur = s.cur := by have := congrArg State.cur h.rest; exact this
theorem mem (h : Local s t) : t.mem = s.mem := by have := congrArg State.mem h.rest; exact this
theorem uids (h : Local s t) : t.uids = s.uids := by have := congrArg State.uids h.rest; exact this
theorem gid (h : Local s t) : t.gid = s.gid := congrArg Prod.fst h.cur
theorem slot (h : Local s t) : t.slot = s.slot := congrArg Prod.snd h.cur

theorem trans (h1 : Local s t) (h2 : Local t u) : Local s u := by
  refine ⟨?_, fun k hk => (h2.grp k (h1.gid ▸ hk)).trans (h1.grp k hk)⟩
  have h := congrArg (fun x : State => { x with groups := s.groups, teams := s.teams, checks := s.checks, cores := s.cores }) h2.rest
  exact Eq.trans h h1.rest

theorem setG (s : State) (g : Group) : Local s (s.setG g) := ⟨rfl, s.grp_setG_other g⟩
theorem setTeam (s : State) (k : Nat) (x : Team) : Local s (s.setTeam k x) := ⟨rfl, fun _ _ => rfl⟩
theorem retire (s : State) : Local s s.retire := setG s _
theorem park (s : State) (p : Park) : Local s (s.park p) := setG s _
theorem l1Clear (s : State) (c : Nat) : Local s (s.l1Clear c) := ⟨rfl, fun _ _ => rfl⟩

/-- Outside the memory hierarchy and the groups only the teams may differ. -/
theorem outside (h : Local s t) : { outside t with teams := s.teams } = Safety.outside s := outside_of_rest h.rest

theorem outside_of_teams (h : Local s t) (ht : t.teams = s.teams) : Safety.outside t = Safety.outside s := by
  have he : (Safety.outside t).teams = s.teams := by
    unfold Safety.outside
    dsimp only
    split <;> exact ht
  rw [← h.outside, ← he]

end Local

namespace State

variable (s : State)

/-- A close of a group's check records writes them and the group's note of their homes, R305. -/
theorem closeChecks_eq (k : Nat) : s.closeChecks k = s ∨
    ∃ c x, s.closeChecks k = { s.setGrp k { s.grp k with chkHomes := x } with checks := c } := by
  unfold closeChecks closeAt
  dsimp only
  split
  · exact .inl rfl
  · apply Exists.elim (foldl_checks _ (maskList ((s.grp k).chkHomes &&& BitVec.allOnes 16)) s)
    intro c hc
    rw [hc]
    exact .inr ⟨c, _, rfl⟩

theorem closeChecks_rest (k : Nat) : { s.closeChecks k with groups := s.groups, checks := s.checks } = s := by
  rcases s.closeChecks_eq k with h | ⟨c, x, h⟩
  · rw [h]
  · rw [h]
    rfl

theorem grp_closeChecks (k j : Nat) : ∃ x, (s.closeChecks k).grp j = { s.grp j with chkHomes := x } := by
  rcases s.closeChecks_eq k with h | ⟨c, x, h⟩
  · exact ⟨_, by rw [h]⟩
  · have hj : (s.closeChecks k).grp j = if j = k then { s.grp k with chkHomes := x } else s.grp j := by rw [h]; exact grp_setGrp ..
    by_cases hk : j = k
    · exact ⟨x, by rw [hj, if_pos hk, hk]⟩
    · exact ⟨(s.grp j).chkHomes, by rw [hj, if_neg hk]⟩

theorem grp_closeChecks_other {k j : Nat} (hj : j ≠ k) : (s.closeChecks k).grp j = s.grp j := by
  rcases s.closeChecks_eq k with h | ⟨c, x, h⟩
  · rw [h]
  · rw [h]; exact grp_setGrp_other _ _ _ _ hj

theorem closeChecks_local : Local s (s.closeChecks s.gid) := by
  refine ⟨?_, fun k hk => s.grp_closeChecks_other hk⟩
  have h := congrArg (fun x : State => { x with teams := s.teams, cores := s.cores }) (s.closeChecks_rest s.gid)
  exact h

theorem closeChecks_teams (k : Nat) : (s.closeChecks k).teams = s.teams := by
  have h := congrArg State.teams (s.closeChecks_rest k)
  exact h

/-- The group as the release actions below cluster scope leave it: the stores of its arm are acknowledged, R226, R276. -/
def acked (x : BitVec 16) : Group := { s.cg.setArm s.slot { s.ca with stores := 0, asks := none } with chkHomes := x }

@[simp] theorem acked_lid (x : BitVec 16) : (s.acked x).lid = s.cg.lid := Group.setArm_lid ..
@[simp] theorem acked_tid (x : BitVec 16) : (s.acked x).tid = s.cg.tid := Group.setArm_tid ..
@[simp] theorem acked_vlane (x : BitVec 16) (r l : Nat) : (s.acked x).vlane r l = s.cg.vlane r l := Group.vlane_setArm ..
@[simp] theorem acked_pred (x : BitVec 16) (p : Nat) : (s.acked x).pred p = s.cg.pred p := Group.pred_setArm ..

variable {sc : Nat} (hsc : sc < 6)
include hsc

theorem releaseAct_eq : s.releaseAct sc = (s.modA fun a => { a with stores := 0, asks := none }).closeChecks s.gid := by
  have h6 : ¬ 6 ≤ sc := by omega
  have h7 : ¬ 7 ≤ sc := by omega
  have hn : s.relNeeds sc = [] := by simp only [relNeeds, h6, h7, if_false, List.append_nil]
  simp only [releaseAct, hn, h6, h7, if_false]
  rfl

theorem releaseAct_rest : { s.releaseAct sc with groups := s.groups, checks := s.checks } = s := by
  rw [releaseAct_eq s hsc]
  have h := congrArg (fun x : State => { x with groups := s.groups }) ((s.modA fun a => { a with stores := 0, asks := none }).closeChecks_rest s.gid)
  exact h

theorem releaseAct_local : Local s (s.releaseAct sc) := by
  rw [releaseAct_eq s hsc]
  exact (Local.setG s _).trans (closeChecks_local _)

theorem releaseAct_teams : (s.releaseAct sc).teams = s.teams := by
  have h := congrArg State.teams (s.releaseAct_rest hsc)
  exact h

theorem cg_releaseAct : ∃ x, (s.releaseAct sc).cg = s.acked x := by
  rw [releaseAct_eq s hsc]
  obtain ⟨x, hx⟩ := (s.modA fun a => { a with stores := 0, asks := none }).grp_closeChecks s.gid s.gid
  refine ⟨x, ?_⟩
  have hgid := (s.modA fun a => { a with stores := 0, asks := none }).closeChecks_local.gid
  rw [cg, show ((s.modA fun a => { a with stores := 0, asks := none }).closeChecks s.gid).gid = s.gid from hgid, hx]
  exact congrArg (fun g : Group => { g with chkHomes := x }) (s.cg_modA _)

end State

end Sys2Proof.Machine
end

section
/-! Barriers (R204-R209): the records of the current level, an arrival, and the waits on a generation. -/

namespace Sys2Proof.Machine

open Sys2Proof.Safety

/-! ### The executing arm retires, parks, or acquires -/

section
variable (s : State)

theorem advance_stores (a : Arm) : a.advance.stores = a.stores := by
  have h := congrArg Arm.stores (State.sameArm_advance a)
  exact h

theorem cg_park (p : Park) : ∃ q, (s.park p).cg = { s.cg.setArm s.slot { s.ca with park := some p, asks := none } with place := q } := by
  obtain ⟨q, hq⟩ := settlePlace_eq (s.cg.setArm s.slot { s.ca with park := some p, asks := none })
  exact ⟨q, (State.cg_setG ..).trans hq⟩

theorem park_stands (p : Park) : Stands s (s.park p) := by
  obtain ⟨hr, -⟩ := park_regs s p
  obtain ⟨q, hq⟩ := cg_park s p
  exact ⟨hr, by rw [ca_park], by rw [ca_park], by simp [hq], by simp [hq]⟩

theorem lid_park (p : Park) : (s.park p).cg.lid = s.cg.lid := by
  obtain ⟨q, hq⟩ := cg_park s p
  simp [hq]

/-- A return from a wait on a record is an acquire, R226, R366. -/
theorem barAcquire_frame (b : Nat) : Stands s (s.barAcquire b) ∧ Local s (s.barAcquire b) ∧ (s.barAcquire b).teams = s.teams ∧
    (s.barAcquire b).cg.lid = s.cg.lid ∧ (s.barAcquire b).ca.stores = s.ca.stores := by
  have h : Stands s (s.closeChecks s.gid) := (s.closeAt_frame s.gid _).1
  have hl := s.closeChecks_local
  obtain ⟨x, hx⟩ := s.grp_closeChecks s.gid s.gid
  have hg : (s.closeChecks s.gid).cg = { s.cg with chkHomes := x } := by rw [State.cg, hl.gid]; exact hx
  have ha : (s.closeChecks s.gid).ca = s.ca := by rw [State.ca, hg, hl.slot]; rfl
  have he : s.barAcquire b = if (s.barRec b).lastEng then (s.closeChecks s.gid).l1Clear (s.closeChecks s.gid).ccore else s.closeChecks s.gid := rfl
  rw [he]
  split
  · have hcg : ((s.closeChecks s.gid).l1Clear (s.closeChecks s.gid).ccore).cg = (s.closeChecks s.gid).cg := rfl
    have hca : ((s.closeChecks s.gid).l1Clear (s.closeChecks s.gid).ccore).ca = (s.closeChecks s.gid).ca := rfl
    rw [hca, hcg, ha, hg]
    exact ⟨h.trans (.of_groups rfl rfl), hl.trans (.l1Clear _ _), s.closeChecks_teams _, rfl, rfl⟩
  · rw [ha, hg]
    exact ⟨h, hl, s.closeChecks_teams _, rfl, rfl⟩

end

/-- A scalar is one of the registers. -/
theorem sreg_of_sameRegs {s t : State} (h : SameRegs s t) (n : Nat) : t.sreg n = s.sreg n := by
  obtain ⟨-, -, -, -, hs, -, -, ha, -⟩ := h
  unfold State.sreg Group.sreg
  rw [hs]
  split
  · rfl
  · exact congrArg (fun l : List Word => l.getD (n - 32) 0) ha

/-! ### One record of the current level -/

/-- Record `b` of the current level is `r`. -/
def State.setRec (s : State) (b : Nat) (r : BarRec) : State :=
  s.setLevel s.cg.tid s.cg.lid { s.level s.cg.tid s.cg.lid with recs := (s.level s.cg.tid s.cg.lid).recs.set b r }

/-- The record exists. -/
abbrev RecThere (s : State) (b : Nat) : Prop := b < (s.level s.cg.tid s.cg.lid).recs.length

/-- Of the machine beside the executing group only record `b` of the current level changes, and no byte of memory. -/
def OnlyRec (s t : State) (b : Nat) : Prop :=
  t.mem = s.mem ∧ (∀ k, k ≠ s.gid → t.grp k = s.grp k) ∧ { outside t with teams := s.teams } = outside s ∧
    (∀ x, x ≠ s.cg.tid → t.team x = s.team x) ∧ { t.team s.cg.tid with levels := s.cteam.levels } = s.cteam ∧
    (∀ l, l ≠ s.cg.lid → t.level s.cg.tid l = s.level s.cg.tid l) ∧
    { t.level s.cg.tid s.cg.lid with recs := (s.level s.cg.tid s.cg.lid).recs } = s.level s.cg.tid s.cg.lid ∧
    ∀ k, k ≠ b → t.barRec k = s.barRec k

section
variable {s t : State}

theorem team_of_teams (h : t.teams = s.teams) (k : Nat) : t.team k = s.team k := by rw [State.team, h]; rfl

theorem level_of_teams (h : t.teams = s.teams) (tid lid : Nat) : t.level tid lid = s.level tid lid := by
  rw [State.level, team_of_teams h]; rfl

/-- A level that is written, and the others. -/
theorem level_setLevel (s : State) (tid lid : Nat) (l : Level) (j k : Nat) :
    (s.setLevel tid lid l).level j k = if j = tid ∧ k = lid then l else s.level j k := by
  unfold State.level State.setLevel
  rw [State.team_setTeam]
  by_cases hj : j = tid
  · subst hj
    rw [if_pos rfl]
    unfold Team.level Team.setLevel
    rw [mget_mset]
    simp
  · simp [hj]

theorem level_setLevel_same (s : State) (tid lid : Nat) (l : Level) : (s.setLevel tid lid l).level tid lid = l := by
  rw [level_setLevel, if_pos ⟨rfl, rfl⟩]

/-- A record is read through its team and level alone. -/
theorem barRec_of_teams (h : t.teams = s.teams) (htid : t.cg.tid = s.cg.tid) (hlid : t.cg.lid = s.cg.lid) (b : Nat) : t.barRec b = s.barRec b := by
  rw [State.barRec, htid, hlid, level_of_teams h]; rfl

theorem barRec_setRec {b : Nat} (hb : RecThere s b) (r : BarRec) (k : Nat) : (s.setRec b r).barRec k = if k = b then r else s.barRec k := by
  have hcg : (s.setRec b r).cg = s.cg := rfl
  rw [State.barRec, hcg, State.setRec, level_setLevel_same, List.getD_eq_getElem?_getD, List.getElem?_set]
  by_cases hk : k = b
  · subst hk
    simp [hb]
  · simp [hk, Ne.symm hk, State.barRec]

/-- What changes near the group, and of the teams only a record, is a change of this record alone. -/
theorem onlyRec_of_teams {b : Nat} {r : BarRec} (hb : RecThere s b) (hl : Local s t) (htid : t.cg.tid = s.cg.tid) (hlid : t.cg.lid = s.cg.lid)
    (ht : t.teams = (s.setRec b r).teams) : OnlyRec s t b ∧ t.barRec b = r := by
  have hrec : ∀ k, t.barRec k = if k = b then r else s.barRec k := fun k =>
    (barRec_of_teams (s := s.setRec b r) ht htid hlid k).trans (barRec_setRec hb r k)
  have hteam : ∀ x, t.team x = (s.setRec b r).team x := team_of_teams ht
  have hlev : ∀ l, t.level s.cg.tid l = (s.setRec b r).level s.cg.tid l := level_of_teams ht _
  refine ⟨⟨hl.mem, hl.grp, hl.outside, fun x hx => ?_, ?_, fun l h => ?_, ?_, fun k hk => ?_⟩, ?_⟩
  · rw [hteam]; exact State.team_setTeam_other _ _ _ _ hx
  · rw [hteam, State.setRec, State.setLevel, State.team_setTeam_same]; rfl
  · rw [hlev, State.setRec, level_setLevel, if_neg (by simp [h])]
  · rw [hlev, State.setRec, level_setLevel_same]
  · rw [hrec, if_neg hk]
  · rw [hrec, if_pos rfl]

/-- No record changes where the teams stay. -/
theorem onlyRec_same (hl : Local s t) (htid : t.cg.tid = s.cg.tid) (hlid : t.cg.lid = s.cg.lid) (ht : t.teams = s.teams) (b : Nat) :
    OnlyRec s t b ∧ t.barRec b = s.barRec b := by
  have hrec := barRec_of_teams ht htid hlid
  refine ⟨⟨hl.mem, hl.grp, hl.outside, fun x _ => team_of_teams ht x, ?_, fun l _ => level_of_teams ht _ l, ?_, fun k _ => hrec k⟩, hrec b⟩
  · rw [team_of_teams ht]; rfl
  · rw [level_of_teams ht]

/-- A change of one record by an engine or an instruction, followed by the check of R206. -/
theorem modRec_teams {u : State} {b : Nat} (hb : RecThere s b) (hu : u.teams = s.teams) (f : BarRec → BarRec) :
    (u.modRec s.cg.tid s.cg.lid b f).teams = (s.setRec b ((f (s.barRec b)).check (u.groupsOf s.cg.tid s.cg.lid).length)).teams := by
  have hlev := level_of_teams hu s.cg.tid s.cg.lid
  have hteam := team_of_teams hu s.cg.tid
  unfold State.modRec
  dsimp only
  rw [hlev, if_pos hb]
  show mset {} u.teams s.cg.tid ((u.team s.cg.tid).setLevel s.cg.lid _) = _
  rw [hu, hteam]
  rfl

theorem modRec_local (u : State) (tid lid b : Nat) (f : BarRec → BarRec) : Local u (u.modRec tid lid b f) ∧ (u.modRec tid lid b f).groups = u.groups := by
  unfold State.modRec
  dsimp only
  split
  · exact ⟨.setTeam _ _ _, rfl⟩
  · exact ⟨.refl u, rfl⟩

end

/-! ### The completion of a generation (R206) -/

theorem BarRec.check_complete {r : BarRec} {n : Nat} (h : r.arr = n ∧ n ≠ 0 ∧ r.pend = 0 ∧ r.psn = false) :
    r.check n = { r with gen := r.gen + 1, arr := 0, arrset := 0, lastEng := r.eng, eng := false } := by
  obtain ⟨h1, h2, h3, h4⟩ := h
  exact if_pos (by simp [h1, h2, h3, h4])

theorem BarRec.check_incomplete {r : BarRec} {n : Nat} (h : ¬ (r.arr = n ∧ n ≠ 0 ∧ r.pend = 0 ∧ r.psn = false)) : r.check n = r :=
  if_neg (by simpa [and_assoc] using h)

/-- What an arrival at record `b` leaves of it, R209. -/
def Arrived (s : State) (b : Nat) (t : State) : Prop :=
  let r := s.barRec b
  let n := ((s.releaseAct 4).groupsOf s.cg.tid s.cg.lid).length
  let last := r.arr + 1 = n ∧ r.pend = 0
  (last → (t.barRec b).gen = r.gen + 1 ∧ (t.barRec b).arr = 0 ∧ (t.barRec b).arrset = 0) ∧
  (¬ last → (t.barRec b).gen = r.gen ∧ (t.barRec b).arr = r.arr + 1 ∧ (t.barRec b).arrset = setBit r.arrset s.cg.vslot true) ∧
  (t.barRec b).pend = r.pend ∧ (t.barRec b).psn = false ∧ OnlyRec s t b ∧ t.ca.stores = 0

section
variable {s : State} {b : Nat}

/-- The record as the arrival of the executing group leaves it. -/
def State.arrivedRec (s : State) (b : Nat) : BarRec :=
  BarRec.check ((s.releaseAct 4).groupsOf s.cg.tid s.cg.lid).length
    { s.barRec b with arr := (s.barRec b).arr + 1, arrset := setBit (s.barRec b).arrset s.cg.vslot true }

/-- The group arrives: the release, and the change of its record. -/
theorem arriveBar_frame (hb : RecThere s b) : Stands s (s.arriveBar b) ∧ Local s (s.arriveBar b) ∧
    (∃ x, (s.arriveBar b).cg = s.acked x) ∧ (s.arriveBar b).ca.stores = 0 ∧ (s.arriveBar b).teams = (s.setRec b (s.arrivedRec b)).teams := by
  obtain ⟨hs, -⟩ := s.releaseAct_frame 4
  have hl := s.releaseAct_local (sc := 4) (by decide)
  obtain ⟨x, hx⟩ := s.cg_releaseAct (sc := 4) (by decide)
  obtain ⟨hm, hg⟩ := modRec_local (s.releaseAct 4) s.cg.tid s.cg.lid b fun r =>
    { r with arr := r.arr + 1, arrset := setBit r.arrset s.cg.vslot true }
  have hcg : (s.arriveBar b).cg = s.acked x := by
    rw [← hx, State.arriveBar, State.cg, hm.gid]
    exact grp_of_groups hg _
  have hca : (s.arriveBar b).ca = { s.ca with stores := 0, asks := none } := by
    rw [State.ca, hcg, State.arriveBar, hm.slot, hl.slot]
    exact Group.arm_setArm_same ..
  exact ⟨hs.trans (.of_groups hm.cur hg), hl.trans hm, ⟨x, hcg⟩, by rw [hca], modRec_teams hb (s.releaseAct_teams (by decide)) _⟩

/-- What follows the arrival near the group, and writes no team, leaves the record as the arrival does. -/
theorem arrived_of_teams {t : State} (hb : RecThere s b) (hp : (s.barRec b).psn = false) (hl : Local s t) (htid : t.cg.tid = s.cg.tid)
    (hlid : t.cg.lid = s.cg.lid) (hst : t.ca.stores = 0) (ht : t.teams = (s.setRec b (s.arrivedRec b)).teams) : Arrived s b t := by
  obtain ⟨ho, hr⟩ := onlyRec_of_teams hb hl htid hlid ht
  unfold Arrived
  dsimp only
  rw [hr]
  by_cases hlast : (s.barRec b).arr + 1 = ((s.releaseAct 4).groupsOf s.cg.tid s.cg.lid).length ∧ (s.barRec b).pend = 0
  · have hc := BarRec.check_complete (r := { s.barRec b with arr := (s.barRec b).arr + 1, arrset := setBit (s.barRec b).arrset s.cg.vslot true })
      ⟨hlast.1, by omega, hlast.2, hp⟩
    rw [State.arrivedRec, hc]
    exact ⟨fun _ => ⟨rfl, rfl, rfl⟩, fun h => absurd hlast h, rfl, hp, ho, hst⟩
  · have hc := BarRec.check_incomplete (r := { s.barRec b with arr := (s.barRec b).arr + 1, arrset := setBit (s.barRec b).arrset s.cg.vslot true })
      (n := ((s.releaseAct 4).groupsOf s.cg.tid s.cg.lid).length) fun h => hlast ⟨h.1, h.2.2.1⟩
    rw [State.arrivedRec, hc]
    exact ⟨fun h => absurd h hlast, fun _ => ⟨rfl, rfl, rfl⟩, rfl, hp, ho, hst⟩

end

end Sys2Proof.Machine
end

section
/-! bar, bararr, barwait and barexp (R204, R206-R209). -/

namespace Sys2Proof.Machine

open Sys2Proof.Safety

/-! ### What each instruction answers -/

section
variable {s : State} {b : Nat}

theorem barIndex_beyond (h : ¬ RecThere s b) (k : Eff) : s.barIndex b k = .trap (trapOf 2) := if_pos (Nat.not_lt.mp h)

/-- A group that has not arrived before arrives, and goes on where the generation has risen, R209. -/
theorem barEff_arrives (hc : s.cg.converged = true) (hb : RecThere s b) (hp : (s.barRec b).psn = false) (hn : bit (s.barRec b).arrset s.cg.vslot = false)
    (hk : ∀ k g, s.ca.park ≠ some (.bar k g)) : s.barEff b =
      if ((s.arriveBar b).barRec b).gen != (s.barRec b).gen then .retire ((s.arriveBar b).barAcquire b)
      else .stay ((s.arriveBar b).park (.bar b (s.barRec b).gen)) := by
  unfold State.barEff
  rw [barIndex_inside hb, collective_converged hc]
  simp only [hp, hn, Bool.false_eq_true, if_false]

/-- A group that waits looks at its generation again. -/
theorem barEff_waits (hc : s.cg.converged = true) (hb : RecThere s b) (hp : (s.barRec b).psn = false) {k : Nat} {g : BitVec 32}
    (hk : s.ca.park = some (.bar k g)) : s.barEff b = if (s.barRec b).gen != g then .retire (s.barAcquire b) else .stay s := by
  unfold State.barEff
  rw [barIndex_inside hb, collective_converged hc]
  simp only [hp, hk, Bool.false_eq_true, if_false]

theorem barEff_twice (hc : s.cg.converged = true) (hb : RecThere s b) (hp : (s.barRec b).psn = false) (hn : bit (s.barRec b).arrset s.cg.vslot = true)
    (hk : ∀ k g, s.ca.park ≠ some (.bar k g)) : s.barEff b = .stay (s.park (.barDup b (s.barRec b).gen false)) := by
  unfold State.barEff
  rw [barIndex_inside hb, collective_converged hc]
  simp only [hp, hn, Bool.false_eq_true, if_false, if_true]

/-- A poisoned record traps its cause. -/
theorem barEff_poisoned (hc : s.cg.converged = true) (hb : RecThere s b) (hp : (s.barRec b).psn = true) :
    s.barEff b = .trap (State.psnTrap (s.barRec b) b) := by
  unfold State.barEff
  rw [barIndex_inside hb, collective_converged hc]
  exact if_pos hp

theorem bararrEff_arrives (hc : s.cg.converged = true) (hb : RecThere s b) (hp : (s.barRec b).psn = false)
    (hn : bit (s.barRec b).arrset s.cg.vslot = false) (d : Nat) :
    s.bararrEff d b = .retire ((s.arriveBar b).setS d ((s.barRec b).gen.setWidth 64)) := by
  unfold State.bararrEff
  rw [barIndex_inside hb, collective_converged hc]
  simp only [hp, hn, Bool.false_eq_true, if_false]

theorem bararrEff_twice (hc : s.cg.converged = true) (hb : RecThere s b) (hp : (s.barRec b).psn = false)
    (hn : bit (s.barRec b).arrset s.cg.vslot = true) (d : Nat) : s.bararrEff d b = .stay (s.park (.barDup b (s.barRec b).gen true)) := by
  unfold State.bararrEff
  rw [barIndex_inside hb, collective_converged hc]
  simp only [hp, hn, Bool.false_eq_true, if_false, if_true]

theorem bararrEff_poisoned (hc : s.cg.converged = true) (hb : RecThere s b) (hp : (s.barRec b).psn = true) (d : Nat) :
    s.bararrEff d b = .trap (State.psnTrap (s.barRec b) b) := by
  unfold State.bararrEff
  rw [barIndex_inside hb, collective_converged hc]
  exact if_pos hp

end

/-! ### bar and bararr (R209) -/

/-- A group that goes on behind a wait leaves the records as they are. -/
theorem barAcquire_retire (s : State) (b : Nat) : GoesOn s (s.barAcquire b).retire ∧ SameRegs s (s.barAcquire b).retire ∧
    OnlyRec s (s.barAcquire b).retire b ∧ (s.barAcquire b).retire.barRec b = s.barRec b := by
  obtain ⟨hs, hl, ht, hlid, -⟩ := barAcquire_frame s b
  exact ⟨hs.goesOn, hs.sameRegs, onlyRec_same (hl.trans (.retire _)) (by simp [hs.tid]) (by simp [hlid]) ht b⟩

section
variable {s : State} {b : Nat}

/-- A group that arrives is in its team and level behind the release. -/
theorem bar_arrives (hc : s.cg.converged = true) (hb : RecThere s b) (hp : (s.barRec b).psn = false) (hn : bit (s.barRec b).arrset s.cg.vslot = false)
    (hk : ∀ k g, s.ca.park ≠ some (.bar k g)) : ∃ t, s.conclude (s.barEff b) = .next t ∧ Arrived s b t ∧ SameRegs s t ∧
      ((t.barRec b).gen ≠ (s.barRec b).gen → GoesOn s t) ∧
      ((t.barRec b).gen = (s.barRec b).gen → t.ca.park = some (.bar b (s.barRec b).gen)) := by
  obtain ⟨hs, hl, ⟨x, hx⟩, hst, ht⟩ := arriveBar_frame hb
  have hlid : (s.arriveBar b).cg.lid = s.cg.lid := by rw [hx, State.acked_lid]
  rw [barEff_arrives hc hb hp hn hk]
  generalize hu : s.arriveBar b = u at *
  have hgen : ∀ v : State, v.teams = u.teams → v.cg.tid = u.cg.tid → v.cg.lid = u.cg.lid → (v.barRec b).gen = (u.barRec b).gen :=
    fun v h1 h2 h3 => by rw [barRec_of_teams h1 h2 h3]
  by_cases hg : (u.barRec b).gen = (s.barRec b).gen
  · have hps := park_stands u (.bar b (s.barRec b).gen)
    have hpt : (u.park (.bar b (s.barRec b).gen)).teams = u.teams := rfl
    have hpl := lid_park u (.bar b (s.barRec b).gen)
    have hpg := hgen _ hpt hps.tid hpl
    refine ⟨u.park (.bar b (s.barRec b).gen), by rw [hg, bne_self_eq_false]; rfl, ?_, sameRegs_trans hs.regs hps.regs,
      fun h => absurd (hpg.trans hg) h, fun _ => by rw [ca_park]⟩
    exact arrived_of_teams hb hp (hl.trans (.park u _)) (hps.tid.trans hs.tid) (hpl.trans hlid) (by rw [ca_park]; exact hst) (hpt.trans ht)
  · obtain ⟨has, hal, hat, halid, hast⟩ := barAcquire_frame u b
    have hrt : (u.barAcquire b).retire.cg.tid = (u.barAcquire b).cg.tid := by simp
    have hrl : (u.barAcquire b).retire.cg.lid = (u.barAcquire b).cg.lid := by simp
    have hrg := hgen (u.barAcquire b).retire hat (hrt.trans has.tid) (hrl.trans halid)
    refine ⟨(u.barAcquire b).retire, by rw [bne_iff_ne.mpr hg]; rfl, ?_, (hs.trans has).sameRegs, fun _ => (hs.trans has).goesOn,
      fun h => absurd (hrg.symm.trans h) hg⟩
    refine arrived_of_teams hb hp ((hl.trans hal).trans (.retire _)) (hrt.trans (has.tid.trans hs.tid)) (hrl.trans (halid.trans hlid)) ?_ (hat.trans ht)
    rw [ca_retire, advance_stores, hast, hst]

/-- A group that waits goes on once the generation has risen, and until then nothing happens. -/
theorem bar_waits (hc : s.cg.converged = true) (hb : RecThere s b) (hp : (s.barRec b).psn = false) {k : Nat} {g : BitVec 32}
    (hk : s.ca.park = some (.bar k g)) : ((s.barRec b).gen = g → s.conclude (s.barEff b) = .next s) ∧
      ((s.barRec b).gen ≠ g → ∃ t, s.conclude (s.barEff b) = .next t ∧ GoesOn s t ∧ SameRegs s t ∧ OnlyRec s t b ∧ t.barRec b = s.barRec b) := by
  rw [barEff_waits hc hb hp hk]
  refine ⟨fun h => by rw [h, bne_self_eq_false]; rfl, fun h => ?_⟩
  exact ⟨(s.barAcquire b).retire, by rw [bne_iff_ne.mpr h]; rfl, barAcquire_retire s b⟩

/-- The generation goes to the scalar, and the group goes on, R209. -/
theorem bararr_arrives (hc : s.cg.converged = true) (hb : RecThere s b) (hp : (s.barRec b).psn = false)
    (hn : bit (s.barRec b).arrset s.cg.vslot = false) {d : Nat} (hd : d < 64) : ∃ t, s.conclude (s.bararrEff d b) = .next t ∧
      Arrived s b t ∧ GoesOn s t ∧ t.sreg d = (s.barRec b).gen.setWidth 64 ∧ t.cg.spoison t.slot d = false ∧
      (∀ r l, t.cg.vlane r l = s.cg.vlane r l) ∧ (∀ p, t.cg.pred p = s.cg.pred p) ∧ t.ca.mask = s.ca.mask ∧ t.ca.fmt = s.ca.fmt ∧
      ∀ n, n < 64 → n ≠ d → t.sreg n = s.sreg n := by
  obtain ⟨hs, hl, ⟨x, hx⟩, hst, ht⟩ := arriveBar_frame hb
  rw [bararrEff_arrives hc hb hp hn]
  generalize hu : s.arriveBar b = u at *
  obtain ⟨hw, hv, hvp⟩ := wroteS_retire u d ((s.barRec b).gen.setWidth 64) hd
  obtain ⟨-, -, -, hgrp, -, -, harm, hvl, hpr, hsr⟩ := hw
  obtain ⟨-, -, -, -, -, -, -, -, -, hmask, hfmt⟩ := hs.regs
  have htid := congrArg Group.tid hgrp
  have hlid := congrArg Group.lid hgrp
  have hstores := congrArg Arm.stores harm
  have hm := congrArg Arm.mask harm
  have hf := congrArg Arm.fmt harm
  have hteams : (u.setS d ((s.barRec b).gen.setWidth 64)).retire.teams = u.teams := rfl
  refine ⟨(u.setS d ((s.barRec b).gen.setWidth 64)).retire, rfl, ?arr, ?on, hv, hvp, fun r l => ?_, fun p => ?_, hm.trans hmask, hf.trans hfmt, fun n hn hnd => ?_⟩
  case arr =>
    refine arrived_of_teams hb hp (hl.trans ((Local.setG u _).trans (.retire _))) (Eq.trans htid hs.tid) ?_ (Eq.trans hstores hst) (hteams.trans ht)
    rw [← State.acked_lid s x, ← hx]
    exact hlid
  case on => exact goesOn_retire ((u.place_setS d _).1.trans hs.clause) ((u.place_setS d _).2.trans hs.pc)
  · rw [(hvl r l rfl).1, hx, State.acked_vlane]
  · have hp : (u.setS d ((s.barRec b).gen.setWidth 64)).retire.cg.pred p = u.cg.pred p := by
      rw [State.cg_retire, Group.pred_setArm, State.cg_setS]
      have h := congrArg (fun g : Group => g.pred p) (Group.setS_else u.cg u.slot d ((s.barRec b).gen.setWidth 64))
      exact h
    rw [hp, hx, State.acked_pred]
  · rw [(hsr n hn (by simpa using hnd)).1]
    exact sreg_of_sameRegs hs.regs n

end

/-! ### barwait and barexp (R207-R209) -/

section
variable {s : State} {f : SF}

theorem barwait_completes (ha : Acts s f.g) (hp : Passes s f.g [] [.s f.a.toNat]) {b : Nat} (hi : f.imm.toNat = b) :
    (RecThere s b → (s.barRec b).psn = false → ∃ t, exec (.barwait f) s = .next t ∧ SameRegs s t ∧ OnlyRec s t b ∧ t.barRec b = s.barRec b ∧
      ((s.barRec b).gen ≠ (s.sreg f.a.toNat).setWidth 32 → GoesOn s t) ∧
      ((s.barRec b).gen = (s.sreg f.a.toNat).setWidth 32 → t.ca.park = some (.barWait b (s.barRec b).gen))) ∧
    (RecThere s b → (s.barRec b).psn = true → exec (.barwait f) s = .next (s.takeTrap (State.psnTrap (s.barRec b) b))) ∧
    (¬ RecThere s b → exec (.barwait f) s = .next (s.takeTrap ⟨2, 0, 0⟩)) := by
  have he : RecThere s b → s.barwaitEff f = if (s.barRec b).psn then .trap (State.psnTrap (s.barRec b) b)
      else if (s.barRec b).gen == (s.sreg f.a.toNat).setWidth 32 then .stay (s.park (.barWait b ((s.sreg f.a.toNat).setWidth 32)))
      else .retire (s.barAcquire b) := fun hb => by
    unfold State.barwaitEff
    simp only [hi]
    rw [barIndex_inside hb, State.guarded_passes _ hp fun _ => ha, BitVec.ofNat_toNat]
  change (_ → _ → ∃ t, s.conclude (s.barwaitEff f) = _ ∧ _) ∧ (_ → _ → s.conclude (s.barwaitEff f) = _) ∧ (_ → s.conclude (s.barwaitEff f) = _)
  refine ⟨fun hb hn => ?_, fun hb hn => ?_, fun hb => ?_⟩
  · rw [he hb, hn]
    by_cases hg : (s.barRec b).gen = (s.sreg f.a.toNat).setWidth 32
    · have hs := park_stands s (.barWait b ((s.sreg f.a.toNat).setWidth 32))
      obtain ⟨ho, hr⟩ := onlyRec_same (.park s _) hs.tid (lid_park s _) rfl b
      exact ⟨_, by rw [beq_iff_eq.mpr hg]; rfl, hs.regs, ho, hr, fun h => absurd hg h, fun _ => by rw [ca_park, hg]⟩
    · obtain ⟨hon, hs, ho, hr⟩ := barAcquire_retire s b
      exact ⟨_, by rw [beq_eq_false_iff_ne.mpr hg]; rfl, hs, ho, hr, fun _ => hon, fun h => absurd h hg⟩
  · rw [he hb, hn]
    rfl
  · unfold State.barwaitEff
    simp only [hi]
    rw [barIndex_beyond hb]
    rfl

/-- A change of a record that the check of R206 follows, by an instruction that retires. -/
theorem modRec_completes {b : Nat} (hb : RecThere s b) {h : BarRec → BarRec} {r : BarRec} (hr : h (s.barRec b) = r) :
    let n := (s.groupsOf s.cg.tid s.cg.lid).length
    let t := (s.modRec s.cg.tid s.cg.lid b h).retire
    GoesOn s t ∧ SameRegs s t ∧ OnlyRec s t b ∧
      ((r.arr = n ∧ n ≠ 0 ∧ r.pend = 0 ∧ r.psn = false) → (t.barRec b).gen = r.gen + 1 ∧ (t.barRec b).arr = 0 ∧ (t.barRec b).arrset = 0 ∧
        (t.barRec b).pend = 0 ∧ (t.barRec b).psn = false) ∧
      (¬ (r.arr = n ∧ n ≠ 0 ∧ r.pend = 0 ∧ r.psn = false) → t.barRec b = r) := by
  intro n t
  obtain ⟨hl, hg⟩ := modRec_local s s.cg.tid s.cg.lid b h
  have hs : Stands s (s.modRec s.cg.tid s.cg.lid b h) := .of_groups hl.cur hg
  have hcg : (s.modRec s.cg.tid s.cg.lid b h).cg = s.cg := by rw [State.cg, hl.gid]; exact grp_of_groups hg _
  have ht : t.teams = (s.setRec b (r.check n)).teams := hr ▸ modRec_teams hb rfl h
  obtain ⟨ho, hrec⟩ := onlyRec_of_teams hb (hl.trans (.retire _)) (by simp [hcg]) (by simp [hcg]) ht
  refine ⟨hs.goesOn, hs.sameRegs, ho, fun hd => ?_, fun hd => ?_⟩
  · rw [hrec, BarRec.check_complete hd]
    exact ⟨rfl, rfl, rfl, hd.2.2⟩
  · rw [hrec, BarRec.check_incomplete hd]

theorem barexpEff_there (ha : Acts s f.g) (hp : Passes s f.g [] (if f.immf then [] else [.s f.b.toNat])) (hb : RecThere s f.d.toNat) :
    let v : Int := if f.immf then f.imm.toInt else (s.sreg f.b.toNat).toInt
    (f.a = 1 → s.barexpEff f = .retire (s.modRec s.cg.tid s.cg.lid f.d.toNat fun r => { r with pend := 0, psn := false, pcause := 0 })) ∧
    (f.a ≠ 1 → s.barexpEff f = if pendFits ((s.barRec f.d.toNat).pend + v) then
      .retire (s.modRec s.cg.tid s.cg.lid f.d.toNat fun r => { r with pend := r.pend + v }) else .trap (trapOf 28 0 (BitVec.ofNat 64 f.d.toNat))) := by
  intro v
  unfold State.barexpEff
  dsimp only
  rw [barIndex_inside hb, State.guarded_passes _ hp fun _ => ha]
  exact ⟨fun h => if_pos (beq_iff_eq.mpr h), fun h => if_neg (mt beq_iff_eq.mp h)⟩

end

/-- Settles O32: an arrival and its check are one change of one record, behind the release that counts the group, and a wait changes none. -/
theorem barriersComplete : Obligations.BarriersComplete := by
  unfold Obligations.BarriersComplete
  refine ⟨fun s f => ?bar, fun s f => ?bararr, fun s f ha hp => ?barwait, fun s f ha hp => ?barexp⟩
  case bar =>
    refine ⟨fun ⟨hc, hb, hp, hn⟩ hk => bar_arrives hc hb hp hn hk, fun k g hc hb hp hk => bar_waits hc hb hp hk, fun ⟨hc, hb, hp, hn⟩ hk => ?_,
      fun hc ⟨hb, hp⟩ => congrArg s.conclude (barEff_poisoned hc hb hp), fun hb => congrArg s.conclude (barIndex_beyond hb _)⟩
    exact ⟨_, congrArg s.conclude (barEff_twice hc hb hp hn hk), by rw [ca_park], (park_stands s _).regs, rfl⟩
  case bararr =>
    refine ⟨fun ⟨hc, hb, hp, hn⟩ => bararr_arrives hc hb hp hn f.d.isLt, fun ⟨hc, hb, hp, hn⟩ => ?_,
      fun hc ⟨hb, hp⟩ => congrArg s.conclude (bararrEff_poisoned hc hb hp _), fun hb => congrArg s.conclude (barIndex_beyond hb _)⟩
    exact ⟨_, congrArg s.conclude (bararrEff_twice hc hb hp hn _), by rw [ca_park], (park_stands s _).regs, rfl⟩
  case barwait =>
    obtain ⟨hon, hpsn, hno⟩ := barwait_completes ha hp rfl
    exact ⟨hon, fun ⟨hb, hn⟩ => hpsn hb hn, hno⟩
  case barexp =>
    refine ⟨fun hb h1 hf => ?_, fun hb h1 hf => ?_, fun hb h1 => ?_, fun hb => congrArg s.conclude (barIndex_beyond hb _)⟩
    · have he := (barexpEff_there ha hp hb).2 h1
      rw [if_pos hf] at he
      exact ⟨_, congrArg s.conclude he, modRec_completes hb rfl⟩
    · have he := (barexpEff_there ha hp hb).2 h1
      rw [if_neg (by simpa using hf)] at he
      exact congrArg s.conclude he
    · exact ⟨_, congrArg s.conclude ((barexpEff_there ha hp hb).1 h1), modRec_completes hb rfl⟩

end Sys2Proof.Machine
end

section
/-! The skein of a team (R220-R222): chunks given back, requests in the queue, and the new rows of a group. -/

namespace Sys2Proof.Machine

open Sys2Proof.Safety

/-! ### New rows (R220, R221) -/

/-- A row above the window, clean. -/
def Group.mapRow (g : Group) (r : Nat × List Lane32) : Group :=
  { g with vregs := mset (List.replicate 32 0) g.vregs (g.window + r.1) r.2, vpois := mset 0 g.vpois (g.window + r.1) 0 }

/-- The first `m` rows above the window. -/
def Group.mapRows (g : Group) (row : Nat → List Lane32) (m : Nat) : Group := ((List.range m).map fun k => (k, row k)).foldl Group.mapRow g

theorem mapRows_succ (g : Group) (row : Nat → List Lane32) (m : Nat) : g.mapRows row (m + 1) = (g.mapRows row m).mapRow (m, row m) := by
  unfold Group.mapRows
  rw [List.range_succ, List.map_append, List.foldl_append]
  rfl

/-- The rows written hold what is written, and no mark; the others are as before. -/
theorem mapRows_spec (g : Group) (row : Nat → List Lane32) (m : Nat) : { g.mapRows row m with vregs := g.vregs, vpois := g.vpois } = g ∧
    (∀ r, mget zrow (g.mapRows row m).vregs r = if g.window ≤ r ∧ r < g.window + m then row (r - g.window) else mget zrow g.vregs r) ∧
    ∀ r, (g.mapRows row m).vpoison r = if g.window ≤ r ∧ r < g.window + m then 0 else g.vpoison r := by
  induction m with
  | zero => exact ⟨rfl, fun r => by rw [if_neg (by omega)]; rfl, fun r => by rw [if_neg (by omega)]; rfl⟩
  | succ m ih =>
    obtain ⟨h1, h2, h3⟩ := ih
    have hw : (g.mapRows row m).window = g.window := by
      have h := congrArg Group.window h1
      exact h
    rw [mapRows_succ]
    unfold Group.mapRow
    refine ⟨h1, fun r => ?_, fun r => ?_⟩
    · refine (mget_mset zrow _ _ _ _).trans ?_
      rw [hw, h2]
      by_cases hr : r = g.window + m
      · rw [if_pos hr, if_pos (by omega), hr, Nat.add_sub_cancel_left]
      · rw [if_neg hr]
        exact if_congr (by omega) rfl rfl
    · unfold Group.vpoison
      rw [mget_mset, hw]
      by_cases hr : r = g.window + m
      · rw [if_pos hr, if_pos (by omega)]
      · rw [if_neg hr]
        exact (h3 r).trans (if_congr (by omega) rfl rfl)

/-- What a lane of the `k`th new row holds, R220 (log 9). -/
def State.freshLane (s : State) (gid k l : Nat) : Lane32 :=
  (0 :: s.skeinPool (s.grp gid).launch).getD
    (Config.freeNat (s.freeCtr + 32 * k + l) % ((s.skeinPool (s.grp gid).launch).length + 1)) 0

def State.freshRow (s : State) (gid k : Nat) : List Lane32 := (List.range 32).map fun l => s.freshLane gid k l

theorem getD_mem_cons {α : Type} (d : α) (l : List α) (i : Nat) : (d :: l).getD i d ∈ d :: l := by
  by_cases h : i < (d :: l).length
  · rw [List.getD_eq_getElem _ _ h]
    exact List.getElem_mem h
  · rw [List.getD_eq_default _ _ (Nat.not_lt.mp h)]
    exact List.mem_cons_self

/-- Each lane of a new row holds zero or a value of the launch's pool. -/
theorem freshRow_mem (s : State) (gid k l : Nat) : (s.freshRow gid k).getD l 0 ∈ 0 :: s.skeinPool (s.grp gid).launch := by
  by_cases h : l < 32
  · have hl : (s.freshRow gid k).getD l 0 = s.freshLane gid k l := by simp [State.freshRow, h]
    rw [hl]
    exact getD_mem_cons ..
  · have hl : (s.freshRow gid k).getD l 0 = 0 := List.getD_eq_default _ _ (by simp [State.freshRow]; omega)
    rw [hl]
    exact List.mem_cons_self

/-- A lane of a row, as the group reads it. -/
theorem vlane_of_row {g h : Group} (hp : h.present = g.present) {r r' : Nat} (hr : mget zrow h.vregs r = mget zrow g.vregs r') (l : Nat) :
    h.vlane r l = g.vlane r' l := by
  unfold Group.vlane
  rw [hp, hr]

/-- New chunks above the executing group's window: their lanes hold zero or values of the pool, clean, and nothing else changes, R220, R221. -/
theorem mapChunks_spec (s : State) (n : Nat) : let t := s.mapChunks s.gid n
    { t with groups := s.groups, freeCtr := s.freeCtr } = s ∧ (∀ k, k ≠ s.gid → t.grp k = s.grp k) ∧ t.cg.chunks = s.cg.chunks + n ∧
      { t.cg with chunks := s.cg.chunks, vregs := s.cg.vregs, vpois := s.cg.vpois } = s.cg ∧
      ∀ r l, if s.cg.window ≤ r ∧ r < s.cg.window + 8 * n then t.cg.vlane r l ∈ 0 :: s.skeinPool s.cg.launch ∧ t.cg.vpoison r = 0
        else t.cg.vlane r l = s.cg.vlane r l ∧ t.cg.vpoison r = s.cg.vpoison r := by
  intro t
  obtain ⟨h1, h2, h3⟩ := mapRows_spec s.cg (s.freshRow s.gid) (8 * n)
  have hcg : t.cg = { s.cg.mapRows (s.freshRow s.gid) (8 * n) with chunks := (s.cg.mapRows (s.freshRow s.gid) (8 * n)).chunks + n } :=
    State.cg_setG ..
  have hchunks := congrArg Group.chunks h1
  have hpres := congrArg Group.present h1
  refine ⟨rfl, fun k hk => State.grp_setGrp_other _ _ _ _ hk, ?_, ?_, fun r l => ?_⟩
  · rw [hcg]
    exact congrArg (· + n) hchunks
  · rw [hcg]
    have h := congrArg (fun g : Group => { g with chunks := s.cg.chunks }) h1
    exact h
  · have hp : t.cg.present = s.cg.present := by rw [hcg]; exact hpres
    have hv : mget zrow t.cg.vregs r = if s.cg.window ≤ r ∧ r < s.cg.window + 8 * n then s.freshRow s.gid (r - s.cg.window) else
        mget zrow s.cg.vregs r := by rw [hcg]; exact h2 r
    have hq : t.cg.vpoison r = if s.cg.window ≤ r ∧ r < s.cg.window + 8 * n then 0 else s.cg.vpoison r := by rw [hcg]; exact h3 r
    split
    · next h =>
      rw [if_pos h] at hv hq
      refine ⟨?_, hq⟩
      unfold Group.vlane
      rw [hv]
      split
      · exact freshRow_mem ..
      · exact List.mem_cons_self
    · next h =>
      rw [if_neg h] at hv hq
      exact ⟨vlane_of_row hp hv l, hq⟩

/-! ### The pool of a launch -/

theorem mem_mset {V : Type} [DecidableEq V] {d : V} {m : SMap V} {k : Nat} {v : V} {p : Nat × V} (h : p ∈ mset d m k v) : p = (k, v) ∨ p ∈ m := by
  have he : ∀ q ∈ merase m k, q ∈ m := fun q hq => (List.mem_filter.mp hq).1
  unfold mset at h
  split at h
  · exact .inr (he p h)
  · exact (minsert_mem _ _ _ _ h).imp_right (he p)

/-- A change of a team that keeps its saved groups adds no value to the pool. -/
theorem skeinPool_setTeam (s : State) (tid l : Nat) {x : Team} (hx : x.groups = (s.team tid).groups) {v : Lane32}
    (h : v ∈ (s.setTeam tid x).skeinPool l) : v ∈ s.skeinPool l := by
  unfold State.skeinPool at h ⊢
  obtain ⟨p, hp, rfl⟩ := List.mem_map.mp h
  refine List.mem_map_of_mem ?_
  rcases List.mem_append.mp hp with hp | hp
  · exact List.mem_append_left _ hp
  · refine List.mem_append_right _ ?_
    obtain ⟨q, hq, hpq⟩ := List.mem_flatMap.mp hp
    rcases mem_mset hq with rfl | hq
    · refine List.mem_flatMap.mpr ⟨(tid, s.team tid), ?_, by simpa [hx] using hpq⟩
      refine mem_of_mget_ne {} s.teams tid fun he => ?_
      have hg : x.groups = [] := hx.trans (congrArg Team.groups he)
      simp [hg] at hpq
    · exact List.mem_flatMap.mpr ⟨q, hq, hpq⟩

/-! ### The queue (R221, R222) -/

theorem setTeam_setTeam (s : State) (tid : Nat) (x y : Team) : (s.setTeam tid x).setTeam tid y = s.setTeam tid y := by
  unfold State.setTeam
  rw [mset_mset]

/-- A head request that the free chunks do not suffice for holds up the queue. -/
theorem skeinGrant_blocked {s : State} {tid u k : Nat} {rest : List (Nat × Nat)} (hq : (s.team tid).skeinQ = (u, k) :: rest)
    (hk : (s.team tid).skeinFree < k) (fuel : Nat) : s.skeinGrant tid fuel = s := by
  cases fuel with
  | zero => rfl
  | succ fuel =>
    unfold State.skeinGrant
    dsimp only
    rw [hq]
    exact if_neg (Nat.not_le.mpr hk)

/-- Chunks given back to a skein that nobody waits for, R222. -/
theorem giveChunks_eq {s : State} (hq : s.cteam.skeinQ = []) (n : Nat) : s.giveChunks n =
    (s.modG fun g => { g with chunks := g.chunks - n }).setTeam s.cg.tid { s.cteam with skeinFree := s.cteam.skeinFree + n } := by
  refine skeinGrant_empty ?_ _
  rw [State.team_setTeam_same]
  exact hq

/-- A head request that the free chunks suffice for is granted. -/
theorem skeinGrant_head {s : State} {tid u n g : Nat} {x : Team} {rest : List (Nat × Nat)} (hq : x.skeinQ = (u, n) :: rest)
    (hn : n ≤ x.skeinFree) (hu : s.findUid u = some g) (fuel : Nat) : (s.setTeam tid x).skeinGrant tid (fuel + 1) =
      ((s.setTeam tid { x with skeinFree := x.skeinFree - n, skeinQ := rest }).mapChunks g n).skeinGrant tid fuel := by
  conv_lhs => unfold State.skeinGrant
  dsimp only
  rw [State.team_setTeam_same, hq]
  dsimp only
  rw [if_pos hn, setTeam_setTeam, show (s.setTeam tid { x with skeinFree := x.skeinFree - n, skeinQ := rest }).findUid u = some g from hu]

/-- A request that finds the queue empty and enough chunks free is granted at once, R221. -/
theorem skeinGrant_own {s : State} {n : Nat} (hn : n ≤ s.cteam.skeinFree) (hu : s.findUid s.cg.uid = some s.gid) :
    (s.setTeam s.cg.tid { s.cteam with skeinQ := [(s.cg.uid, n)] }).skeinGrant s.cg.tid 1 =
      (s.setTeam s.cg.tid { s.cteam with skeinFree := s.cteam.skeinFree - n, skeinQ := [] }).mapChunks s.gid n :=
  skeinGrant_head (x := { s.cteam with skeinQ := [(s.cg.uid, n)] }) rfl hn hu 0

end Sys2Proof.Machine
end

section
/-! skgive, sktake and gangset (R221, R222, R225). -/

namespace Sys2Proof.Machine

open Sys2Proof.Safety

/-- A change of a group's chunks, gang and joins leaves its arm where it stands. -/
theorem stands_of_counts {s t : State} {c j : Nat} {v : BitVec 32} (hc : t.cur = s.cur)
    (h : t.cg = { s.cg with chunks := c, gang := v, joins := j }) : t.ca = s.ca ∧ Stands s t := by
  have hca : t.ca = s.ca := by
    unfold State.ca
    rw [h, show t.slot = s.slot from congrArg Prod.snd hc]
    unfold Group.arm
    split <;> rfl
  refine ⟨hca, ⟨?_, congrArg Arm.clause hca, congrArg Arm.pc hca, by rw [h], by rw [h]⟩⟩
  simp only [SameRegs, hca, h, and_self]

/-- The instruction retires behind such a change. -/
theorem retire_of_chunks {s t : State} {c : Nat} {v : BitVec 32} (hc : t.cur = s.cur) (h : t.cg = { s.cg with chunks := c, gang := v }) :
    GoesOn s t.retire ∧ SameRegs s t.retire ∧ SameArm s.ca t.retire.ca ∧
      t.retire.cg = ({ s.cg with chunks := c, gang := v } : Group).setArm s.slot t.retire.ca := by
  obtain ⟨hca, hs⟩ := stands_of_counts (j := s.cg.joins) hc h
  have har : t.retire.ca = s.ca.advance := by rw [ca_retire, hca]
  refine ⟨hs.goesOn, hs.sameRegs, har ▸ State.sameArm_advance _, ?_⟩
  rw [State.cg_retire, ca_retire, h, show t.slot = s.slot from congrArg Prod.snd hc]

/-- A group written leaves the rest of the state, but for the teams where those may differ. -/
theorem rest_setG {s u : State} (h : { u with groups := s.groups } = s) (g : Group) : { u.setG g with groups := s.groups } = s := h

theorem teamsRest_setG {s u : State} (h : { u with groups := s.groups, teams := s.teams } = s) (g : Group) :
    { u.setG g with groups := s.groups, teams := s.teams } = s := h

section
variable {s : State} {f : SF}

/-! ### skgive (R222) -/

theorem skgiveEff_eq (hc : s.cg.converged = true) (ha : Acts s f.g) (hp : Passes s f.g [] (if f.immf then [] else [.s f.b.toNat])) :
    s.skgiveEff f = if s.skeinCount f == 0 then .retire s
      else if s.cg.chunks < s.skeinCount f then .trap (trapOf 35 0 (BitVec.ofNat 64 (s.skeinCount f)))
      else if s.topPending (s.skeinCount f) then .stay s
      else .retire (s.giveChunks (s.skeinCount f)) := by
  unfold State.skgiveEff
  rw [State.guarded_passes _ hp fun _ => ha, collective_converged hc]

theorem giveChunks_retire (hq : s.cteam.skeinQ = []) (n : Nat) : let t := (s.giveChunks n).retire
    GoesOn s t ∧ SameRegs s t ∧ SameArm s.ca t.ca ∧ (∀ k, k ≠ s.gid → t.grp k = s.grp k) ∧ { t with groups := s.groups, teams := s.teams } = s ∧
      t.cg = ({ s.cg with chunks := s.cg.chunks - n } : Group).setArm s.slot t.ca ∧
      (∀ x, x ≠ s.cg.tid → t.team x = s.team x) ∧ t.team s.cg.tid = { s.cteam with skeinFree := s.cteam.skeinFree + n } := by
  intro t
  have ht : t = (s.giveChunks n).retire := rfl
  rw [giveChunks_eq hq] at ht
  generalize hu : (s.modG fun g => { g with chunks := g.chunks - n }).setTeam s.cg.tid { s.cteam with skeinFree := s.cteam.skeinFree + n } = u at ht
  have hl : Local s u := hu ▸ (Local.setG s _).trans (.setTeam _ _ _)
  have hcg : u.cg = { s.cg with chunks := s.cg.chunks - n } := by
    rw [← hu]
    exact s.cg_modG fun g => { g with chunks := g.chunks - n }
  rw [ht]
  obtain ⟨hon, hr, ha, hg⟩ := retire_of_chunks hl.cur hcg
  refine ⟨hon, hr, ha, (hl.trans (.retire u)).grp, ?_, hg, fun x hx => ?_, ?_⟩
  · have h : { u with groups := s.groups, teams := s.teams } = s := by
      rw [← hu]
      rfl
    exact teamsRest_setG h _
  · rw [← hu]
    exact State.team_setTeam_other _ _ _ _ hx
  · rw [← hu]
    exact State.team_setTeam_same ..

/-! ### sktake (R221) -/

theorem sktakeEff_eq (hk : ∀ k, s.ca.park ≠ some (.sktake k)) (hc : s.cg.converged = true) (ha : Acts s f.g)
    (hp : Passes s f.g [] (if f.immf then [] else [.s f.b.toNat])) :
    let n := s.skeinCount f
    let t := (s.setTeam s.cg.tid { s.cteam with skeinQ := s.cteam.skeinQ ++ [(s.cg.uid, n)] }).skeinGrant s.cg.tid (s.cteam.skeinQ.length + 1)
    s.sktakeEff f = if n == 0 then .retire s
      else if s.cteam.skeinSize < n || decide (256 < s.cg.window + 8 * n) then .trap (trapOf 35 0 (BitVec.ofNat 64 n))
      else if t.cteam.skeinQ.any fun q => q.1 == t.cg.uid then .stay (t.park (.sktake n)) else .retire t := by
  unfold State.sktakeEff
  split
  · next n h => exact absurd h (hk n)
  · rw [State.guarded_passes _ hp fun _ => ha, collective_converged hc]

/-- A group waiting at sktake goes on when its request has left the queue. -/
theorem sktakeEff_parked {k : Nat} (hk : s.ca.park = some (.sktake k)) :
    s.sktakeEff f = if s.cteam.skeinQ.any (fun q => q.1 == s.cg.uid) then .stay s else .retire s := by
  unfold State.sktakeEff
  rw [hk]

theorem skeinQ_any (q : List (Nat × Nat)) (u : Nat) : (q.any fun q => q.1 == u) = true ↔ ∃ x ∈ q, x.1 = u := by
  simp only [List.any_eq_true, beq_iff_eq]

/-- An instruction that retires with new chunks above its group's window, R220, R221. -/
theorem mapChunks_retire (s : State) (n : Nat) : let u := s.mapChunks s.gid n
    let t := u.retire
    u.cg.tid = s.cg.tid ∧ u.teams = s.teams ∧ GoesOn s t ∧ SameArm s.ca t.ca ∧ t.ca.scal = s.ca.scal ∧ (∀ k, k ≠ s.gid → t.grp k = s.grp k) ∧
      { t with groups := s.groups, freeCtr := s.freeCtr } = s ∧ t.cg.chunks = s.cg.chunks + n ∧
      { t.cg with chunks := s.cg.chunks, vregs := s.cg.vregs, vpois := s.cg.vpois, arm0 := s.cg.arm0, arm1 := s.cg.arm1 } = s.cg ∧
      (∀ r l, r < s.cg.window ∨ t.cg.window ≤ r → t.cg.vlane r l = s.cg.vlane r l ∧ t.cg.vpoison r = s.cg.vpoison r) ∧
      ∀ r l, s.cg.window ≤ r → r < t.cg.window → t.cg.vlane r l ∈ 0 :: s.skeinPool s.cg.launch ∧ t.cg.vpoison r = 0 := by
  intro u t
  obtain ⟨hrest, hgrp, hch, hcg, hrows⟩ := mapChunks_spec s n
  change { u with groups := s.groups, freeCtr := s.freeCtr } = s at hrest
  change ∀ k, k ≠ s.gid → u.grp k = s.grp k at hgrp
  change u.cg.chunks = _ at hch
  change { u.cg with chunks := s.cg.chunks, vregs := s.cg.vregs, vpois := s.cg.vpois } = s.cg at hcg
  have hcur : u.cur = s.cur := by have h := congrArg State.cur hrest; exact h
  have hbase : u.cg.base = s.cg.base := by have h := congrArg Group.base hcg; exact h
  have h0 : u.cg.arm0 = s.cg.arm0 := by have h := congrArg Group.arm0 hcg; exact h
  have h1 : u.cg.arm1 = s.cg.arm1 := by have h := congrArg Group.arm1 hcg; exact h
  have hca : u.ca = s.ca := by
    unfold State.ca Group.arm
    rw [show u.slot = s.slot from congrArg Prod.snd hcur, h0, h1]
  have ht : t.cg = u.cg.setArm u.slot u.ca.advance := State.cg_retire u
  have hwin : t.cg.window = s.cg.window + 8 * n := by
    rw [ht, Group.window_setArm]
    unfold Group.window
    rw [hch, hbase]
    omega
  refine ⟨?_, ?_, goesOn_retire (by rw [hca]) (by rw [hca]), ?_, ?_, fun k hk => ?_, hrest, ?_, ?_, fun r l hr => ?_, fun r l hr hr' => ?_⟩
  · have h := congrArg Group.tid hcg
    exact h
  · have h := congrArg State.teams hrest
    exact h
  · rw [ca_retire, hca]
    exact State.sameArm_advance _
  · rw [ca_retire, hca]
    exact (State.advance_scal _).1
  · exact (State.grp_setG_other u _ k (by rw [State.gid, hcur]; exact hk)).trans (hgrp k hk)
  · rw [ht, Group.setArm_chunks, hch]
  · rw [ht]
    have h := congrArg (fun g : Group => { g with arm0 := s.cg.arm0, arm1 := s.cg.arm1 }) hcg
    unfold Group.setArm
    split <;> exact h
  · rw [ht, Group.vlane_setArm, Group.vpoison_setArm]
    exact (if_neg (by omega)).mp (hrows r l)
  · rw [ht, Group.vlane_setArm, Group.vpoison_setArm]
    exact (if_pos (by omega)).mp (hrows r l)

/-- The state in which a request that is granted at once leaves the queue. -/
def State.taken (s : State) (n : Nat) : State := s.setTeam s.cg.tid { s.cteam with skeinFree := s.cteam.skeinFree - n, skeinQ := [] }

theorem sktake_granted {n : Nat} (hq : s.cteam.skeinQ = []) (hn : n ≤ s.cteam.skeinFree) (hu : s.findUid s.cg.uid = some s.gid) :
    (s.setTeam s.cg.tid { s.cteam with skeinQ := s.cteam.skeinQ ++ [(s.cg.uid, n)] }).skeinGrant s.cg.tid (s.cteam.skeinQ.length + 1) =
      (s.taken n).mapChunks (s.taken n).gid n := by
  rw [hq]
  exact skeinGrant_own hn hu

/-- The teams behind a grant. -/
theorem taken_teams (hq : s.cteam.skeinQ = []) (n : Nat) {t : State} (ht : t.teams = (s.taken n).teams) :
    (∀ x, x ≠ s.cg.tid → t.team x = s.team x) ∧ t.team s.cg.tid = { s.cteam with skeinFree := s.cteam.skeinFree - n } := by
  have hteam : ∀ x, t.team x = (s.taken n).team x := team_of_teams ht
  refine ⟨fun x hx => (hteam x).trans (State.team_setTeam_other _ _ _ _ hx), ?_⟩
  exact ((hteam _).trans (State.team_setTeam_same ..)).trans
    (congrArg (fun q => ({ s.cteam with skeinFree := s.cteam.skeinFree - n, skeinQ := q } : Team)) hq.symm)

theorem skeinPool_taken {n l : Nat} {v : Lane32} (h : v ∈ 0 :: (s.taken n).skeinPool l) : v ∈ 0 :: s.skeinPool l := by
  rcases List.mem_cons.mp h with h | h
  · rw [h]
    exact List.mem_cons_self
  · refine List.mem_cons_of_mem _ ?_
    unfold State.taken at h
    refine skeinPool_setTeam s _ _ ?_ h
    rfl

/-- What a request that finds the head of the queue held up leaves, R221. -/
theorem sktake_blocked {n u k : Nat} {rest : List (Nat × Nat)} (hq : s.cteam.skeinQ ++ [(s.cg.uid, n)] = (u, k) :: rest)
    (hk : s.cteam.skeinFree < k) :
    (s.setTeam s.cg.tid { s.cteam with skeinQ := s.cteam.skeinQ ++ [(s.cg.uid, n)] }).skeinGrant s.cg.tid (s.cteam.skeinQ.length + 1) =
      s.setTeam s.cg.tid { s.cteam with skeinQ := s.cteam.skeinQ ++ [(s.cg.uid, n)] } := by
  have ht := State.team_setTeam_same s s.cg.tid { s.cteam with skeinQ := s.cteam.skeinQ ++ [(s.cg.uid, n)] }
  exact skeinGrant_blocked ((congrArg Team.skeinQ ht).trans hq) ((congrArg Team.skeinFree ht).trans_lt hk) _

theorem park_of_team (x : Team) (p : Park) : let t := (s.setTeam s.cg.tid x).park p
    t.ca.park = some p ∧ SameRegs s t ∧ (∀ k, k ≠ s.gid → t.grp k = s.grp k) ∧ { t with groups := s.groups, teams := s.teams } = s ∧
      (∀ k, k ≠ s.cg.tid → t.team k = s.team k) ∧ t.team s.cg.tid = x := by
  intro t
  refine ⟨by rw [ca_park], (park_stands (s.setTeam s.cg.tid x) p).regs, ((Local.setTeam s _ _).trans (.park _ p)).grp,
    teamsRest_setG (u := s.setTeam s.cg.tid x) rfl _,
    fun k hk => State.team_setTeam_other _ _ _ _ hk, State.team_setTeam_same ..⟩

/-! ### gangset (R225) -/

/-- The gang that gangset names, R225. -/
def State.gangOf (s : State) (f : SF) : BitVec 32 := if f.immf then f.imm else (s.sreg f.a.toNat).setWidth 32

/-- The gangs that gangset takes, R225. -/
def State.gangGood (s : State) (v : BitVec 32) : Prop :=
  v = 0 ∨ (2 ≤ popcount v ∧ popcount v ≤ 6 ∧ bit v s.cg.vslot = true ∧
    ∀ k ∈ maskList v, ∃ g ∈ s.groupsOf s.cg.tid s.cg.lid, (s.grp g).vslot = k)

theorem gangsetEff_eq (hc : s.cg.converged = true) (ha : Acts s f.g) (hp : Passes s f.g [] (if f.immf then [] else [.s f.a.toNat])) :
    (s.gangGood (s.gangOf f) → s.gangsetEff f = .retire (s.modG fun g => { g with gang := s.gangOf f })) ∧
    (¬ s.gangGood (s.gangOf f) → s.gangsetEff f = .trap (trapOf 36)) := by
  have hv : (if f.immf then f.imm else BitVec.ofNat 32 (s.sreg f.a.toNat).toNat) = s.gangOf f := rfl
  unfold State.gangsetEff
  rw [State.guarded_passes _ hp fun _ => ha, collective_converged hc, hv]
  have ht : ∀ v, (v == 0 || (decide (2 ≤ popcount v) && decide (popcount v ≤ 6) && bit v s.cg.vslot &&
      (maskList v).all fun k => ((s.groupsOf s.cg.tid s.cg.lid).map fun g => (s.grp g).vslot).contains k)) = true ↔ s.gangGood v := fun v => by
    simp only [State.gangGood, Bool.or_eq_true, Bool.and_eq_true, beq_iff_eq, decide_eq_true_eq, List.all_eq_true, List.contains_iff_mem,
      List.mem_map, and_assoc]
  exact ⟨fun h => if_pos ((ht _).mpr h), fun h => if_neg (mt (ht _).mp h)⟩

theorem gangset_good (v : BitVec 32) : let t := (s.modG fun g => { g with gang := v }).retire
    GoesOn s t ∧ SameRegs s t ∧ SameArm s.ca t.ca ∧ (∀ k, k ≠ s.gid → t.grp k = s.grp k) ∧ { t with groups := s.groups } = s ∧
      t.cg = ({ s.cg with gang := v } : Group).setArm s.slot t.ca := by
  intro t
  obtain ⟨hon, hr, ha, hg⟩ := retire_of_chunks (s := s) (t := s.modG fun g => { g with gang := v }) rfl (s.cg_modG fun g => { g with gang := v })
  exact ⟨hon, hr, ha, ((Local.setG s _).trans (.retire _)).grp, rest_setG (u := s.modG _) (rest_setG rfl _) _, hg⟩

end
end Sys2Proof.Machine
end

section
/-! fork and join (R217-R219). -/

namespace Sys2Proof.Machine

open Sys2Proof.Safety

/-! ### The children of a fork (R218) -/

/-- The child that a fork of the executing arm starts, in a virtual slot and with an identity of its own. -/
def State.child (s : State) (lid base : Nat) (pc blk : Word) (vs uid : Nat) : Group :=
  { live := true, ctx := s.cg.ctx, launch := s.cg.launch, tid := s.cg.tid, lid := lid, vcluster := s.cg.vcluster, vcore := s.cg.vcore,
    vslot := vs, teamLanes := BitVec.allOnes 32, base := base, scal := s.cg.scal, spois := s.cg.spois, seed := s.cg.seed,
    xs := (List.range 32).map (fun l => seedLane s.cg.seed (1024 + 32 * vs + l)),
    arm0 := { live := true, pc := pc, mask := BitVec.allOnes 32, fmt := s.ca.fmt, scal := s.ca.scal, spois := s.ca.spois, xfer := s.ipc },
    spill := blk, forker := some s.cg.uid, uid := uid, since := s.tick }

theorem grp_forkChild (s : State) (lid base : Nat) (pc blk : Word) (k j : Nat) : (s.forkChild lid base pc blk k).grp j =
    if j = k then s.child lid base pc blk (s.freshSlot s.cg.ctx s.cg.vcluster s.cg.vcore) s.uids else s.grp j := by
  exact State.grp_setGrp s k (s.child lid base pc blk (s.freshSlot s.cg.ctx s.cg.vcluster s.cg.vcore) s.uids) j

/-- What a child takes of its forker comes from the executing group and its arm. -/
theorem child_of_cg {s t : State} (hcur : t.cur = s.cur) (htick : t.tick = s.tick) (hcg : t.cg = s.cg) : t.child = s.child := by
  have hca : t.ca = s.ca := by unfold State.ca State.slot; rw [hcg, hcur]
  funext lid base pc blk vs uid
  unfold State.child State.ipc
  rw [hcg, hca, htick]

/-- Children started in distinct slots, none of them the forker's. -/
theorem forkChildren_spec (lid base : Nat) (pc : Word) (l : List (Nat × Word)) : ∀ s : State, (∀ x ∈ l, x.1 ≠ s.gid) → (l.map Prod.fst).Nodup →
    let v := l.foldl (fun s x => s.forkChild lid base pc x.2 x.1) s
    { v with groups := s.groups, uids := s.uids } = s ∧ (∀ k, k ∉ l.map Prod.fst → v.grp k = s.grp k) ∧
      ∀ x ∈ l, ∃ vs uid, v.grp x.1 = s.child lid base pc x.2 vs uid := by
  induction l with
  | nil => exact fun s _ _ => ⟨rfl, fun _ _ => rfl, fun x hx => absurd hx List.not_mem_nil⟩
  | cons x xs ih =>
    intro s hne hnd
    obtain ⟨hx, hnd⟩ := List.nodup_cons.mp hnd
    obtain ⟨hne0, hne⟩ := List.forall_mem_cons.mp hne
    have hgrp : ∀ k, k ≠ x.1 → (s.forkChild lid base pc x.2 x.1).grp k = s.grp k := fun k hk => (grp_forkChild ..).trans (if_neg hk)
    obtain ⟨h1, h2, h3⟩ := ih (s.forkChild lid base pc x.2 x.1) hne hnd
    refine ⟨?_, fun k hk => ?_, List.forall_mem_cons.mpr ⟨?_, fun y hy => ?_⟩⟩
    · have h := congrArg (fun v : State => { v with groups := s.groups, uids := s.uids }) h1
      exact h
    · obtain ⟨hk0, hk⟩ := not_or.mp (mt List.mem_cons.mpr hk)
      exact (h2 k hk).trans (hgrp k hk0)
    · exact ⟨_, _, (h2 _ hx).trans ((grp_forkChild ..).trans (if_pos rfl))⟩
    · obtain ⟨vs, uid, h⟩ := h3 y hy
      refine ⟨vs, uid, h.trans ?_⟩
      have hc : (s.forkChild lid base pc x.2 x.1).child = s.child := child_of_cg rfl rfl (hgrp s.gid (Ne.symm hne0))
      rw [hc]

/-- A child starts with every vector register and predicate zero. -/
theorem child_zero (s : State) (lid base : Nat) (pc blk : Word) (vs uid : Nat) : let c := s.child lid base pc blk vs uid
    (∀ r l, c.vlane r l = 0) ∧ ∀ p, p ≠ 0 → c.pred p = 0 := by
  refine ⟨fun r l => ?_, fun p hp => if_neg hp⟩
  have h0 : (zrow : List Lane32).getD l 0 = 0 := by
    by_cases h : l < 32
    · rw [zrow, List.getD_eq_getElem _ _ (by simpa using h), List.getElem_replicate]
    · rw [zrow, List.getD_eq_default _ _ (by simpa using h)]
  exact ite_eq_right_iff.mpr fun _ => h0

/-! ### The slots of a fork (R15, R201) -/

theorem freeSlots_nodup (s : State) (c : Nat) : (s.freeSlots c).Nodup :=
  (List.Nodup.map (fun _ _ h => Nat.add_left_cancel h) List.nodup_range).filter _

theorem live_not_free {s : State} {k : Nat} (h : (s.grp k).live = true) (c : Nat) : k ∉ s.freeSlots c := fun hk => by
  have hu : s.slotUsed k = true := by
    unfold State.slotUsed
    simp [h]
  simp [State.freeSlots, hu] at hk

section
variable {s : State} {f : SF}

/-! ### fork (R217, R218) -/

/-- The state in which a fork starts its children: behind the release, with the brood's level. -/
def State.brooded (s : State) (d : Nat) : State :=
  ({ s.releaseAct 5 with uids := s.uids + 1 }).setLevel s.cg.tid s.uids
    { live := true, kind := .brood s.cg.uid, depth := d, parent := s.cg.lid, recs := List.replicate 4 {} }

/-- The children started, and counted for their joins. -/
def State.forked (s : State) (d n base : Nat) (pc : Word) (l : List (Nat × Word)) : State :=
  (l.foldl (fun v x => v.forkChild s.uids base pc x.2 x.1) (s.brooded d)).modG fun g => { g with joins := g.joins + n }

theorem forkRoom_iff (n base : Nat) : s.forkRoom n base = true ↔ n ≤ (s.freeSlots s.ccore).length ∧
    n ≤ (s.freeBlocks s.cg.launch).length ∧ n * base ≤ s.freeRegs s.ccore ∧ 4 ≤ s.freeRecs s.ccore := by
  simp only [State.forkRoom, Bool.and_eq_true, decide_eq_true_eq, and_assoc]

/-- What fork tests is that it has no room. -/
theorem forkTest_eq (n base : Nat) : (decide ((s.freeSlots s.ccore).length < n) || decide ((s.freeBlocks s.cg.launch).length < n) ||
    decide (s.freeRegs s.ccore < n * base) || decide (s.freeRecs s.ccore < 4)) = !s.forkRoom n base := by
  simp only [State.forkRoom, Bool.not_and, ← decide_not, Nat.not_le]

theorem hdr_of_stands {t : State} (h : Stands s t) : t.hdr = s.hdr := by
  unfold State.hdr
  rw [h.clause, h.pc]

theorem forkEff_eq (ha : Acts s f.g) (hp : Passes s f.g [] []) :
    let n := f.d.toNat
    let base := 8 * f.a.toNat
    let d := (s.level s.cg.tid s.cg.lid).depth
    (d = 8 → s.forkEff f = .trap (trapOf 30 0 8)) ∧
    (d ≠ 8 → s.forkRoom n base = false → s.forkEff f = if f.b == 1 then .stay (s.park (.forkWait n base)) else .trap (trapOf 33 0 (BitVec.ofNat 64 n))) ∧
    (d ≠ 8 → s.forkRoom n base = true → s.forkEff f = .retire (s.forked (d + 1) n base (s.hdr + 8 * f.imm.signExtend 64)
      (((s.freeSlots s.ccore).take n).zip (s.freeBlocks s.cg.launch)))) := by
  intro n base d
  unfold State.forkEff
  rw [State.guarded_passes _ hp fun _ => ha]
  refine ⟨fun hd => if_pos (beq_iff_eq.mpr hd), fun hd hr => ?_, fun hd hr => ?_⟩
  · exact (if_neg (mt beq_iff_eq.mp hd)).trans (if_pos (by rw [forkTest_eq, hr]; rfl))
  · refine (if_neg (mt beq_iff_eq.mp hd)).trans ((if_neg (by rw [forkTest_eq, hr]; exact Bool.false_ne_true)).trans ?_)
    · obtain ⟨x, hx⟩ := s.cg_releaseAct (sc := 5) (by decide)
      have huid : (s.releaseAct 5).cg.uid = s.cg.uid := by rw [hx]; exact Group.setArm_uid ..
      have htid : (s.releaseAct 5).cg.tid = s.cg.tid := by rw [hx]; exact Group.setArm_tid ..
      have hlid : (s.releaseAct 5).cg.lid = s.cg.lid := by rw [hx]; exact Group.setArm_lid ..
      have hu : (s.releaseAct 5).uids = s.uids := (s.releaseAct_local (by decide)).uids
      have hs : Stands s (s.releaseAct 5) := (State.releaseAct_frame s 5).1
      have hb : s.brooded (d + 1) = ({ s.releaseAct 5 with uids := (s.releaseAct 5).uids + 1 }).setLevel (s.releaseAct 5).cg.tid (s.releaseAct 5).uids
          { live := true, kind := .brood (s.releaseAct 5).cg.uid, depth := d + 1, parent := (s.releaseAct 5).cg.lid, recs := List.replicate 4 {} } := by
        rw [huid, htid, hlid, hu]
        rfl
      have ht : (s.brooded (d + 1)).target f.imm.toInt = s.hdr + 8 * f.imm.signExtend 64 := by
        rw [target_eq, ← hdr_of_stands hs]
        rfl
      unfold State.forked
      rw [← ht, hb, ← hu]
      rfl

/-- The rest of the state behind a group written. -/
theorem broodRest_setG {s u : State} (h : { u with groups := s.groups, teams := s.teams, checks := s.checks, uids := s.uids } = s) (g : Group) :
    { u.setG g with groups := s.groups, teams := s.teams, checks := s.checks, uids := s.uids } = s := h

theorem brooded_spec (s : State) (d : Nat) : ∃ x, (s.brooded d).cg = s.acked x ∧ (s.brooded d).child = s.child ∧ (s.brooded d).cur = s.cur ∧
    { s.brooded d with groups := s.groups, teams := s.teams, checks := s.checks, uids := s.uids } = s ∧
    (∀ k, k ≠ s.gid → (s.brooded d).grp k = s.grp k) ∧ (s.brooded d).teams = (s.setLevel s.cg.tid s.uids
      { live := true, kind := .brood s.cg.uid, depth := d, parent := s.cg.lid, recs := List.replicate 4 {} }).teams := by
  obtain ⟨x, hx⟩ := s.cg_releaseAct (sc := 5) (by decide)
  have hl := s.releaseAct_local (sc := 5) (by decide)
  have hrest := congrArg (fun v : State => { v with teams := s.teams, uids := s.uids }) (s.releaseAct_rest (sc := 5) (by decide))
  have hcg : (s.brooded d).cg = s.acked x := hx
  have hca : (s.brooded d).ca = { s.ca with stores := 0, asks := none } := by
    unfold State.ca
    rw [hcg, show (s.brooded d).slot = s.slot from hl.slot]
    exact Group.arm_setArm_same ..
  have htick : (s.brooded d).tick = s.tick := by have h := congrArg State.tick hrest; exact h
  refine ⟨x, hcg, ?_, hl.cur, hrest, hl.grp, ?_⟩
  · funext lid base pc blk vs uid
    unfold State.child State.ipc
    rw [hcg, hca, htick]
    simp [State.acked]
  · have ht : (s.releaseAct 5).teams = s.teams := s.releaseAct_teams (by decide)
    unfold State.brooded State.setLevel State.setTeam State.team
    dsimp only
    rw [ht]

theorem forked_spec (hlive : s.cg.live = true) {d n base : Nat} {pc : Word} (hroom : s.forkRoom n base = true) :
    let kids := (s.freeSlots s.ccore).take n
    let m := s.forked d n base pc (kids.zip (s.freeBlocks s.cg.launch))
    ∃ x, m.cg = { s.acked x with joins := s.cg.joins + n } ∧ m.cur = s.cur ∧
      { m with groups := s.groups, teams := s.teams, checks := s.checks, uids := s.uids } = s ∧
      (∀ k, k ≠ s.gid → k ∉ kids → m.grp k = s.grp k) ∧ m.teams = (s.brooded d).teams ∧
      ∀ k ∈ kids, ∃ blk vs uid, m.grp k = s.child s.uids base pc blk vs uid := by
  intro kids m
  obtain ⟨-, hblk, -, -⟩ := (forkRoom_iff n base).mp hroom
  obtain ⟨x, hcg, hchild, hcur, hrest, hgrp, -⟩ := brooded_spec s d
  have hfst : (kids.zip (s.freeBlocks s.cg.launch)).map Prod.fst = kids :=
    List.map_fst_zip ((List.length_take_le ..).trans hblk)
  have hgid : s.gid ∉ kids := fun h => live_not_free hlive _ (List.mem_of_mem_take h)
  have hbg : (s.brooded d).gid = s.gid := congrArg Prod.fst hcur
  obtain ⟨h1, h2, h3⟩ := forkChildren_spec s.uids base pc (kids.zip (s.freeBlocks s.cg.launch)) (s.brooded d)
    (fun y hy h => hgid (hbg ▸ h ▸ (List.of_mem_zip hy).1)) (hfst.symm ▸ (freeSlots_nodup s _).sublist (List.take_sublist ..))
  generalize hv : (kids.zip (s.freeBlocks s.cg.launch)).foldl (fun v x => v.forkChild s.uids base pc x.2 x.1) (s.brooded d) = v at h1 h2 h3
  have hm : m = v.modG fun g => { g with joins := g.joins + n } := by rw [← hv]; rfl
  have hvcur : v.cur = s.cur := by have h := congrArg State.cur h1; exact h.trans hcur
  have hvg : v.gid = s.gid := congrArg Prod.fst hvcur
  have hvcg : v.cg = s.acked x := by
    rw [← hcg, State.cg, State.cg, hvg, hbg]
    exact h2 _ (hfst.symm ▸ hgid)
  rw [hfst] at h2
  rw [hm]
  refine ⟨x, ?_, hvcur, ?_, fun k hk hkk => ?_, ?_, fun k hk => ?_⟩
  · rw [State.cg_modG, hvcg]
    have hj : (s.acked x).joins = s.cg.joins := Group.setArm_joins ..
    rw [hj]
  · refine broodRest_setG ?_ _
    have h := congrArg (fun v : State => { v with groups := s.groups, teams := s.teams, checks := s.checks, uids := s.uids }) h1
    exact h.trans hrest
  · exact (State.grp_setG_other v _ k (hvg.symm ▸ hk)).trans ((h2 k hkk).trans (hgrp k hk))
  · have h := congrArg State.teams h1
    exact h
  · obtain ⟨y, hy, rfl⟩ := List.mem_map.mp (hfst.symm ▸ hk)
    obtain ⟨vs, uid, h⟩ := h3 y hy
    have hne : y.1 ≠ v.gid := fun h => hgid (hvg ▸ h ▸ hk)
    exact ⟨y.2, vs, uid, by rw [← hchild, ← h]; exact State.grp_setG_other v _ _ hne⟩

end

end Sys2Proof.Machine
end

section
/-! The family's statement of forks and skeins (R217-R225). -/

namespace Sys2Proof.Machine

open Sys2Proof.Safety

section
variable {s : State} {f : SF}

/-- The forking group and its arm behind a fork, R218. -/
theorem forked_retire {m : State} {x : BitVec 16} {j : Nat} (hcur : m.cur = s.cur) (hcg : m.cg = { s.acked x with joins := j }) :
    GoesOn s m.retire ∧ SameRegs s m.retire ∧ m.retire.cg.joins = j ∧ { m.retire.cg with
      arm0 := s.cg.arm0, arm1 := s.cg.arm1, joins := s.cg.joins, chkHomes := s.cg.chkHomes } = s.cg := by
  have hslot : m.slot = s.slot := congrArg Prod.snd hcur
  have hca : m.ca = { s.ca with stores := 0, asks := none } := by
    unfold State.ca
    rw [hcg, hslot]
    exact Group.arm_setArm_same ..
  have hs : Stands s m := ⟨by simp [SameRegs, hca, hcg, State.acked], by rw [hca], by rw [hca], by simp [hcg, State.acked], by simp [hcg]⟩
  refine ⟨hs.goesOn, hs.sameRegs, ?_, ?_⟩
  · rw [State.cg_retire, Group.setArm_joins, hcg]
  · rw [State.cg_retire, hcg, hslot]
    unfold State.acked Group.setArm
    split <;> rfl

/-- The rest of the state behind a fork, R217, R218. -/
theorem outside_of_brood {t : State} (h : { t with groups := s.groups, teams := s.teams, checks := s.checks, uids := s.uids } = s) :
    { outside t with teams := s.teams, uids := s.uids } = outside s := by
  have hr : { { t with uids := s.uids } with groups := s.groups, teams := s.teams, checks := s.checks, cores := s.cores } = s := by
    have h' := congrArg (fun v : State => { v with cores := s.cores }) h
    exact h'
  rw [← outside_of_rest hr]
  unfold outside
  dsimp only
  split <;> rfl

/-- The forking group's team behind a fork: one level more. -/
theorem brood_teams {t : State} {d : Nat} (ht : t.teams = (s.brooded d).teams) :
    (∀ x, x ≠ s.cg.tid → t.team x = s.team x) ∧ { t.team s.cg.tid with levels := s.cteam.levels } = s.cteam ∧
      (∀ l, l ≠ s.uids → t.level s.cg.tid l = s.level s.cg.tid l) ∧ t.level s.cg.tid s.uids =
        { live := true, kind := .brood s.cg.uid, depth := d, parent := s.cg.lid, recs := List.replicate 4 {} } := by
  obtain ⟨-, -, -, -, -, -, hb⟩ := brooded_spec s d
  have hteams := ht.trans hb
  refine ⟨fun x hx => (team_of_teams hteams x).trans (State.team_setTeam_other _ _ _ _ hx), ?_,
    fun l hl => (level_of_teams hteams _ _).trans ((level_setLevel ..).trans (if_neg fun h => hl h.2)),
    (level_of_teams hteams _ _).trans (level_setLevel_same ..)⟩
  rw [team_of_teams hteams]
  unfold State.setLevel
  rw [State.team_setTeam_same]
  rfl

/-! ### join (R219) -/

theorem onlyCounts_closeChecks (s : State) : OnlyCounts s (s.closeChecks s.gid).retire := by
  obtain ⟨x, hx⟩ := s.grp_closeChecks s.gid s.gid
  have hl := s.closeChecks_local
  have hg : (s.closeChecks s.gid).cg = { s.cg with chkHomes := x } := by rw [State.cg, hl.gid]; exact hx
  have ha : (s.closeChecks s.gid).ca = s.ca := by rw [State.ca, hg, hl.slot]; rfl
  have hc : (s.closeChecks s.gid).retire.cg = ({ s.cg with chkHomes := x } : Group).setArm s.slot s.ca.advance := by
    rw [State.cg_retire, hg, ha, hl.slot]
  have hr : (s.closeChecks s.gid).retire.ca = s.ca.advance := by rw [ca_retire, ha]
  refine ⟨(hl.trans (.retire _)).grp, ?_, fun h => ?_, ?_, ?_, ?_⟩
  · rw [hc]
    unfold Group.setArm
    split <;> rfl
  · rw [hc]
    exact Group.arm_setArm_other _ _ _ h
  · rw [hr, (State.advance_scal _).1]
  · rw [hr, (State.advance_scal _).2]
  · rw [hr]
    unfold SameArm Arm.advance
    dsimp only
    split
    · rfl
    · split <;> rfl

theorem joinEff_eq (ha : Acts s f.g) (hp : Passes s f.g [] []) :
    s.joinEff f = if s.cg.joins == 0 then .retire (s.closeChecks s.gid) else .stay (s.park .join) := by
  unfold State.joinEff
  rw [State.guarded_passes _ hp fun _ => ha]
  rfl

end

/-- Settles O35: each instruction's checks in their order, and behind them the rule of the one operation that it performs: the children of
the release's brood, the acquire of the join, the chunks given back, granted or asked for, and the gang named. -/
theorem forksAndSkeinsComplete : Obligations.ForksAndSkeinsComplete := by
  unfold Obligations.ForksAndSkeinsComplete
  refine ⟨fun s f hlive ha hp => ?fork, fun s f ha hp => ?join, fun s f hc ha hp => ?skgive, fun s f hc ha hp hk => ?sktake,
    fun s f k hk => ?parked, fun s f hc ha hp => ?gangset⟩
  case fork =>
    obtain ⟨hdeep, hno, hyes⟩ := forkEff_eq ha hp
    refine ⟨fun hd hr => ?_, fun hd => congrArg s.conclude (hdeep hd), fun hd hr hb => ?_, fun hd hr hb => ?_⟩
    · have hroom := (forkRoom_iff f.d.toNat (8 * f.a.toNat)).mpr hr
      obtain ⟨x, hcg, hcur, hrest, hgrp, hteams, hkids⟩ := forked_spec hlive (pc := s.hdr + 8 * f.imm.signExtend 64)
        (d := (s.level s.cg.tid s.cg.lid).depth + 1) hroom
      have he := congrArg s.conclude (hyes hd hroom)
      generalize s.forked _ _ _ _ _ = m at *
      obtain ⟨hon, hregs, hj, hg⟩ := forked_retire hcur hcg
      obtain ⟨hother, hteam, hlvl, hbrood⟩ := brood_teams (t := m.retire) hteams
      have hgid : m.gid = s.gid := congrArg Prod.fst hcur
      have hrest' := broodRest_setG hrest (m.cg.setArm m.slot m.ca.advance)
      have hkeep : ∀ k, k ≠ s.gid → m.retire.grp k = m.grp k := fun k hk => State.grp_setG_other m _ k (hgid.symm ▸ hk)
      refine ⟨m.retire, he, hon, hregs, ?_, hj, hg, fun k hk hkk => (hkeep k hk).trans (hgrp k hk hkk), outside_of_brood hrest', hother,
        hteam, s.uids, hlvl, hbrood, fun k hk => ?_⟩
      · have h := congrArg State.mem hrest'
        exact h
      · have hne : k ≠ s.gid := fun h => live_not_free hlive _ (h ▸ List.mem_of_mem_take hk)
        obtain ⟨blk, vs, uid, hc⟩ := hkids k hk
        rw [hkeep k hne, hc]
        obtain ⟨hv, hp⟩ := child_zero s s.uids (8 * f.a.toNat) (s.hdr + 8 * f.imm.signExtend 64) blk vs uid
        exact ⟨rfl, rfl, rfl, rfl, rfl, rfl, rfl, rfl, rfl, rfl, rfl, rfl, rfl, rfl, rfl, rfl, rfl, rfl, rfl, rfl, rfl, hv, hp, rfl⟩
    · have h := hno hd (Bool.eq_false_iff.mpr (mt (forkRoom_iff _ _).mp hr))
      rw [if_neg (mt beq_iff_eq.mp hb)] at h
      exact congrArg s.conclude h
    · have h := hno hd (Bool.eq_false_iff.mpr (mt (forkRoom_iff _ _).mp hr))
      rw [if_pos (beq_iff_eq.mpr hb)] at h
      exact ⟨_, congrArg s.conclude h, by rw [ca_park], (park_stands s _).regs, rest_setG rfl _, (Local.park s _).grp⟩
  case join =>
    have he := congrArg s.conclude (joinEff_eq ha hp)
    by_cases hj : s.cg.joins = 0
    · rw [if_pos (beq_iff_eq.mpr hj)] at he
      have hl := s.closeChecks_local.trans (.retire _)
      have hs : Stands s (s.closeChecks s.gid) := (s.closeAt_frame s.gid _).1
      exact ⟨_, he, hs.sameRegs, hl.grp, hl.mem, hl.outside_of_teams (s.closeChecks_teams _), fun _ => ⟨hs.goesOn, onlyCounts_closeChecks s⟩,
        fun h => absurd hj h⟩
    · rw [if_neg (mt beq_iff_eq.mp hj)] at he
      have hl := Local.park s .join
      exact ⟨_, he, (park_stands s _).regs, hl.grp, hl.mem, hl.outside_of_teams rfl, fun h => absurd h hj, fun _ => by rw [ca_park]⟩
  case skgive =>
    have he := congrArg s.conclude (skgiveEff_eq hc ha hp)
    refine ⟨fun hn => ⟨_, he.trans ?_, onlyWrites_retire s, goesOn_self s⟩, fun hn => he.trans ?_, fun h0 hn ht => he.trans ?_,
      fun h0 hn ht hq => ⟨(s.giveChunks (s.skeinCount f)).retire, he.trans ?_, giveChunks_retire hq _⟩⟩
    · rw [if_pos (beq_iff_eq.mpr hn)]
      rfl
    · rw [if_neg (by rw [beq_iff_eq]; omega), if_pos hn]
      rfl
    · rw [if_neg (by rw [beq_iff_eq]; omega), if_neg (Nat.not_lt.mpr hn), if_pos ht]
      rfl
    · rw [if_neg (by rw [beq_iff_eq]; omega), if_neg (Nat.not_lt.mpr hn), ht]
      rfl
  case sktake =>
    have he := congrArg s.conclude (sktakeEff_eq hk hc ha hp)
    have hfit : ∀ n, (n ≤ s.cteam.skeinSize ∧ s.cg.window + 8 * n ≤ 256) ↔ ¬ (decide (s.cteam.skeinSize < n) || decide (256 < s.cg.window + 8 * n)) = true := by
      simp
    refine ⟨fun hn => ⟨_, he.trans ?_, onlyWrites_retire s, goesOn_self s⟩, fun h0 hf => he.trans ?_, fun h0 hf hq hn hu => ?_,
      fun u k rest h0 hf hq hn => ?_⟩
    · rw [if_pos (beq_iff_eq.mpr hn)]
      rfl
    · rw [if_neg (by rw [beq_iff_eq]; omega), if_pos (not_not.mp (mt (hfit _).mpr hf))]
      rfl
    · rw [if_neg (by rw [beq_iff_eq]; omega), if_neg ((hfit _).mp hf), sktake_granted hq hn hu] at he
      obtain ⟨htid, hteams, hon, harm, hscal, hgrp, hrest, hch, hcg, hout, hin⟩ := mapChunks_retire (s.taken (s.skeinCount f)) (s.skeinCount f)
      obtain ⟨hother, hown⟩ := taken_teams (t := ((s.taken (s.skeinCount f)).mapChunks (s.taken (s.skeinCount f)).gid (s.skeinCount f)).retire) hq _ hteams
      have hq0 : ((s.taken (s.skeinCount f)).mapChunks (s.taken (s.skeinCount f)).gid (s.skeinCount f)).cteam.skeinQ = [] := by
        rw [State.cteam, htid]
        exact (congrArg Team.skeinQ hown).trans hq
      rw [hq0] at he
      refine ⟨_, he, hon, harm, hscal, hgrp, ?_, ⟨hother, hown⟩, hch, hcg, hout, fun r l hr hr' => ?_⟩
      · have h := congrArg (fun x : State => { x with teams := s.teams }) hrest
        exact h
      · obtain ⟨hv, hp⟩ := hin r l hr hr'
        exact ⟨skeinPool_taken hv, hp⟩
    · have hmem : (s.cteam.skeinQ ++ [(s.cg.uid, s.skeinCount f)]).any (fun q => q.1 == s.cg.uid) = true :=
        (skeinQ_any _ _).mpr ⟨_, List.mem_append_right _ (List.mem_singleton_self _), rfl⟩
      rw [if_neg (by rw [beq_iff_eq]; omega), if_neg ((hfit _).mp hf), sktake_blocked hq hn] at he
      have hteam := State.team_setTeam_same s s.cg.tid { s.cteam with skeinQ := s.cteam.skeinQ ++ [(s.cg.uid, s.skeinCount f)] }
      exact ⟨_, he.trans (congrArg s.conclude (if_pos ((congrArg (fun t : Team => t.skeinQ.any fun q => q.1 == s.cg.uid) hteam).trans hmem))),
        park_of_team _ _⟩
  case parked =>
    have he := congrArg s.conclude (sktakeEff_parked (f := f) hk)
    refine ⟨fun h => he.trans ?_, fun h => ⟨_, he.trans ?_, onlyWrites_retire s, goesOn_self s⟩⟩
    · rw [if_pos ((skeinQ_any _ _).mpr h)]
      rfl
    · rw [if_neg (mt (skeinQ_any _ _).mp fun ⟨q, hq, hu⟩ => h q hq hu)]
      rfl
  case gangset =>
    obtain ⟨hgood, hbad⟩ := gangsetEff_eq hc ha hp
    exact ⟨fun h => ⟨_, congrArg s.conclude (hgood h), gangset_good _⟩, fun h => congrArg s.conclude (hbad h)⟩

end Sys2Proof.Machine
end

section
/-! The teams behind accesses to memory: no access below a scratchpad changes one. -/

namespace Sys2Proof.Machine.State

theorem foldl_teams {α : Type} {f : State → α → State} (hf : ∀ s a, (f s a).teams = s.teams) (l : List α) (s : State) :
    (l.foldl f s).teams = s.teams := foldl_keeps hf l s

@[simp] theorem ite_teams (c : Prop) [Decidable c] (s t : State) : (if c then s else t).teams = if c then s.teams else t.teams := apply_ite ..

section
variable (s : State)

@[simp] theorem setDir_teams (k : Nat) (e : DirEntry) : (s.setDir k e).teams = s.teams := rfl
@[simp] theorem bump_teams : s.bump.teams = s.teams := rfl
@[simp] theorem l2put_teams (d c : Nat) (b : Bool) (k : Nat) (x : L2Sect) : (s.l2put d c b k x).teams = s.teams := rfl
@[simp] theorem l2drop_teams (d k : Nat) : (s.l2drop d k).teams = s.teams := rfl
@[simp] theorem updStrip_teams (c k : Nat) : (s.updStrip c k).teams = s.teams := rfl
@[simp] theorem homeWrite_teams (k : Nat) (m : BitVec 64) (d : List Byte) (p : Bool) : (s.homeWrite k m d p).teams = s.teams := rfl

@[simp] theorem charge_teams (k u p n : Nat) : (s.charge k u p n).teams = s.teams := by unfold charge; dsimp only; split <;> rfl

@[simp] theorem logError_teams (c u : Nat) (e : LogEntry) (b : Bool) : (s.logError c u e b).teams = s.teams := by
  unfold logError; dsimp only; split <;> simp

@[simp] theorem fireInj_teams (y c u : Nat) (a : Option Word) : (s.fireInj y c u a).teams = s.teams := by
  unfold fireInj; dsimp only; split <;> simp

@[simp] theorem hopFlit_teams (i j : Nat) : (s.hopFlit i j).teams = s.teams := by unfold hopFlit; split <;> simp

@[simp] theorem hopFlits_teams (i j : Nat) : (s.hopFlits i j).teams = s.teams := by unfold hopFlits; dsimp only; split <;> simp

@[simp] theorem chargeHomes_teams (d p : Nat) (l : List (Nat × Bool)) : (s.chargeHomes d p l).teams = s.teams :=
  foldl_teams (fun _ _ => by simp) l s

@[simp] theorem deltasHome_teams (k c : Nat) : (s.deltasHome k c).teams = s.teams := by
  unfold deltasHome
  dsimp only
  split
  · exact foldl_teams (fun _ _ => by simp) _ s
  · exact (updStrip_teams ..).trans (foldl_teams (fun _ _ => by simp) _ s)

@[simp] theorem deltasDie_teams (l : List Nat) (k : Nat) : (l.foldl (fun s c => s.deltasHome k c) s).teams = s.teams :=
  foldl_teams (fun s c => s.deltasHome_teams k c) l s

@[simp] theorem l2Recall_teams (d k : Nat) (b : Bool) : (s.l2Recall d k b).teams = s.teams := by unfold l2Recall; split <;> simp

@[simp] theorem recalls_teams (l : List Nat) (k : Nat) (b : Bool) : (l.foldl (fun s d => s.l2Recall d k b) s).teams = s.teams :=
  foldl_teams (fun s d => s.l2Recall_teams d k b) l s

@[simp] theorem homeClear_teams (k : Nat) (w : Bool) : (s.homeClear k w).teams = s.teams := by unfold homeClear; dsimp only; split <;> simp

@[simp] theorem homeEvict_teams (k : Nat) : (s.homeEvict k).teams = s.teams := by
  have hf := foldl_teams (fun s j => s.homeClear_teams (k * 4 + j) true) (List.range 4) s
  simp only [homeEvict, hf]

@[simp] theorem homeLine_teams (k : Nat) : (s.homeLine k).teams = s.teams := by unfold homeLine; dsimp only; split <;> simp

@[simp] theorem homeReadShared_teams (r k : Nat) : (s.homeReadShared r k).teams = s.teams := by
  unfold homeReadShared; dsimp only; split <;> simp

@[simp] theorem homeReadOwn_teams (r k : Nat) : (s.homeReadOwn r k).teams = s.teams := by simp [homeReadOwn]

@[simp] theorem l2Own_teams (d c k : Nat) : (s.l2Own d c k).teams = s.teams := by simp [l2Own]

@[simp] theorem giveUp_teams (d k : Nat) (b : Bool) : (s.giveUp d k b).teams = s.teams := by simp [giveUp]

@[simp] theorem homeTake_teams (k : Nat) (w : Bool) : (s.homeTake k w).teams = s.teams := by simp [homeTake]

@[simp] theorem homeMerge_teams (k : Nat) (m : BitVec 64) (d : List Byte) (p : Bool) : (s.homeMerge k m d p).teams = s.teams := by
  simp [homeMerge]

@[simp] theorem swWriteBack_teams (d k : Nat) : (s.swWriteBack d k).teams = s.teams := by unfold swWriteBack; split <;> simp

@[simp] theorem l2Fill_teams (d c : Nat) (b : Bool) (k : Nat) (m : BitVec 64) : (s.l2Fill d c b k m).1.teams = s.teams := by
  unfold l2Fill
  dsimp only
  repeat' split
  all_goals simp

@[simp] theorem l2Store_teams (d c : Nat) (b : Bool) (k : Nat) (m : BitVec 64) (x : List Byte) (p : Bool) :
    (s.l2Store d c b k m x p).teams = s.teams := by
  unfold l2Store
  cases b with
  | true => simp
  | false => cases s.listFull d c (s.lineSlice d (k / 4)) k <;> simp

@[simp] theorem deltasL2_teams (c : Nat) (b : Bool) (k : Nat) : (s.deltasL2 c b k).teams = s.teams :=
  foldl_teams (fun s u => by cases b <;> simp) _ s

@[simp] theorem l2Turn_teams (d : Nat) (b : Bool) (k : Nat) : (s.l2Turn d b k).teams = s.teams := by
  unfold l2Turn
  split
  · rfl
  · split
    · rfl
    · refine (l2drop_teams ..).trans (foldl_teams (fun s j => ?_) _ s)
      simp [foldl_teams fun s c => s.deltasL2_teams c false (k * 4 + j)]

@[simp] theorem moveList_teams (d line sl k : Nat) : (s.moveList d line sl k).teams = s.teams := by
  unfold moveList
  split
  · split
    · rfl
    · refine (setDie_teams ..).trans ?_
      split
      · split <;> simp
      · rfl
  · rfl

@[simp] theorem l2Place_teams (d c : Nat) (b : Bool) (sl k : Nat) : (s.l2Place d c b sl k).teams = s.teams := by
  unfold l2Place
  split
  · simp
  · simp [foldl_teams fun s j => s.moveList_teams d k sl j]

@[simp] theorem mergeUpd_teams (c : Nat) (p : UpdLine → Bool) : (s.mergeUpd c p).teams = s.teams :=
  foldl_teams (fun s u => foldl_teams (fun s k => by simp [mergeSect, l2Reach]) _ s) _ s

end

end Sys2Proof.Machine.State
end

section
/-! pbar (R210): the release of cluster scope near the executing group, and the check of the panel. -/

namespace Sys2Proof.Machine

open Sys2Proof.Safety

/-! ### Changes near the executing group, beside those of accesses -/

/-- From `s` to `t` nothing changes but the executing group and what accesses change. -/
structure Near (s t : State) : Prop where
  rest : { t.beyondAccess with groups := s.groups } = s.beyondAccess
  grp : ∀ k, k ≠ s.gid → t.grp k = s.grp k

namespace Near

variable {s t u : State}

theorem cur (h : Near s t) : t.cur = s.cur := by have := congrArg State.cur h.rest; exact this
theorem uids (h : Near s t) : t.uids = s.uids := by have := congrArg State.uids h.rest; exact this
theorem panels (h : Near s t) : t.panels = s.panels := by have := congrArg State.panels h.rest; exact this
theorem gid (h : Near s t) : t.gid = s.gid := congrArg Prod.fst h.cur

theorem trans (h1 : Near s t) (h2 : Near t u) : Near s u := by
  refine ⟨?_, fun k hk => (h2.grp k (h1.gid ▸ hk)).trans (h1.grp k hk)⟩
  have h := congrArg (fun x : State => { x with groups := s.groups }) h2.rest
  exact Eq.trans h h1.rest

theorem of_local (h : Local s t) : Near s t := by
  refine ⟨?_, h.grp⟩
  have h' := congrArg State.beyondAccess h.rest
  exact h'

theorem of_beyondAccess (h : t.beyondAccess = s.beyondAccess) : Near s t := by
  refine ⟨?_, fun k _ => grp_of_groups (State.groups_of_beyondAccess h) k⟩
  have h' := congrArg (fun x : State => { x with groups := s.groups }) h
  exact h'

end Near

/-- From `s` to `t` no team changes but in its scratchpad. -/
def SpOnly (s t : State) : Prop := ∀ x, { t.team x with sp := (s.team x).sp, spPois := (s.team x).spPois } = s.team x

namespace SpOnly

variable {s t u : State}

theorem of_teams (h : t.teams = s.teams) : SpOnly s t := fun x => by rw [team_of_teams h]

theorem trans (h1 : SpOnly s t) (h2 : SpOnly t u) : SpOnly s u := fun x => by
  have h := congrArg (fun c : Team => { c with sp := (s.team x).sp, spPois := (s.team x).spPois }) (h2 x)
  exact Eq.trans h (h1 x)

theorem panel (h : SpOnly s t) (x : Nat) : (t.team x).panel = (s.team x).panel := by have := congrArg Team.panel (h x); exact this
theorem live (h : SpOnly s t) (x : Nat) : (t.team x).live = (s.team x).live := by have := congrArg Team.live (h x); exact this

theorem foldl {α : Type} {f : State → α → State} (hf : ∀ s a, SpOnly s (f s a)) (l : List α) : ∀ s, SpOnly s (l.foldl f s) := by
  induction l with
  | nil => exact fun s => .of_teams rfl
  | cons a l ih => exact fun s => (hf s a).trans (ih _)

end SpOnly

namespace State

variable (s : State)

theorem spWrite_spOnly (tid off : Nat) (bs : List Byte) (p : Bool) : SpOnly s (s.spWrite tid off bs p) := fun x => by
  unfold spWrite
  dsimp only
  rw [team_setTeam]
  split
  · next h => rw [h]
  · rfl

theorem drainSubs_spOnly (c : Nat) : SpOnly s (s.drainSubs c) := by
  have h : SpOnly s ((s.subs.filter fun p => p.2.live && (s.team p.2.pub).core == c).foldl
      (fun s p => (p.2.sent ++ p.2.batch).foldl (fun s u => s.applyUpdate p.2 u) s) s) :=
    SpOnly.foldl (fun _ (p : Nat × Subscr) => SpOnly.foldl (fun s (u : Update) => spWrite_spOnly s p.2.sub (p.2.soff + u.off) u.bytes u.pois) _ _) _ _
  exact h

/-- The release of cluster scope, R276: of the groups it changes the executing one, of the teams their scratchpads. -/
theorem releaseAct_near (sc : Nat) : Near s (s.releaseAct sc) := by
  have h1 : Near s (s.chargeHomes s.cdie s.cctx.part (s.relNeeds sc)) := .of_beyondAccess (s.chargeHomes_beyondAccess ..)
  generalize hu : s.chargeHomes s.cdie s.cctx.part (s.relNeeds sc) = u at h1
  have h2 : Near u ((u.modA fun a => { a with stores := 0, asks := none }).closeChecks u.gid) :=
    .of_local ((Local.setG u _).trans (closeChecks_local _))
  refine h1.trans (h2.trans (.of_beyondAccess ?_))
  simp only [releaseAct, hu]
  simp

theorem releaseAct_spOnly : SpOnly s (s.releaseAct 6) := by
  have h1 : SpOnly s (s.chargeHomes s.cdie s.cctx.part (s.relNeeds 6)) := .of_teams (s.chargeHomes_teams ..)
  unfold releaseAct
  generalize s.chargeHomes s.cdie s.cctx.part (s.relNeeds 6) = u at *
  have h2 : ((u.modA fun a => { a with stores := 0, asks := none }).closeChecks u.gid).teams = u.teams := closeChecks_teams _ _
  dsimp only
  refine h1.trans ((SpOnly.of_teams (Eq.trans ?_ h2)).trans (drainSubs_spOnly _ _))
  exact mergeUpd_teams ..

end State

/-! ### The check of a panel (R210) -/

/-- A team of the panel still has to come. -/
def State.waited (s : State) (p : Nat) (arrived : List Nat) : Prop := ∃ t ∈ (s.panel p).teams, (s.team t).live = true ∧ t ∉ arrived

/-- Where a team arrives and the check finds nobody missing, the generation rises; where it finds one, the arrival stands. -/
theorem panelCheck_arrival (s : State) (p tid : Nat) : let x := s.panel p
    let a := x.arrived ++ [tid]
    let t := (s.setPanel p { x with arrived := a }).panelCheck p
    (¬ s.waited p a → (t.panel p).gen = x.gen + 1 ∧ (t.panel p).arrived = []) ∧
    (s.waited p a → (t.panel p).gen = x.gen ∧ (t.panel p).arrived = a) := by
  intro x a t
  have hp : (s.setPanel p { x with arrived := a }).panel p = { x with arrived := a } := State.panel_setPanel_same ..
  have hw : (x.teams.filter fun t => (s.team t).live && !a.contains t).isEmpty = true ↔ ¬ s.waited p a := by
    simp only [List.isEmpty_iff, List.filter_eq_nil_iff, State.waited, Bool.and_eq_true, Bool.not_eq_true', List.contains_eq_mem,
      decide_eq_false_iff_not, not_exists, not_and]
    rfl
  have he : t = if (x.teams.filter fun t => (s.team t).live && !a.contains t).isEmpty && !a.isEmpty then
      (s.setPanel p { x with arrived := a }).setPanel p { x with gen := x.gen + 1, arrived := [] } else s.setPanel p { x with arrived := a } := by
    show State.panelCheck _ _ = _
    unfold State.panelCheck
    dsimp only
    rw [hp]
    rfl
  have ha : a.isEmpty = false := by simp [a]
  rw [he, ha, Bool.not_false, Bool.and_true]
  refine ⟨fun h => ?_, fun h => ?_⟩
  · rw [if_pos (hw.mpr h), State.panel_setPanel_same]
    exact ⟨rfl, rfl⟩
  · rw [if_neg (mt hw.mp (not_not.mpr h)), State.panel_setPanel_same]
    exact ⟨rfl, rfl⟩

/-! ### The arrival of the team (R210) -/

/-- The state behind the arrival of the executing group's team at its panel. -/
def State.teamArrives (s : State) : State :=
  let v := s.drainSubs s.ccore
  (v.setPanel s.cteam.panel { v.panel s.cteam.panel with arrived := (v.panel s.cteam.panel).arrived ++ [s.cg.tid] }).panelCheck s.cteam.panel

/-- The state in which pbar asks for the panel's generation. -/
def State.panelAsks (s : State) (gen : Nat) : State :=
  if (s.othersAt fun k => k == .pbar gen) && !(s.panel s.cteam.panel).arrived.contains s.cg.tid then s.teamArrives else s

section
variable {s : State}

theorem panelArrive_eq (gen : Nat) : s.panelArrive gen = if ((s.panelAsks gen).panel s.cteam.panel).gen != gen then .retire ((s.panelAsks gen).acquireAct 6)
    else .stay ((s.panelAsks gen).park (.pbar gen)) := rfl

theorem panelCheck_groups (s : State) (p : Nat) : (s.panelCheck p).groups = s.groups ∧ (s.panelCheck p).cur = s.cur := by
  unfold State.panelCheck
  dsimp only
  split <;> exact ⟨rfl, rfl⟩

theorem teamArrives_groups (s : State) : s.teamArrives.groups = s.groups ∧ s.teamArrives.cur = s.cur := by
  have h := s.drainSubs_beyondAccess s.ccore
  obtain ⟨hg, hc⟩ := panelCheck_groups ((s.drainSubs s.ccore).setPanel s.cteam.panel { (s.drainSubs s.ccore).panel s.cteam.panel with
    arrived := ((s.drainSubs s.ccore).panel s.cteam.panel).arrived ++ [s.cg.tid] }) s.cteam.panel
  have hg' : (s.drainSubs s.ccore).groups = s.groups := State.groups_of_beyondAccess h
  have hc' : (s.drainSubs s.ccore).cur = s.cur := State.cur_of_beyondAccess h
  exact ⟨hg.trans hg', hc.trans hc'⟩

theorem panelAsks_groups (s : State) (gen : Nat) : (s.panelAsks gen).groups = s.groups ∧ (s.panelAsks gen).cur = s.cur := by
  unfold State.panelAsks
  split
  · exact teamArrives_groups s
  · exact ⟨rfl, rfl⟩

theorem acquireAct_frame (s : State) (sc : Nat) : Stands s (s.acquireAct sc) ∧ Local s (s.acquireAct sc) := by
  have h : Stands s (s.closeChecks s.gid) := (s.closeAt_frame s.gid _).1
  unfold State.acquireAct
  dsimp only
  split
  · exact ⟨h.trans (.of_groups rfl rfl), s.closeChecks_local.trans (.l1Clear _ _)⟩
  · exact ⟨h, s.closeChecks_local⟩

/-- Where the generation has risen the arm goes on behind an acquire, and elsewhere it waits. -/
theorem panelArrive_completes (s r : State) (gen : Nat) : let w := s.panelAsks gen
    ∃ t, r.conclude (s.panelArrive gen) = .next t ∧ SameRegs s t ∧ (∀ k, k ≠ s.gid → t.grp k = s.grp k) ∧ t.panels = w.panels ∧
      ((w.panel s.cteam.panel).gen ≠ gen → GoesOn s t) ∧ ((w.panel s.cteam.panel).gen = gen → t.ca.park = some (.pbar gen)) := by
  intro w
  obtain ⟨hgrp, hcur⟩ := panelAsks_groups s gen
  have hs : Stands s w := .of_groups hcur hgrp
  have hgid : w.gid = s.gid := congrArg Prod.fst hcur
  have hkeep : ∀ k, k ≠ s.gid → w.grp k = s.grp k := fun k _ => grp_of_groups hgrp k
  rw [panelArrive_eq]
  by_cases hg : (w.panel s.cteam.panel).gen = gen
  · rw [show ((w.panel s.cteam.panel).gen != gen) = false from by simp [hg]]
    exact ⟨_, rfl, sameRegs_trans hs.regs (park_stands w _).regs, fun k hk => ((Local.park w _).grp k (hgid ▸ hk)).trans (hkeep k hk), rfl,
      fun h => absurd hg h, fun _ => by rw [ca_park]⟩
  · rw [show ((w.panel s.cteam.panel).gen != gen) = true from by simpa using hg]
    obtain ⟨ha, hl⟩ := acquireAct_frame w 6
    have hl := hl.trans (.retire _)
    refine ⟨_, rfl, (hs.trans ha).sameRegs, fun k hk => (hl.grp k (hgid ▸ hk)).trans (hkeep k hk), ?_, fun _ => (hs.trans ha).goesOn, fun h => absurd h hg⟩
    have h := congrArg State.panels hl.rest
    exact h

/-- The panel behind the arrival of a team. -/
theorem teamArrives_panel (s : State) : let p := s.cteam.panel
    let x := s.panel p
    let a := x.arrived ++ [s.cg.tid]
    (¬ s.waited p a → (s.teamArrives.panel p).gen = x.gen + 1 ∧ (s.teamArrives.panel p).arrived = []) ∧
    (s.waited p a → (s.teamArrives.panel p).gen = x.gen ∧ (s.teamArrives.panel p).arrived = a) := by
  intro p x a
  have hn : Near s (s.drainSubs s.ccore) := .of_beyondAccess (s.drainSubs_beyondAccess _)
  have hx : (s.drainSubs s.ccore).panel p = x := by
    unfold State.panel
    rw [hn.panels]
    rfl
  have hw : (s.drainSubs s.ccore).waited p a ↔ s.waited p a := by
    unfold State.waited
    rw [hx]
    simp only [(s.drainSubs_spOnly s.ccore).live]
    rfl
  have h := panelCheck_arrival (s.drainSubs s.ccore) p s.cg.tid
  rw [hx] at h
  obtain ⟨hall, hsome⟩ := h
  have he : s.teamArrives = ((s.drainSubs s.ccore).setPanel p { x with arrived := a }).panelCheck p := by
    unfold State.teamArrives
    dsimp only
    rw [show (s.drainSubs s.ccore).panel s.cteam.panel = x from hx]
  rw [he]
  exact ⟨fun h => hall (mt hw.mp h), fun h => hsome (hw.mpr h)⟩

theorem panelAsks_gen (s : State) (gen : Nat) : let x := s.panel s.cteam.panel
    ((s.panelAsks gen).panel s.cteam.panel).gen = x.gen ∨ ((s.panelAsks gen).panel s.cteam.panel).gen = x.gen + 1 := by
  intro x
  obtain ⟨hall, hsome⟩ := teamArrives_panel s
  unfold State.panelAsks
  split
  · by_cases hw : s.waited s.cteam.panel ((s.panel s.cteam.panel).arrived ++ [s.cg.tid])
    · exact .inl (hsome hw).1
    · exact .inr (hall hw).1
  · exact .inl rfl

/-! ### pbar (R210) -/

theorem pbarEff_parked (hc : s.cg.converged = true) {g : Nat} (hk : s.ca.park = some (.pbar g)) : s.pbarEff = s.panelArrive g := by
  unfold State.pbarEff
  rw [collective_converged hc, hk]

theorem pbarEff_arrives (hc : s.cg.converged = true) (hd : (s.level s.cg.tid s.cg.lid).depth = 0) (hk : ∀ g, s.ca.park ≠ some (.pbar g))
    (hr : s.relWaits 6 = false) : s.pbarEff = (s.releaseAct 6).panelArrive (s.panel s.cteam.panel).gen := by
  unfold State.pbarEff
  rw [collective_converged hc]
  split
  · next g h => exact absurd h (hk g)
  · dsimp only
    rw [hd, hr]
    simp only [bne_self_eq_false, Bool.false_eq_true, if_false]

/-- A group parked at pbar goes on once the panel's generation has passed. -/
theorem pbar_passes (f : SF) (hc : s.cg.converged = true) {g : Nat} (hk : s.ca.park = some (.pbar g)) (hg : g < (s.panel s.cteam.panel).gen) :
    ∃ t, exec (.pbar f) s = .next t ∧ GoesOn s t ∧ SameRegs s t := by
  obtain ⟨t, he, hs, -, -, hon, -⟩ := panelArrive_completes s s g
  refine ⟨t, (congrArg s.conclude (pbarEff_parked hc hk)).trans he, hon ?_, hs⟩
  rcases panelAsks_gen s g with h | h <;> omega

/-- The arrival of the last group at pbar is its team's, and that of the last team its panel's. -/
theorem panelArrive_spec {u : State} (r : State) {p g tid : Nat} (hp : u.cteam.panel = p) (htid : u.cg.tid = tid) (hgen : (u.panel p).gen = g) :
    ∃ t, r.conclude (u.panelArrive g) = .next t ∧ SameRegs u t ∧ (∀ k, k ≠ u.gid → t.grp k = u.grp k) ∧
      (u.othersAt (fun k => k == .pbar g) = false → t.ca.park = some (.pbar g) ∧ t.panels = u.panels) ∧
      (u.othersAt (fun k => k == .pbar g) = true → (u.panel p).arrived.contains tid = false →
        ((∀ x ∈ (u.panel p).teams, x ≠ tid → (u.team x).live = true → x ∈ (u.panel p).arrived) →
          (t.panel p).gen = g + 1 ∧ (t.panel p).arrived = [] ∧ GoesOn u t) ∧
        ((∃ x ∈ (u.panel p).teams, x ≠ tid ∧ (u.team x).live = true ∧ x ∉ (u.panel p).arrived) →
          (t.panel p).gen = g ∧ tid ∈ (t.panel p).arrived ∧ t.ca.park = some (.pbar g))) := by
  subst hp htid
  obtain ⟨t, he, hregs, hgrp, hpan, hon, hwait⟩ := panelArrive_completes u r g
  refine ⟨t, he, hregs, hgrp, fun ho => ?_, fun ho ha => ?_⟩
  · have hw : u.panelAsks g = u := if_neg (by rw [ho]; exact Bool.false_ne_true)
    rw [hw] at hpan hwait
    exact ⟨hwait hgen, hpan⟩
  · have hw : u.panelAsks g = u.teamArrives := if_pos (by rw [ho, ha]; rfl)
    rw [hw] at hpan hwait hon
    obtain ⟨hall, hsome⟩ := teamArrives_panel u
    have hmem : ∀ x, x ∉ (u.panel u.cteam.panel).arrived ++ [u.cg.tid] ↔ x ≠ u.cg.tid ∧ x ∉ (u.panel u.cteam.panel).arrived := fun x => by
      simp only [List.mem_append, List.mem_singleton, not_or, and_comm]
    have hpt : t.panel u.cteam.panel = u.teamArrives.panel u.cteam.panel := by
      unfold State.panel
      rw [hpan]
    rw [hpt]
    refine ⟨fun hcome => ?_, fun ⟨x, hx, hne, hlive, hna⟩ => ?_⟩
    · obtain ⟨h1, h2⟩ := hall fun ⟨x, hx, hlive, hna⟩ => ((hmem x).mp hna).2 (hcome x hx ((hmem x).mp hna).1 hlive)
      rw [hgen] at h1
      exact ⟨h1, h2, hon (by omega)⟩
    · obtain ⟨h1, h2⟩ := hsome ⟨x, hx, hlive, (hmem x).mpr ⟨hne, hna⟩⟩
      rw [hgen] at h1
      exact ⟨h1, h2 ▸ List.mem_append_right _ (List.mem_singleton_self _), hwait h1⟩

theorem goesOn_of_stands {u t : State} (hs : Stands s u) (h : GoesOn u t) : GoesOn s t := by
  obtain ⟨h1, h2⟩ := advance_place hs.clause hs.pc
  exact ⟨h.1.trans h1, h.2.1.trans h2, h.2.2⟩

/-- A group that comes to pbar, behind its release. -/
theorem pbar_arrives (f : SF) (hc : s.cg.converged = true) (hd : (s.level s.cg.tid s.cg.lid).depth = 0) (hk : ∀ g, s.ca.park ≠ some (.pbar g))
    (hr : s.relWaits 6 = false) : let u := s.releaseAct 6
    let p := s.cteam.panel
    let g := (s.panel p).gen
    ∃ t, exec (.pbar f) s = .next t ∧ SameRegs s t ∧ (∀ k, k ≠ s.gid → t.grp k = s.grp k) ∧
      (u.othersAt (fun k => k == .pbar g) = false → t.ca.park = some (.pbar g) ∧ t.panels = s.panels) ∧
      (u.othersAt (fun k => k == .pbar g) = true → (u.panel p).arrived.contains s.cg.tid = false →
        ((∀ x ∈ (u.panel p).teams, x ≠ s.cg.tid → (u.team x).live = true → x ∈ (u.panel p).arrived) →
          (t.panel p).gen = g + 1 ∧ (t.panel p).arrived = [] ∧ GoesOn s t) ∧
        ((∃ x ∈ (u.panel p).teams, x ≠ s.cg.tid ∧ (u.team x).live = true ∧ x ∉ (u.panel p).arrived) →
          (t.panel p).gen = g ∧ s.cg.tid ∈ (t.panel p).arrived ∧ t.ca.park = some (.pbar g))) := by
  have hnear : Near s (s.releaseAct 6) := s.releaseAct_near 6
  have hs : Stands s (s.releaseAct 6) := (s.releaseAct_frame 6).1
  have hsp := s.releaseAct_spOnly
  have he := congrArg s.conclude (pbarEff_arrives hc hd hk hr)
  change exec (.pbar f) s = _ at he
  generalize s.releaseAct 6 = u at *
  have hp : u.cteam.panel = s.cteam.panel := by
    unfold State.cteam
    rw [hs.tid]
    exact hsp.panel _
  have hpu : u.panel s.cteam.panel = s.panel s.cteam.panel := by
    unfold State.panel
    rw [hnear.panels]
  obtain ⟨t, ht, hregs, hgrp, hwait, hcome⟩ := panelArrive_spec s hp hs.tid (congrArg Panel.gen hpu)
  refine ⟨t, he.trans ht, sameRegs_trans hs.regs hregs, fun k hk => (hgrp k (hnear.gid.symm ▸ hk)).trans (hnear.grp k hk), fun ho => ?_, fun ho ha => ?_⟩
  · obtain ⟨h1, h2⟩ := hwait ho
    exact ⟨h1, h2.trans hnear.panels⟩
  · obtain ⟨hall, hsome⟩ := hcome ho ha
    refine ⟨fun h => ?_, hsome⟩
    obtain ⟨h1, h2, h3⟩ := hall h
    exact ⟨h1, h2, goesOn_of_stands hs h3⟩

end

end Sys2Proof.Machine
end

section
/-! A step of every group of a team, each with a close of its check records; and tvote (R216). -/

namespace Sys2Proof.Machine

open Sys2Proof.Safety

/-! ### A step of every group -/

section
variable {α : Type} (key : α → Nat) (F : α → Group → Group)

/-- The groups named by a list change one after another, and the check records of each close. -/
def State.eachGroup (s : State) (l : List α) : State := l.foldl (fun s a => (s.setGrp (key a) (F a (s.grp (key a)))).closeChecks (key a)) s

/-- Of distinct groups each changes once. -/
theorem eachGroup_spec (l : List α) : ∀ s : State, (l.map key).Nodup → let t := s.eachGroup key F l
    { t with groups := s.groups, checks := s.checks } = s ∧ (∀ k, k ∉ l.map key → t.grp k = s.grp k) ∧
      ∀ a ∈ l, ∃ x, t.grp (key a) = { F a (s.grp (key a)) with chkHomes := x } := by
  induction l with
  | nil => exact fun s _ => ⟨rfl, fun _ _ => rfl, fun a ha => absurd ha List.not_mem_nil⟩
  | cons a l ih =>
    intro s hnd
    obtain ⟨ha, hnd⟩ := List.nodup_cons.mp hnd
    have hrest := (s.setGrp (key a) (F a (s.grp (key a)))).closeChecks_rest (key a)
    have hother : ∀ k, k ≠ key a → ((s.setGrp (key a) (F a (s.grp (key a)))).closeChecks (key a)).grp k = s.grp k := fun k hk =>
      (State.grp_closeChecks_other _ hk).trans (State.grp_setGrp_other _ _ _ _ hk)
    have hown := (s.setGrp (key a) (F a (s.grp (key a)))).grp_closeChecks (key a) (key a)
    rw [State.grp_setGrp_same] at hown
    obtain ⟨h1, h2, h3⟩ := ih ((s.setGrp (key a) (F a (s.grp (key a)))).closeChecks (key a)) hnd
    refine ⟨?_, fun k hk => ?_, List.forall_mem_cons.mpr ⟨?_, fun b hb => ?_⟩⟩
    · have h := congrArg (fun v : State => { v with groups := s.groups, checks := s.checks }) h1
      have h' := congrArg (fun v : State => { v with groups := s.groups, checks := s.checks }) hrest
      exact Eq.trans h h'
    · obtain ⟨hk0, hk⟩ := not_or.mp (mt List.mem_cons.mpr hk)
      exact (h2 k hk).trans (hother k hk0)
    · obtain ⟨x, hx⟩ := hown
      exact ⟨x, (h2 _ ha).trans hx⟩
    · obtain ⟨x, hx⟩ := h3 b hb
      have hb' : key b ≠ key a := fun h => ha (h ▸ List.mem_map_of_mem hb)
      exact ⟨x, by rw [← hother _ hb']; exact hx⟩

end

/-! ### The release of a team instruction, once for each group (R226) -/

/-- The state behind the release of a group that was not waiting already. -/
def State.releasedUnless (s : State) (parked : Bool) : State := if parked then s else s.releaseAct 4

theorem releasedUnless_frame (s : State) (b : Bool) : Stands s (s.releasedUnless b) ∧
    { s.releasedUnless b with groups := s.groups, checks := s.checks } = s ∧ ∀ k, k ≠ s.gid → (s.releasedUnless b).grp k = s.grp k := by
  cases b with
  | true => exact ⟨.refl s, rfl, fun _ _ => rfl⟩
  | false => exact ⟨(s.releaseAct_frame 4).1, s.releaseAct_rest (sc := 4) (by decide), (s.releaseAct_local (sc := 4) (by decide)).grp⟩

theorem releasedUnless_lid (s : State) (b : Bool) : (s.releasedUnless b).cg.lid = s.cg.lid := by
  cases b with
  | true => rfl
  | false =>
    obtain ⟨x, hx⟩ := s.cg_releaseAct (sc := 4) (by decide)
    exact (congrArg Group.lid hx).trans (s.acked_lid x)

/-! ### The sole arm of a converged group -/

namespace Group

variable (g : Group)

theorem soleSlot_setSole {a : Arm} (h : a.live = g.sole.live) : (g.setArm g.soleSlot a).soleSlot = g.soleSlot := by
  unfold sole soleSlot at *
  cases hl : g.arm0.live with
  | true =>
    have ha : a.live = true := by simpa [hl, arm] using h
    simp [setArm, ha]
  | false => simp [setArm, hl]

theorem sole_setSole {a : Arm} (h : a.live = g.sole.live) : (g.setArm g.soleSlot a).sole = a := by
  rw [sole, soleSlot_setSole g h, arm_setArm_same]

/-- The sole arm is read through the two arms. -/
theorem sole_of_arms {g h : Group} (h0 : h.arm0 = g.arm0) (h1 : h.arm1 = g.arm1) : h.soleSlot = g.soleSlot ∧ h.sole = g.sole := by
  have hs : h.soleSlot = g.soleSlot := by unfold soleSlot; rw [h0]
  refine ⟨hs, ?_⟩
  unfold sole arm
  rw [hs, h0, h1]

end Group

theorem advance_live (a : Arm) : a.advance.live = a.live := by
  unfold Arm.advance
  dsimp only
  split
  · rfl
  · split <;> rfl

/-! ### The vote in one group (R216) -/

/-- A group in which a vote of a mode has been written to register or predicate `d`, and whose arm goes on. -/
def Group.voted (g : Group) (mode d : Nat) (v : BitVec 32) : Group :=
  let h := if mode == 3 then (g.setV d g.sole.mask fun _ => v).markV d g.sole.mask 0
    else (g.setPred (d % 8) g.sole.mask v).markPred (d % 8) g.sole.mask 0
  h.setArm h.soleSlot h.sole.advance

/-- What a vote of a mode gives from the lanes that vote for it and all. -/
def teamVote (mode count total : Nat) : BitVec 32 :=
  match mode with
  | 0 => if count != 0 then BitVec.allOnes 32 else 0
  | 1 => if count == total then BitVec.allOnes 32 else 0
  | 2 => if count == 0 || count == total then BitVec.allOnes 32 else 0
  | _ => BitVec.ofNat 32 count

theorem bit_teamVote {mode : Nat} (hm : mode < 3) (count total : Nat) {l : Nat} (hl : l < 32) : bit (teamVote mode count total) l =
    if mode = 0 then count != 0 else if mode = 1 then count == total else count == 0 || count == total := by
  match mode, hm with
  | 0, _ => exact bit_ite_allOnes _ hl
  | 1, _ => exact bit_ite_allOnes _ hl
  | 2, _ => exact bit_ite_allOnes _ hl

theorem voted_place (g : Group) (mode d : Nat) (v : BitVec 32) : (g.voted mode d v).sole = g.sole.advance ∧ (g.voted mode d v).scal = g.scal := by
  unfold Group.voted
  dsimp only
  generalize hh : (if (mode == 3) = true then (g.setV d g.sole.mask fun _ => v).markV d g.sole.mask 0
    else (g.setPred (d % 8) g.sole.mask v).markPred (d % 8) g.sole.mask 0) = h
  have hk : h.arm0 = g.arm0 ∧ h.arm1 = g.arm1 ∧ h.scal = g.scal := by
    rw [← hh]
    split
    · exact ⟨rfl, rfl, rfl⟩
    · have hp := Group.setPred_else g (d % 8) g.sole.mask v 0
      have h0 := congrArg Group.arm0 hp
      have h1 := congrArg Group.arm1 hp
      have hs := congrArg Group.scal hp
      exact ⟨h0, h1, hs⟩
  obtain ⟨h0, h1, hs⟩ := hk
  obtain ⟨-, hsole⟩ := Group.sole_of_arms h0 h1
  rw [Group.sole_setSole _ (advance_live _), hsole, Group.setArm_scal]
  exact ⟨rfl, hs⟩

theorem voted_vlane (g : Group) (mode d : Nat) (v : BitVec 32) (r l : Nat) : (g.voted mode d v).vlane r l =
    if mode = 3 ∧ r = d ∧ bit (g.sole.mask &&& g.present) l = true then v else g.vlane r l := by
  unfold Group.voted
  dsimp only
  rw [Group.vlane_setArm]
  by_cases hm : mode = 3
  · rw [if_pos (beq_iff_eq.mpr hm), Group.vlane_markV, Group.vlane_setV]
    exact if_congr (by simp [hm]) rfl rfl
  · rw [if_neg (mt beq_iff_eq.mp hm), if_neg fun h => hm h.1]
    have h := congrArg (fun g : Group => g.vlane r l) (Group.setPred_else g (d % 8) g.sole.mask v 0)
    exact h

theorem voted_pred (g : Group) (mode d : Nat) (v : BitVec 32) (q l : Nat) : bit ((g.voted mode d v).pred q) l =
    if mode ≠ 3 ∧ q = d % 8 ∧ d % 8 ≠ 0 ∧ bit g.sole.mask l = true then bit v l else bit (g.pred q) l := by
  unfold Group.voted
  dsimp only
  rw [Group.pred_setArm]
  by_cases hm : mode = 3
  · rw [if_pos (beq_iff_eq.mpr hm), if_neg fun h => h.1 hm]
    rfl
  · rw [if_neg (mt beq_iff_eq.mp hm), Group.pred_markPred, Group.pred_setPred]
    exact if_congr (by simp [hm]) rfl rfl

/-! ### The vote of a team (R216) -/

/-- The team lanes that an active group gives to a vote. -/
def Group.voters (g : Group) : BitVec 32 := g.sole.mask &&& g.teamLanes

/-- The lanes of a team, and those of them whose group's source predicate is set. -/
def State.voteTotal (u : State) (gs : List Nat) : Nat := (gs.map fun x => popcount (u.grp x).voters).sum
def State.voteCount (u : State) (asked : Nat → Nat × Nat × Nat) (gs : List Nat) : Nat :=
  (gs.map fun x => popcount ((u.grp x).voters &&& (u.grp x).pred (asked x).1)).sum

theorem foldl_count_eq_sum {α : Type} (f : α → Nat) (l : List α) : l.foldl (fun n a => n + f a) 0 = (l.map f).sum := by
  rw [List.sum_eq_foldl, List.foldl_map]

theorem tvoteGo_eq (u : State) (p m d : Nat) : let gs := u.groupsOf u.cg.tid u.cg.lid
    let asked := u.tvoteOf p m d
    u.tvoteGo p m d = u.eachGroup (fun x => x)
      (fun x g => g.voted (asked x).2.1 (asked x).2.2 (teamVote (asked x).2.1 (u.voteCount asked gs) (u.voteTotal gs))) gs := by
  intro gs asked
  rw [State.voteCount, State.voteTotal, ← foldl_count_eq_sum, ← foldl_count_eq_sum]
  rfl

theorem tvoteOf_eq {s u : State} (hgid : u.gid = s.gid) (p m d x : Nat) : u.tvoteOf p m d x =
    if x = s.gid then (p, m, d) else match (u.grp x).sole.park with | some (.tvote a b c) => (a, b, c) | _ => (p, m, d) := by
  unfold State.tvoteOf
  rw [hgid]
  by_cases hx : x = s.gid
  · rw [if_pos hx, if_pos (beq_iff_eq.mpr hx)]
  · exact (if_neg (mt beq_iff_eq.mp hx)).trans (if_neg hx).symm

/-- What the vote leaves in a group, R216. -/
theorem voted_spec (g : Group) (m d count total : Nat) (x : BitVec 16) : let h := { g.voted m d (teamVote m count total) with chkHomes := x }
    h.sole.clause = g.sole.advance.clause ∧ h.sole.pc = g.sole.advance.pc ∧ h.sole.park = none ∧ h.scal = g.scal ∧
    h.sole.mask = g.sole.mask ∧
    (m < 3 → d % 8 ≠ 0 → ∀ l, l < 32 → bit g.sole.mask l = true → bit (h.pred (d % 8)) l =
      (if m = 0 then count != 0 else if m = 1 then count == total else count == 0 || count == total)) ∧
    (m = 3 → ∀ l, bit (g.sole.mask &&& g.present) l = true → h.vlane d l = BitVec.ofNat 32 count) ∧
    (∀ r l, m ≠ 3 ∨ r ≠ d ∨ bit g.sole.mask l = false → h.vlane r l = g.vlane r l) ∧
    ∀ q l, m = 3 ∨ q ≠ d % 8 ∨ bit g.sole.mask l = false → bit (h.pred q) l = bit (g.pred q) l := by
  intro h
  obtain ⟨hsole, hscal⟩ := voted_place g m d (teamVote m count total)
  have hs : h.sole = g.sole.advance := hsole
  have hv : ∀ r l, h.vlane r l = _ := voted_vlane g m d (teamVote m count total)
  have hp : ∀ q l, bit (h.pred q) l = _ := voted_pred g m d (teamVote m count total)
  refine ⟨by rw [hs], by rw [hs], by rw [hs, advance_park], hscal, by rw [hs, (advance_mask_fmt _).1], fun hm hd l hl hb => ?_, fun hm l hb => ?_,
    fun r l hr => ?_, fun q l hq => ?_⟩
  · rw [hp, if_pos ⟨by omega, rfl, hd, hb⟩, bit_teamVote hm _ _ hl]
  · rw [hv, if_pos ⟨hm, rfl, hb⟩, hm]
    rfl
  · rw [hv, if_neg]
    rintro ⟨h3, hrd, hb⟩
    rw [bit_and, Bool.and_eq_true] at hb
    rcases hr with hr | hr | hr
    · exact hr h3
    · exact hr hrd
    · exact Bool.false_ne_true (hr.symm.trans hb.1)
  · rw [hp, if_neg]
    rintro ⟨h3, hqd, -, hb⟩
    rcases hq with hq | hq | hq
    · exact h3 hq
    · exact hq hqd
    · exact Bool.false_ne_true (hq.symm.trans hb)

section
variable {s : State} {f : VF} {p : BitVec 8}

theorem tvoteEff_eq (hw : (Instr.tvote f).wf = true) (hfa : f.a = .v p) (hc : s.cg.converged = true) (ha : Acts s f.g)
    (hp : Passes s f.g (if f.sub = 3 then [(f.d.toNat, 1)] else []) [.p p.toNat (s.active f.g)]) :
    let u := s.releasedUnless ((s.ca.park.map State.isTvote).getD false)
    s.tvoteEff f = if u.othersAt State.isTvote then .stay (u.tvoteGo p.toNat f.sub.toNat f.d.toNat)
      else .stay (u.park (.tvote p.toNat f.sub.toNat f.d.toNat)) := by
  obtain ⟨h8, hm⟩ := tvote_fields hw hfa
  unfold State.tvoteEff
  simp only [hfa, h8, tvote_regs hm]
  rw [State.guarded_passes _ hp fun _ => ha, collective_converged hc, Nat.mod_eq_of_lt hm]
  rfl

/-- A tvote that every group has issued gives each group its vote, and until then the groups wait. -/
theorem tvote_completes (hw : (Instr.tvote f).wf = true) (hfa : f.a = .v p) (hc : s.cg.converged = true) (ha : Acts s f.g)
    (hp : Passes s f.g (if f.sub = 3 then [(f.d.toNat, 1)] else []) [.p p.toNat (s.active f.g)]) :
    let u := s.releasedUnless ((s.ca.park.map State.isTvote).getD false)
    let gs := u.groupsOf s.cg.tid s.cg.lid
    let asked := u.tvoteOf p.toNat f.sub.toNat f.d.toNat
    ∃ t, exec (.tvote f) s = .next t ∧
      (u.othersAt State.isTvote = false → t.ca.park = some (.tvote p.toNat f.sub.toNat f.d.toNat) ∧ SameRegs s t) ∧
      (u.othersAt State.isTvote = true → gs.Nodup → s.gid ∈ gs → { t with groups := s.groups, checks := s.checks } = s ∧
        (∀ k, k ∉ gs → t.grp k = s.grp k) ∧ ∀ x ∈ gs, ∃ y, t.grp x =
          { (u.grp x).voted (asked x).2.1 (asked x).2.2 (teamVote (asked x).2.1 (u.voteCount asked gs) (u.voteTotal gs)) with chkHomes := y }) := by
  intro u gs asked
  have he := congrArg s.conclude (tvoteEff_eq hw hfa hc ha hp)
  change exec (.tvote f) s = s.conclude (if u.othersAt State.isTvote then .stay (u.tvoteGo p.toNat f.sub.toNat f.d.toNat)
      else .stay (u.park (.tvote p.toNat f.sub.toNat f.d.toNat))) at he
  obtain ⟨hs, hrest, hgrp⟩ := releasedUnless_frame s ((s.ca.park.map State.isTvote).getD false)
  have hlid : u.cg.lid = s.cg.lid := releasedUnless_lid ..
  cases ho : u.othersAt State.isTvote with
  | false =>
    rw [ho] at he
    exact ⟨_, he, fun _ => ⟨by rw [ca_park], sameRegs_trans hs.regs (park_stands u _).regs⟩, fun h => absurd h Bool.false_ne_true⟩
  | true =>
    rw [ho, if_pos rfl, tvoteGo_eq, hlid, hs.tid] at he
    refine ⟨_, he, fun h => absurd h.symm Bool.false_ne_true, fun _ hnd hin => ?_⟩
    obtain ⟨h1, h2, h3⟩ := eachGroup_spec (fun x => x) (fun x g => g.voted (asked x).2.1 (asked x).2.2
      (teamVote (asked x).2.1 (u.voteCount asked gs) (u.voteTotal gs))) gs u ((List.map_id' gs).symm ▸ hnd)
    rw [List.map_id'] at h2
    refine ⟨?_, fun k hk => (h2 k hk).trans (hgrp k fun h => hk (h ▸ hin)), h3⟩
    have h := congrArg (fun v : State => { v with groups := s.groups, checks := s.checks }) h1
    exact Eq.trans h hrest

end

end Sys2Proof.Machine
end

section
/-! tcall (R211-R214). -/

namespace Sys2Proof.Machine

open Sys2Proof.Safety

/-! ### Reads through the L1 -/

namespace State

variable (s : State)

@[simp] theorem l1Drop_beyondAccess (c k : Nat) : (s.l1Drop c k).beyondAccess = s.beyondAccess := rfl

@[simp] theorem l1Room_beyondAccess (c k : Nat) : (s.l1Room c k).beyondAccess = s.beyondAccess := by
  have hf := fun (u : State) v => foldl_beyondAccess (fun s j => s.l1Drop_beyondAccess c (v * 4 + j)) (List.range 4) u
  unfold l1Room
  dsimp only
  split
  · rfl
  · rw [bump_beyondAccess, hf, mergeUpd_beyondAccess]

theorem l1Read_beyondAccess (c x : Nat) (b : Bool) (sl k : Nat) (m : BitVec 64) : (s.l1Read c x b sl k m).1.beyondAccess = s.beyondAccess := by
  unfold l1Read
  dsimp only
  split
  · rfl
  · split
    · simp
    · simp

theorem readInject_beyondAccess (c x : Nat) (t : Tr) (n : Nat) : (s.readInject c x t n).beyondAccess = s.beyondAccess := by
  unfold readInject
  split
  · rfl
  · dsimp only
    generalize (if t.uncached then none else mget none (s.core c).l1 (t.pa / 64)) = own
    generalize (if t.uncached then none else s.l2sect (coreDie c) (t.pa / 64)) = below
    cases own with
    | some _ => exact injectAt_beyondAccess s _ _ _ _ _ _ fun _ _ => setCore_beyondAccess ..
    | none => exact dieInject_beyondAccess ..

theorem gread_beyondAccess (c x : Nat) (t : Tr) (n : Nat) : (s.gread c x t n).1.beyondAccess = s.beyondAccess := by
  have h := s.readInject_beyondAccess c x t n
  unfold gread
  dsimp only
  split
  · rw [bump_beyondAccess, holeLog_beyondAccess, h]
  · split
    · exact h
    · split
      · rw [homeTake_beyondAccess, h]
      · rw [l1Read_beyondAccess, h]

end State

/-- A table read changes what accesses change, and no more. -/
theorem tableOf_beyondAccess (s : State) (trs : List (Nat × Tr × TlbEntry)) : (tableOf s trs).1.beyondAccess = s.beyondAccess := by
  have hu : (used s .read trs).beyondAccess = s.beyondAccess := State.foldl_beyondAccess (fun s r => s.useEntry_beyondAccess ..) trs s
  unfold tableOf
  refine Eq.trans (foldl_keeps (p := fun acc : State × List Byte × Bool => acc.1.beyondAccess) (fun acc r => ?_) trs
    (used s .read trs, [], false)) hu
  exact acc.1.gread_beyondAccess ..

/-! ### The groups of a team in their order (R202) -/

theorem insertBy_perm (key : Nat → Nat) (a : Nat) (l : List Nat) : (insertBy key a l).Perm (a :: l) := by
  induction l with
  | nil => exact .refl _
  | cons b l ih =>
    unfold insertBy
    split
    · exact .refl _
    · exact (ih.cons b).trans (.swap ..)

theorem sortBy_perm (key : Nat → Nat) (l : List Nat) : (sortBy key l).Perm l := by
  induction l with
  | nil => exact .refl _
  | cons a l ih => exact (insertBy_perm key a _).trans (ih.cons a)

/-- The other groups of a team, where the own is one of them. -/
theorem others_length {l : List Nat} {a : Nat} (hnd : l.Nodup) (ha : a ∈ l) : (l.filter (· != a)).length + 1 = l.length := by
  have h := List.length_erase_of_mem ha
  have hpos := List.length_pos_of_mem ha
  rw [← hnd.erase_eq_filter, h]
  omega

/-! ### The levels of the strands (R213) -/

/-- Levels written one after another, each its own. -/
theorem setLevels_spec {α : Type} (tid : Nat) (f : α → Nat) (L : α → Level) (l : List α) : ∀ s : State, (∀ a ∈ l, ∀ b ∈ l, f a = f b → a = b) →
    let t := l.foldl (fun s a => s.setLevel tid (f a) (L a)) s
    (∀ k, k ∉ l.map f → t.level tid k = s.level tid k) ∧ ∀ a ∈ l, t.level tid (f a) = L a := by
  induction l with
  | nil => exact fun s _ => ⟨fun _ _ => rfl, fun a ha => absurd ha List.not_mem_nil⟩
  | cons a l ih =>
    intro s hinj
    obtain ⟨h1, h2⟩ := ih (s.setLevel tid (f a) (L a)) fun x hx y hy => hinj x (List.mem_cons_of_mem _ hx) y (List.mem_cons_of_mem _ hy)
    refine ⟨fun k hk => ?_, List.forall_mem_cons.mpr ⟨?_, h2⟩⟩
    · obtain ⟨hk0, hk⟩ := not_or.mp (mt List.mem_cons.mpr hk)
      exact (h1 k hk).trans ((level_setLevel ..).trans (if_neg fun h => hk0 h.2))
    · by_cases ha : f a ∈ l.map f
      · obtain ⟨b, hb, hba⟩ := List.mem_map.mp ha
        have he := hinj b (List.mem_cons_of_mem _ hb) a List.mem_cons_self hba
        exact he ▸ h2 b hb
      · exact (h1 _ ha).trans (level_setLevel_same ..)

/-! ### The deal (R212) -/

/-- The callees of nonzero weight. -/
def calleesOf (w : List Nat) : List Nat := (List.range w.length).filter fun i => w.getD i 0 != 0

theorem mem_calleesOf {w : List Nat} {i : Nat} : i ∈ calleesOf w ↔ i < w.length ∧ w.getD i 0 ≠ 0 := by
  simp [calleesOf]

theorem calleesOf_length (w : List Nat) : (calleesOf w).length = (w.filter (· != 0)).length := by
  have hw : w = (List.range w.length).map fun i => w.getD i 0 := by
    refine List.ext_getElem (by simp) fun i h _ => ?_
    rw [List.getElem_map, List.getElem_range, List.getD_eq_getElem _ _ h]
  conv_rhs => rw [hw]
  rw [List.filter_map, List.length_map]
  rfl

/-- A callee that the deal gives a group to has a weight. -/
theorem dealRanks_weight {w : List Nat} {n i : Nat} (h : i ∈ dealRanks (dealCounts w n)) : i ∈ calleesOf w := by
  have hlen : (dealCounts w n).length = w.length := by simp [dealCounts]
  obtain ⟨j, hj, hi⟩ := List.mem_flatMap.mp h
  obtain ⟨hpos, rfl⟩ := List.mem_replicate.mp hi
  have hlt : i < w.length := hlen ▸ List.mem_range.mp hj
  refine mem_calleesOf.mpr ⟨hlt, fun h0 => hpos ?_⟩
  have hw : w[i] = 0 := (List.getD_eq_getElem w 0 hlt).symm.trans h0
  simp [dealCounts, hlt, hw]

/-! ### The strands (R212-R214) -/

/-- A group whose arm starts at an address, in a strand. -/
def Group.startsAt (g : Group) (pc : Word) (lid : Nat) : Group :=
  { g.setArm g.soleSlot { g.sole with pc := pc, clause := none, xfer := g.sole.ipc, park := none, walkFaults := [], asks := none } with
    lid := lid, gang := 0 }

/-- The entry that the team-call leaves in its level. -/
def State.callEntry (x : State) (w : List Nat) : CallEntry :=
  ⟨x.hdr + BitVec.ofNat 64 (8 * (x.nwords + 1)), (calleesOf w).map fun i => x.uids + (calleesOf w).idxOf i, [],
    x.ranked.map fun g => ((x.grp g).uid, (x.grp g).sole.fmt, (x.grp g).gang)⟩

/-- The level of a callee's strand. -/
def State.strandLevel (x : State) (i : Nat) : Level :=
  { live := true, kind := .strand i, depth := (x.level x.cg.tid x.cg.lid).depth + 1, parent := x.cg.lid, recs := List.replicate 4 {} }

/-- The state with the levels of the strands. -/
def State.strandsMade (x : State) (w : List Nat) : State :=
  (calleesOf w).foldl (fun s i => s.setLevel x.cg.tid (x.uids + (calleesOf w).idxOf i) (x.strandLevel i))
    (({ x with uids := x.uids + (calleesOf w).length }).setLevel x.cg.tid x.cg.lid { x.level x.cg.tid x.cg.lid with call := some (x.callEntry w) })

theorem startStrands_eq (x : State) (w : List Nat) (entries : List Word) : x.startStrands w entries =
    (x.strandsMade w).eachGroup Prod.fst (fun p g => g.startsAt (entries.getD p.2 0) (x.uids + (calleesOf w).idxOf p.2))
      (x.ranked.zip (dealRanks (dealCounts w x.ranked.length))) := rfl

theorem strandsMade_spec {x : State} (w : List Nat) (hlid : x.cg.lid < x.uids) : let y := x.strandsMade w
    { y with teams := x.teams, uids := x.uids } = x ∧ (y.level x.cg.tid x.cg.lid).call = some (x.callEntry w) ∧
      ∀ i ∈ calleesOf w, y.level x.cg.tid (x.uids + (calleesOf w).idxOf i) = x.strandLevel i := by
  intro y
  have hinj : ∀ a ∈ calleesOf w, ∀ b ∈ calleesOf w, x.uids + (calleesOf w).idxOf a = x.uids + (calleesOf w).idxOf b → a = b :=
    fun a ha b _ h => (List.idxOf_inj ha).mp (Nat.add_left_cancel h)
  obtain ⟨h1, h2⟩ := setLevels_spec x.cg.tid (fun i => x.uids + (calleesOf w).idxOf i) x.strandLevel (calleesOf w)
    (({ x with uids := x.uids + (calleesOf w).length }).setLevel x.cg.tid x.cg.lid { x.level x.cg.tid x.cg.lid with call := some (x.callEntry w) }) hinj
  refine ⟨?_, ?_, h2⟩
  · refine foldl_keeps (p := fun s : State => { s with teams := x.teams, uids := x.uids }) (fun s i => ?_) (calleesOf w) _
    rfl
  · have hk : x.cg.lid ∉ (calleesOf w).map fun i => x.uids + (calleesOf w).idxOf i := fun h => by
      obtain ⟨i, -, hi⟩ := List.mem_map.mp h
      omega
    exact congrArg Level.call ((h1 _ hk).trans (level_setLevel_same ..))

/-- A group that starts at an address in a strand, with its registers. -/
def Started (g : Group) (pc : Word) (lid : Nat) (h : Group) : Prop :=
  h.lid = lid ∧ h.gang = 0 ∧ h.sole.pc = pc ∧ h.sole.clause = none ∧ h.sole.park = none ∧
    ((∀ r l, h.vlane r l = g.vlane r l) ∧ (∀ p, h.pred p = g.pred p) ∧ h.scal = g.scal ∧ h.sole.scal = g.sole.scal ∧ h.sole.mask = g.sole.mask)

theorem startsAt_started (g : Group) (pc : Word) (lid : Nat) (c : BitVec 16) : Started g pc lid { g.startsAt pc lid with chkHomes := c } := by
  have hs : ({ g.startsAt pc lid with chkHomes := c } : Group).sole =
      { g.sole with pc := pc, clause := none, xfer := g.sole.ipc, park := none, walkFaults := [], asks := none } :=
    g.sole_setSole (a := { g.sole with pc := pc, clause := none, xfer := g.sole.ipc, park := none, walkFaults := [], asks := none }) rfl
  exact ⟨rfl, rfl, by rw [hs], by rw [hs], by rw [hs], fun r l => Group.vlane_setArm .., fun p => Group.pred_setArm .., Group.setArm_scal ..,
    by rw [hs], by rw [hs]⟩

end Sys2Proof.Machine
end

section
/-! A team-call whose groups have all come (R211-R214). -/

namespace Sys2Proof.Machine

open Sys2Proof.Safety

/-- The weight and the entry of a callee in the bytes of a table, R211. -/
def tableWeights (bs : List Byte) : List Nat := (List.range 8).map fun i => (bs.getD (16 * i + 8) 0).toNat
def tableEntry (bs : List Byte) (i : Nat) : Word := BitVec.ofNat 64 (natOfBytes ((List.range 8).map fun k => bs.getD (16 * i + k) 0))

theorem tableEntries_getD (bs : List Byte) {i : Nat} (h : i < 8) : ((List.range 8).map (tableEntry bs)).getD i 0 = tableEntry bs i := by
  rw [List.getD_eq_getElem _ _ (by simpa using h), List.getElem_map, List.getElem_range]

section
variable {u : State} {addr : Word} {trs : List (Nat × Tr × TlbEntry)}

/-- What a team-call whose groups all name one aligned table, and whose translations pass, does with the table. -/
theorem tcallGo_eq (hall : ∀ g ∈ u.groupsOf u.cg.tid u.cg.lid, g ≠ u.gid → (u.grp g).sole.park = some (.tcall addr)) (hal : addr.toNat % 64 = 0)
    (hprobe : u.probe u.ccore u.cg.ctx (!u.ca.handler) .read [(0, addr), (0, addr + 64)] = .ok trs) :
    let x := (tableOf u trs).1
    let w := tableWeights (tableOf u trs).2.1
    let m := (w.filter (· != 0)).length
    u.tcallGo addr = if (tableOf u trs).2.2 then .stay (x.trapTeam (trapOf 51 addr 0))
      else if m == 0 || decide (((u.groupsOf u.cg.tid u.cg.lid).filter (· != u.gid)).length + 1 < m) then .stay (x.trapTeam (trapOf 31 addr 0))
      else if (x.level x.cg.tid x.cg.lid).depth == 8 then .stay (x.trapTeam (trapOf 30 0 8))
      else if x.freeRecs x.ccore < 4 * m then .stay (x.park (.tcall addr))
      else .stay (x.startStrands w ((List.range 8).map (tableEntry (tableOf u trs).2.1))) := by
  intro x w m
  have h1 : (((u.groupsOf u.cg.tid u.cg.lid).filter (· != u.gid)).any fun g => (u.grp g).sole.park != some (.tcall addr)) = false := by
    simp only [List.any_eq_false, List.mem_filter, bne_iff_ne, ne_eq, not_not, and_imp]
    exact hall
  have h2 : (addr.toNat % 64 != 0) = false := by rw [hal]; rfl
  unfold State.tcallGo
  dsimp only
  rw [h1, h2, hprobe]
  rfl

/-- The deal takes place where the table is clean, deals to no more callees than there are groups, and the levels find room. -/
theorem tcallGo_deals (hall : ∀ g ∈ u.groupsOf u.cg.tid u.cg.lid, g ≠ u.gid → (u.grp g).sole.park = some (.tcall addr)) (hal : addr.toNat % 64 = 0)
    (hprobe : u.probe u.ccore u.cg.ctx (!u.ca.handler) .read [(0, addr), (0, addr + 64)] = .ok trs) :
    let x := (tableOf u trs).1
    let w := tableWeights (tableOf u trs).2.1
    let m := (w.filter (· != 0)).length
    (tableOf u trs).2.2 = false → 0 < m → m ≤ x.ranked.length → x.ranked.Nodup → u.gid ∈ x.ranked →
    (x.level x.cg.tid x.cg.lid).depth ≠ 8 → 4 * m ≤ x.freeRecs x.ccore →
    u.tcallGo addr = .stay (x.startStrands w ((List.range 8).map (tableEntry (tableOf u trs).2.1))) := by
  intro x w m hp h0 hm hnd hin hd hr
  have hx := tableOf_beyondAccess u trs
  have hg : x.groups = u.groups := State.groups_of_beyondAccess hx
  have hcg : x.cg = u.cg := by rw [State.cg, State.gid, State.cur_of_beyondAccess hx]; exact grp_of_groups hg _
  have hperm : x.ranked.Perm (u.groupsOf u.cg.tid u.cg.lid) := by
    have h : x.groupsOf x.cg.tid x.cg.lid = u.groupsOf u.cg.tid u.cg.lid := by rw [State.groupsOf, hg, hcg]; rfl
    exact h ▸ sortBy_perm _ _
  have hlen := others_length (hperm.nodup_iff.mp hnd) (hperm.mem_iff.mp hin)
  have h1 : (m == 0 || decide (((u.groupsOf u.cg.tid u.cg.lid).filter (· != u.gid)).length + 1 < m)) = false := by
    rw [hlen, ← hperm.length_eq, Bool.or_eq_false_iff, beq_eq_false_iff_ne, decide_eq_false_iff_not]
    exact ⟨Nat.pos_iff_ne_zero.mp h0, Nat.not_lt.mpr hm⟩
  have h2 : ((x.level x.cg.tid x.cg.lid).depth == 8) = false := beq_eq_false_iff_ne.mpr hd
  rw [tcallGo_eq hall hal hprobe, hp]
  refine (if_neg Bool.false_ne_true).trans ((if_neg ?_).trans ((if_neg ?_).trans (if_neg (Nat.not_lt.mpr hr))))
  · rw [h1]
    exact Bool.false_ne_true
  · rw [h2]
    exact Bool.false_ne_true

end

/-- What the strands' start leaves: an entry in the level of the call, and each group that the deal gives to a callee in the callee's strand. -/
theorem startStrands_spec {x : State} {w : List Nat} (entries : List Word) (hlid : x.cg.lid < x.uids) (hnd : x.ranked.Nodup) :
    let t := x.startStrands w entries
    t.mem = x.mem ∧ (∀ k, k ∉ x.ranked → t.grp k = x.grp k) ∧ (t.level x.cg.tid x.cg.lid).call = some (x.callEntry w) ∧
    ∀ r g i : Nat, x.ranked[r]? = some g → (dealRanks (dealCounts w x.ranked.length))[r]? = some i → i ∈ calleesOf w ∧
      Started (x.grp g) (entries.getD i 0) (x.uids + (calleesOf w).idxOf i) (t.grp g) ∧
      t.level x.cg.tid (x.uids + (calleesOf w).idxOf i) = x.strandLevel i := by
  intro t
  obtain ⟨hrest, hcall, hlvl⟩ := strandsMade_spec w hlid
  have hfst : ((x.ranked.zip (dealRanks (dealCounts w x.ranked.length))).map Prod.fst).Sublist x.ranked := by
    rw [List.zip_eq_zip_take_min, List.map_fst_zip (by simp)]
    exact List.take_sublist ..
  obtain ⟨h1, h2, h3⟩ := eachGroup_spec Prod.fst (fun p g => g.startsAt (entries.getD p.2 0) (x.uids + (calleesOf w).idxOf p.2))
    (x.ranked.zip (dealRanks (dealCounts w x.ranked.length))) (x.strandsMade w) (hnd.sublist hfst)
  rw [← startStrands_eq] at h1 h2 h3
  have hgrp : ∀ k, (x.strandsMade w).grp k = x.grp k := fun k => grp_of_groups (by have h := congrArg State.groups hrest; exact h) k
  have hteams : t.teams = (x.strandsMade w).teams := by have h := congrArg State.teams h1; exact h
  refine ⟨?_, fun k hk => (h2 k fun h => hk (hfst.subset h)).trans (hgrp k), ?_, fun r g i hg hi => ?_⟩
  · have h := congrArg State.mem h1
    have h' := congrArg State.mem hrest
    exact Eq.trans h h'
  · rw [level_of_teams hteams]
    exact hcall
  · have hw := dealRanks_weight (List.mem_of_getElem? hi)
    obtain ⟨c, hc⟩ := h3 (g, i) (List.mem_of_getElem? (List.getElem?_zip_eq_some.mpr ⟨hg, hi⟩))
    refine ⟨hw, ?_, ?_⟩
    · rw [← hgrp g]
      exact hc ▸ startsAt_started ..
    · rw [level_of_teams hteams]
      exact hlvl i hw

end Sys2Proof.Machine
end

section
/-! tret (R215). -/

namespace Sys2Proof.Machine

open Sys2Proof.Safety

/-! ### The groups that come back -/

/-- What the entry saved of a group: its FMT and its gang. -/
def CallEntry.savedOf (e : CallEntry) (uid : Nat) : Option (BitVec 32 × BitVec 32) := (e.saved.find? fun x => x.1 == uid).map (·.2)

/-- The arm of a group that goes on in the parent level, at the entry's address and with the FMT saved. -/
def Group.resumedArm (g : Group) (e : CallEntry) : Arm :=
  { g.sole with park := none, walkFaults := [], asks := none, clause := none, pc := e.resume, xfer := g.sole.ipc,
                fmt := ((e.savedOf g.uid).map (·.1)).getD g.sole.fmt }

/-- Such a group, with the gang saved. -/
def Group.resumed (g : Group) (lid : Nat) (e : CallEntry) : Group :=
  { g.setArm g.soleSlot (g.resumedArm e) with lid := lid, gang := ((e.savedOf g.uid).map (·.2)).getD g.gang }

/-- What a group keeps that goes on in the parent level. -/
structure Keeps (g h : Group) : Prop where
  uid : h.uid = g.uid
  tid : h.tid = g.tid
  chunks : h.chunks = g.chunks
  vals : (∀ r l, h.vlane r l = g.vlane r l) ∧ (∀ p, h.pred p = g.pred p) ∧ h.scal = g.scal ∧ h.sole.scal = g.sole.scal ∧ h.sole.mask = g.sole.mask

theorem Keeps.refl (g : Group) : Keeps g g := ⟨rfl, rfl, rfl, fun _ _ => rfl, fun _ => rfl, rfl, rfl, rfl⟩

theorem Keeps.trans {g h k : Group} (h1 : Keeps g h) (h2 : Keeps h k) : Keeps g k := by
  obtain ⟨v1, p1, s1, a1, m1⟩ := h1.vals
  obtain ⟨v2, p2, s2, a2, m2⟩ := h2.vals
  exact ⟨h2.uid.trans h1.uid, h2.tid.trans h1.tid, h2.chunks.trans h1.chunks, fun r l => (v2 r l).trans (v1 r l), fun p => (p2 p).trans (p1 p),
    s2.trans s1, a2.trans a1, m2.trans m1⟩

/-- Where such a group stands: in the level, at the entry's address, with the FMT and the gang that the entry holds for it. -/
def Back (lid : Nat) (e : CallEntry) (h : Group) : Prop :=
  h.lid = lid ∧ h.sole.pc = e.resume ∧ h.sole.clause = none ∧ h.sole.park = none ∧
    ∀ y, e.saved.find? (fun y => y.1 == h.uid) = some y → h.sole.fmt = y.2.1 ∧ h.gang = y.2.2

theorem resumed_spec (g : Group) (lid : Nat) (e : CallEntry) : Keeps g (g.resumed lid e) ∧ Back lid e (g.resumed lid e) := by
  have hs : (g.resumed lid e).sole = g.resumedArm e := g.sole_setSole (a := g.resumedArm e) rfl
  have huid : (g.resumed lid e).uid = g.uid := Group.setArm_uid ..
  refine ⟨⟨huid, Group.setArm_tid .., Group.setArm_chunks .., fun r l => Group.vlane_setArm .., fun p => Group.pred_setArm .., Group.setArm_scal ..,
    by rw [hs]; rfl, by rw [hs]; rfl⟩, rfl, by rw [hs]; rfl, by rw [hs]; rfl, by rw [hs]; rfl, fun y hy => ?_⟩
  have hsv : e.savedOf g.uid = some y.2 := by
    rw [← huid, CallEntry.savedOf, hy]
    rfl
  have hfmt : (g.resumedArm e).fmt = ((e.savedOf g.uid).map (·.1)).getD g.sole.fmt := rfl
  have hgang : (g.resumed lid e).gang = ((e.savedOf g.uid).map (·.2)).getD g.gang := rfl
  rw [hs, hfmt, hgang, hsv]
  exact ⟨rfl, rfl⟩

/-- Groups that come back one after another, some more than once. -/
theorem resumeAll_spec (lid : Nat) (e : CallEntry) (l : List Nat) : ∀ s : State,
    let t := l.foldl (fun s k => s.setGrp k ((s.grp k).resumed lid e)) s
    { t with groups := s.groups } = s ∧ ∀ k, Keeps (s.grp k) (t.grp k) ∧ (k ∈ l ∨ Back lid e (s.grp k) → Back lid e (t.grp k)) := by
  induction l with
  | nil => exact fun s => ⟨rfl, fun k => ⟨.refl _, fun h => h.resolve_left List.not_mem_nil⟩⟩
  | cons a l ih =>
    intro s
    obtain ⟨h1, h2⟩ := ih (s.setGrp a ((s.grp a).resumed lid e))
    refine ⟨?_, fun k => ?_⟩
    · have h := congrArg (fun v : State => { v with groups := s.groups }) h1
      exact h
    · obtain ⟨hk, hb⟩ := h2 k
      obtain ⟨hkeep, hback⟩ := resumed_spec (s.grp a) lid e
      rw [State.grp_setGrp] at hk hb
      by_cases ha : k = a
      · subst ha
        rw [if_pos rfl] at hk hb
        exact ⟨hkeep.trans hk, fun _ => hb (.inr hback)⟩
      · rw [if_neg ha] at hk hb
        refine ⟨hk, fun h => hb (h.imp_left fun hm => ?_)⟩
        exact (List.mem_cons.mp hm).resolve_left ha

/-! ### The levels of the call -/

/-- What a change of levels keeps: the rest of the state, and of each team all but its levels. -/
def LevelsOnly (s t : State) : Prop := { t with teams := s.teams } = s ∧ ∀ k, (t.team k).skeinFree = (s.team k).skeinFree

theorem LevelsOnly.trans {s t u : State} (h1 : LevelsOnly s t) (h2 : LevelsOnly t u) : LevelsOnly s u := by
  refine ⟨?_, fun k => (h2.2 k).trans (h1.2 k)⟩
  have h := congrArg (fun v : State => { v with teams := s.teams }) h2.1
  exact Eq.trans h h1.1

theorem levelsOnly_setLevel (s : State) (tid lid : Nat) (l : Level) : LevelsOnly s (s.setLevel tid lid l) := by
  refine ⟨rfl, fun k => ?_⟩
  unfold State.setLevel
  rw [State.team_setTeam]
  split
  · next h => rw [h]; rfl
  · rfl

theorem levelsOnly_dropLevels (tid : Nat) (lids : List Nat) : ∀ s : State, LevelsOnly s (s.dropLevels tid lids) := by
  induction lids with
  | nil => exact fun s => ⟨rfl, fun _ => rfl⟩
  | cons l ls ih => exact fun s => (levelsOnly_setLevel s tid l {}).trans (ih _)

theorem levelsOnly_checkLevel (s : State) (tid lid : Nat) : LevelsOnly s (s.checkLevel tid lid) := levelsOnly_setLevel ..

/-- What the parent level's resumption leaves, R215. -/
theorem resumeParent_spec (v : State) (tid lid : Nat) (e : CallEntry) : let t := v.resumeParent tid lid e
    { t with groups := v.groups, teams := v.teams } = v ∧ (∀ k, (t.team k).skeinFree = (v.team k).skeinFree) ∧ (t.level tid lid).call = none ∧
    ∀ k, Keeps (v.grp k) (t.grp k) ∧ (k ∈ e.returned.filterMap v.findUid → Back lid e (t.grp k)) := by
  intro t
  obtain ⟨h1, h2⟩ := resumeAll_spec lid e (e.returned.filterMap v.findUid) v
  generalize hw : (e.returned.filterMap v.findUid).foldl (fun s k => s.setGrp k ((s.grp k).resumed lid e)) v = w at h1 h2
  have ht : t = ((w.dropLevels tid e.strands).setLevel tid lid { (w.dropLevels tid e.strands).level tid lid with call := none }).checkLevel tid lid := by
    rw [← hw]
    rfl
  have hl := (levelsOnly_dropLevels tid e.strands w).trans ((levelsOnly_setLevel (w.dropLevels tid e.strands) tid lid
    { (w.dropLevels tid e.strands).level tid lid with call := none }).trans (levelsOnly_checkLevel _ tid lid))
  have hcall : (t.level tid lid).call = none := by
    rw [ht]
    unfold State.checkLevel
    rw [level_setLevel_same, level_setLevel_same]
  rw [← ht] at hl
  obtain ⟨hrest, hfree⟩ := hl
  have hgrp : ∀ k, t.grp k = w.grp k := fun k => grp_of_groups (by have h := congrArg State.groups hrest; exact h) k
  have hteam : ∀ k, w.team k = v.team k := team_of_teams (by have h := congrArg State.teams h1; exact h)
  refine ⟨?_, fun k => (hfree k).trans (by rw [hteam]), hcall, fun k => ?_⟩
  · have h := congrArg (fun x : State => { x with groups := v.groups, teams := v.teams }) hrest
    have h' := congrArg (fun x : State => { x with teams := v.teams }) h1
    exact Eq.trans h h'
  · rw [hgrp]
    exact ⟨(h2 k).1, fun h => (h2 k).2 (.inl h)⟩

end Sys2Proof.Machine
end

section
/-! A group's return behind its release (R215). -/

namespace Sys2Proof.Machine

open Sys2Proof.Safety

section
variable {s : State}

/-! ### tret (R215) -/

/-- The state in which a returning group has given back its chunks. -/
def State.gaveBack (s : State) (n : Nat) : State := if n = 0 then s else s.giveChunks n

theorem gaveBack_spec (hq : s.cteam.skeinQ = []) (n : Nat) : let w := s.gaveBack n
    Local s w ∧ w.cg = { s.cg with chunks := s.cg.chunks - n } ∧ (∀ k l, w.level k l = s.level k l) ∧
      (w.team s.cg.tid).skeinFree = s.cteam.skeinFree + n := by
  intro w
  by_cases hn : n = 0
  · have hw : w = s := if_pos hn
    rw [hw, hn]
    exact ⟨.refl s, rfl, fun _ _ => rfl, rfl⟩
  · have hw : w = s.giveChunks n := if_neg hn
    rw [hw, giveChunks_eq hq]
    refine ⟨(Local.setG s _).trans (.setTeam _ _ _), s.cg_modG fun g => { g with chunks := g.chunks - n }, fun k l => ?_, ?_⟩
    · unfold State.level
      rw [State.team_setTeam]
      split
      · next h => rw [h]; rfl
      · rfl
    · rw [State.team_setTeam_same]

/-- The state in which a group that returns waits for the others, with the parent level's entry `e` naming it. -/
def State.returned (s : State) (n l : Nat) (e : CallEntry) : State :=
  let u := (s.gaveBack n).releaseAct 4
  (u.setLevel s.cg.tid l { u.level s.cg.tid l with call := some e }).park .tret

theorem returned_spec (hq : s.cteam.skeinQ = []) (n l : Nat) (e : CallEntry) : let v := s.returned n l e
    Stands s v ∧ Local s v ∧ v.cg.lid = s.cg.lid ∧ v.cg.chunks = s.cg.chunks - n ∧ v.ca.park = some .tret ∧
      (v.team s.cg.tid).skeinFree = s.cteam.skeinFree + n ∧ (v.level s.cg.tid l).call = some e ∧
      ∀ k, (v.level s.cg.tid k).parent = (s.level s.cg.tid k).parent := by
  intro v
  obtain ⟨hl1, hg1, hlvl1, hfree1⟩ := gaveBack_spec hq n
  obtain ⟨-, hs1⟩ := stands_of_counts (j := s.cg.joins) (v := s.cg.gang) hl1.cur hg1
  have hs2 := ((s.gaveBack n).releaseAct_frame 4).1
  have hl2 := (s.gaveBack n).releaseAct_local (sc := 4) (by decide)
  have ht2 := (s.gaveBack n).releaseAct_teams (sc := 4) (by decide)
  obtain ⟨x, hg2⟩ := (s.gaveBack n).cg_releaseAct (sc := 4) (by decide)
  have hv : v = (((s.gaveBack n).releaseAct 4).setLevel s.cg.tid l { ((s.gaveBack n).releaseAct 4).level s.cg.tid l with call := some e }).park .tret := rfl
  generalize s.gaveBack n = w at *
  generalize hu : w.releaseAct 4 = u at *
  have hlvl : ∀ k, u.level s.cg.tid k = s.level s.cg.tid k := fun k => (level_of_teams ht2 _ _).trans (hlvl1 _ _)
  generalize hy : u.setLevel s.cg.tid l { u.level s.cg.tid l with call := some e } = y at *
  have hly : Local u y := hy ▸ .setTeam u _ _
  have hgy : y.cg = u.cg := by rw [← hy]; rfl
  have hsy : Stands u y := hy ▸ .of_groups rfl rfl
  have hylvl : ∀ k, y.level s.cg.tid k = if k = l then { u.level s.cg.tid l with call := some e } else u.level s.cg.tid k := fun k => by
    rw [← hy, level_setLevel]
    exact if_congr (and_iff_right rfl) rfl rfl
  have hyfree : (y.team s.cg.tid).skeinFree = s.cteam.skeinFree + n := by
    have h := (levelsOnly_setLevel u s.cg.tid l { u.level s.cg.tid l with call := some e }).2 s.cg.tid
    rw [hy] at h
    rw [h, team_of_teams ht2]
    exact hfree1
  obtain ⟨q, hq⟩ := cg_park y .tret
  have hvt : ∀ k, v.level s.cg.tid k = y.level s.cg.tid k := fun k => by rw [hv]; rfl
  refine ⟨hv ▸ (hs1.trans hs2).trans (hsy.trans (park_stands y _)), hv ▸ (hl1.trans hl2).trans (hly.trans (.park y _)), ?_, ?_, ?_, ?_, ?_, fun k => ?_⟩
  · rw [hv, lid_park, hgy, hg2, State.acked_lid, hg1]
  · rw [hv, hq, hgy, hg2]
    have h : (w.acked x).chunks = w.cg.chunks := Group.setArm_chunks ..
    simp [h, hg1]
  · rw [hv, ca_park]
  · rw [hv]
    exact hyfree
  · rw [hvt, hylvl, if_pos rfl]
  · rw [hvt, hylvl, ← hlvl k]
    split
    · next h => rw [h]
    · rfl

theorem rejoin_eq {v : State} {tid l : Nat} {e : CallEntry} (htid : v.cg.tid = tid) (hparent : (v.level tid v.cg.lid).parent = l)
    (hcall : (v.level tid l).call = some e) : v.rejoin = if v.strandsDone tid e then v.resumeParent tid l e else v := by
  subst htid hparent
  unfold State.rejoin
  dsimp only
  rw [hcall]

/-- The parent level goes on when every strand is done, and elsewhere the group waits, R215. -/
theorem rejoin_spec {v : State} {tid l : Nat} {e : CallEntry} (htid : v.cg.tid = tid) (hparent : (v.level tid v.cg.lid).parent = l)
    (hcall : (v.level tid l).call = some e) : let t := v.rejoin
    t.mem = v.mem ∧ Keeps v.cg t.cg ∧ (∀ k, (t.team k).skeinFree = (v.team k).skeinFree) ∧ (v.strandsDone tid e = false → t = v) ∧
      (v.strandsDone tid e = true → (t.level tid l).call = none ∧ ∀ uid ∈ e.returned, ∀ g, v.findUid uid = some g →
        Keeps (v.grp g) (t.grp g) ∧ Back l e (t.grp g)) := by
  intro t
  have ht : t = if v.strandsDone tid e then v.resumeParent tid l e else v := rejoin_eq htid hparent hcall
  cases hd : v.strandsDone tid e with
  | false =>
    rw [hd, if_neg Bool.false_ne_true] at ht
    rw [ht]
    exact ⟨rfl, .refl _, fun _ => rfl, fun _ => rfl, fun h => absurd h Bool.false_ne_true⟩
  | true =>
    rw [hd, if_pos rfl] at ht
    obtain ⟨hrest, hskein, hnone, hback⟩ := resumeParent_spec v tid l e
    rw [← ht] at hrest hskein hnone hback
    have hgid : t.gid = v.gid := by have h := congrArg State.gid hrest; exact h
    refine ⟨?_, ?_, hskein, fun h => absurd h.symm Bool.false_ne_true, fun _ => ⟨hnone, fun uid hu g hg => ?_⟩⟩
    · have h := congrArg State.mem hrest
      exact h
    · rw [State.cg, State.cg, hgid]
      exact (hback v.gid).1
    · exact ⟨(hback g).1, (hback g).2 (List.mem_filterMap.mpr ⟨uid, hu, hg⟩)⟩

theorem tretEff_eq {f : SF} {callee : Nat} {e : CallEntry} (hc : s.cg.converged = true) (hk : s.ca.park ≠ some .tret)
    (hkind : (s.level s.cg.tid s.cg.lid).kind = .strand callee) (hcall : (s.level s.cg.tid (s.level s.cg.tid s.cg.lid).parent).call = some e)
    (hn : f.imm.toNat ≤ s.cg.chunks) (hp : f.imm.toNat = 0 ∨ s.topPending f.imm.toNat = false) (hq : s.cteam.skeinQ = []) :
    s.tretEff f = .stay (s.returned f.imm.toNat (s.level s.cg.tid s.cg.lid).parent { e with returned := e.returned ++ [s.cg.uid] }).rejoin := by
  obtain ⟨hl1, hg1, hlvl1, -⟩ := gaveBack_spec hq f.imm.toNat
  have ht2 := (s.gaveBack f.imm.toNat).releaseAct_teams (sc := 4) (by decide)
  obtain ⟨x, hg2⟩ := (s.gaveBack f.imm.toNat).cg_releaseAct (sc := 4) (by decide)
  have huid : ((s.gaveBack f.imm.toNat).releaseAct 4).cg.uid = s.cg.uid := by
    rw [hg2]
    exact (Group.setArm_uid ..).trans (by rw [hg1])
  have hcall' : (((s.gaveBack f.imm.toNat).releaseAct 4).level s.cg.tid (s.level s.cg.tid s.cg.lid).parent).call = some e := by
    rw [level_of_teams ht2, hlvl1, hcall]
  have htid : ((s.gaveBack f.imm.toNat).releaseAct 4).cg.tid = s.cg.tid := by rw [hg2, State.acked_tid, hg1]
  have hgb : (if f.imm.toNat == 0 then s else s.giveChunks f.imm.toNat) = s.gaveBack f.imm.toNat := if_congr beq_iff_eq rfl rfl
  have hpend : (f.imm.toNat != 0 && s.topPending f.imm.toNat) = false := by
    rcases hp with h | h
    · rw [h]
      rfl
    · rw [h, Bool.and_false]
  unfold State.tretEff
  rw [collective_converged hc]
  split
  · next h => exact absurd h hk
  · dsimp only
    rw [hkind]
    dsimp only
    rw [if_neg (Nat.not_lt.mpr hn), hpend, if_neg Bool.false_ne_true, hgb]
    rw [htid, huid, hcall']
    rfl

theorem tret_completes {f : SF} {callee : Nat} {e : CallEntry} (hc : s.cg.converged = true) (hk : s.ca.park ≠ some .tret)
    (hkind : (s.level s.cg.tid s.cg.lid).kind = .strand callee) (hcall : (s.level s.cg.tid (s.level s.cg.tid s.cg.lid).parent).call = some e)
    (hn : f.imm.toNat ≤ s.cg.chunks) (hp : f.imm.toNat = 0 ∨ s.topPending f.imm.toNat = false) (hq : s.cteam.skeinQ = []) :
    let n := f.imm.toNat
    let l := (s.level s.cg.tid s.cg.lid).parent
    let e' := { e with returned := e.returned ++ [s.cg.uid] }
    let v := s.returned n l e'
    ∃ t, exec (.tret f) s = .next t ∧ t.mem = s.mem ∧ t.cg.chunks = s.cg.chunks - n ∧ t.cteam.skeinFree = s.cteam.skeinFree + n ∧
      (v.strandsDone s.cg.tid e' = false → t.ca.park = some .tret ∧ (t.level s.cg.tid l).call = some e' ∧ SameRegs s t ∧
        ∀ k, k ≠ s.gid → t.grp k = s.grp k) ∧
      (v.strandsDone s.cg.tid e' = true → (t.level s.cg.tid l).call = none ∧ ∀ uid ∈ e'.returned, ∀ g, v.findUid uid = some g →
        Keeps (v.grp g) (t.grp g) ∧ Back l e' (t.grp g)) := by
  intro n l e' v
  have he := congrArg s.conclude (tretEff_eq hc hk hkind hcall hn hp hq)
  obtain ⟨hs, hlocal, hlid, hchunks, hpark, hfree, hvcall, hparent⟩ := returned_spec hq n l e'
  obtain ⟨hmem, hkeep, hskein, hwait, hdone⟩ := rejoin_spec hs.tid (hlid.symm ▸ hparent s.cg.lid) hvcall
  refine ⟨v.rejoin, he, hmem.trans hlocal.mem, hkeep.chunks.trans hchunks, ?_, fun hd => ?_, hdone⟩
  · unfold State.cteam
    rw [hkeep.tid, hs.tid, hskein]
    exact hfree
  · rw [hwait hd]
    exact ⟨hpark, hvcall, hs.regs, hlocal.grp⟩

end

end Sys2Proof.Machine
end

section
/-! A team-call behind its release (R211-R214), and the family's statement of team-calls (R210-R216). -/

namespace Sys2Proof.Machine

open Sys2Proof.Safety

section
variable {s : State} {f : SF}

/-! ### tcall (R211-R214) -/

theorem tcallEff_eq (hc : s.cg.converged = true) (ha : Acts s f.g) (hp : Passes s f.g [] [.s f.a.toNat]) :
    let u := s.releasedUnless ((s.ca.park.map State.isTcall).getD false)
    s.tcallEff f = if u.othersAt State.isTcall then u.tcallGo (s.sreg f.a.toNat) else .stay (u.park (.tcall (s.sreg f.a.toNat))) := by
  unfold State.tcallEff
  rw [State.guarded_passes _ hp fun _ => ha, collective_converged hc]
  rfl

/-- A group that comes to tcall before the others waits. -/
theorem tcall_waits (hc : s.cg.converged = true) (ha : Acts s f.g) (hp : Passes s f.g [] [.s f.a.toNat]) :
    let u := s.releasedUnless ((s.ca.park.map State.isTcall).getD false)
    u.othersAt State.isTcall = false → ∃ t, exec (.tcall f) s = .next t ∧ t.ca.park = some (.tcall (s.sreg f.a.toNat)) ∧ SameRegs s t := by
  intro u ho
  obtain ⟨hs, -, -⟩ := releasedUnless_frame s ((s.ca.park.map State.isTcall).getD false)
  have he := congrArg s.conclude (tcallEff_eq hc ha hp)
  change exec (.tcall f) s = s.conclude (if u.othersAt State.isTcall then _ else _) at he
  rw [ho] at he
  exact ⟨_, he, by rw [ca_park], sameRegs_trans hs.regs (park_stands u _).regs⟩

/-- The table is read in the place and the team of the group that issues last. -/
theorem tableOf_place {u : State} (hs : Stands s u) (hlid : u.cg.lid = s.cg.lid) (huids : u.uids = s.uids) (trs : List (Nat × Tr × TlbEntry)) :
    let x := (tableOf u trs).1
    x.groups = u.groups ∧ x.cg.tid = s.cg.tid ∧ x.cg.lid = s.cg.lid ∧ x.uids = s.uids ∧ x.hdr = s.hdr ∧ x.nwords = s.nwords := by
  intro x
  have hx := tableOf_beyondAccess u trs
  have hg : x.groups = u.groups := State.groups_of_beyondAccess hx
  have hcur : x.cur = u.cur := State.cur_of_beyondAccess hx
  have hcg : x.cg = u.cg := by rw [State.cg, State.gid, hcur]; exact grp_of_groups hg _
  have hsx : Stands s x := hs.trans (.of_groups hcur hg)
  have hu : x.uids = u.uids := by have h := congrArg State.uids hx; exact h
  refine ⟨hg, hsx.tid, by rw [hcg, hlid], hu.trans huids, hdr_of_stands hsx, ?_⟩
  unfold State.nwords
  rw [hsx.clause]

/-- A team-call whose groups have all come starts its strands. -/
theorem tcall_deals {trs : List (Nat × Tr × TlbEntry)} (hc : s.cg.converged = true) (ha : Acts s f.g) (hp : Passes s f.g [] [.s f.a.toNat]) (hl : s.cg.lid < s.uids) :
    let u := s.releasedUnless ((s.ca.park.map State.isTcall).getD false)
    let addr := s.sreg f.a.toNat
    u.othersAt State.isTcall = true → (∀ g ∈ u.groupsOf u.cg.tid u.cg.lid, g ≠ u.gid → (u.grp g).sole.park = some (.tcall addr)) →
    addr.toNat % 64 = 0 → u.probe u.ccore u.cg.ctx (!u.ca.handler) .read [(0, addr), (0, addr + 64)] = .ok trs →
    let x := (tableOf u trs).1
    let bs := (tableOf u trs).2.1
    let w := tableWeights bs
    let m := (w.filter (· != 0)).length
    let gs := x.ranked
    (tableOf u trs).2.2 = false → 0 < m → m ≤ gs.length → gs.Nodup → s.gid ∈ gs →
    (x.level s.cg.tid s.cg.lid).depth ≠ 8 → 4 * m ≤ x.freeRecs x.ccore →
    let e := x.callEntry w
    ∃ t, exec (.tcall f) s = .next t ∧ t.mem = x.mem ∧ (∀ k, k ∉ gs → t.grp k = s.grp k) ∧
      (t.level s.cg.tid s.cg.lid).call = some e ∧ e.resume = s.hdr + BitVec.ofNat 64 (8 * (s.nwords + 1)) ∧ e.strands.length = m ∧
      ∀ r g i : Nat, gs[r]? = some g → (dealRanks (dealCounts w gs.length))[r]? = some i → i ∈ calleesOf w ∧
        Started (x.grp g) (tableEntry bs i) (x.uids + (calleesOf w).idxOf i) (t.grp g) ∧
        t.level s.cg.tid (x.uids + (calleesOf w).idxOf i) =
          { live := true, kind := .strand i, depth := (x.level s.cg.tid s.cg.lid).depth + 1, parent := s.cg.lid, recs := List.replicate 4 {} } := by
  intro u addr ho hall hal hprobe x bs w m gs hpois h0 hm hnd hin hd hr e
  obtain ⟨hs, hrest, hgrp⟩ := releasedUnless_frame s ((s.ca.park.map State.isTcall).getD false)
  have hul : u.cg.lid = s.cg.lid := releasedUnless_lid ..
  have huu : u.uids = s.uids := by have h := congrArg State.uids hrest; exact h
  have hugid : u.gid = s.gid := by have h := congrArg State.gid hrest; exact h
  obtain ⟨hxg, htid, hlid, huids, hhdr, hnw⟩ := tableOf_place hs hul huu trs
  have he := congrArg s.conclude (tcallEff_eq hc ha hp)
  change exec (.tcall f) s = s.conclude (if u.othersAt State.isTcall then _ else _) at he
  have hgo := tcallGo_deals hall hal hprobe hpois h0 hm hnd (hugid ▸ hin) (by rw [htid, hlid]; exact hd) hr
  rw [ho, if_pos rfl, hgo] at he
  obtain ⟨hmem, hother, hcall, hdeal⟩ := startStrands_spec (w := w) ((List.range 8).map (tableEntry bs)) (by rw [hlid, huids]; exact hl) hnd
  rw [htid] at hcall hdeal
  rw [hlid] at hcall
  refine ⟨_, he, hmem, fun k hk => ?_, hcall, ?_, ?_, fun r g i hg hi => ?_⟩
  · exact (hother k hk).trans ((grp_of_groups hxg k).trans (hgrp k fun h => hk (h ▸ hin)))
  · rw [← hhdr, ← hnw]
    rfl
  · exact (List.length_map ..).trans (calleesOf_length w)
  · obtain ⟨hw, hg, hlvl⟩ := hdeal r g i hg hi
    have h8 : i < 8 := by simpa [w, tableWeights] using (mem_calleesOf.mp hw).1
    rw [tableEntries_getD bs h8] at hg
    refine ⟨hw, hg, hlvl.trans ?_⟩
    rw [State.strandLevel, htid, hlid]

end

/-- Settles O34: each of the four behind its release: the arrival of the team at its panel's record, the vote of every group, the deal of the
table to the groups in their order, and the groups that come back where every strand is done. -/
theorem teamCallsComplete : Obligations.TeamCallsComplete := by
  unfold Obligations.TeamCallsComplete
  refine ⟨fun s f hc hd hk hr => pbar_arrives f hc hd hk hr, fun s f g hc hk hg => pbar_passes f hc hk hg, fun s f p hw hfa hc ha hp => ?tvote,
    fun s f trs hc ha hp hl => ⟨tcall_waits hc ha hp, ?tcall⟩, fun s f callee e hc hk hkind => ?tret⟩
  case tvote =>
    obtain ⟨t, he, hwait, hvote⟩ := tvote_completes hw hfa hc ha hp
    refine ⟨t, he, hwait, fun ho hnd hin => ?_⟩
    obtain ⟨hrest, hother, hgs⟩ := hvote ho hnd hin
    refine ⟨hrest, hother, fun x hx => ?_⟩
    obtain ⟨y, hy⟩ := hgs x hx
    obtain ⟨-, hr, -⟩ := releasedUnless_frame s ((s.ca.park.map State.isTvote).getD false)
    have hgid : (s.releasedUnless ((s.ca.park.map State.isTvote).getD false)).gid = s.gid := by have h := congrArg State.gid hr; exact h
    rw [funext (tvoteOf_eq hgid p.toNat f.sub.toNat f.d.toNat)] at hy
    rw [hy]
    exact voted_spec _ _ _ _ _ y
  case tcall =>
    intro ho hall hal hprobe x bs w entry m gs hpois h0 hm hnd hin hd hr
    obtain ⟨t, he, hmem, hother, hcall, hres, hlen, hdeal⟩ := tcall_deals hc ha hp hl ho hall hal hprobe hpois h0 hm hnd hin hd hr
    refine ⟨t, _, he, hmem, hother, hcall, hres, rfl, hlen, fun g hg => List.mem_map.mpr ⟨g, hg, rfl⟩, fun r g i hg hi => ?_⟩
    obtain ⟨hw, ⟨hlid, hgang, hpc, hcl, hpk, hvals⟩, hlvl⟩ := hdeal r g i hg hi
    refine ⟨(mem_calleesOf.mp hw).2, ?_, hvals, hgang, hpc, hcl, hpk, ?_⟩
    · rw [hlid]
      exact List.mem_map.mpr ⟨i, hw, rfl⟩
    · rw [hlid, hlvl]
      exact ⟨rfl, rfl, rfl, rfl, rfl⟩
  case tret =>
    intro l hcall n hn hp hq u e' v
    obtain ⟨t, he, hmem, hch, hfree, hwait, hdone⟩ := tret_completes hc hk hkind hcall hn hp hq
    refine ⟨t, he, hmem, hch, hfree, hwait, fun hd => ?_⟩
    obtain ⟨hnone, hback⟩ := hdone hd
    refine ⟨hnone, fun uid hu g hg => ?_⟩
    obtain ⟨hkeep, hlid, hpc, hcl, hpk, hsv⟩ := hback uid hu g hg
    exact ⟨hlid, hkeep.vals, hpc, hcl, hpk, fun y hy => hsv y (by rw [hkeep.uid]; exact hy)⟩

end Sys2Proof.Machine
end

section
/-! Loads of two lines at memory-side caches that hold lines outside their sets (R241, R296-R299, R304). -/

namespace Sys2Proof.Machine

open Sys2Proof.Safety

/-- A load of lanes 0 and 1, from lines 16 and 17. -/
def twoLines : MF := { g := ⟨false, 0⟩, t := 8, base := 5, off := 1, sc := .none, ord := .rlx, sz := .b32, disp := 0 }

/-- What each lane's address is translated to: its line, on a page that is cached in no die. -/
def lineTr (chk : Bool) (l : Nat) : Tr := ⟨0x1000 + 256 * l, false, chk, 3, 0⟩

/-- An arm with lanes 0 and 1, before the caches of `straySets`. -/
def strayLoad : State :=
  straySets.setGrp 0 { straySets.grp 0 with frames := [], scal := (straySets.grp 0).scal.set 5 0x1000, vregs := [(1, [0, 256])],
                                            arm0 := { (straySets.grp 0).arm0 with mask := 3 } }

def strayTrs : List (Nat × Tr × TlbEntry) := [(0, lineTr false 0, spillPage), (1, lineTr false 1, spillPage)]

theorem strayLoad_accesses :
    Passes strayLoad twoLines.g ((twoLines.t.toNat, sizeRegs twoLines.sz) :: offRegs twoLines.off)
        (addrReads twoLines.base twoLines.off (strayLoad.active twoLines.g)) ∧
      Accesses strayLoad (.ld twoLines) (strayLoad.eas twoLines.base twoLines.off twoLines.disp.toInt (strayLoad.active twoLines.g)) strayTrs := by
  decide +kernel

theorem strayLoad_atHome : ∀ r ∈ strayTrs, AtHome ((asked strayLoad (.ld twoLines) strayTrs).beforeLoad twoLines) r.2.1 := by decide +kernel

/-- The first lane's load evicts line 17 from its own set, and to enter that again it evicts line 200, whose dirty byte returns. -/
theorem strayLoad_recalls : byteAfter 51200 (exec (.ld twoLines) strayLoad) = 1 ∧
    mget 0 ((asked strayLoad (.ld twoLines) strayTrs).beforeLoad twoLines).mem 51200 = 0 := by decide +kernel

/-- Refutes O37: a load of two lanes from quiet homes may write memory, where a memory-side cache holds a line outside its set and another
set holds more than 16 lines (`straySets`): the home of the second lane's line, quiet before the load, has room for it no longer once the
first lane's line has been filled, and recalls a line with a dirty owner. No premise of the statement excludes such sets. -/
theorem not_globalAccessesComplete : ¬ Obligations.GlobalAccessesComplete := by
  unfold Obligations.GlobalAccessesComplete
  rintro ⟨hld, -⟩
  obtain ⟨hp, hacc⟩ := strayLoad_accesses
  obtain ⟨t, ht, -, -, -, hhome, -⟩ := (hld strayLoad twoLines strayTrs hp hacc).2 (by decide)
  obtain ⟨hmem, -⟩ := hhome strayLoad_atHome
  obtain ⟨hafter, hbefore⟩ := strayLoad_recalls
  rw [ht] at hafter
  change mget 0 t.mem 51200 = 1 at hafter
  rw [hmem, hbefore] at hafter
  exact absurd hafter (by decide)

/-- The lanes of a race-checked access to the same lines. -/
def strayChecks : List (Nat × Word × Tr) := [(0, 0x1000, lineTr true 0), (1, 0x1100, lineTr true 1)]

/-- The same arm, its load parked for the check. -/
def strayCheck : State :=
  strayLoad.setGrp 0 { strayLoad.grp 0 with arm0 := { (strayLoad.grp 0).arm0 with
    park := some (.check strayChecks), clause := some ⟨0, State.plainHeader, [encode (.ld twoLines)], 0⟩ } }

theorem strayCheck_waits : let a := (strayCheck.grp 0).arm 0
    a.park = some (.check strayChecks) ∧ a.head = some (.ld twoLines) ∧ a.chk = none := by decide +kernel

theorem strayCheck_served : { strayCheck with cur := (0, 0) }.blocked (.ld twoLines) (checkLanes strayChecks) = false ∧
    (∀ p ∈ strayCheck.groups, strayCheck.grp p.1 = p.2) ∧ (strayCheck.grp 0).chkHomes &&& ~~~strayCheck.closable 0 = 0 := by decide +kernel

theorem strayCheck_atHome : strayCheck.dev.injctl = [] ∧ strayCheck.checks = [] ∧
    ∀ r ∈ strayChecks, AtHome strayCheck r.2.2 ∧ r.2.2.pa % 64 + twoLines.sz.bytes ≤ 64 := by decide +kernel

/-- The check reads the lanes one after another as the load does. -/
theorem strayCheck_recalls : byteAfter 51200 (exec (.checkPhase 0 0) strayCheck) = 1 ∧ mget 0 strayCheck.mem 51200 = 0 := by decide +kernel

/-- Refutes O51: the check phase of a load of two lanes from quiet homes may write memory, at the same caches as in the refutation of O37:
the read of the first lane takes the second lane's line out of its set, and its return recalls a line with a dirty owner. -/
theorem not_homeEventsComplete : ¬ Obligations.HomeEventsComplete := by
  unfold Obligations.HomeEventsComplete
  rintro ⟨-, -, -, -, -, -, hcheck, -⟩
  obtain ⟨hpark, hhead, hchk⟩ := strayCheck_waits
  obtain ⟨hinj, hnone, hhome⟩ := strayCheck_atHome
  obtain ⟨hphase, -⟩ := hcheck strayCheck 0 0 strayChecks (.ld twoLines) (by decide) hpark hhead
  obtain ⟨t, ht, -, hpass⟩ := hphase hchk strayCheck_served
  obtain ⟨-, hload⟩ := hpass fun h r hr => by
    rw [hnone] at hr
    exact absurd hr List.not_mem_nil
  obtain ⟨hmem, -⟩ := hload twoLines rfl (by decide) hinj hhome
  obtain ⟨hafter, hbefore⟩ := strayCheck_recalls
  rw [ht] at hafter
  change mget 0 t.mem 51200 = 1 at hafter
  rw [hmem, hbefore] at hafter
  exact absurd hafter (by decide)

end Sys2Proof.Machine
end

section
/-! What the memory hierarchy below the L1s leaves as it is, and what the accounts of accesses do (R268-R275, R294-R301, R461, R480). -/

namespace Sys2Proof.Machine

open Sys2Proof.Safety

/-- The state `t` with the homes, the caches of the dies and the cores of `s`. -/
def withCaches (s t : State) : State :=
  { t with mem := s.mem, psn := s.psn, dir := s.dir, dirty := s.dirty, mlines := s.mlines, cores := s.cores, diesSt := s.diesSt }

/-- From `s` to `t` nothing changes but the homes, the caches of the dies, and the update-only lines of the cores. -/
structure Beneath (s t : State) : Prop where
  rest : withCaches s t = s
  core : ∀ c, { t.core c with upd := (s.core c).upd } = s.core c

namespace Beneath

variable {s t u : State}

theorem refl (s : State) : Beneath s s := ⟨rfl, fun _ => rfl⟩

theorem trans (h1 : Beneath s t) (h2 : Beneath t u) : Beneath s u := by
  refine ⟨?_, fun c => ?_⟩
  · have h := congrArg (withCaches s) h2.rest
    exact Eq.trans h h1.rest
  · have h := congrArg (fun x : CoreSt => { x with upd := (s.core c).upd }) (h2.core c)
    exact Eq.trans h (h1.core c)

/-- A chain of such operations. -/
theorem foldl {α : Type} {f : State → α → State} (hf : ∀ s a, Beneath s (f s a)) (l : List α) (s : State) : Beneath s (l.foldl f s) := by
  induction l generalizing s with
  | nil => exact .refl s
  | cons a l ih => exact (hf s a).trans (ih _)

theorem ite (c : Prop) [Decidable c] (h1 : Beneath s t) (h2 : Beneath s u) : Beneath s (if c then t else u) := by
  split <;> assumption

theorem iteFst {β : Type} (c : Prop) [Decidable c] {p q : State × β} (h1 : Beneath s p.1) (h2 : Beneath s q.1) :
    Beneath s (if c then p else q).1 := by
  split <;> assumption

theorem cur (h : Beneath s t) : t.cur = s.cur := by have := congrArg State.cur h.rest; exact this
theorem groups (h : Beneath s t) : t.groups = s.groups := by have := congrArg State.groups h.rest; exact this
theorem teams (h : Beneath s t) : t.teams = s.teams := by have := congrArg State.teams h.rest; exact this
theorem subs (h : Beneath s t) : t.subs = s.subs := by have := congrArg State.subs h.rest; exact this
theorem l1 (h : Beneath s t) (c : Nat) : (t.core c).l1 = (s.core c).l1 := by have := congrArg CoreSt.l1 (h.core c); exact this

theorem setDie (s : State) (d : Nat) (x : DieSt) : Beneath s (s.setDie d x) := ⟨rfl, fun _ => rfl⟩
theorem setDir (s : State) (k : Nat) (e : DirEntry) : Beneath s (s.setDir k e) := ⟨rfl, fun _ => rfl⟩
theorem homeWrite (s : State) (k : Nat) (m : BitVec 64) (d : List Byte) (p : Bool) : Beneath s (s.homeWrite k m d p) := ⟨rfl, fun _ => rfl⟩
theorem l2put (s : State) (d c : Nat) (b : Bool) (k : Nat) (x : L2Sect) : Beneath s (s.l2put d c b k x) := setDie s d _
theorem l2drop (s : State) (d k : Nat) : Beneath s (s.l2drop d k) := setDie s d _

theorem setUpd (s : State) (c : Nat) (us : List UpdLine) : Beneath s (s.setCore c { s.core c with upd := us }) := by
  refine ⟨rfl, fun j => ?_⟩
  rw [State.core_setCore]
  split
  · next h => rw [h]
  · rfl

theorem updStrip (s : State) (c k : Nat) : Beneath s (s.updStrip c k) := setUpd s c _

/-! Homes. -/

theorem deltasHome (s : State) (k c : Nat) : Beneath s (s.deltasHome k c) := by
  have hf := foldl (fun (s : State) (u : UpdLine) => ite (s.homePsn k = true) (refl s)
    (homeWrite s k (State.elemsMask u.wide (State.updIn u k)) (State.applyElems u.aop u.wide (s.homeData k) (State.updIn u k)) false))
    ((s.core c).upd.filter fun u => !(State.updIn u k).isEmpty) s
  exact ite _ hf (hf.trans (updStrip _ _ _))

theorem deltasDie (s : State) (l : List Nat) (k : Nat) : Beneath s (l.foldl (fun s c => s.deltasHome k c) s) :=
  foldl (fun s c => deltasHome s k c) l s

theorem l2Recall (s : State) (d k : Nat) (b : Bool) : Beneath s (s.l2Recall d k b) := by
  unfold State.l2Recall
  split
  · exact ((ite _ (homeWrite s k _ _ _) (refl s)).trans (deltasDie _ _ k)).trans (l2put ..)
  · exact deltasDie s _ k

theorem recalls (s : State) (l : List Nat) (k : Nat) (b : Bool) : Beneath s (l.foldl (fun s d => s.l2Recall d k b) s) :=
  foldl (fun s d => l2Recall s d k b) l s

theorem homeClear (s : State) (k : Nat) (w : Bool) : Beneath s (s.homeClear k w) := by
  have hset := fun b e => (recalls s (State.sharers (s.dirEnt k)) k b).trans (setDir _ k e)
  unfold State.homeClear
  dsimp only
  split
  · exact refl s
  · exact ite _ (hset _ _) (refl s)
  · exact ite _ (hset _ _) (hset _ _)

theorem setHome (s : State) (m : SMap (List Nat)) (d : SMap Bool) : Beneath s { s with dirty := d, mlines := m } := ⟨rfl, fun _ => rfl⟩

theorem homeEvict (s : State) (k : Nat) : Beneath s (s.homeEvict k) := by
  unfold State.homeEvict
  exact (foldl (fun s j => homeClear s (k * 4 + j) true) (List.range 4) s).trans (setHome ..)

theorem homeLine (s : State) (k : Nat) : Beneath s (s.homeLine k) := by
  unfold State.homeLine
  exact ite _ (refl s) ((ite _ (refl s) (homeEvict s _)).trans (setHome ..))

theorem homeReadShared (s : State) (r k : Nat) : Beneath s (s.homeReadShared r k) := by
  refine (homeLine s (k / 4)).trans ?_
  unfold State.homeReadShared
  dsimp only
  split
  · exact ite _ (setDir ..) ((recalls ..).trans (setDir ..))
  · exact setDir ..

theorem homeReadOwn (s : State) (r k : Nat) : Beneath s (s.homeReadOwn r k) :=
  (homeLine s _).trans ((recalls ..).trans (setDir ..))

theorem homeTake (s : State) (k : Nat) (w : Bool) : Beneath s (s.homeTake k w) := (homeLine s _).trans (homeClear ..)

theorem homeMerge (s : State) (k : Nat) (m : BitVec 64) (d : List Byte) (p : Bool) : Beneath s (s.homeMerge k m d p) :=
  (homeTake s k true).trans (homeWrite ..)

/-! The L2s of the dies. -/

theorem l2Own (s : State) (d c k : Nat) : Beneath s (s.l2Own d c k) :=
  ite _ (refl s) ((homeReadOwn s d k).trans (l2put ..))

theorem giveUp (s : State) (d k : Nat) (b : Bool) : Beneath s (s.giveUp d k b) :=
  ((ite _ (l2Own ..) (refl s)).trans (l2Recall ..)).trans (setDir ..)

theorem swWriteBack (s : State) (d k : Nat) : Beneath s (s.swWriteBack d k) := by
  unfold State.swWriteBack
  split
  · exact ite _ (refl s) ((l2put ..).trans (homeMerge ..))
  · exact refl s

theorem swDrop (s : State) (d k : Nat) : Beneath s (s.swDrop d k) := by
  unfold State.swDrop
  split
  · exact l2put ..
  · exact refl s

theorem swClean (s : State) (d k : Nat) : Beneath s (s.swClean d k) := by
  unfold State.swClean
  split
  · exact l2put ..
  · exact refl s

theorem swTidy (s : State) (d k : Nat) : Beneath s (s.swTidy d k) := by
  unfold State.swTidy
  split
  · exact ite _ (l2drop ..) (refl s)
  · exact refl s

theorem l2Fill (s : State) (d c : Nat) (b : Bool) (k : Nat) (m : BitVec 64) : Beneath s (s.l2Fill d c b k m).1 := by
  unfold State.l2Fill
  dsimp only
  generalize (match s.l2sect d k with | some (_, x) => x | none => {}) = x
  exact iteFst _ (iteFst _ (refl s) ((homeReadShared ..).trans (l2put ..))) (iteFst _ (refl s) ((homeTake ..).trans (l2put ..)))

theorem l2Store (s : State) (d c : Nat) (b : Bool) (k : Nat) (m : BitVec 64) (x : List Byte) (p : Bool) :
    Beneath s (s.l2Store d c b k m x p) := by
  unfold State.l2Store
  cases b with
  | true => exact (l2Own ..).trans (l2put ..)
  | false =>
    cases s.listFull d c (s.lineSlice d (k / 4)) k with
    | none => exact l2put ..
    | some old => exact (swWriteBack s d old).trans (l2put ..)

theorem deltasL2 (s : State) (c : Nat) (b : Bool) (k : Nat) : Beneath s (s.deltasL2 c b k) := by
  refine foldl (fun s u => ?_) _ s
  have hf : ∀ v : State, Beneath v (let (v, data, psn) := v.l2Fill (coreDie c) u.ctx b k (BitVec.allOnes 64)
      let v := v.updStrip c k
      if psn then v else
        v.l2Store (coreDie c) u.ctx b k (State.elemsMask u.wide (State.updIn u k)) (State.applyElems u.aop u.wide data (State.updIn u k)) false) :=
    fun v => (l2Fill v _ _ _ _ _).trans ((updStrip ..).trans (ite _ (refl _) (l2Store ..)))
  cases b with
  | true => exact (l2Own s _ _ _).trans (hf _)
  | false => exact hf s

theorem l2Turn (s : State) (d : Nat) (b : Bool) (k : Nat) : Beneath s (s.l2Turn d b k) := by
  unfold State.l2Turn
  split
  · exact refl s
  · refine ite _ (refl s) ((foldl (fun s j => ?_) _ s).trans (l2drop ..))
    exact ite _ (ite _ (giveUp ..) (refl s)) ((foldl (fun s c => deltasL2 s c false _) _ s).trans (swWriteBack ..))

theorem moveList (s : State) (d line sl k : Nat) : Beneath s (s.moveList d line sl k) := by
  unfold State.moveList
  split
  · refine ite _ (refl s) (Beneath.trans (ite _ ?_ (refl s)) (setDie ..))
    split
    · exact swWriteBack ..
    · exact refl s
  · exact refl s

theorem l2Place (s : State) (d c : Nat) (b : Bool) (sl k : Nat) : Beneath s (s.l2Place d c b sl k) := by
  unfold State.l2Place
  split
  · exact setDie ..
  · exact ite _ (refl s) ((foldl (fun s j => moveList s d k sl j) _ s).trans (setDie ..))

theorem l2Reach (s : State) (d c : Nat) (b : Bool) (sl k : Nat) : Beneath s (s.l2Reach d c b sl k) := (l2Turn ..).trans (l2Place ..)

theorem mergeSect (s : State) (c : Nat) (u : UpdLine) (k : Nat) : Beneath s (s.mergeSect c u k) :=
  ite _ (refl s) ((l2Reach ..).trans (deltasL2 ..))

theorem mergeUpd (s : State) (c : Nat) (p : UpdLine → Bool) : Beneath s (s.mergeUpd c p) :=
  foldl (fun s u => foldl (fun s k => mergeSect s c u (u.line * 4 + k)) _ s) _ s

theorem mergeDie (s : State) (d line : Nat) : Beneath s (s.mergeDie d line) := foldl (fun s c => mergeUpd s c _) _ s

theorem writeBackCtx (s : State) (d c : Nat) : Beneath s (s.writeBackCtx d c) := by
  refine foldl (fun s p => ?_) _ s
  split
  · exact ite _ (refl s) (foldl (fun s k => ite _ (swWriteBack ..) (refl s)) _ s)
  · exact refl s

end Beneath

end Sys2Proof.Machine
end

section
/-! The accounts of accesses and the reports of errors (R458-R461, R480, R495-R497), and all that accesses do within the memory hierarchy. -/

namespace Sys2Proof.Machine

open Sys2Proof.Safety

/-! ### What lies outside the memory hierarchy -/

theorem outside_update (s : State) (mem : SMap Byte) (psn : SMap Bool) (dir : SMap DirEntry) (dirty : SMap Bool) (mlines : SMap (List Nat))
    (checks : SMap (List CheckRec)) (hits : SMap Bool) (hostMem : SMap Byte) (hostLog : ErrLog) (cores : SMap CoreSt) (diesSt : SMap DieSt)
    (used : SMap Nat) (freeCtr : Nat) (groups : SMap Group) :
    outside { s with mem, psn, dir, dirty, mlines, checks, hits, hostMem, hostLog, cores, diesSt, used, freeCtr, groups } = outside s := rfl

/-- Reports of errors, where an injection register has been written, R461. -/
theorem outside_reports {s : State} (h : s.dev.injctl ≠ []) (host : HostIf) (msix : SMap MsixVec) (events : List DevEvent) (retiring : List Nat)
    (rowErrs spareRows : SMap Nat) : outside { s with host, msix, events, retiring, rowErrs, spareRows } = outside s := by
  unfold outside
  simp only [h, if_false]

theorem outside_dev {s : State} {l : SMap ErrLog} {i : SMap Word} (h : s.dev.injctl ≠ []) (hi : i ≠ []) :
    outside { s with dev := { s.dev with logs := l, injctl := i } } = outside s := by
  unfold outside
  simp only [h, hi, if_false]

theorem outside_cur (s : State) : (outside s).cur = s.cur := by unfold outside; dsimp only; split <;> rfl
theorem outside_teams (s : State) : (outside s).teams = s.teams := by unfold outside; dsimp only; split <;> rfl
theorem outside_subs (s : State) : (outside s).subs = s.subs := by unfold outside; dsimp only; split <;> rfl
theorem outside_ctxs (s : State) : (outside s).ctxs = s.ctxs := by unfold outside; dsimp only; split <;> rfl

/-- Within the memory hierarchy: from `s` to `t` nothing outside it changes, and no group. -/
structure Within (s t : State) : Prop where
  outside : outside t = outside s
  groups : t.groups = s.groups

namespace Within

variable {s t u : State}

theorem refl (s : State) : Within s s := ⟨rfl, rfl⟩
theorem trans (h1 : Within s t) (h2 : Within t u) : Within s u := ⟨h2.outside.trans h1.outside, h2.groups.trans h1.groups⟩

theorem foldl {α : Type} {f : State → α → State} (hf : ∀ s a, Within s (f s a)) (l : List α) (s : State) : Within s (l.foldl f s) := by
  induction l generalizing s with
  | nil => exact .refl s
  | cons a l ih => exact (hf s a).trans (ih _)

theorem of_beneath (h : Beneath s t) : Within s t := by
  have ho : Safety.outside (withCaches s t) = Safety.outside s := congrArg Safety.outside h.rest
  exact ⟨ho, h.groups⟩
theorem setCore (s : State) (c : Nat) (x : CoreSt) : Within s (s.setCore c x) := ⟨rfl, rfl⟩
theorem setDie (s : State) (d : Nat) (x : DieSt) : Within s (s.setDie d x) := ⟨rfl, rfl⟩
theorem bump (s : State) : Within s s.bump := ⟨rfl, rfl⟩

theorem cur (h : Within s t) : t.cur = s.cur := by rw [← outside_cur t, h.outside, outside_cur]
theorem teams (h : Within s t) : t.teams = s.teams := by rw [← outside_teams t, h.outside, outside_teams]
theorem subs (h : Within s t) : t.subs = s.subs := by rw [← outside_subs t, h.outside, outside_subs]
theorem cdie (h : Within s t) : t.cdie = s.cdie := congrArg (fun c : Nat × Nat => gidDie c.1) h.cur
theorem ccore (h : Within s t) : t.ccore = s.ccore := congrArg (fun c : Nat × Nat => gidCore c.1) h.cur

end Within

/-! ### Accounts and reports -/

/-- The state `t` with the counter of free values, the accounts, the logs and the reports of `s`. -/
def withReports (s t : State) : State :=
  { t with freeCtr := s.freeCtr, used := s.used, dev := s.dev, host := s.host, msix := s.msix, events := s.events, retiring := s.retiring,
           rowErrs := s.rowErrs, spareRows := s.spareRows }

/-- From `s` to `t` only the counter of free values, the accounts of allowances, and, where an injection register has been written, the logs
and reports of errors change. -/
structure Reports (s t : State) : Prop where
  rest : withReports s t = s
  outside : outside t = outside s
  armed : s.dev.injctl ≠ [] → t.dev.injctl ≠ []

namespace Reports

variable {s t u : State}

theorem refl (s : State) : Reports s s := ⟨rfl, rfl, id⟩

theorem trans (h1 : Reports s t) (h2 : Reports t u) : Reports s u :=
  ⟨(congrArg (withReports s) h2.rest).trans h1.rest, h2.outside.trans h1.outside, h2.armed ∘ h1.armed⟩

theorem foldl {α : Type} {f : State → α → State} (hf : ∀ s a, Reports s (f s a)) (l : List α) (s : State) : Reports s (l.foldl f s) := by
  induction l generalizing s with
  | nil => exact .refl s
  | cons a l ih => exact (hf s a).trans (ih _)

theorem ite (c : Prop) [Decidable c] (h1 : c → Reports s t) (h2 : ¬ c → Reports s u) : Reports s (if c then t else u) := by
  split
  · next h => exact h1 h
  · next h => exact h2 h

theorem groups (h : Reports s t) : t.groups = s.groups := by have := congrArg State.groups h.rest; exact this
theorem mem (h : Reports s t) : t.mem = s.mem := by have := congrArg State.mem h.rest; exact this
theorem cores (h : Reports s t) : t.cores = s.cores := by have := congrArg State.cores h.rest; exact this
theorem diesSt (h : Reports s t) : t.diesSt = s.diesSt := by have := congrArg State.diesSt h.rest; exact this
theorem within (h : Reports s t) : Within s t := ⟨h.outside, h.groups⟩

theorem bump (s : State) : Reports s s.bump := ⟨rfl, rfl, id⟩

theorem charge (s : State) (k u p n : Nat) : Reports s (s.charge k u p n) := by
  unfold State.charge
  exact ite _ (fun _ => refl s) fun _ => ⟨rfl, rfl, id⟩

theorem logError (h : s.dev.injctl ≠ []) (c u : Nat) (e : LogEntry) (b : Bool) : Reports s (s.logError c u e b) := by
  unfold State.logError
  exact ite _ (fun _ => refl s) fun _ => ⟨rfl, outside_dev h h, id⟩

theorem mset_ne_nil {V : Type} [DecidableEq V] {d v : V} (h : v ≠ d) (m : SMap V) (k : Nat) : mset d m k v ≠ [] := by
  unfold mset
  rw [if_neg h]
  cases merase m k with
  | nil => exact List.cons_ne_nil _ _
  | cons p m => unfold minsert; split <;> exact List.cons_ne_nil _ _

/-- FIRED is set, so the register is not clear. -/
theorem fired_ne_zero (w : Word) : setBit w 63 true ≠ 0 := fun h => by
  have hb := bit_setBit w 63 63 true (by decide)
  rw [h, if_pos rfl, bit_zero] at hb
  exact Bool.noConfusion hb

/-- An armed register is not clear. -/
theorem armed_ne_nil {m : SMap Word} {n : Nat} (h : natBits (mget 0 m n).toNat 62 1 = 1) : m ≠ [] := by
  rintro rfl
  simp [natBits] at h

theorem setInjctl (h : s.dev.injctl ≠ []) (n : Nat) (w : Word) :
    Reports s { s with dev := { s.dev with injctl := mset 0 s.dev.injctl n (setBit w 63 true) } } :=
  ⟨rfl, outside_dev h (mset_ne_nil (fired_ne_zero w) _ _), fun _ => mset_ne_nil (fired_ne_zero w) _ _⟩

theorem fireInj (s : State) (y c u : Nat) (a : Option Word) : Reports s (s.fireInj y c u a) := by
  unfold State.fireInj
  dsimp only
  split
  · exact refl s
  · next hf =>
    have hw := List.find?_some hf
    simp only [Bool.and_eq_true, beq_iff_eq] at hw
    obtain ⟨⟨⟨⟨hw, -⟩, -⟩, -⟩, -⟩ := hw
    exact setInjctl (armed_ne_nil hw) _ _

theorem hopFlit (h : s.dev.injctl ≠ []) (i j : Nat) : Reports s (s.hopFlit i j) := by
  unfold State.hopFlit
  split
  · exact ((logError h _ _ _ _).trans (bump _)).trans (fireInj _ _ _ _ _)
  · exact refl s

theorem hopFlits (s : State) (i j : Nat) : Reports s (s.hopFlits i j) := by
  unfold State.hopFlits
  refine ite _ (fun _ => refl s) fun he => ?_
  have way : ∀ (v : State) i j, v.dev.injctl ≠ [] → Reports v (if ((v.route i j).eff == 3) = true then
      (v.hopFlit i (v.route i j).relay).hopFlit (v.route i j).relay j else v.hopFlit i j) := fun v i j hv =>
    ite _ (fun _ => (hopFlit hv ..).trans (hopFlit ((hopFlit hv ..).armed hv) ..)) fun _ => hopFlit hv ..
  have h : s.dev.injctl ≠ [] := by simpa using he
  have h1 := way s i j h
  exact h1.trans (way _ j i (h1.armed h))

theorem chargeHomes (s : State) (d p : Nat) (l : List (Nat × Bool)) : Reports s (s.chargeHomes d p l) := by
  have h : ∀ (s : State) (r : Nat × Bool), Reports s ((s.hopFlits d (8 + homeChip (r.1 * 64))).charge 1 (homeChip (r.1 * 64)) p 64) :=
    fun s r => (hopFlits s d (8 + homeChip (r.1 * 64))).trans (charge _ _ _ _ _)
  exact foldl h l s

end Reports

end Sys2Proof.Machine
end

section
/-! An access that retires: its counts, the release and acquire actions of its order (R171, R276, R277), and what of the machine beside
the teams stays as it is. -/

namespace Sys2Proof.Machine

open Sys2Proof.Safety

/-! ### The counts of the executing arm -/

/-- From `s` to `t` of all groups only the counts of the executing arm change, the homes that its group notes, and the sectors that it asks
for. -/
structure Counts (s t : State) : Prop where
  cur : t.cur = s.cur
  grp : ∀ k, k ≠ s.gid → t.grp k = s.grp k
  cg : { t.cg with arm0 := s.cg.arm0, arm1 := s.cg.arm1, chkHomes := s.cg.chkHomes } = s.cg
  other : s.slot ≤ 1 → t.cg.arm (1 - s.slot) = s.cg.arm (1 - s.slot)
  ca : { t.ca with loads := s.ca.loads, stores := s.ca.stores, asks := s.ca.asks } = s.ca

theorem advance_loads (a : Arm) : a.advance.loads = a.loads := by
  have h := congrArg Arm.loads (State.sameArm_advance a)
  exact h

namespace Counts

variable {s t u : State}

theorem gid (h : Counts s t) : t.gid = s.gid := congrArg Prod.fst h.cur
theorem slot (h : Counts s t) : t.slot = s.slot := congrArg Prod.snd h.cur

theorem of_groups (hc : t.cur = s.cur) (hg : t.groups = s.groups) : Counts s t := by
  have h1 : t.cg = s.cg := by unfold State.cg State.grp State.gid; rw [hc, hg]
  have h2 : t.ca = s.ca := by unfold State.ca State.slot; rw [h1, hc]
  exact ⟨hc, fun k _ => grp_of_groups hg k, by rw [h1], fun _ => by rw [h1], by rw [h2]⟩

theorem refl (s : State) : Counts s s := of_groups rfl rfl

theorem trans (h1 : Counts s t) (h2 : Counts t u) : Counts s u := by
  refine ⟨h2.cur.trans h1.cur, fun k hk => (h2.grp k (h1.gid ▸ hk)).trans (h1.grp k hk), ?_, fun hs => ?_, ?_⟩
  · have h := congrArg (fun g : Group => { g with arm0 := s.cg.arm0, arm1 := s.cg.arm1, chkHomes := s.cg.chkHomes }) h2.cg
    exact Eq.trans h h1.cg
  · have h := h2.other (h1.slot ▸ hs)
    rw [h1.slot] at h
    exact h.trans (h1.other hs)
  · have h := congrArg (fun a : Arm => { a with loads := s.ca.loads, stores := s.ca.stores, asks := s.ca.asks }) h2.ca
    exact Eq.trans h h1.ca

theorem of_within (h : Within s t) : Counts s t := of_groups h.cur h.groups

/-- A change of the counts themselves. -/
theorem setCounts (s : State) (l : List (List RegW)) (n : Nat) (q : Option (Nat × List Nat)) :
    Counts s (s.modA fun a => { a with loads := l, stores := n, asks := q }) := by
  have hg := s.cg_modA fun a => { a with loads := l, stores := n, asks := q }
  refine ⟨rfl, fun k hk => s.grp_setG_other _ k hk, ?_, fun hs => ?_, ?_⟩
  · rw [hg]; unfold Group.setArm; split <;> rfl
  · rw [hg]; exact Group.arm_setArm_other _ _ _ hs
  · rw [State.ca, hg, State.slot_modA, Group.arm_setArm_same]

theorem setChkHomes (hc : t.cur = s.cur) (hg : ∀ k, k ≠ s.gid → t.grp k = s.grp k) (x : BitVec 16) (h : t.cg = { s.cg with chkHomes := x }) :
    Counts s t := by
  have ha : t.ca = s.ca := by unfold State.ca State.slot; rw [h, hc]; rfl
  exact ⟨hc, hg, by rw [h], fun _ => by rw [h]; rfl, by rw [ha]⟩

theorem closeChecks (s : State) : Counts s (s.closeChecks s.gid) := by
  obtain ⟨x, hx⟩ := s.grp_closeChecks s.gid s.gid
  have hl := s.closeChecks_local
  exact setChkHomes hl.cur hl.grp x (by rw [State.cg, hl.gid]; exact hx)

/-- What stands of the arm and its group. -/
theorem stands (h : Counts s t) : Stands s t := by
  have g : ∀ {β : Type} (p : Group → β), p { t.cg with arm0 := s.cg.arm0, arm1 := s.cg.arm1, chkHomes := s.cg.chkHomes } = p s.cg :=
    fun p => congrArg p h.cg
  have a : ∀ {β : Type} (p : Arm → β), p { t.ca with loads := s.ca.loads, stores := s.ca.stores, asks := s.ca.asks } = p s.ca :=
    fun p => congrArg p h.ca
  exact ⟨⟨g Group.vregs, g Group.vpois, g Group.preds, g Group.ppois, g Group.scal, g Group.spois, g Group.xs, a Arm.scal, a Arm.spois,
    a Arm.mask, a Arm.fmt⟩, a Arm.clause, a Arm.pc, g Group.ctx, g Group.tid⟩

theorem onlyCounts (h : Counts s t) : OnlyCounts s t.retire := by
  obtain ⟨l, n, q, ha⟩ : ∃ l n q, t.ca = { s.ca with loads := l, stores := n, asks := q } :=
    ⟨_, _, _, congrArg (fun a : Arm => { a with loads := t.ca.loads, stores := t.ca.stores, asks := t.ca.asks }) h.ca⟩
  obtain ⟨-, -, -, -, -, -, -, hs, hp, -⟩ := h.stands.sameRegs
  refine ⟨fun k hk => (State.grp_setG_other t _ k (h.gid ▸ hk)).trans (h.grp k hk), ?_, fun h1 => ?_, hs, hp, ?_⟩
  · rw [State.cg_retire, ← h.cg]
    unfold Group.setArm
    split <;> rfl
  · rw [State.cg_retire, h.slot, Group.arm_setArm_other _ _ _ h1]
    exact h.other h1
  · rw [ca_retire, ha]
    unfold SameArm Arm.advance
    dsimp only
    split
    · rfl
    · split <;> rfl

/-- The access retires behind such changes. -/
theorem retires (h : Counts s t) : GoesOn s t.retire ∧ SameRegs s t.retire ∧ OnlyCounts s t.retire :=
  ⟨h.stands.goesOn, h.stands.sameRegs, h.onlyCounts⟩

end Counts

/-! ### Beside the teams -/

/-- Everything outside the memory hierarchy and the groups but the teams and their subscriptions. -/
def beyondTeams (s : State) : State := { outside s with teams := [], subs := [] }

theorem outside_of_beyondTeams {s t : State} (h : beyondTeams t = beyondTeams s) : { outside t with teams := s.teams, subs := s.subs } = outside s := by
  have hs := congrArg (fun x : State => { x with teams := s.teams, subs := s.subs }) h
  have ho : { outside s with teams := s.teams, subs := s.subs } = outside s := by
    conv_lhs => rw [← outside_teams s, ← outside_subs s]
  exact Eq.trans hs ho

theorem outside_of_beyondTeams_teams {s t : State} (h : beyondTeams t = beyondTeams s) (ht : t.teams = s.teams) (hs : t.subs = s.subs) :
    outside t = outside s := by
  have ho := outside_of_beyondTeams h
  rw [← ht, ← hs, ← outside_teams t, ← outside_subs t] at ho
  exact ho

theorem Within.beyondTeams {s t : State} (h : Within s t) : beyondTeams t = beyondTeams s :=
  congrArg (fun x : State => { x with teams := [], subs := [] }) h.outside

/-- Writes into teams and to their subscriptions. -/
theorem beyondTeams_of_rest {s t : State} (h : { t with teams := s.teams, subs := s.subs } = s) : beyondTeams t = beyondTeams s := by
  have he : t = { s with teams := t.teams, subs := t.subs } := congrArg (fun x : State => { x with teams := t.teams, subs := t.subs }) h
  rw [he]
  unfold beyondTeams outside
  dsimp only
  split <;> rfl

theorem Local.beyondTeams {s t : State} (h : Local s t) : beyondTeams t = beyondTeams s := by
  have ho := congrArg (fun x : State => { x with teams := [], subs := [] }) h.outside
  exact ho

/-- Pending updates of a core's published regions are applied: only teams change, and subscriptions, R385. -/
theorem drainSubs_rest (s : State) (c : Nat) : { s.drainSubs c with teams := s.teams, subs := s.subs } = s := by
  have hf : ∀ (l : List (Nat × Subscr)) (v : State), ∃ x, l.foldl (fun s p => (p.2.sent ++ p.2.batch).foldl (fun s u => s.applyUpdate p.2 u) s) v =
      { v with teams := x } := by
    have hu : ∀ (p : Nat × Subscr) (l : List Update) (v : State), ∃ x, l.foldl (fun s u => s.applyUpdate p.2 u) v = { v with teams := x } := by
      intro p l
      induction l with
      | nil => exact fun v => ⟨_, rfl⟩
      | cons a l ih => exact fun v => ih (v.applyUpdate p.2 a)
    intro l
    induction l with
    | nil => exact fun v => ⟨_, rfl⟩
    | cons p l ih =>
      intro v
      obtain ⟨x, hx⟩ := hu p (p.2.sent ++ p.2.batch) v
      obtain ⟨y, hy⟩ := ih { v with teams := x }
      exact ⟨y, by rw [List.foldl_cons, hx, hy]⟩
  obtain ⟨x, hx⟩ := hf (s.subs.filter fun p => p.2.live && (s.team p.2.pub).core == c) s
  unfold State.drainSubs
  dsimp only
  rw [hx]

/-! ### Release and acquire -/

namespace State

variable (s : State)

/-- The release actions of every scope: the stores of the executing arm are acknowledged, and the group's check records close, R276, R305. -/
def acknowledged (sc : Nat) : State :=
  let u := s.chargeHomes s.cdie s.cctx.part (s.relNeeds sc)
  (u.modA fun a => { a with stores := 0, asks := none }).closeChecks u.gid

/-- Those of cluster scope: update-only lines merge, and pending updates are applied. -/
def merged : State := (s.mergeUpd s.ccore fun _ => true).drainSubs s.ccore

theorem releaseAct_stages (sc : Nat) : s.releaseAct sc =
    let v := if 6 ≤ sc then (s.acknowledged sc).merged else s.acknowledged sc
    if 7 ≤ sc then v.writeBackCtx v.cdie v.cg.ctx else v := rfl

theorem closeChecks_chkHomes : (s.closeChecks s.gid).cg.chkHomes = 0 := by
  unfold closeChecks closeAt
  dsimp only
  split
  · next h =>
    have hz : s.cg.chkHomes &&& BitVec.allOnes 16 = 0 := beq_iff_eq.mp h
    rwa [BitVec.and_allOnes] at hz
  · obtain ⟨c, hc⟩ := foldl_checks _ (maskList ((s.grp s.gid).chkHomes &&& BitVec.allOnes 16)) s
    rw [hc]
    have hg : (({ s with checks := c } : State).setGrp s.gid { s.grp s.gid with chkHomes := (s.grp s.gid).chkHomes &&& ~~~BitVec.allOnes 16 }).cg =
        { s.grp s.gid with chkHomes := (s.grp s.gid).chkHomes &&& ~~~BitVec.allOnes 16 } := grp_setGrp_same ..
    exact (congrArg Group.chkHomes hg).trans (by simp)

/-- What they do to the arm, and to its group. -/
theorem acknowledged_counts (sc : Nat) : let v := s.acknowledged sc
    Counts s v ∧ v.ca.stores = 0 ∧ v.ca.loads = s.ca.loads ∧ v.cg.chkHomes = 0 := by
  intro v
  have hr := Reports.chargeHomes s s.cdie s.cctx.part (s.relNeeds sc)
  have hv : v = ((s.chargeHomes s.cdie s.cctx.part (s.relNeeds sc)).modA fun a => { a with stores := 0, asks := none }).closeChecks
    (s.chargeHomes s.cdie s.cctx.part (s.relNeeds sc)).gid := rfl
  generalize s.chargeHomes s.cdie s.cctx.part (s.relNeeds sc) = u at hr hv
  generalize hw : (u.modA fun a => { a with stores := 0, asks := none }) = w at hv
  have hca : w.ca = { u.ca with stores := 0, asks := none } := by
    rw [← hw, ca, cg_modA, slot_modA, Group.arm_setArm_same]
  have hgid : u.gid = w.gid := by rw [← hw]; rfl
  rw [hgid] at hv
  have hc : Counts u w := hw ▸ Counts.setCounts u u.ca.loads 0 none
  have hl := w.closeChecks_local
  have ha : v.ca = w.ca := by
    obtain ⟨x, hx⟩ := w.grp_closeChecks w.gid w.gid
    have hg : v.cg = { w.cg with chkHomes := x } := by rw [hv, cg, hl.gid]; exact hx
    rw [ca, hg, hv, hl.slot]
    rfl
  have hu : u.ca = s.ca := by
    have h1 : u.cur = s.cur := hr.within.cur
    unfold ca cg grp gid slot
    rw [h1, hr.groups]
  refine ⟨(Counts.of_within hr.within).trans (hc.trans (hv ▸ Counts.closeChecks w)), by rw [ha, hca], by rw [ha, hca, hu],
    hv ▸ w.closeChecks_chkHomes⟩

theorem acknowledged_outside (sc : Nat) : outside (s.acknowledged sc) = outside s := by
  have hr := Reports.chargeHomes s s.cdie s.cctx.part (s.relNeeds sc)
  have hl : ∀ u : State, Local u ((u.modA fun a => { a with stores := 0, asks := none }).closeChecks u.gid) := fun u =>
    (Local.setG u _).trans (closeChecks_local _)
  exact ((hl _).outside_of_teams (closeChecks_teams _ _)).trans hr.outside

theorem acknowledged_mem (sc : Nat) : (s.acknowledged sc).mem = s.mem := by
  have hr := Reports.chargeHomes s s.cdie s.cctx.part (s.relNeeds sc)
  have hl : ∀ u : State, Local u ((u.modA fun a => { a with stores := 0, asks := none }).closeChecks u.gid) := fun u =>
    (Local.setG u _).trans (closeChecks_local _)
  exact (hl _).mem.trans hr.mem

/-- The rest of a release changes no group, and beside the memory hierarchy only teams and their subscriptions. -/
theorem releaseAct_acknowledged (sc : Nat) : (s.releaseAct sc).groups = (s.acknowledged sc).groups ∧
    beyondTeams (s.releaseAct sc) = beyondTeams (s.acknowledged sc) ∧ (s.releaseAct sc).cur = (s.acknowledged sc).cur := by
  rw [releaseAct_stages]
  generalize s.acknowledged sc = v
  have hm : v.merged.groups = v.groups ∧ beyondTeams v.merged = beyondTeams v ∧ v.merged.cur = v.cur := by
    have hb := Within.of_beneath (Beneath.mergeUpd v v.ccore fun _ => true)
    have hd := (v.mergeUpd v.ccore fun _ => true).drainSubs_beyondAccess v.ccore
    exact ⟨(groups_of_beyondAccess hd).trans hb.groups, (beyondTeams_of_rest (drainSubs_rest _ _)).trans hb.beyondTeams,
      (cur_of_beyondAccess hd).trans hb.cur⟩
  have hw : ∀ w : State, Within w (w.writeBackCtx w.cdie w.cg.ctx) := fun w => .of_beneath (.writeBackCtx ..)
  have hv : ∀ w : State, (w.groups = v.groups ∧ beyondTeams w = beyondTeams v ∧ w.cur = v.cur) →
      let t := if 7 ≤ sc then w.writeBackCtx w.cdie w.cg.ctx else w
      t.groups = v.groups ∧ beyondTeams t = beyondTeams v ∧ t.cur = v.cur := by
    intro w ⟨h1, h2, h3⟩
    dsimp only
    split
    · exact ⟨(hw w).groups.trans h1, (hw w).beyondTeams.trans h2, (hw w).cur.trans h3⟩
    · exact ⟨h1, h2, h3⟩
  refine hv _ ?_
  split
  · exact hm
  · exact ⟨rfl, rfl, rfl⟩

/-- A release as its arm sees it. -/
theorem releaseAct_counts (sc : Nat) : let v := s.releaseAct sc
    Counts s v ∧ v.ca.stores = 0 ∧ v.ca.loads = s.ca.loads ∧ v.cg.chkHomes = 0 := by
  obtain ⟨hg, -, hc⟩ := s.releaseAct_acknowledged sc
  obtain ⟨h1, h2, h3, h4⟩ := s.acknowledged_counts sc
  have hcg : (s.releaseAct sc).cg = (s.acknowledged sc).cg := by unfold cg grp gid; rw [hc, hg]
  have hca : (s.releaseAct sc).ca = (s.acknowledged sc).ca := by unfold ca slot; rw [hcg, hc]
  exact ⟨h1.trans (.of_groups hc hg), hca ▸ h2, hca ▸ h3, hcg ▸ h4⟩

theorem releaseAct_beyondTeams (sc : Nat) : beyondTeams (s.releaseAct sc) = beyondTeams s := by
  have ho := congrArg (fun x : State => { x with teams := [], subs := [] }) (s.acknowledged_outside sc)
  exact (s.releaseAct_acknowledged sc).2.1.trans ho

/-- An acquire as its arm sees it: it closes check records, and from cluster scope empties the L1, R276. -/
theorem acquireAct_counts (sc : Nat) : let v := s.acquireAct sc
    Counts s v ∧ v.ca.stores = s.ca.stores ∧ v.ca.loads = s.ca.loads ∧ v.cg.chkHomes = 0 := by
  intro v
  have hc := Counts.closeChecks s
  have hl := s.closeChecks_local
  have ha : (s.closeChecks s.gid).ca = s.ca := by
    obtain ⟨x, hx⟩ := s.grp_closeChecks s.gid s.gid
    have hg : (s.closeChecks s.gid).cg = { s.cg with chkHomes := x } := by rw [cg, hl.gid]; exact hx
    rw [ca, hg, hl.slot]
    rfl
  have hh := s.closeChecks_chkHomes
  have hv : v = if 6 ≤ sc then (s.closeChecks s.gid).l1Clear (s.closeChecks s.gid).ccore else s.closeChecks s.gid := rfl
  rw [hv]
  generalize s.closeChecks s.gid = w at hc ha hh
  split
  · exact ⟨hc.trans (.of_groups rfl rfl), congrArg Arm.stores ha, congrArg Arm.loads ha, hh⟩
  · exact ⟨hc, congrArg Arm.stores ha, congrArg Arm.loads ha, hh⟩

theorem acquireAct_local (sc : Nat) : Local s (s.acquireAct sc) := by
  unfold acquireAct
  dsimp only
  split
  · exact s.closeChecks_local.trans (.l1Clear _ _)
  · exact s.closeChecks_local

theorem acquireAct_teams (sc : Nat) : (s.acquireAct sc).teams = s.teams := by
  unfold acquireAct
  dsimp only
  split
  · exact s.closeChecks_teams _
  · exact s.closeChecks_teams _

theorem acquireAct_outside (sc : Nat) : outside (s.acquireAct sc) = outside s := (s.acquireAct_local sc).outside_of_teams (s.acquireAct_teams sc)

end State

end Sys2Proof.Machine
end

section
/-! The software-managed sectors that a die's L2 holds: homes touch none of them, and a write-back, a clean or a drop only its own (R270-R274,
R285, R298-R300). -/

namespace Sys2Proof.Machine

open Sys2Proof.Safety

/-- A chain of operations establishes what one of them does, where every other keeps it. -/
theorem foldl_establishes {α σ : Type} {P : σ → Prop} {f : σ → α → σ} (hk : ∀ s b, P s → P (f s b)) {a : α} (ha : ∀ s, P (f s a)) {l : List α}
    (hl : a ∈ l) (s : σ) : P (l.foldl f s) := by
  have keep : ∀ (l : List α) (s : σ), P s → P (l.foldl f s) := fun l => by
    induction l with
    | nil => exact fun _ h => h
    | cons b l ih => exact fun s h => ih _ (hk s b h)
  obtain ⟨l1, l2, rfl⟩ := List.append_of_mem hl
  rw [List.foldl_append, List.foldl_cons]
  exact keep l2 _ (ha _)

/-- Every software-managed sector that an L2 holds in `t` comes from one that it holds in `s`, by `R`. -/
def SoftBy (R : L2Sect → L2Sect → Prop) (s t : State) : Prop :=
  ∀ d sect z, t.l2sect d sect = some (false, z) → ∃ y, s.l2sect d sect = some (false, y) ∧ R y z

namespace SoftBy

variable {R R' : L2Sect → L2Sect → Prop} {s t u : State}

theorem refl (s : State) : SoftBy Eq s s := fun _ _ z h => ⟨z, h, rfl⟩

/-- Steps that keep the sectors may stand before others. -/
theorem trans (h1 : SoftBy Eq s t) (h2 : SoftBy R t u) : SoftBy R s u := fun d k z h => by
  obtain ⟨y, hy, hr⟩ := h2 d k z h
  obtain ⟨x, hx, rfl⟩ := h1 d k y hy
  exact ⟨x, hx, hr⟩

/-- And behind them. -/
theorem keep (h1 : SoftBy R s t) (h2 : SoftBy Eq t u) : SoftBy R s u := fun d k z h => by
  obtain ⟨y, hy, rfl⟩ := h2 d k z h
  exact h1 d k y hy

theorem foldl {α : Type} {f : State → α → State} (hr : ∀ y, R y y) (ht : ∀ x y z, R x y → R y z → R x z) (hf : ∀ s a, SoftBy R s (f s a))
    (l : List α) (s : State) : SoftBy R s (l.foldl f s) := by
  induction l generalizing s with
  | nil => exact fun _ _ z h => ⟨z, h, hr z⟩
  | cons a l ih =>
    intro d k z h
    obtain ⟨y, hy, h2⟩ := ih _ d k z h
    obtain ⟨x, hx, h1⟩ := hf s a d k y hy
    exact ⟨x, hx, ht _ _ _ h1 h2⟩

theorem foldlEq {α : Type} {f : State → α → State} (hf : ∀ s a, SoftBy Eq s (f s a)) (l : List α) (s : State) : SoftBy Eq s (l.foldl f s) :=
  foldl (fun _ => rfl) (fun _ _ _ => Eq.trans) hf l s

theorem of_diesSt (h : t.diesSt = s.diesSt) : SoftBy Eq s t := fun d k z hz => by
  refine ⟨z, ?_, rfl⟩
  unfold State.l2sect State.die at *
  rwa [h] at hz

end SoftBy

/-! ### One sector is changed -/

section
variable {s : State}

/-- A sector of a line that the L2 holds is changed: the line's list of sectors, and no other line. -/
theorem l2sect_l2put {d sect : Nat} {l : L2Line} (h : mget none (s.die d).l2 (sect / 4) = some l) (c : Nat) (b : Bool) (x : L2Sect)
    (d' sect' : Nat) : (s.l2put d c b sect x).l2sect d' sect' =
      if d' = d ∧ sect' / 4 = sect / 4 then some (l.coh, (l.sects.set (sect % 4) x).getD (sect' % 4) {}) else s.l2sect d' sect' := by
  unfold State.l2put
  dsimp only
  rw [h]
  unfold State.l2sect
  rw [State.die_setDie]
  by_cases hd : d' = d
  · subst hd
    rw [if_pos rfl]
    dsimp only
    rw [mget_mset]
    by_cases hk : sect' / 4 = sect / 4
    · rw [if_pos hk, if_pos ⟨rfl, hk⟩]
    · rw [if_neg hk, if_neg fun h => hk h.2]
  · rw [if_neg hd, if_neg fun h => hd h.1]

/-- A sector behind such a change is the new one, one that the line has no place for, or another sector, as it was. -/
theorem l2put_cases {d sect d' sect' : Nat} {b b' e : Bool} {x y z : L2Sect} {c : Nat} (h : s.l2sect d sect = some (b, y))
    (hz : (s.l2put d c b' sect x).l2sect d' sect' = some (e, z)) :
    (d' = d ∧ sect' = sect ∧ e = b ∧ (z = x ∨ z = {} ∧ y = {})) ∨ (¬ (d' = d ∧ sect' = sect) ∧ s.l2sect d' sect' = some (e, z)) := by
  have h' := h
  unfold State.l2sect at h
  split at h
  · next l hl =>
    obtain ⟨rfl, rfl⟩ := Prod.mk.inj (Option.some.inj h)
    rw [l2sect_l2put hl] at hz
    split at hz
    · next hs =>
      obtain ⟨rfl, h4⟩ := hs
      obtain ⟨rfl, hzx⟩ := Prod.mk.inj (Option.some.inj hz)
      by_cases he : sect' = sect
      · subst he
        refine .inl ⟨rfl, rfl, rfl, ?_⟩
        by_cases hlt : sect' % 4 < l.sects.length
        · exact .inl (by rw [← hzx]; simp [List.getD, hlt])
        · have hd : l.sects.getD (sect' % 4) {} = {} := by simp [List.getD, List.getElem?_eq_none (Nat.not_lt.mp hlt)]
          exact .inr ⟨by rw [← hzx, List.set_eq_of_length_le (Nat.not_lt.mp hlt), hd], hd⟩
      · refine .inr ⟨fun h => he h.2, ?_⟩
        have hne : sect % 4 ≠ sect' % 4 := fun h => he (by omega)
        unfold State.l2sect
        rw [h4, hl, ← hzx]
        simp [List.getD, hne]
    · next hs =>
      by_cases he : d' = d ∧ sect' = sect
      · exact absurd ⟨he.1, congrArg (· / 4) he.2⟩ hs
      · exact .inr ⟨he, hz⟩
  · cases h

/-! ### Homes -/

/-- A coherent sector that its die gives up is none of the software-managed ones. -/
theorem l2put_coherent {d sect : Nat} {y : L2Sect} (h : s.l2sect d sect = some (true, y)) (c : Nat) (b : Bool) (x : L2Sect) :
    SoftBy Eq s (s.l2put d c b sect x) := fun d' k z hz => by
  rcases l2put_cases h hz with ⟨-, -, he, -⟩ | ⟨-, hz⟩
  · cases he
  · exact ⟨z, hz, rfl⟩

theorem deltasHome_diesSt (s : State) (k c : Nat) : (s.deltasHome k c).diesSt = s.diesSt := by
  have hf : ∀ (l : List UpdLine) (s : State), (l.foldl (fun s u => if s.homePsn k then s else
      s.homeWrite k (State.elemsMask u.wide (State.updIn u k)) (State.applyElems u.aop u.wide (s.homeData k) (State.updIn u k)) false) s).diesSt = s.diesSt :=
    foldl_keeps (p := State.diesSt) fun s u => by split <;> rfl
  unfold State.deltasHome
  dsimp only
  split
  · exact hf _ s
  · exact hf _ s

theorem deltasDie_diesSt (s : State) (l : List Nat) (k : Nat) : (l.foldl (fun s c => s.deltasHome k c) s).diesSt = s.diesSt :=
  foldl_keeps (p := State.diesSt) (fun s c => deltasHome_diesSt s k c) l s

namespace SoftBy

theorem l2Recall (s : State) (d k : Nat) (b : Bool) : SoftBy Eq s (s.l2Recall d k b) := by
  unfold State.l2Recall
  split
  · next x hx =>
    have hw : (if (x.cst == .o && x.drt != 0) = true then s.homeWrite k x.drt x.data x.psn else s).diesSt = s.diesSt := by split <;> rfl
    dsimp only
    generalize (if (x.cst == .o && x.drt != 0) = true then s.homeWrite k x.drt x.data x.psn else s) = v at hw ⊢
    have hd := (deltasDie_diesSt v (v.dieCores d) k).trans hw
    refine (of_diesSt hd).trans (l2put_coherent (y := x) ?_ _ _ _)
    unfold State.l2sect State.die at hx ⊢
    rw [hd]
    exact hx
  · exact of_diesSt (deltasDie_diesSt s _ k)

theorem recalls (s : State) (l : List Nat) (k : Nat) (b : Bool) : SoftBy Eq s (l.foldl (fun s d => s.l2Recall d k b) s) :=
  foldlEq (fun s d => l2Recall s d k b) l s

theorem setDir (s : State) (k : Nat) (e : DirEntry) : SoftBy Eq s (s.setDir k e) := of_diesSt rfl
theorem homeWrite (s : State) (k : Nat) (m : BitVec 64) (d : List Byte) (p : Bool) : SoftBy Eq s (s.homeWrite k m d p) := of_diesSt rfl
theorem setHome (s : State) (m : SMap (List Nat)) (d : SMap Bool) : SoftBy Eq s { s with dirty := d, mlines := m } := of_diesSt rfl

theorem homeClear (s : State) (k : Nat) (w : Bool) : SoftBy Eq s (s.homeClear k w) := by
  have hset := fun b e => (recalls s (State.sharers (s.dirEnt k)) k b).trans (setDir _ k e)
  unfold State.homeClear
  dsimp only
  split
  · exact refl s
  · split
    · exact hset _ _
    · exact refl s
  · split
    · exact hset _ _
    · exact hset _ _

theorem homeEvict (s : State) (k : Nat) : SoftBy Eq s (s.homeEvict k) := by
  unfold State.homeEvict
  exact (foldlEq (fun s j => homeClear s (k * 4 + j) true) (List.range 4) s).trans (setHome _ _ _)

theorem homeLine (s : State) (k : Nat) : SoftBy Eq s (s.homeLine k) := by
  unfold State.homeLine
  split
  · exact refl s
  · dsimp only
    split
    · exact setHome _ _ _
    · exact (homeEvict s _).trans (setHome _ _ _)

theorem homeMerge (s : State) (k : Nat) (m : BitVec 64) (d : List Byte) (p : Bool) : SoftBy Eq s (s.homeMerge k m d p) :=
  ((homeLine s _).trans (homeClear _ _ _)).trans (homeWrite _ _ _ _ _)

end SoftBy

/-! ### A write-back, a clean and a drop -/

/-- A write-back leaves of the sector its bytes and its tag, and its dirty bits or none (R272). -/
def WrittenBack (y z : L2Sect) : Prop := z.val = y.val ∧ z.tag = y.tag ∧ (z.drt = y.drt ∨ z.drt = 0)

theorem swWriteBack_softBy (s : State) (d k : Nat) : SoftBy WrittenBack s (s.swWriteBack d k) := by
  have hr : SoftBy WrittenBack s s := fun _ _ z h => ⟨z, h, rfl, rfl, .inl rfl⟩
  unfold State.swWriteBack
  split
  · next x hx =>
    split
    · exact hr
    · refine SoftBy.keep (fun d' k' z hz => ?_) (SoftBy.homeMerge _ _ _ _ _)
      rcases l2put_cases hx hz with ⟨rfl, rfl, -, rfl | ⟨rfl, rfl⟩⟩ | ⟨-, hz⟩
      · exact ⟨x, hx, rfl, rfl, .inr rfl⟩
      · exact ⟨{}, hx, rfl, rfl, .inl rfl⟩
      · exact ⟨z, hz, rfl, rfl, .inl rfl⟩
  · exact hr

/-- Behind it the sector is clean. -/
theorem swWriteBack_clean (s : State) (d k : Nat) (z : L2Sect) (h : (s.swWriteBack d k).l2sect d k = some (false, z)) : z.drt = 0 := by
  unfold State.swWriteBack at h
  split at h
  · next x hx =>
    split at h
    · next h0 =>
      obtain ⟨-, rfl⟩ := Prod.mk.inj (Option.some.inj (hx.symm.trans h))
      exact beq_iff_eq.mp h0
    · obtain ⟨y, hy, rfl⟩ := SoftBy.homeMerge _ _ _ _ _ d k z h
      rcases l2put_cases hx hy with ⟨-, -, -, rfl | ⟨rfl, -⟩⟩ | ⟨hn, -⟩
      · rfl
      · rfl
      · exact absurd ⟨rfl, rfl⟩ hn
  · next hn => exact absurd h (hn z)

/-- A sector is replaced by `f` of it, where it is a software-managed one that the L2 holds. -/
theorem l2put_soft {d k : Nat} {x : L2Sect} (hx : s.l2sect d k = some (false, x)) (v : L2Sect) {d' k' : Nat} {z : L2Sect}
    (hz : (s.l2put d 0 false k v).l2sect d' k' = some (false, z)) :
    (d' = d ∧ k' = k ∧ (z = v ∨ z = {})) ∨ s.l2sect d' k' = some (false, z) := by
  rcases l2put_cases hx hz with ⟨h1, h2, -, h | ⟨h, -⟩⟩ | ⟨-, hz⟩
  · exact .inl ⟨h1, h2, .inl h⟩
  · exact .inl ⟨h1, h2, .inr h⟩
  · exact .inr hz

theorem swClean_sects (s : State) (d k d' k' : Nat) (z : L2Sect) (h : (s.swClean d k).l2sect d' k' = some (false, z)) :
    z.val = z.val &&& z.drt ∨ (¬ (d' = d ∧ k' = k) ∧ s.l2sect d' k' = some (false, z)) := by
  unfold State.swClean at h
  split at h
  · next x hx =>
    rcases l2put_cases hx h with ⟨-, -, -, rfl | ⟨rfl, -⟩⟩ | hz
    · exact .inl (by simp [State.dirtyOnly, BitVec.and_assoc])
    · exact .inl rfl
    · exact .inr hz
  · next hn => exact .inr ⟨fun he => by obtain ⟨rfl, rfl⟩ := he; exact hn z h, h⟩

theorem swDrop_sects (s : State) (d k d' k' : Nat) (z : L2Sect) (h : (s.swDrop d k).l2sect d' k' = some (false, z)) :
    z.val = 0 ∨ (¬ (d' = d ∧ k' = k) ∧ s.l2sect d' k' = some (false, z)) := by
  unfold State.swDrop at h
  split at h
  · next x hx =>
    rcases l2put_cases hx h with ⟨-, -, -, rfl | ⟨rfl, -⟩⟩ | hz
    · exact .inl rfl
    · exact .inl rfl
    · exact .inr hz
  · next hn => exact .inr ⟨fun he => by obtain ⟨rfl, rfl⟩ := he; exact hn z h, h⟩

/-- A line that is dropped leaves none of its sectors. -/
theorem swTidy_softBy (s : State) (d line : Nat) : SoftBy Eq s (s.swTidy d line) := by
  unfold State.swTidy
  split
  · split
    · intro d' k z hz
      refine ⟨z, ?_, rfl⟩
      unfold State.l2drop State.l2sect at hz
      rw [State.die_setDie] at hz
      unfold State.l2sect
      split at hz
      · next l hl =>
        by_cases hd : d' = d
        · rw [if_pos hd] at hl
          dsimp only at hl
          rw [mget_mset] at hl
          split at hl
          · cases hl
          · rw [hd, hl]; exact hz
        · rw [if_neg hd] at hl
          rw [hl]; exact hz
      · cases hz
    · exact .refl s
  · exact .refl s

/-! ### The write-backs of a release (R274, R276) -/

/-- Behind the write-backs of a context no software-managed sector of it is dirty in the die's L2. -/
theorem writeBackCtx_clean (s : State) (d c sect : Nat) (x : L2Sect) (h : (s.writeBackCtx d c).l2sect d sect = some (false, x)) (ht : x.tag = c) :
    x.drt = 0 := by
  have hrefl : ∀ v : State, SoftBy WrittenBack v v := fun _ _ _ z h => ⟨z, h, rfl, rfl, .inl rfl⟩
  have htrans : ∀ x y z, WrittenBack x y → WrittenBack y z → WrittenBack x z := by
    rintro x y z ⟨h1, h2, h3⟩ ⟨h4, h5, h6⟩
    refine ⟨h4.trans h1, h5.trans h2, ?_⟩
    rcases h6 with h6 | h6
    · rw [h6]; exact h3
    · exact .inr h6
  have hsect : ∀ (l : L2Line) (p : Nat) (v : State) (k : Nat), SoftBy WrittenBack v (if (l.sects.getD k {}).tag == c then v.swWriteBack d (p * 4 + k) else v) := by
    intro l p v k
    split
    · exact swWriteBack_softBy v d _
    · exact hrefl v
  have hline : ∀ (v : State) (p : Nat × Option L2Line), SoftBy WrittenBack v (match p.2 with
      | some l => if l.coh then v else (List.range 4).foldl (fun s k =>
          if (l.sects.getD k {}).tag == c then s.swWriteBack d (p.1 * 4 + k) else s) v
      | none => v) := by
    intro v p
    split
    · split
      · exact hrefl v
      · exact SoftBy.foldl (fun y => ⟨rfl, rfl, .inl rfl⟩) htrans (fun v k => hsect _ _ v k) _ v
    · exact hrefl v
  have hall : SoftBy WrittenBack s (s.writeBackCtx d c) := SoftBy.foldl (fun y => ⟨rfl, rfl, .inl rfl⟩) htrans hline _ s
  obtain ⟨y, hy, -, hty, -⟩ := hall d sect x h
  have clean : ∀ v t : State, SoftBy WrittenBack v t → (∀ z, v.l2sect d sect = some (false, z) → z.drt = 0) →
      ∀ z, t.l2sect d sect = some (false, z) → z.drt = 0 := by
    intro v t hvt hv z hz
    obtain ⟨y, hy, -, -, h1 | h1⟩ := hvt d sect z hz
    · rw [h1]; exact hv y hy
    · exact h1
  unfold State.l2sect at hy
  split at hy
  · next l hl =>
    obtain ⟨hcoh, rfl⟩ := Prod.mk.inj (Option.some.inj hy)
    have hmem : (sect / 4, some l) ∈ (s.die d).l2 := by
      have key : ∀ m : SMap (Option L2Line), mget none m (sect / 4) = some l → (sect / 4, some l) ∈ m := by
        intro m
        induction m with
        | nil => intro h; cases h
        | cons p m ih =>
          intro h
          unfold mget at h
          split at h
          · next hp => rw [← hp, ← h]; exact List.mem_cons_self
          · exact List.mem_cons_of_mem _ (ih h)
      exact key _ hl
    refine foldl_establishes (P := fun v : State => ∀ z, v.l2sect d sect = some (false, z) → z.drt = 0) (fun v p => clean _ _ (hline v p))
      (a := (sect / 4, some l)) (fun v => ?_) hmem s x h
    dsimp only
    rw [if_neg (by rw [hcoh]; exact Bool.false_ne_true)]
    refine foldl_establishes (P := fun v : State => ∀ z, v.l2sect d sect = some (false, z) → z.drt = 0) (fun v k => clean _ _ (hsect l (sect / 4) v k))
      (a := sect % 4) (fun v z hz => ?_) (List.mem_range.mpr (Nat.mod_lt _ (by decide))) v
    rw [if_pos (by rw [beq_iff_eq, ← hty, ht]), Nat.div_add_mod'] at hz
    exact swWriteBack_clean v d sect z hz
  · cases hy

end

end Sys2Proof.Machine
end

section
/-! pref, cwb, cinv, cwbi and fence (R250, R276, R283-R286). -/

namespace Sys2Proof.Machine

open Sys2Proof.Safety

/-! ### pref (R250) -/

namespace Within

theorem l1Drops (s : State) (c line : Nat) : Within s ((List.range 4).foldl (fun s k => s.l1Drop c (line * 4 + k)) s) :=
  foldl (fun s _ => setCore s c _) _ s

theorem l1Room (s : State) (c line : Nat) : Within s (s.l1Room c line) := by
  unfold State.l1Room
  dsimp only
  split
  · exact refl s
  · exact ((of_beneath (.mergeUpd ..)).trans (l1Drops _ _ _)).trans (bump _)

theorem l1Read (s : State) (c x : Nat) (b : Bool) (sl k : Nat) (m : BitVec 64) : Within s (s.l1Read c x b sl k m).1 := by
  unfold State.l1Read
  split
  · exact refl s
  · have hr : Within s ((s.mergeUpd c fun u => u.line == k / 4).l2Reach (coreDie c) x b sl (k / 4)) :=
      of_beneath ((Beneath.mergeUpd ..).trans (.l2Reach ..))
    dsimp only
    split
    · exact hr.trans (of_beneath (.l2Fill ..))
    · exact hr.trans ((l1Room _ _ _).trans ((of_beneath (.l2Fill ..)).trans (setCore ..)))

theorem chargeHomes (s : State) (d p : Nat) (l : List (Nat × Bool)) : Within s (s.chargeHomes d p l) := (Reports.chargeHomes s d p l).within

theorem prefLane (s : State) (b : Bool) (a : Word) : Within s (s.prefLane b a) := by
  unfold State.prefLane
  split
  · exact setDie ..
  · exact refl s
  · dsimp only
    split
    · exact refl s
    · refine (chargeHomes ..).trans (foldl (fun v k => ?_) _ _)
      split
      · exact l1Read ..
      · exact of_beneath ((Beneath.l2Reach ..).trans (.l2Fill ..))

end Within

section
variable {s : State} {f : MF}

theorem outside_retire (t : State) : outside t.retire = outside t := rfl

/-- An instruction that works within the memory hierarchy retires. -/
theorem retires_within {t : State} (h : Within s t) : (GoesOn s t.retire ∧ SameRegs s t.retire ∧ OnlyCounts s t.retire) ∧ outside t.retire = outside s :=
  ⟨(Counts.of_within h).retires, h.outside⟩

theorem pref_completes (hp : Passes s f.g (offRegs f.off) (addrReads f.base f.off (s.active f.g))) :
    ∃ t, exec (.pref f) s = .next t ∧ (GoesOn s t ∧ SameRegs s t ∧ OnlyCounts s t) ∧ outside t = outside s := by
  refine ⟨_, ?_, retires_within (Within.foldl (fun s (l : Lane) => .prefLane s (f.t == 0) l.2) (s.eas f.base f.off f.disp.toInt (s.active f.g)) s)⟩
  show s.conclude (s.prefEff f) = _
  rw [State.prefEff, State.guarded_passes _ hp (by simp)]
  rfl

end

/-! ### A range operation on one line (R285) -/

/-- What a range operation does to one sector in the die's L2. -/
def State.rangeSect (s : State) (op : RangeOp) (d sect : Nat) : State :=
  match op with
  | .wb => s.swWriteBack d sect
  | .inv => s.swClean d sect
  | .wbi => (s.swWriteBack d sect).swDrop d sect

/-- What it does in the core: the line's update-only lines merge, and cinv and cwbi drop it from the L1. -/
def State.rangeL1 (s : State) (op : RangeOp) (line : Nat) : State :=
  let v := s.mergeUpd s.ccore fun u => u.line == line
  if op == .wb then v else (List.range 4).foldl (fun s k => s.l1Drop s.ccore (line * 4 + k)) v

/-- What it does in the die's L2, from device scope. -/
def State.rangeL2 (s : State) (op : RangeOp) (line : Nat) : State :=
  let v := if op == .wb then s else s.mergeDie s.cdie line
  let w := (List.range 4).foldl (fun s k => s.rangeSect op s.cdie (line * 4 + k)) v
  if op == .wb then w else w.swTidy w.cdie line

theorem rangeLine_eq (s : State) (op : RangeOp) (sc : Nat) (t : Tr) : s.rangeLine op sc t = if t.uncached then s
    else if sc < 7 then s.rangeL1 op (t.pa / 256) else (s.rangeL1 op (t.pa / 256)).rangeL2 op (t.pa / 256) := by
  cases op <;> rfl

/-- What a range operation leaves of a software-managed sector. -/
def rangeLeft : RangeOp → L2Sect → Prop
  | .wb, x => x.drt = 0
  | .inv, x => x.val = x.val &&& x.drt
  | .wbi, x => x.val = 0

section
variable (s : State) (op : RangeOp) (line : Nat)

theorem rangeSect_beneath (d k : Nat) : Beneath s (s.rangeSect op d k) := by
  cases op with
  | wb => exact .swWriteBack ..
  | inv => exact .swClean ..
  | wbi => exact (Beneath.swWriteBack ..).trans (.swDrop ..)

theorem rangeL2_beneath : Beneath s (s.rangeL2 op line) := by
  unfold State.rangeL2
  have h := (Beneath.ite (op == .wb) (.refl s) (.mergeDie s s.cdie line)).trans
    (.foldl (fun v k => rangeSect_beneath v op v.cdie (line * 4 + k)) (List.range 4) _)
  exact Beneath.ite _ h (h.trans (.swTidy ..))

theorem rangeL1_within : Within s (s.rangeL1 op line) := by
  have hm := Within.of_beneath (Beneath.mergeUpd s s.ccore fun u => u.line == line)
  unfold State.rangeL1
  dsimp only
  split
  · exact hm
  · exact hm.trans (.foldl (fun v _ => .setCore v _ _) _ _)

theorem rangeLine_within (sc : Nat) (t : Tr) : Within s (s.rangeLine op sc t) := by
  have h1 := rangeL1_within s op (t.pa / 256)
  rw [rangeLine_eq]
  split
  · exact .refl s
  · split
    · exact h1
    · exact h1.trans (.of_beneath (rangeL2_beneath _ op _))

/-- cinv and cwbi leave nothing of the line in the L1. -/
theorem rangeL1_drops (ho : op ≠ .wb) {k : Nat} (hk : k < 4) : mget none ((s.rangeL1 op line).core s.ccore).l1 (line * 4 + k) = none := by
  have hcur : (s.mergeUpd s.ccore fun u => u.line == line).ccore = s.ccore := (Within.of_beneath (Beneath.mergeUpd ..)).ccore
  have hw : ∀ v : State, Within v ((List.range 4).foldl (fun s k => s.l1Drop s.ccore (line * 4 + k)) v) := fun v =>
    .foldl (fun v _ => .setCore v _ _) _ v
  unfold State.rangeL1
  dsimp only
  rw [if_neg (by simpa using ho)]
  have hdrop : ∀ (v : State) (j : Nat), ((v.l1Drop v.ccore (line * 4 + j)).core s.ccore).l1 =
      if s.ccore = v.ccore then mset none (v.core v.ccore).l1 (line * 4 + j) none else (v.core s.ccore).l1 := by
    intro v j
    unfold State.l1Drop
    rw [State.core_setCore]
    split <;> rfl
  refine foldl_establishes (P := fun v : State => v.ccore = s.ccore → mget none (v.core s.ccore).l1 (line * 4 + k) = none)
    (fun v j h hc => ?_) (a := k) (fun v hc => ?_) (List.mem_range.mpr hk) _ ((hw _).ccore.trans hcur)
  · have hv : v.ccore = s.ccore := hc
    rw [hdrop, if_pos hv.symm, mget_mset, hv, h hv, ite_self]
  · have hv : v.ccore = s.ccore := hc
    rw [hdrop, if_pos hv.symm, mget_mset_same]

variable {s op line}

/-- A sector behind the operation on one is left as that leaves it, or is another one, of which no less is left than was. -/
theorem rangeSect_sects {d k d' k' : Nat} {z : L2Sect} (h : (s.rangeSect op d k).l2sect d' k' = some (false, z)) :
    rangeLeft op z ∨ ∃ y, ¬ (d' = d ∧ k' = k) ∧ s.l2sect d' k' = some (false, y) ∧ (rangeLeft op y → rangeLeft op z) := by
  cases op with
  | wb =>
    by_cases he : d' = d ∧ k' = k
    · obtain ⟨rfl, rfl⟩ := he
      exact .inl (swWriteBack_clean s _ _ z h)
    · obtain ⟨y, hy, -, -, h1⟩ := swWriteBack_softBy s d k d' k' z h
      refine .inr ⟨y, he, hy, fun h0 => ?_⟩
      rcases h1 with h1 | h1
      · exact h1.trans h0
      · exact h1
  | inv =>
    rcases swClean_sects s d k d' k' z h with h1 | ⟨he, h1⟩
    · exact .inl h1
    · exact .inr ⟨z, he, h1, id⟩
  | wbi =>
    rcases swDrop_sects _ d k d' k' z h with h1 | ⟨he, h1⟩
    · exact .inl h1
    · obtain ⟨y, hy, hv, -⟩ := swWriteBack_softBy s d k d' k' z h1
      exact .inr ⟨y, he, hy, fun h0 => hv.trans h0⟩

/-- Behind the operation every software-managed sector of the line in the L2 is as the operation leaves it. -/
theorem rangeL2_sects {k : Nat} (hk : k < 4) {x : L2Sect} (h : (s.rangeL2 op line).l2sect s.cdie (line * 4 + k) = some (false, x)) :
    rangeLeft op x := by
  unfold State.rangeL2 at h
  dsimp only at h
  have hv : (if (op == .wb) = true then s else s.mergeDie s.cdie line).cdie = s.cdie :=
    (Within.of_beneath (Beneath.ite (op == .wb) (.refl s) (.mergeDie s s.cdie line))).cdie
  generalize (if (op == .wb) = true then s else s.mergeDie s.cdie line) = v at h hv
  have hw : ((List.range 4).foldl (fun s k => s.rangeSect op s.cdie (line * 4 + k)) v).cdie = s.cdie :=
    (Within.of_beneath (Beneath.foldl (fun v k => rangeSect_beneath v op v.cdie (line * 4 + k)) (List.range 4) v)).cdie.trans hv
  have hall : ∀ z, ((List.range 4).foldl (fun s k => s.rangeSect op s.cdie (line * 4 + k)) v).l2sect s.cdie (line * 4 + k) = some (false, z) →
      rangeLeft op z := by
    refine foldl_establishes (P := fun u : State => u.cdie = s.cdie → ∀ z, u.l2sect s.cdie (line * 4 + k) = some (false, z) → rangeLeft op z)
      (fun u j hu hc z hz => ?_) (a := k) (fun u hc z hz => ?_) (List.mem_range.mpr hk) _ hw
    · have hcu : u.cdie = s.cdie := ((Within.of_beneath (rangeSect_beneath u op _ _)).cdie).symm.trans hc
      rcases rangeSect_sects hz with h1 | ⟨y, -, hy, h1⟩
      · exact h1
      · exact h1 (hu hcu y hy)
    · have hcu : u.cdie = s.cdie := ((Within.of_beneath (rangeSect_beneath u op _ _)).cdie).symm.trans hc
      rcases rangeSect_sects hz with h1 | ⟨y, hne, -⟩
      · exact h1
      · exact absurd ⟨hcu.symm, rfl⟩ hne
  split at h
  · exact hall x h
  · obtain ⟨y, hy, rfl⟩ := swTidy_softBy _ _ _ _ _ _ h
    exact hall y hy

end

/-! ### cwb, cinv and cwbi (R284-R286) -/

/-- A translation is of the page of its entry. -/
theorem xlate_pa {s : State} {c x : Nat} {failed : List (Nat × Nat × Bool)} {va : Word} {t : Tr} {e : TlbEntry}
    (h : s.xlate c x failed va = .ok t e) : t.pa = e.pa va.toNat := by
  unfold State.xlate at h
  dsimp only at h
  split_ifs at h
  split at h
  · split_ifs at h
  · split at h
    · cases h
    · injection h with h1 h2
      rw [← h1, h2]

/-- A probe of one lane that passes gives its translation. -/
theorem probe_single {s : State} {c x l0 l : Nat} {b : Bool} {k : XKind} {va : Word} {t : Tr} {e : TlbEntry}
    (h : s.probe c x b k [(l0, va)] = .ok [(l, t, e)]) : s.xlate c x s.ca.walkFaults va = .ok t e := by
  unfold State.probe at h
  cases hx : s.xlate c x s.ca.walkFaults va with
  | ok t' e' =>
    simp only [List.map_cons, List.map_nil, hx, List.filterMap_cons, List.filterMap_nil, List.find?_cons, List.find?_nil] at h
    by_cases hp : (permit e' b k).isSome = true
    · simp [hp] at h
    · simp only [hp] at h
      simp at h
      rw [h.2.1, h.2.2]
  | miss p =>
    simp [hx] at h
  | fault cause level =>
    simp [hx] at h

section
variable {s : State} {f : MF} (op : RangeOp)

/-- The address and the length that a range operation names. -/
def rangeAddr (s : State) (f : MF) : Word := s.sreg f.base.toNat + BitVec.ofInt 64 f.disp.toInt
def rangeLen (s : State) (f : MF) : Nat := (s.sreg f.t.toNat).toNat

/-- The pages of `n` bytes from `a`, as the probe of lane `l` meets them. -/
def rangePages (l : Nat) (a : Word) (n : Nat) : List Lane :=
  (List.range ((a.toNat + n - 1) / 2 ^ 14 - a.toNat / 2 ^ 14 + 1)).map fun p =>
    (l, if p == 0 then a else BitVec.ofNat 64 ((a.toNat / 2 ^ 14 + p) * 2 ^ 14))

/-- The lines of `n` bytes from `a`, translated. -/
def rangeLines (a n : Nat) (trs : List (Nat × Tr × TlbEntry)) : List Tr :=
  (List.range (n / 256)).filterMap fun k => (trs[(a + 256 * k) / 2 ^ 14 - a / 2 ^ 14]?).map fun r => { r.2.1 with pa := r.2.2.pa (a + 256 * k) }

/-- The operation on lines whose homes can serve it. -/
def rangeOn (s : State) (op : RangeOp) (sc : Nat) (ls : List Tr) : Eff :=
  let asks := ls.flatMap fun t => s.rangeNeeds op sc t
  if s.armWaits asks then .stay (s.waitHomes asks)
  else .retire (ls.foldl (fun s t => s.rangeLine op sc t) (s.chargeHomes s.cdie s.cctx.part asks))

theorem rangePages_one (l : Nat) {a : Word} (h : a.toNat % 256 = 0) : rangePages l a 256 = [(l, a)] := by
  have hn : (a.toNat + 256 - 1) / 2 ^ 14 - a.toNat / 2 ^ 14 + 1 = 1 := by omega
  rw [rangePages, hn]
  rfl

theorem rangeLines_one (a l : Nat) (tr : Tr) (e : TlbEntry) : rangeLines a 256 [(l, tr, e)] = [{ tr with pa := e.pa a }] := by
  simp [rangeLines]

variable (ha : Acts s f.g) (hp : Passes s f.g [] [.s f.base.toNat, .s f.t.toNat])
include ha hp

theorem rangeEff_passes : s.rangeEff op f =
    let a := rangeAddr s f
    let n := rangeLen s f
    if a.toNat % 256 != 0 || n % 256 != 0 || decide (524288 < n) then .trap (trapOf 15 a (accessX (lowest (s.active f.g)) .read 7))
    else if n == 0 then .retire s
    else match s.probe s.ccore s.cg.ctx (!s.ca.handler) .read (rangePages (lowest (s.active f.g)) a n) with
      | .trap t => .trap t
      | .walk ps => .stay (s.parkWalk ps)
      | .ok trs => rangeOn (used s .read trs) op f.sc.code (rangeLines a.toNat n trs) := by
  rw [State.rangeEff, State.guarded_passes _ hp fun _ => ha]
  rfl

theorem range_misaligned (h : (rangeAddr s f).toNat % 256 ≠ 0 ∨ rangeLen s f % 256 ≠ 0 ∨ 524288 < rangeLen s f) :
    s.conclude (s.rangeEff op f) = .next (s.takeTrap ⟨15, rangeAddr s f, accessX (lowest (s.active f.g)) .read 7⟩) := by
  rw [rangeEff_passes op ha hp]
  dsimp only
  rw [if_pos (by simpa [or_assoc] using h)]
  rfl

theorem range_empty (h1 : (rangeAddr s f).toNat % 256 = 0) (h2 : rangeLen s f = 0) : s.conclude (s.rangeEff op f) = .next s.retire := by
  rw [rangeEff_passes op ha hp]
  simp [h1, h2]

/-- A range of one line whose homes can serve it: the operation on that line, behind the use of its page's translation. -/
theorem range_line {l : Nat} {tr : Tr} {e : TlbEntry} (h1 : (rangeAddr s f).toNat % 256 = 0) (h2 : rangeLen s f = 256)
    (hr : s.probe s.ccore s.cg.ctx (!s.ca.handler) .read [(lowest (s.active f.g), rangeAddr s f)] = .ok [(l, tr, e)])
    (hw : let u := used s .read [(l, tr, e)]
      u.armWaits (u.rangeNeeds op f.sc.code { tr with pa := e.pa (rangeAddr s f).toNat }) = false) :
    ∃ v, Within s v ∧ tr.pa = e.pa (rangeAddr s f).toNat ∧ s.conclude (s.rangeEff op f) = .next (v.rangeLine op f.sc.code tr).retire := by
  have hpa := xlate_pa (probe_single hr)
  rw [← hpa] at hw
  have hu : Within s (used s .read [(l, tr, e)]) := by
    show Within s (if (s.core s.ccore).tlb.contains e then s else s.l1TlbAdd s.ccore e)
    split
    · exact .refl s
    · exact .setCore ..
  generalize hv : used s .read [(l, tr, e)] = u at hu hw
  refine ⟨u.chargeHomes u.cdie u.cctx.part (u.rangeNeeds op f.sc.code tr), hu.trans (.chargeHomes ..), hpa, ?_⟩
  have hone : ∀ u : State, [tr].flatMap (fun t => u.rangeNeeds op f.sc.code t) = u.rangeNeeds op f.sc.code tr := fun u => List.append_nil _
  rw [rangeEff_passes op ha hp]
  dsimp only
  rw [h2, if_neg (by simp [h1]), if_neg (by decide), rangePages_one _ h1, hr]
  dsimp only
  rw [hv, rangeLines_one, ← hpa, rangeOn, hone, if_neg (by rw [hw]; exact Bool.false_ne_true)]
  rfl

end

/-- A range operation, R284-R286: what it traps, and what it leaves of one line. -/
theorem range_completes {s : State} {f : MF} (op : RangeOp) {l : Nat} {tr : Tr} {e : TlbEntry} (ha : Acts s f.g)
    (hp : Passes s f.g [] [.s f.base.toNat, .s f.t.toNat]) (h1 : (rangeAddr s f).toNat % 256 = 0) (h2 : rangeLen s f = 256)
    (hr : s.probe s.ccore s.cg.ctx (!s.ca.handler) .read [(lowest (s.active f.g), rangeAddr s f)] = .ok [(l, tr, e)])
    (hw : let u := used s .read [(l, tr, e)]
      u.armWaits (u.rangeNeeds op f.sc.code { tr with pa := e.pa (rangeAddr s f).toNat }) = false) :
    ∃ t, s.conclude (s.rangeEff op f) = .next t ∧ (GoesOn s t ∧ SameRegs s t ∧ OnlyCounts s t) ∧ outside t = outside s ∧
      (tr.uncached = false → 7 ≤ f.sc.code → ∀ k, k < 4 → ∀ x,
        t.l2sect s.cdie (e.pa (rangeAddr s f).toNat / 256 * 4 + k) = some (false, x) → rangeLeft op x) ∧
      (tr.uncached = false → op ≠ .wb → ∀ k, k < 4 → mget none (t.core s.ccore).l1 (e.pa (rangeAddr s f).toNat / 256 * 4 + k) = none) := by
  obtain ⟨v, hv, hpa, he⟩ := range_line op ha hp h1 h2 hr hw
  obtain ⟨hon, hout⟩ := retires_within (hv.trans (rangeLine_within v op f.sc.code tr))
  have hL1 := rangeL1_within v op (tr.pa / 256)
  refine ⟨_, he, hon, hout, fun huc hsc k hk x hx => ?_, fun huc ho k hk => ?_⟩
  · change (v.rangeLine op f.sc.code tr).l2sect s.cdie _ = _ at hx
    rw [rangeLine_eq, if_neg (by rw [huc]; exact Bool.false_ne_true), if_neg (by omega), ← hpa, ← hv.cdie, ← hL1.cdie] at hx
    exact rangeL2_sects hk hx
  · change mget none ((v.rangeLine op f.sc.code tr).core s.ccore).l1 _ = none
    rw [rangeLine_eq, if_neg (by rw [huc]; exact Bool.false_ne_true), ← hpa, ← hv.ccore]
    have hd := rangeL1_drops v op (tr.pa / 256) ho hk
    split
    · exact hd
    · rw [(rangeL2_beneath _ op _).l1]
      exact hd

/-! ### fence (R283) -/

/-- The state behind the actions of an order. -/
def ordered (s : State) (o : Order) (sc : Scope) : State :=
  let v := released s o sc
  if o.isAcq then v.acquireAct sc.code else v

theorem fenceEff_passes {s : State} {f : MF} (ha : Acts s f.g) (hp : Passes s f.g [] []) (hw : f.ord.isRel = true → s.relWaits f.sc.code = false) :
    s.conclude (s.fenceEff f) = .next (ordered s f.ord f.sc).retire := by
  have hc : ¬ (f.ord.isRel && s.relWaits f.sc.code) = true := by
    cases h : f.ord.isRel with
    | false => simp
    | true => simp [hw h]
  rw [State.fenceEff, State.guarded_passes _ hp fun _ => ha]
  exact congrArg s.conclude (if_neg hc)

section
variable (s : State) (o : Order) (sc : Scope)

theorem released_counts : Counts s (released s o sc) ∧ (released s o sc).ca.loads = s.ca.loads ∧ beyondTeams (released s o sc) = beyondTeams s ∧
    (o.isRel = true → (released s o sc).ca.stores = 0 ∧ (released s o sc).cg.chkHomes = 0) := by
  unfold released
  split
  · obtain ⟨h1, h2, h3, h4⟩ := s.releaseAct_counts sc.code
    exact ⟨h1, h3, s.releaseAct_beyondTeams _, fun _ => ⟨h2, h4⟩⟩
  · next h => exact ⟨.refl s, rfl, rfl, fun h' => absurd h' h⟩

theorem ordered_counts : Counts s (ordered s o sc) ∧ beyondTeams (ordered s o sc) = beyondTeams s ∧
    (o.isRel = true → (ordered s o sc).ca.stores = 0 ∧ (ordered s o sc).cg.chkHomes = 0) ∧ (o.isAcq = true → (ordered s o sc).cg.chkHomes = 0) := by
  obtain ⟨h1, -, h2, h3⟩ := released_counts s o sc
  unfold ordered
  generalize released s o sc = v at *
  dsimp only
  split
  · obtain ⟨h4, h5, -, h6⟩ := v.acquireAct_counts sc.code
    exact ⟨h1.trans h4, (v.acquireAct_local _).beyondTeams.trans h2, fun h => ⟨h5.trans (h3 h).1, h6⟩, fun _ => h6⟩
  · next h => exact ⟨h1, h2, h3, fun h' => absurd h' h⟩

/-- An acquire touches no L2. -/
theorem acquireAct_diesSt (n : Nat) : (s.acquireAct n).diesSt = s.diesSt := by
  have h := congrArg State.diesSt (s.acquireAct_local n).rest
  exact h

theorem ordered_diesSt : (ordered s o sc).diesSt = (released s o sc).diesSt := by
  unfold ordered
  dsimp only
  split
  · exact acquireAct_diesSt _ _
  · rfl

/-- Below cluster scope the actions change no team and no byte of memory. -/
theorem ordered_low (h : sc.code < 6) : (ordered s o sc).teams = s.teams ∧ (ordered s o sc).subs = s.subs ∧ (ordered s o sc).mem = s.mem := by
  have hr : (released s o sc).teams = s.teams ∧ (released s o sc).subs = s.subs ∧ (released s o sc).mem = s.mem := by
    unfold released
    split
    · have hrest := s.releaseAct_rest h
      have hsubs := congrArg State.subs hrest
      exact ⟨s.releaseAct_teams h, hsubs, (s.releaseAct_local h).mem⟩
    · exact ⟨rfl, rfl, rfl⟩
  unfold ordered
  generalize released s o sc = v at *
  obtain ⟨h1, h2, h3⟩ := hr
  dsimp only
  split
  · have hl := v.acquireAct_local sc.code
    have hsubs := congrArg State.subs hl.rest
    exact ⟨(v.acquireAct_teams _).trans h1, Eq.trans hsubs h2, hl.mem.trans h3⟩
  · exact ⟨h1, h2, h3⟩

/-- A release of device scope leaves no dirty byte of the context in the die's L2. -/
theorem released_clean (ho : o.isRel = true) (h : 7 ≤ sc.code) (sect : Nat) (x : L2Sect)
    (hx : (released s o sc).l2sect s.cdie sect = some (false, x)) (ht : x.tag = s.cg.ctx) : x.drt = 0 := by
  obtain ⟨hc, -⟩ := s.acknowledged_counts sc.code
  generalize hv : s.acknowledged sc.code = v at hc
  have hm : v.merged.groups = v.groups ∧ v.merged.cur = v.cur := by
    have hb := Beneath.mergeUpd v v.ccore fun _ => true
    have hd := (v.mergeUpd v.ccore fun _ => true).drainSubs_beyondAccess v.ccore
    exact ⟨(State.groups_of_beyondAccess hd).trans hb.groups, (State.cur_of_beyondAccess hd).trans hb.cur⟩
  have hcur : v.merged.cur = s.cur := hm.2.trans hc.cur
  have hcdie : v.merged.cdie = s.cdie := congrArg (fun c : Nat × Nat => gidDie c.1) hcur
  have hctx : v.merged.cg.ctx = s.cg.ctx := by
    have hg : v.merged.cg = v.cg := by unfold State.cg State.grp State.gid; rw [hm.1, hm.2]
    rw [hg]
    exact hc.stands.ctx
  rw [released, if_pos ho, State.releaseAct_stages, hv] at hx
  dsimp only at hx
  rw [if_pos h, if_pos (by omega : 6 ≤ sc.code), hcdie, hctx] at hx
  exact writeBackCtx_clean _ _ _ sect x hx ht

/-- An acquire of cluster scope empties the L1. -/
theorem ordered_l1 (ho : o.isAcq = true) (h : 6 ≤ sc.code) : ((ordered s o sc).core s.ccore).l1 = [] := by
  obtain ⟨hc, -⟩ := released_counts s o sc
  unfold ordered
  dsimp only
  rw [if_pos ho]
  generalize released s o sc = v at *
  have hcur := (v.closeChecks_local).cur.trans hc.cur
  have hcc : (v.closeChecks v.gid).ccore = s.ccore := congrArg (fun c : Nat × Nat => gidCore c.1) hcur
  unfold State.acquireAct
  dsimp only
  rw [if_pos h, hcc]
  exact congrArg CoreSt.l1 (State.core_setCore_same ..)

end

/-- Settles O38: pref works within the memory hierarchy; a range operation treats each sector of its line, and tidies it; the actions of a
fence are those of its order. -/
theorem cacheControlsComplete : Obligations.CacheControlsComplete := by
  unfold Obligations.CacheControlsComplete
  intro same range
  have hrange : ∀ (op : RangeOp) (mk : MF → Instr) (R : L2Sect → Prop) (inv : Bool), (∀ f s, exec (mk f) s = s.conclude (s.rangeEff op f)) →
      (∀ x, rangeLeft op x → R x) → (inv = true → op ≠ .wb) → range mk op R inv := by
    intro op mk R inv hmk hR hinv s f l tr e ha hp
    rw [hmk]
    refine ⟨fun h => range_misaligned op ha hp h, fun h1 h2 => ⟨_, range_empty op ha hp h1 h2, onlyWrites_retire s, goesOn_self s⟩,
      fun h1 h2 hr hw => ?_⟩
    obtain ⟨t, he, hsame, hout, hsect, hl1⟩ := range_completes op ha hp h1 h2 hr hw
    exact ⟨t, he, hsame, hout, fun hu h7 k hk x hx => hR x (hsect hu h7 k hk x hx), fun hu hi k hk => hl1 hu (hinv hi) k hk⟩
  refine ⟨fun s f hp => pref_completes hp, hrange .wb .cwb _ false (fun _ _ => rfl) (fun _ h => h) (by decide),
    hrange .inv .cinv _ true (fun _ _ => rfl) (fun _ h => h) (by decide), hrange .wbi .cwbi _ true (fun _ _ => rfl) (fun _ h => h) (by decide),
    fun s f ha hp hw => ?_⟩
  obtain ⟨hc, hb, hrel, hacq⟩ := ordered_counts s f.ord f.sc
  refine ⟨_, fenceEff_passes ha hp hw, hc.retires, outside_of_beyondTeams (s := s) (t := (ordered s f.ord f.sc).retire) hb,
    fun h => ordered_low s f.ord f.sc h, fun ho => ?_, fun ho => ?_⟩
  · obtain ⟨h1, h2⟩ := hrel ho
    refine ⟨by rw [ca_retire, advance_stores, h1], by rw [State.cg_retire, Group.setArm_chkHomes, h2], fun h7 sect x hx ht => ?_⟩
    change (ordered s f.ord f.sc).l2sect s.cdie sect = _ at hx
    unfold State.l2sect State.die at hx
    rw [ordered_diesSt] at hx
    exact released_clean s f.ord f.sc ho h7 sect x hx ht
  · exact ⟨by rw [State.cg_retire, Group.setArm_chkHomes, hacq ho], fun h6 => ordered_l1 s f.ord f.sc ho h6⟩

end Sys2Proof.Machine
end

section
/-! What an access to a scratchpad touches beside the arm: scratchpads, the subscriptions' pending updates, and the reports of errors (R245, R383,
R461). -/

namespace Sys2Proof.Machine

open Sys2Proof.Safety

/-! ### Injected errors (R461, R495, R496) -/

namespace Reports

variable {s t : State}

theorem teams (h : Reports s t) : t.teams = s.teams := h.within.teams

theorem sendMsix (h : s.dev.injctl ≠ []) (v : Nat) : Reports s (s.sendMsix v) := by
  have hr := fun (m : SMap MsixVec) (es : List DevEvent) => outside_reports h s.host m es s.retiring s.rowErrs s.spareRows
  unfold State.sendMsix
  exact ite _ (fun _ => ⟨rfl, hr _ _, id⟩) fun _ => ⟨rfl, hr _ _, id⟩

theorem markRetire (h : s.dev.injctl ≠ []) (c : Nat) : Reports s (s.markRetire c) := by
  have hr : Reports s { s with retiring := s.retiring ++ [c], host := { s.host with core := true } } :=
    ⟨rfl, outside_reports h _ s.msix s.events _ s.rowErrs s.spareRows, id⟩
  unfold State.markRetire
  exact ite _ (fun _ => refl s) fun _ => ite _ (fun _ => hr.trans (sendMsix (hr.armed h) 0)) fun _ => hr

theorem rowError (h : s.dev.injctl ≠ []) (c pa : Nat) : Reports s (s.rowError c pa) := by
  have hr : ∀ e r, Reports s { s with rowErrs := e, spareRows := r } := fun e r =>
    ⟨rfl, outside_reports h s.host s.msix s.events s.retiring e r, id⟩
  have hb := fun e r => (hr e r).trans (bump _)
  have hm : ∀ v : State, v.dev.injctl ≠ [] → Reports v { v with host := { v.host with rows := true } } := fun v hv =>
    ⟨rfl, outside_reports hv _ v.msix v.events v.retiring v.rowErrs v.spareRows, id⟩
  unfold State.rowError
  dsimp only
  exact ite _ (fun _ => ite _ (fun _ => hb _ _) fun _ => ite _ (fun _ => (hb _ _).trans (sendMsix ((hb _ _).armed h) 0)) fun _ =>
    (hb _ _).trans (hm _ ((hb _ _).armed h))) fun _ => hb _ s.spareRows

theorem wearError (h : s.dev.injctl ≠ []) (c u pa : Nat) : Reports s (s.wearError c u pa) := by
  unfold State.wearError
  exact ite _ (fun _ => ite _ (fun _ => (bump s).trans (markRetire ((bump s).armed h) u)) fun _ => bump s) fun _ =>
    ite _ (fun _ => rowError h u pa) fun _ => refl s

end Reports

/-- A read that meets an injection reports it, and marks the place where the error is uncorrected. -/
theorem injectIf_reports (s : State) (cls unit ctx : Nat) (meets : Nat → Bool) (addr : Nat → Word) (mark : Nat → State → State) :
    ∃ v, Reports s v ∧ (s.injectIf cls unit ctx meets addr mark = v ∨ ∃ x, s.injectIf cls unit ctx meets addr mark = mark x v) := by
  unfold State.injectIf
  dsimp only
  split
  · exact ⟨s, .refl s, .inl rfl⟩
  · next k hk =>
    have hw := List.find?_some hk
    simp only [Bool.and_eq_true, beq_iff_eq] at hw
    obtain ⟨⟨⟨⟨hw, -⟩, -⟩, -⟩, -⟩ := hw
    have ha := Reports.armed_ne_nil hw
    have hf := Reports.setInjctl ha k (setBit (mget 0 s.dev.injctl k) 62 false)
    generalize ({ s with dev := { s.dev with injctl := mset 0 s.dev.injctl k (setBit (setBit (mget 0 s.dev.injctl k) 62 false) 63 true) } } :
      State) = t at hf
    have hl : ∀ e b, Reports t (if (natBits (mget 0 s.dev.injctl k).toNat 56 2 == 2) = true then t else (t.logError cls unit e b).bump) :=
      fun e b => .ite _ (fun _ => .refl t) fun _ => (Reports.logError (hf.armed ha) ..).trans (.bump _)
    split
    · exact ⟨_, (hf.trans (hl _ _)).trans (.wearError ((hf.trans (hl _ _)).armed ha) ..), .inl rfl⟩
    · exact ⟨_, hf.trans (hl _ _), .inr ⟨_, rfl⟩⟩

/-- A read of a scratchpad meets an injection: a report, and marks in the scratchpad. -/
theorem spInject_reports (s : State) (tid off n : Nat) :
    ∃ v, Reports s v ∧ (s.spInject tid off n = v ∨ ∃ p, s.spInject tid off n = v.setTeam tid { v.team tid with spPois := p }) := by
  unfold State.spInject
  split
  · exact ⟨s, .refl s, .inl rfl⟩
  · obtain ⟨v, hv, h | ⟨x, h⟩⟩ := injectIf_reports s 1 (s.team tid).core (s.team tid).ctx (fun x => decide (off ≤ x) && decide (x < off + n))
      (BitVec.ofNat 64) fun x s => s.setTeam tid { s.team tid with spPois := msetList false (s.team tid).spPois (x / 8 * 8) (List.replicate 8 true) }
    · exact ⟨v, hv, .inl h⟩
    · exact ⟨v, hv, .inr ⟨_, h⟩⟩

/-- Without an injection register written a read meets none. -/
theorem spInject_noInjection {s : State} (h : NoInjection s) (tid off n : Nat) : s.spInject tid off n = s := by
  unfold State.spInject
  rw [if_pos (by rw [h]; rfl)]

/-! ### Work in the scratchpads -/

/-- From `s` to `t` nothing changes but scratchpads, the subscriptions' pending updates, and what reports of errors bring. -/
structure InScratch (s t : State) : Prop where
  groups : t.groups = s.groups
  cur : t.cur = s.cur
  mem : t.mem = s.mem
  beyond : beyondTeams t = beyondTeams s
  sp : SpOnly s t

namespace InScratch

variable {s t u : State}

theorem refl (s : State) : InScratch s s := ⟨rfl, rfl, rfl, rfl, .of_teams rfl⟩

theorem trans (h1 : InScratch s t) (h2 : InScratch t u) : InScratch s u :=
  ⟨h2.groups.trans h1.groups, h2.cur.trans h1.cur, h2.mem.trans h1.mem, h2.beyond.trans h1.beyond, h1.sp.trans h2.sp⟩

theorem foldl {α : Type} {f : State → α → State} (hf : ∀ s a, InScratch s (f s a)) (l : List α) (s : State) : InScratch s (l.foldl f s) := by
  induction l generalizing s with
  | nil => exact .refl s
  | cons a l ih => exact (hf s a).trans (ih _)

theorem counts (h : InScratch s t) : Counts s t := .of_groups h.cur h.groups

theorem ca (h : InScratch s t) : t.ca = s.ca := by
  unfold State.ca State.slot State.cg State.grp State.gid
  rw [h.cur, h.groups]

theorem of_reports (h : Reports s t) : InScratch s t := ⟨h.groups, h.within.cur, h.mem, h.within.beyondTeams, .of_teams h.teams⟩

theorem setPois (s : State) (tid : Nat) (p : SMap Bool) : InScratch s (s.setTeam tid { s.team tid with spPois := p }) := by
  refine ⟨rfl, rfl, rfl, beyondTeams_of_rest rfl, fun x => ?_⟩
  rw [State.team_setTeam]
  split
  · next h => rw [h]
  · rfl

theorem spInject (s : State) (tid off n : Nat) : InScratch s (s.spInject tid off n) := by
  obtain ⟨v, hv, h | ⟨p, h⟩⟩ := spInject_reports s tid off n
  · rw [h]; exact of_reports hv
  · rw [h]; exact (of_reports hv).trans (setPois ..)

theorem spStore (s : State) (tid off : Nat) (bs : List Byte) (p : Bool) : InScratch s (s.spStore tid off bs p) := by
  have h : SpOnly (s.spWrite tid off bs p) (s.spStore tid off bs p) := .of_teams rfl
  exact ⟨rfl, rfl, rfl, beyondTeams_of_rest rfl, (s.spWrite_spOnly tid off bs p).trans h⟩

end InScratch

/-! ### The scratchpads behind a store -/

theorem spStore_team (s : State) (tid off : Nat) (bs : List Byte) (p : Bool) (x : Nat) : (s.spStore tid off bs p).team x =
    if x = tid then { s.team tid with sp := msetList 0 (s.team tid).sp off bs, spPois := msetList false (s.team tid).spPois off (bs.map fun _ => p) }
    else s.team x := State.team_setTeam ..

section
variable (s : State) (tid off : Nat) (bs : List Byte) (p : Bool) (x a : Nat)

/-- A byte behind a store, and its mark. -/
theorem spStore_byte : mget 0 ((s.spStore tid off bs p).team x).sp a =
    if x = tid ∧ off ≤ a ∧ a < off + bs.length then bs.getD (a - off) 0 else mget 0 (s.team x).sp a := by
  rw [spStore_team]
  by_cases h : x = tid
  · subst h
    rw [if_pos rfl]
    simp only [true_and]
    exact mget_msetList ..
  · simp [h]

theorem spStore_mark : mget false ((s.spStore tid off bs p).team x).spPois a =
    if x = tid ∧ off ≤ a ∧ a < off + bs.length then p else mget false (s.team x).spPois a := by
  rw [spStore_team]
  by_cases h : x = tid
  · subst h
    simp only [if_true, true_and, mget_msetList, List.length_map]
    split
    · next h => rw [List.map_const', List.getD_eq_getElem _ _ (by simp; omega), List.getElem_replicate]
    · rfl
  · simp [h]

end

end Sys2Proof.Machine
end

section
/-! lds and ldc (R244, R248, R500). -/

namespace Sys2Proof.Machine

open Sys2Proof.Safety

/-! ### The probe of a scratchpad access (R240, R244, R449) -/

theorem maskList_eq_nil {m : BitVec 32} : maskList m = [] ↔ m = 0 := by
  refine ⟨fun h => BitVec.eq_of_getLsbD_eq fun l hl => ?_, fun h => by subst h; decide⟩
  have hn : l ∉ maskList m := h ▸ List.not_mem_nil
  simpa [mem_maskList, hl, bit] using hn

/-- Lanes with the places that their addresses name. -/
def spLocs (lanes : List Lane) (tid off : Nat → Nat) : List (Nat × Nat × Nat) := lanes.map fun l => (l.1, tid l.1, off l.1)

section
variable {s : State} {window : Bool} {k : XKind} {n : Nat} {lanes : List Lane} {tid off : Nat → Nat} (h : SpAccesses s window k n lanes tid off)
include h

/-- An access that passes goes on with the places of its lanes. -/
theorem spProbe_passes (f : List (Nat × Nat × Nat) → Eff) : s.spProbe window k n lanes f = f (spLocs lanes tid off) := by
  obtain ⟨hl, hw, -, -⟩ := h
  have ha : alignTrap k n lanes = none := by
    rw [alignTrap, List.find?_eq_none.mpr fun l hm => by simp [(hl l hm).1]]
    rfl
  have hm : lanes.map (fun l => (l, s.spLoc window l.2)) = lanes.map fun l => (l, SpLoc.at (tid l.1) (off l.1)) :=
    List.map_congr_left fun l hl' => by rw [(hl l hl').2]
  have hf : ∀ x : SpLoc, (∀ t o, SpLoc.at t o ≠ x) → (lanes.map fun l => (l, SpLoc.at (tid l.1) (off l.1))).find? (fun l => l.2 == x) = none :=
    fun x hx => List.find?_eq_none.mpr fun l hl' => by
      obtain ⟨a, -, rfl⟩ := List.mem_map.mp hl'
      simpa using hx _ _
  unfold State.spProbe
  rw [ha]
  dsimp only
  rw [hm, hf .range (fun _ _ => nofun)]
  dsimp only
  rw [hf .remote (fun _ _ => nofun)]
  dsimp only
  rw [hw, List.filterMap_map]
  exact congrArg f (List.filterMap_eq_map' ▸ rfl)

end

theorem spLocs_isEmpty (s : State) (base : BitVec 6) (o : BitVec 8) (disp : Int) (m : BitVec 32) (tid off : Nat → Nat) :
    (spLocs (s.eas base o disp m) tid off).isEmpty = decide (m = 0) := by
  rw [spLocs, State.eas, List.map_map, List.isEmpty_map, Bool.eq_iff_iff, List.isEmpty_iff, maskList_eq_nil, decide_eq_true_iff]

/-! ### The registers of a load (R248) -/

/-- Bits written one after another, each by its own value. -/
theorem bit_foldl_setBit (p : Nat → Bool) (ls : List Nat) (m : BitVec 32) {j : Nat} (hj : j < 32) :
    bit (ls.foldl (fun m l => setBit m l (p l)) m) j = if j ∈ ls then p j else bit m j := by
  induction ls generalizing m with
  | nil => simp
  | cons l ls ih =>
    rw [List.foldl_cons, ih, bit_setBit _ _ _ _ hj]
    by_cases h : j ∈ ls
    · simp [h]
    · by_cases he : j = l <;> simp [h, he]

theorem foldl_setBit_maskList (m : BitVec 32) : (maskList m).foldl (fun m l => setBit m l true) (0 : BitVec 32) = m := by
  refine BitVec.eq_of_getLsbD_eq fun j hj => ?_
  have h := bit_foldl_setBit (fun _ => true) (maskList m) 0 hj
  simp only [mem_maskList, hj, true_and, bit_zero] at h
  refine Eq.trans h ?_
  split
  · next hb => exact hb.symm
  · next hb => exact (Bool.eq_false_iff.mpr hb).symm

theorem natOfBytes_lt (bs : List Byte) : natOfBytes bs < 256 ^ bs.length := by
  induction bs with
  | nil => decide
  | cons b bs ih =>
    have hb : b.toNat < 256 := b.isLt
    rw [natOfBytes, List.length_cons, pow_succ]
    omega

/-- The word of a register: four bytes of the lane, or as many as there are. -/
theorem natOfBytes_word (g : Nat → Byte) (z : Size) {k : Nat} (hk : k < sizeRegs z) :
    natOfBytes ((List.range 4).map fun j => ((List.range z.bytes).map g).getD (4 * k + j) 0) =
      natOfBytes ((List.range (min 4 z.bytes)).map fun j => g (4 * k + j)) := by
  have wide : 4 * k + 4 ≤ z.bytes → (List.range 4).map (fun j => ((List.range z.bytes).map g).getD (4 * k + j) 0) =
      (List.range 4).map fun j => g (4 * k + j) := fun h => List.map_congr_left fun j hj => by
    have hj := List.mem_range.mp hj
    simp [List.getD, List.getElem?_range (show 4 * k + j < z.bytes by omega)]
  cases z with
  | b8 =>
    obtain rfl : k = 0 := Nat.lt_one_iff.mp hk
    simp [Size.bytes, List.range_succ, natOfBytes]
  | b16 =>
    obtain rfl : k = 0 := Nat.lt_one_iff.mp hk
    simp [Size.bytes, List.range_succ, natOfBytes]
  | b32 | b64 | x4 | x8 =>
    rw [wide (by simp only [sizeRegs] at hk; simp only [Size.bytes]; omega)]
    rfl

/-- The entry of a lane among those of all lanes. -/
theorem find?_lane {β : Type} (v : Nat → β) {ls : List Nat} {l : Nat} (h : l ∈ ls) :
    (ls.map fun l => (l, v l)).find? (fun r => r.1 == l) = some (l, v l) := by
  induction ls with
  | nil => cases h
  | cons k ls ih =>
    by_cases hk : k = l
    · rw [List.map_cons, List.find?_cons_of_pos (by simpa using hk), hk]
    · rw [List.map_cons, List.find?_cons_of_neg (by simpa using hk)]
      exact ih ((List.mem_cons.mp h).resolve_left (Ne.symm hk))

/-- The word that a lane's bytes give a register. -/
theorem laneWords_getD (g : Nat → Byte) (z : Size) {k : Nat} (hk : k < sizeRegs z) :
    ((laneWords ((List.range z.bytes).map g) (sizeRegs z)).getD k 0).toNat =
      natOfBytes ((List.range (min 4 z.bytes)).map fun j => g (4 * k + j)) := by
  have hlt := natOfBytes_lt ((List.range 4).map fun j => ((List.range z.bytes).map g).getD (4 * k + j) 0)
  rw [List.length_map, List.length_range] at hlt
  rw [← natOfBytes_word g z hk, laneWords, List.getD_eq_getElem?_getD, List.getElem?_map, List.getElem?_range hk]
  exact Nat.mod_eq_of_lt hlt

/-- The registers that the lanes of a mask load: the value and the mark of each lane. -/
theorem loadWrites_lane (t : Nat) (z : Size) (m : BitVec 32) (r : Nat → (Nat → Byte) × Bool) {k : Nat} (hk : k < sizeRegs z) :
    ∃ vals p, (loadWrites t (sizeRegs z) ((maskList m).map fun l => (l, (List.range z.bytes).map (r l).1, (r l).2)))[k]? =
        some (RegW.v (t + k) m vals p) ∧ ∀ l, bit m l = true →
      (vals.getD l 0).toNat = natOfBytes ((List.range (min 4 z.bytes)).map fun j => (r l).1 (4 * k + j)) ∧ bit p l = (r l).2 := by
  unfold loadWrites
  simp only [List.foldl_map, foldl_setBit_maskList, List.getElem?_map, List.getElem?_range hk, Option.map_some]
  refine ⟨_, _, rfl, fun l hl => ?_⟩
  have h32 : l < 32 := bit_lt _ _ hl
  have hm : l ∈ maskList m := mem_maskList.mpr ⟨h32, hl⟩
  refine ⟨?_, (bit_foldl_setBit (fun l => (r l).2) (maskList m) 0 h32).trans (if_pos hm)⟩
  rw [List.getD_eq_getElem?_getD, List.getElem?_map, List.getElem?_range h32]
  simp only [Option.map_some, Option.getD_some, find?_lane (fun l => ((List.range z.bytes).map (r l).1, (r l).2)) hm]
  exact laneWords_getD _ _ hk

/-! ### The load -/

/-- The state in which a load's lanes have met the injected errors of their bytes, R461. -/
def spMet (s : State) (f : MF) (tid off : Nat → Nat) : State :=
  if s.active f.g = 0 then s
  else (maskList (s.active f.g)).foldl (fun u l => u.spInject (tid l) (off l) f.sz.bytes) (s.beforeLoad f)

/-- What a load's lanes find. -/
def spFound (u : State) (f : MF) (m : BitVec 32) (tid off : Nat → Nat) : List RegW :=
  loadWrites f.t.toNat (sizeRegs f.sz) ((maskList m).map fun l => (l, u.spRead (tid l) (off l) f.sz.bytes))

theorem pushLoad_counts (s : State) (ws : List RegW) : Counts s (s.pushLoad ws) := .setCounts s (s.ca.loads ++ [ws]) s.ca.stores s.ca.asks

theorem ca_pushLoad (s : State) (ws : List RegW) : (s.pushLoad ws).ca = { s.ca with loads := s.ca.loads ++ [ws] } := by
  unfold State.pushLoad
  rw [State.ca, State.cg_modA, State.slot_modA, Group.arm_setArm_same]

/-- From `v` to `w` the loads and stores that wait and all outside the memory hierarchy stay, and the bytes of memory. -/
structure KeepsWaiting (v w : State) : Prop where
  counts : Counts v w
  stores : w.ca.stores = v.ca.stores
  loads : w.ca.loads = v.ca.loads
  outside : outside w = outside v
  mem : w.mem = v.mem

namespace KeepsWaiting

variable {v w : State}

theorem refl (v : State) : KeepsWaiting v v := ⟨.refl v, rfl, rfl, rfl, rfl⟩

/-- An acquire, where the order has one. -/
theorem acquired (b : Bool) (v : State) (sc : Nat) : KeepsWaiting v (if b then v.acquireAct sc else v) := by
  obtain ⟨h1, h2, h3, -⟩ := v.acquireAct_counts sc
  cases b with
  | false => exact refl v
  | true => exact ⟨h1, h2, h3, v.acquireAct_outside _, (v.acquireAct_local _).mem⟩

theorem teams (h : KeepsWaiting v w) : w.teams = v.teams := by rw [← outside_teams w, h.outside, outside_teams]
theorem subs (h : KeepsWaiting v w) : w.subs = v.subs := by rw [← outside_subs w, h.outside, outside_subs]
theorem beyondTeams (h : KeepsWaiting v w) : beyondTeams w = beyondTeams v := congrArg (fun x : State => { x with teams := [], subs := [] }) h.outside

end KeepsWaiting

/-- A load that waits to be committed retires. -/
theorem loaded_retires {s u w : State} (hc : Counts s u) (hl : u.ca.loads = s.ca.loads) (hw : KeepsWaiting u w) (ws : List RegW) :
    let t := (w.pushLoad ws).retire
    (GoesOn s t ∧ SameRegs s t ∧ OnlyCounts s t ∧ t.mem = u.mem) ∧ outside t = outside u ∧ t.ca.stores = u.ca.stores ∧
      t.ca.loads = s.ca.loads ++ [ws] := by
  intro t
  have hr : GoesOn s t ∧ SameRegs s t ∧ OnlyCounts s t := ((hc.trans hw.counts).trans (pushLoad_counts w ws)).retires
  have hm : t.mem = w.mem := rfl
  have ho : outside t = outside w := outside_retire _
  have hca : t.ca = ({ w.ca with loads := w.ca.loads ++ [ws] } : Arm).advance := by rw [← ca_pushLoad]; exact ca_retire _
  clear_value t
  obtain ⟨h1, h2, h3⟩ := hr
  refine ⟨⟨h1, h2, h3, hm.trans hw.mem⟩, ho.trans hw.outside, ?_, ?_⟩
  · rw [hca, advance_stores, hw.stores]
  · rw [hca, advance_loads, hw.loads, hl]

section
variable {s : State} {f : MF} {tid off : Nat → Nat}

theorem beforeLoad_counts (s : State) (f : MF) : Counts s (s.beforeLoad f) ∧ (s.beforeLoad f).ca.loads = s.ca.loads := by
  unfold State.beforeLoad
  dsimp only
  split
  · obtain ⟨h1, -, h3, -⟩ := s.releaseAct_counts f.sc.code
    split
    · exact ⟨h1.trans (.of_groups rfl rfl), h3⟩
    · exact ⟨h1, h3⟩
  · exact ⟨.refl s, rfl⟩

theorem spMet_counts (s : State) (f : MF) (tid off : Nat → Nat) : Counts s (spMet s f tid off) ∧ (spMet s f tid off).ca.loads = s.ca.loads := by
  unfold spMet
  split
  · exact ⟨.refl s, rfl⟩
  · obtain ⟨h1, h2⟩ := beforeLoad_counts s f
    have h3 : InScratch (s.beforeLoad f) ((maskList (s.active f.g)).foldl (fun u l => u.spInject (tid l) (off l) f.sz.bytes) (s.beforeLoad f)) :=
      .foldl (fun _ _ => .spInject ..) _ _
    exact ⟨h1.trans h3.counts, h3.ca ▸ h2⟩

/-- A load that passes its checks reads behind the injected errors, acquires where its order does, and waits to be committed. -/
theorem spLoadEff_passes {window : Bool}
    (hp : Passes s f.g ((f.t.toNat, sizeRegs f.sz) :: offRegs f.off) (addrReads f.base f.off (s.active f.g)))
    (ha : SpAccesses s window .read f.sz.bytes (s.eas f.base f.off f.disp.toInt (s.active f.g)) tid off)
    (hw : f.ord = .sc → s.relWaits f.sc.code = false) : let u := spMet s f tid off
    s.conclude (s.spLoadEff window f) = .next (if s.active f.g = 0 then s.retire
      else ((if f.ord.isAcq then u.acquireAct f.sc.code else u).pushLoad (spFound u f (s.active f.g) tid off)).retire) := by
  intro u
  have hroom : (decide (63 ≤ s.ca.loads.length) || (f.ord == .sc && s.relWaits f.sc.code)) = false := by
    obtain ⟨-, -, hl, -⟩ := ha
    rw [Bool.and_eq_false_imp.mpr fun h => hw (beq_iff_eq.mp h), Bool.or_false, decide_eq_false (by omega)]
  rw [State.spLoadEff, State.guarded_passes _ hp (absurd · Bool.false_ne_true), spProbe_passes ha]
  dsimp only
  rw [spLocs_isEmpty, hroom]
  by_cases h0 : s.active f.g = 0
  · rw [if_pos (decide_eq_true h0), if_pos h0]
    rfl
  · have hu : u = (maskList (s.active f.g)).foldl (fun u l => u.spInject (tid l) (off l) f.sz.bytes) (s.beforeLoad f) := if_neg h0
    rw [if_neg (by simpa using h0), if_neg h0, if_neg Bool.false_ne_true, hu]
    simp only [spLocs, State.eas, List.map_map, List.foldl_map]
    rfl

/-- lds and ldc, R248: the counts, and what waits to be committed. -/
theorem spLoad_completes {window : Bool}
    (hp : Passes s f.g ((f.t.toNat, sizeRegs f.sz) :: offRegs f.off) (addrReads f.base f.off (s.active f.g)))
    (ha : SpAccesses s window .read f.sz.bytes (s.eas f.base f.off f.disp.toInt (s.active f.g)) tid off)
    (hw : f.ord = .sc → s.relWaits f.sc.code = false) : let u := spMet s f tid off
    ∃ t, s.conclude (s.spLoadEff window f) = .next t ∧ (GoesOn s t ∧ SameRegs s t ∧ OnlyCounts s t ∧ t.mem = u.mem) ∧ outside t = outside u ∧
      t.ca.stores = u.ca.stores ∧ t.ca.loads = s.ca.loads ++ (if s.active f.g = 0 then [] else [spFound u f (s.active f.g) tid off]) := by
  intro u
  refine ⟨_, spLoadEff_passes hp ha hw, ?_⟩
  by_cases h0 : s.active f.g = 0
  · obtain ⟨h1, h2, h3⟩ := (Counts.refl s).retires
    have hu : u = s := if_pos h0
    rw [if_pos h0, if_pos h0, hu, List.append_nil, ca_retire]
    exact ⟨⟨h1, h2, h3, rfl⟩, rfl, advance_stores _, advance_loads _⟩
  · obtain ⟨hc, hl⟩ := spMet_counts s f tid off
    change Counts s u at hc
    change u.ca.loads = _ at hl
    rw [if_neg h0, if_neg h0]
    exact loaded_retires hc hl (.acquired _ u f.sc.code) _

/-- What each lane finds: its bytes, and whether one is marked. -/
theorem spFound_lane (u : State) (f : MF) (m : BitVec 32) (tid off : Nat → Nat) : (spFound u f m tid off).length = sizeRegs f.sz ∧
    ∀ k, k < sizeRegs f.sz → ∃ vals p, (spFound u f m tid off)[k]? = some (RegW.v (f.t.toNat + k) m vals p) ∧ ∀ l, bit m l = true →
      (vals.getD l 0).toNat = natOfBytes (mgetList 0 (u.team (tid l)).sp (off l + 4 * k) (min 4 f.sz.bytes)) ∧
      bit p l = (List.range f.sz.bytes).any fun j => mget false (u.team (tid l)).spPois (off l + j) := by
  refine ⟨by simp [spFound, loadWrites], fun k hk => ?_⟩
  obtain ⟨vals, p, h1, h2⟩ := loadWrites_lane f.t.toNat f.sz m
    (fun l => (fun j => mget 0 (u.team (tid l)).sp (off l + j), (u.spRead (tid l) (off l) f.sz.bytes).2)) hk
  refine ⟨vals, p, h1, fun l hl => ?_⟩
  obtain ⟨h3, h4⟩ := h2 l hl
  exact ⟨by simpa only [mgetList, Nat.add_assoc] using h3, h4⟩

end

end Sys2Proof.Machine
end

section
/-! sts and stc (R244, R245, R248, R383, R500). -/

namespace Sys2Proof.Machine

open Sys2Proof.Safety

/-! ### Stores one after another -/

/-- The map behind stores of `n` places at each of `ws` in order, where `put` stores the values `val`. -/
theorem foldl_puts {V β : Type} {d : V} {n : Nat} {put : SMap V → Nat × β → SMap V} {val : β → Nat → V} {ws : List (Nat × β)}
    (hput : ∀ w ∈ ws, ∀ m a, mget d (put m w) a = if w.1 ≤ a ∧ a < w.1 + n then val w.2 (a - w.1) else mget d m a) (m : SMap V) :
    (∀ a, (∀ w ∈ ws, ¬ (w.1 ≤ a ∧ a < w.1 + n)) → mget d (ws.foldl put m) a = mget d m a) ∧
    ∀ (i : Nat) (w : Nat × β), ws[i]? = some w → ∀ k, k < n →
      (∀ (j : Nat) (w' : Nat × β), i < j → ws[j]? = some w' → ¬ (w'.1 ≤ w.1 + k ∧ w.1 + k < w'.1 + n)) →
      mget d (ws.foldl put m) (w.1 + k) = val w.2 k := by
  induction ws generalizing m with
  | nil => exact ⟨fun _ _ => rfl, fun i w h => by simp at h⟩
  | cons v ws ih =>
    obtain ⟨ih1, ih2⟩ := ih (fun w hw => hput w (List.mem_cons_of_mem _ hw)) (put m v)
    have hv := hput v List.mem_cons_self m
    refine ⟨fun a ha => ?_, fun i w hi k hk hlast => ?_⟩
    · rw [List.foldl_cons, ih1 a fun w hw => ha w (List.mem_cons_of_mem _ hw), hv, if_neg (ha v List.mem_cons_self)]
    · rw [List.foldl_cons]
      cases i with
      | zero =>
        obtain rfl : v = w := Option.some.inj hi
        rw [ih1 _ fun w' hw' => ?_, hv, if_pos (by omega), Nat.add_sub_cancel_left]
        obtain ⟨j, hj⟩ := List.getElem?_of_mem hw'
        exact hlast (j + 1) w' (by omega) hj
      | succ i => exact ih2 i w hi k hk fun j w' hj hw' => hlast (j + 1) w' (by omega) hw'

theorem storedTo_foldl {n : Nat} {ws : List (Nat × List Byte)} (h : ∀ w ∈ ws, w.2.length = n) (m : SMap Byte) :
    StoredTo n ws m (ws.foldl (fun m w => msetList 0 m w.1 w.2) m) :=
  foldl_puts (put := fun m w => msetList 0 m w.1 w.2) (val := fun (bs : List Byte) k => bs.getD k 0)
    (fun w hw m a => by rw [mget_msetList, h w hw]) m

theorem markedBy_foldl (n : Nat) (ws : List (Nat × Bool)) (m : SMap Bool) :
    MarkedBy n ws m (ws.foldl (fun m w => msetList false m w.1 (List.replicate n w.2)) m) :=
  foldl_puts (put := fun m w => msetList false m w.1 (List.replicate n w.2)) (val := fun b _ => b) (fun w _ m a => by
    rw [mget_msetList, List.length_replicate]
    split
    · next h => rw [List.getD_eq_getElem _ _ (by simp; omega), List.getElem_replicate]
    · rfl) m

/-! ### The stores of the lanes -/

section
variable (tid off : Nat → Nat) (d : Nat → List Byte × Bool)

/-- The lanes' stores in order. -/
def spStores (u : State) (lanes : List Lane) : State := lanes.foldl (fun v l => v.spStore (tid l.1) (off l.1) (d l.1).1 (d l.1).2) u

/-- In each scratchpad the lanes store that name it. -/
theorem spStores_team {n : Nat} (hd : ∀ l, (d l).1.length = n) (lanes : List Lane) (u : State) (x : Nat) :
    ((spStores tid off d u lanes).team x).sp =
      ((lanes.filter fun l => tid l.1 == x).map fun l => (off l.1, (d l.1).1)).foldl (fun m w => msetList 0 m w.1 w.2) (u.team x).sp ∧
    ((spStores tid off d u lanes).team x).spPois = ((lanes.filter fun l => tid l.1 == x).map fun l => (off l.1, (d l.1).2)).foldl
      (fun m w => msetList false m w.1 (List.replicate n w.2)) (u.team x).spPois := by
  induction lanes generalizing u with
  | nil => exact ⟨rfl, rfl⟩
  | cons l lanes ih =>
    obtain ⟨h1, h2⟩ := ih (u.spStore (tid l.1) (off l.1) (d l.1).1 (d l.1).2)
    rw [spStore_team] at h1 h2
    by_cases h : tid l.1 = x
    · subst h
      rw [if_pos rfl] at h1 h2
      dsimp only at h1 h2
      rw [List.map_const', hd] at h2
      rw [List.filter_cons_of_pos (by simp)]
      exact ⟨h1, h2⟩
    · rw [if_neg (Ne.symm h)] at h1 h2
      rw [List.filter_cons_of_neg (by simpa using h)]
      exact ⟨h1, h2⟩

theorem spStores_stored {n : Nat} (hd : ∀ l, (d l).1.length = n) (lanes : List Lane) (u : State) (x : Nat) :
    StoredTo n ((lanes.filter fun l => tid l.1 == x).map fun l => (off l.1, (d l.1).1)) (u.team x).sp ((spStores tid off d u lanes).team x).sp ∧
    MarkedBy n ((lanes.filter fun l => tid l.1 == x).map fun l => (off l.1, (d l.1).2)) (u.team x).spPois
      ((spStores tid off d u lanes).team x).spPois := by
  obtain ⟨h1, h2⟩ := spStores_team tid off d hd lanes u x
  rw [h1, h2]
  refine ⟨storedTo_foldl (fun w hw => ?_) _, markedBy_foldl ..⟩
  obtain ⟨l, -, rfl⟩ := List.mem_map.mp hw
  exact hd _

theorem spStores_inScratch (lanes : List Lane) (u : State) : InScratch u (spStores tid off d u lanes) :=
  .foldl (fun _ _ => .spStore ..) _ _

end

theorem dataOf_length (s : State) (t l : Nat) (z : Size) : (s.dataOf t (sizeRegs z) z.bytes l).1.length = z.bytes := by
  have h : z.bytes ≤ sizeRegs z * 4 := by cases z <;> decide
  simp [State.dataOf, bytesOfNat, h]

theorem pushStore_counts (s : State) : Counts s s.pushStore := .setCounts s s.ca.loads (s.ca.stores + 1) s.ca.asks

theorem ca_pushStore (s : State) : s.pushStore.ca = { s.ca with stores := s.ca.stores + 1 } := by
  unfold State.pushStore
  rw [State.ca, State.cg_modA, State.slot_modA, Group.arm_setArm_same]

/-- A store that is counted retires, and what it put into the scratchpads stays. -/
theorem stored_retires {s u v w : State} (hc : Counts s u) (hl : u.ca.loads = s.ca.loads) (hs : InScratch u v) (hw : KeepsWaiting v w) :
    let t := w.pushStore.retire
    (GoesOn s t ∧ SameRegs s t ∧ OnlyCounts s t ∧ t.mem = u.mem) ∧ t.ca.loads = s.ca.loads ∧ t.ca.stores = u.ca.stores + 1 ∧
      beyondTeams t = beyondTeams u ∧ t.teams = v.teams ∧ t.subs = v.subs := by
  intro t
  have hr : GoesOn s t ∧ SameRegs s t ∧ OnlyCounts s t := (((hc.trans hs.counts).trans hw.counts).trans (pushStore_counts w)).retires
  have hm : t.mem = w.mem := rfl
  have ht : t.teams = w.teams := rfl
  have hsub : t.subs = w.subs := rfl
  have ho : outside t = outside w := outside_retire _
  have hb : beyondTeams t = beyondTeams w := congrArg (fun x : State => { x with teams := [], subs := [] }) ho
  have hca : t.ca = ({ w.ca with stores := w.ca.stores + 1 } : Arm).advance := by rw [← ca_pushStore]; exact ca_retire _
  clear_value t
  obtain ⟨h1, h2, h3⟩ := hr
  refine ⟨⟨h1, h2, h3, hm.trans (hw.mem.trans hs.mem)⟩, ?_, ?_, hb.trans (hw.beyondTeams.trans hs.beyond), ht.trans hw.teams, hsub.trans hw.subs⟩
  · rw [hca, advance_loads, hw.loads, hs.ca, hl]
  · rw [hca, advance_stores, hw.stores, hs.ca]

section
variable {s : State} {f : MF} {tid off : Nat → Nat}

/-- A store that passes its checks releases where its order does, stores its lanes' bytes, and is counted. -/
theorem spStoreEff_passes {window : Bool}
    (hp : Passes s f.g ((f.t.toNat, sizeRegs f.sz) :: offRegs f.off) (addrReads f.base f.off (s.active f.g))) :
    let lanes := s.eas f.base f.off f.disp.toInt (s.teamOnly (s.active f.g))
    SpAccesses s window .write f.sz.bytes lanes tid off → (f.ord.isRel = true → s.relWaits f.sc.code = false) →
    let v := spStores tid off (fun l => s.dataOf f.t.toNat (sizeRegs f.sz) f.sz.bytes l) (released s f.ord f.sc) lanes
    s.conclude (s.spStoreEff window f) = .next (if s.teamOnly (s.active f.g) = 0 then s.retire
      else (if f.ord == .sc then v.acquireAct f.sc.code else v).pushStore.retire) := by
  intro lanes ha hw v
  have hroom : (decide (63 ≤ s.ca.stores) || (f.ord.isRel && s.relWaits f.sc.code)) = false := by
    obtain ⟨-, -, -, hl⟩ := ha
    rw [Bool.and_eq_false_imp.mpr hw, Bool.or_false, decide_eq_false (by omega)]
  rw [State.spStoreEff, State.guarded_passes _ hp (absurd · Bool.false_ne_true), spProbe_passes ha]
  dsimp only
  rw [spLocs_isEmpty, hroom]
  by_cases h0 : s.teamOnly (s.active f.g) = 0
  · rw [if_pos (decide_eq_true h0), if_pos h0]
    rfl
  · rw [if_neg (by simpa using h0), if_neg h0, if_neg Bool.false_ne_true]
    simp only [spLocs, List.map_map, List.foldl_map]
    rfl

/-- sts and stc, R248: the counts, and what the lanes store. -/
theorem spStore_completes {window : Bool}
    (hp : Passes s f.g ((f.t.toNat, sizeRegs f.sz) :: offRegs f.off) (addrReads f.base f.off (s.active f.g))) :
    let lanes := s.eas f.base f.off f.disp.toInt (s.teamOnly (s.active f.g))
    SpAccesses s window .write f.sz.bytes lanes tid off → (f.ord.isRel = true → s.relWaits f.sc.code = false) →
    let u := if s.teamOnly (s.active f.g) = 0 then s else released s f.ord f.sc
    let v := spStores tid off (fun l => s.dataOf f.t.toNat (sizeRegs f.sz) f.sz.bytes l) u lanes
    ∃ t, s.conclude (s.spStoreEff window f) = .next t ∧ (GoesOn s t ∧ SameRegs s t ∧ OnlyCounts s t ∧ t.mem = u.mem) ∧
      t.ca.loads = s.ca.loads ∧ t.ca.stores = (if s.teamOnly (s.active f.g) = 0 then s.ca.stores else u.ca.stores + 1) ∧
      beyondTeams t = beyondTeams u ∧ t.teams = v.teams ∧ t.subs = v.subs := by
  intro lanes ha hw u v
  refine ⟨_, spStoreEff_passes hp ha hw, ?_⟩
  by_cases h0 : s.teamOnly (s.active f.g) = 0
  · obtain ⟨h1, h2, h3⟩ := (Counts.refl s).retires
    have hu : u = s := if_pos h0
    have hv : v = u := by
      have hl : lanes = [] := by simp only [lanes, State.eas, maskList_eq_nil.mpr h0, List.map_nil]
      simp only [v, hl, spStores, List.foldl_nil]
    rw [if_pos h0, if_pos h0, hv, hu, ca_retire]
    exact ⟨⟨h1, h2, h3, rfl⟩, advance_loads _, advance_stores _, rfl, rfl, rfl⟩
  · obtain ⟨hc, hl, -, -⟩ := released_counts s f.ord f.sc
    have hu : released s f.ord f.sc = u := (if_neg h0).symm
    have hs : InScratch u v := spStores_inScratch ..
    rw [hu] at hc hl
    rw [if_neg h0, if_neg h0, hu]
    exact stored_retires hc hl hs (.acquired _ v f.sc.code)

end

end Sys2Proof.Machine
end

section
/-! atoms (R251), and what lds, ldc, sts, stc and atoms complete. -/

namespace Sys2Proof.Machine

open Sys2Proof.Safety

/-! ### The lanes of atoms in order -/

section
variable (s : State) (td o : Nat) (aop : Aop) (wide : Bool) (v c : Nat)

theorem spRmw_inScratch : InScratch s (s.spRmw td o aop wide v c).1 := by
  have hi := InScratch.spInject s td o (if wide then 8 else 4)
  unfold State.spRmw
  dsimp only
  generalize (if wide = true then 8 else 4) = n at hi
  split
  · exact hi
  · exact hi.trans (.spStore ..)

variable {s td o}

/-- A lane that meets no mark and no injection puts the new value in the place of the old. -/
theorem spRmw_clean {n : Nat} (hn : (if wide then 8 else 4) = n) (hi : NoInjection s) (hp : (s.spRead td o n).2 = false) :
    let x := natOfBytes (mgetList 0 (s.team td).sp o n)
    s.spRmw td o aop wide v c = (s.spStore td o (bytesOfNat n (aopNew aop wide x v c)) false, x, false) := by
  unfold State.spRmw
  dsimp only
  rw [hn, spInject_noInjection hi, hp]
  rfl

end

section
variable (aop : Aop) (wide : Bool) (tid off v c : Nat → Nat)

/-- The lanes one after another: the state after, and each one's old value with its mark. -/
def spRmws (acc : State × List (Nat × Nat × Bool)) (lanes : List Lane) : State × List (Nat × Nat × Bool) :=
  lanes.foldl (fun acc l =>
    let r := acc.1.spRmw (tid l.1) (off l.1) aop wide (v l.1) (c l.1)
    (r.1, acc.2 ++ [(l.1, r.2.1, r.2.2)])) acc

theorem spRmws_inScratch (lanes : List Lane) (acc : State × List (Nat × Nat × Bool)) :
    InScratch acc.1 (spRmws aop wide tid off v c acc lanes).1 := by
  induction lanes generalizing acc with
  | nil => exact .refl _
  | cons l lanes ih => exact (spRmw_inScratch acc.1 (tid l.1) (off l.1) aop wide (v l.1) (c l.1)).trans (ih (_, _))

/-- The places of two lanes do not meet. -/
def Apart (n l m : Nat) : Prop := tid l = tid m → off l + n ≤ off m ∨ off m + n ≤ off l

/-- What a lane finds at its place, and what it leaves there. -/
def spOld (s : State) (n l : Nat) : Nat := natOfBytes (mgetList 0 (s.team (tid l)).sp (off l) n)
def spNew (s : State) (n l : Nat) : List Byte := bytesOfNat n (aopNew aop wide (spOld tid off s n l) (v l) (c l))

theorem bytesOfNat_length (n x : Nat) : (bytesOfNat n x).length = n := by simp [bytesOfNat]

variable {tid off} in
/-- A store leaves what stands apart from it. -/
theorem spRead_apart {s : State} {n l m : Nat} (h : Apart tid off n l m) {bs : List Byte} (hb : bs.length = n) (p : Bool) :
    (s.spStore (tid l) (off l) bs p).spRead (tid m) (off m) n = s.spRead (tid m) (off m) n := by
  have hk : ∀ k, k < n → ¬ (tid m = tid l ∧ off l ≤ off m + k ∧ off m + k < off l + bs.length) := fun k hk hx => by
    have := h hx.1.symm
    omega
  have h1 : ∀ k ∈ List.range n, mget 0 ((s.spStore (tid l) (off l) bs p).team (tid m)).sp (off m + k) = mget 0 (s.team (tid m)).sp (off m + k) :=
    fun k hm => by rw [spStore_byte, if_neg (hk k (List.mem_range.mp hm))]
  have h2 : ∀ k ∈ List.range n, mget false ((s.spStore (tid l) (off l) bs p).team (tid m)).spPois (off m + k) =
      mget false (s.team (tid m)).spPois (off m + k) :=
    fun k hm => by rw [spStore_mark, if_neg (hk k (List.mem_range.mp hm))]
  refine Prod.ext (List.map_congr_left h1) ?_
  have h3 := congrArg (List.any · id) (List.map_congr_left h2)
  rw [List.any_map, List.any_map] at h3
  exact h3

/-- The place behind a store of its bytes. -/
theorem mgetList_spStore (s : State) (td o : Nat) (bs : List Byte) (p : Bool) :
    mgetList 0 ((s.spStore td o bs p).team td).sp o bs.length = bs := by
  refine List.ext_getElem (by simp [mgetList]) fun k h1 h2 => ?_
  simp only [mgetList, List.getElem_map, List.getElem_range]
  rw [spStore_byte, if_pos (by omega), Nat.add_sub_cancel_left, List.getD_eq_getElem _ _ h2]

/-- Lanes that stand apart, meet no mark and no injection: each finds its old value and leaves its new one, and no other byte or mark
changes. -/
theorem spRmws_clean {n : Nat} (hn : (if wide then 8 else 4) = n) {lanes : List Lane} {acc : State × List (Nat × Nat × Bool)}
    (hd : lanes.Pairwise fun l m => Apart tid off n l.1 m.1) (hi : NoInjection acc.1)
    (hp : ∀ l ∈ lanes, (acc.1.spRead (tid l.1) (off l.1) n).2 = false) : let r := spRmws aop wide tid off v c acc lanes
    r.2 = acc.2 ++ lanes.map (fun l => (l.1, spOld tid off acc.1 n l.1, false)) ∧
    (∀ l ∈ lanes, mgetList 0 (r.1.team (tid l.1)).sp (off l.1) n = spNew aop wide tid off v c acc.1 n l.1) ∧
    ∀ x a, (∀ l ∈ lanes, ¬ (tid l.1 = x ∧ off l.1 ≤ a ∧ a < off l.1 + n)) →
      mget 0 (r.1.team x).sp a = mget 0 (acc.1.team x).sp a ∧ mget false (r.1.team x).spPois a = mget false (acc.1.team x).spPois a := by
  induction lanes generalizing acc with
  | nil => exact ⟨(List.append_nil _).symm, nofun, fun _ _ _ => ⟨rfl, rfl⟩⟩
  | cons l lanes ih =>
    obtain ⟨hl, hd⟩ := List.pairwise_cons.mp hd
    have hb : (spNew aop wide tid off v c acc.1 n l.1).length = n := bytesOfNat_length ..
    have hs := spRmw_clean aop wide (v l.1) (c l.1) hn hi (hp l List.mem_cons_self)
    obtain ⟨w, hw⟩ : ∃ w, w = acc.1.spStore (tid l.1) (off l.1) (spNew aop wide tid off v c acc.1 n l.1) false := ⟨_, rfl⟩
    have hr : spRmws aop wide tid off v c acc (l :: lanes) =
        spRmws aop wide tid off v c (w, acc.2 ++ [(l.1, spOld tid off acc.1 n l.1, false)]) lanes := by
      rw [spRmws, List.foldl_cons, hs, hw]
      rfl
    have hwi : NoInjection w := hw ▸ hi
    have hread : ∀ m ∈ lanes, w.spRead (tid m.1) (off m.1) n = acc.1.spRead (tid m.1) (off m.1) n := fun m hm =>
      hw ▸ spRead_apart (hl m hm) hb false
    have hold : ∀ m ∈ lanes, spOld tid off w n m.1 = spOld tid off acc.1 n m.1 := fun m hm =>
      congrArg (fun r : List Byte × Bool => natOfBytes r.1) (hread m hm)
    have hput : mgetList 0 (w.team (tid l.1)).sp (off l.1) n = spNew aop wide tid off v c acc.1 n l.1 := by
      have h := mgetList_spStore acc.1 (tid l.1) (off l.1) (spNew aop wide tid off v c acc.1 n l.1) false
      rwa [hb, ← hw] at h
    have hframe : ∀ x a, ¬ (tid l.1 = x ∧ off l.1 ≤ a ∧ a < off l.1 + n) →
        mget 0 (w.team x).sp a = mget 0 (acc.1.team x).sp a ∧ mget false (w.team x).spPois a = mget false (acc.1.team x).spPois a := by
      intro x a ha
      rw [eq_comm (a := tid l.1)] at ha
      rw [hw, spStore_byte, spStore_mark, hb, if_neg ha, if_neg ha]
      exact ⟨rfl, rfl⟩
    clear hw
    obtain ⟨h1, h2, h3⟩ := ih (acc := (w, acc.2 ++ [(l.1, spOld tid off acc.1 n l.1, false)])) hd hwi fun m hm =>
      (congrArg Prod.snd (hread m hm)).trans (hp m (List.mem_cons_of_mem _ hm))
    dsimp only at h1 h2 h3 ⊢
    rw [hr]
    refine ⟨?_, fun m hm => ?_, fun x a ha => ?_⟩
    · rw [h1, List.map_congr_left fun m hm => by rw [hold m hm], List.append_assoc]
      rfl
    · rcases List.mem_cons.mp hm with rfl | hm
      · refine (List.map_congr_left fun k hk => (h3 _ _ fun j hj hx => ?_).1).trans hput
        have hk := List.mem_range.mp hk
        have ha := hl j hj hx.1.symm
        omega
      · rw [h2 m hm, spNew, spNew, hold m hm]
    · obtain ⟨h4, h5⟩ := h3 x a fun m hm => ha m (List.mem_cons_of_mem _ hm)
      obtain ⟨h6, h7⟩ := hframe x a (ha l List.mem_cons_self)
      exact ⟨h4.trans h6, h5.trans h7⟩

end

/-! ### atoms -/

/-- The operands of atoms in a lane. -/
def atomsVal (s : State) (f : AF) (l : Nat) : Nat := laneVal s.cg (f.sz == .b64) f.opnd.toNat l
def atomsCmp (s : State) (f : AF) (l : Nat) : Nat := if f.aop == .cas then laneVal s.cg (f.sz == .b64) f.cmp.toNat l else 0

/-- The lanes of atoms behind the release of its order. -/
def atomsDone (s : State) (f : AF) (tid off : Nat → Nat) : State × List (Nat × Nat × Bool) :=
  spRmws f.aop (f.sz == .b64) tid off (atomsVal s f) (atomsCmp s f) (released s f.ord f.sc, [])
    (s.eas f.base f.off 0 (s.teamOnly (s.active f.g)))

/-- An atomic is of four bytes, or of eight. -/
theorem atoms_size {f : AF} (h : (Instr.atoms f).wf = true) : (if (f.sz == .b64) = true then 8 else 4) = f.sz.bytes := by
  have hs : (f.sz == .b32 || f.sz == .b64) = true := by
    simp only [Instr.wf, AF.wfCommon, Bool.and_eq_true] at h
    obtain ⟨⟨⟨⟨⟨-, h⟩, -⟩, -⟩, -⟩, -⟩ := h
    exact h
  rcases Bool.or_eq_true_iff.mp hs with h | h <;> rw [beq_iff_eq.mp h] <;> rfl

theorem atoms_bytes {f : AF} (h : (Instr.atoms f).wf = true) : f.sz.bytes = 8 ∨ f.sz.bytes = 4 := by
  rw [← atoms_size h]
  split
  · exact .inl rfl
  · exact .inr rfl

/-- In the window an offset keeps its address's alignment, R244. -/
theorem spLoc_window_off {s : State} {a : Word} {t o : Nat} (h : s.spLoc true a = .at t o) : o = a.toNat % 2 ^ 18 := by
  unfold State.spLoc at h
  dsimp only at h
  simp only [Bool.not_true, Bool.false_eq_true, if_false] at h
  split at h
  · cases h
  · split at h
    · injection h with h1 h2
      exact h2.symm
    · cases h

/-- Lanes at distinct places stand apart, for places are aligned. -/
theorem spAccesses_apart {s : State} {f : AF} (hwf : (Instr.atoms f).wf = true) {m : BitVec 32} {tid off : Nat → Nat}
    (ha : SpAccesses s true .rmw f.sz.bytes (s.eas f.base f.off 0 m) tid off)
    (hd : ∀ l ∈ s.eas f.base f.off 0 m, ∀ k ∈ s.eas f.base f.off 0 m, l.1 ≠ k.1 → (tid l.1, off l.1) ≠ (tid k.1, off k.1)) :
    (s.eas f.base f.off 0 m).Pairwise fun l k => Apart tid off f.sz.bytes l.1 k.1 := by
  obtain ⟨hl, -⟩ := ha
  have hsorted : (s.eas f.base f.off 0 m).Pairwise fun l k => l.1 < k.1 := List.pairwise_map.mpr (maskList_sorted m)
  have hal : ∀ l ∈ s.eas f.base f.off 0 m, off l.1 % f.sz.bytes = 0 := fun l hm => by
    obtain ⟨h1, h2⟩ := hl l hm
    have h3 := spLoc_window_off h2
    rcases atoms_bytes hwf with h | h <;> rw [h] at h1 ⊢ <;> omega
  refine hsorted.imp_of_mem fun {l k} hm hk hlt htid => ?_
  have h1 := hal l hm
  have h2 := hal k hk
  have hne : off l.1 ≠ off k.1 := fun h => hd l hm k hk (Nat.ne_of_lt hlt) (Prod.ext htid h)
  rcases atoms_bytes hwf with h | h <;> rw [h] at h1 h2 ⊢ <;> omega

/-- The registers that atoms names, and those that it reads. -/
abbrev atomsRegs (f : AF) : List (Nat × Nat) :=
  let n := if f.sz == .b64 then 2 else 1
  offRegs f.off ++ [(f.opnd.toNat, n)] ++ (if f.aop == .cas then [(f.cmp.toNat, n)] else []) ++ (if f.t == 0xFF then [] else [(f.t.toNat, n)])
abbrev atomsReads (f : AF) (act : BitVec 32) : List Rd :=
  let n := if f.sz == .b64 then 2 else 1
  addrReads f.base f.off act ++ [Rd.v f.opnd.toNat n act] ++ (if f.aop == .cas then [Rd.v f.cmp.toNat n act] else [])

section
variable {s : State} {f : AF} {tid off : Nat → Nat} (hp : Passes s f.g (atomsRegs f) (atomsReads f (s.active f.g)))
  (ha : SpAccesses s true .rmw f.sz.bytes (s.eas f.base f.off 0 (s.teamOnly (s.active f.g))) tid off)
  (ht : atomTrap f.aop f.sz f.sc.code [] = none)
include hp ha ht

/-- Without a team lane atoms does nothing. -/
theorem atomsEff_empty (h0 : s.teamOnly (s.active f.g) = 0) : s.conclude (s.atomsEff f) = .next s.retire := by
  unfold State.atomsEff
  dsimp only
  rw [State.guarded_passes (reads := atomsReads f) _ hp (absurd · Bool.false_ne_true), spProbe_passes ha, ht]
  dsimp only
  rw [spLocs_isEmpty, if_pos (decide_eq_true h0)]
  rfl

/-- Otherwise it releases, performs its lanes, acquires, and is counted. -/
theorem atomsEff_passes (h0 : s.teamOnly (s.active f.g) ≠ 0) (hw : f.ord.isRel = true → s.relWaits f.sc.code = false) :
    let r := atomsDone s f tid off
    let w := if f.ord.isAcq then r.1.acquireAct f.sc.code else r.1
    s.conclude (s.atomsEff f) =
      .next (if f.t == 0xFF then w.pushStore else w.pushLoad (oldWrites f.t.toNat (f.sz == .b64) r.2)).retire := by
  intro r w
  have hl : (f.t != 0xFF && decide (63 ≤ s.ca.loads.length)) = false := by
    obtain ⟨-, -, hl, -⟩ := ha
    rw [decide_eq_false (by omega), Bool.and_false]
  have hst : (f.t == 0xFF && decide (63 ≤ s.ca.stores)) = false := by
    obtain ⟨-, -, -, hst⟩ := ha
    rw [decide_eq_false (by omega), Bool.and_false]
  have hr : (f.ord.isRel && s.relWaits f.sc.code) = false := Bool.and_eq_false_imp.mpr hw
  unfold State.atomsEff
  dsimp only
  rw [State.guarded_passes (reads := atomsReads f) _ hp (absurd · Bool.false_ne_true), spProbe_passes ha, ht]
  dsimp only
  rw [spLocs_isEmpty, hl, hst, hr, if_neg (by simpa using h0), if_neg Bool.false_ne_true, if_neg Bool.false_ne_true, if_neg Bool.false_ne_true]
  simp only [spLocs, List.map_map, List.foldl_map]
  rfl

/-- atoms, R251: the counts, and what its lanes leave in the scratchpads. -/
theorem atoms_completes (h0 : s.teamOnly (s.active f.g) ≠ 0) (hw : f.ord.isRel = true → s.relWaits f.sc.code = false) :
    let u := released s f.ord f.sc
    let r := atomsDone s f tid off
    ∃ t, s.conclude (s.atomsEff f) = .next t ∧ (GoesOn s t ∧ SameRegs s t ∧ OnlyCounts s t ∧ t.mem = u.mem) ∧
      t.ca.loads = s.ca.loads ++ (if f.t = 0xFF then [] else [oldWrites f.t.toNat (f.sz == .b64) r.2]) ∧
      t.ca.stores = u.ca.stores + (if f.t = 0xFF then 1 else 0) ∧ beyondTeams t = beyondTeams u ∧ t.teams = r.1.teams := by
  intro u r
  obtain ⟨hc, hl, -, -⟩ := released_counts s f.ord f.sc
  have hs : InScratch u r.1 := spRmws_inScratch f.aop (f.sz == .b64) tid off (atomsVal s f) (atomsCmp s f) _ (u, [])
  have hk := KeepsWaiting.acquired f.ord.isAcq r.1 f.sc.code
  refine ⟨_, atomsEff_passes hp ha ht h0 hw, ?_⟩
  by_cases hf : f.t = 0xFF
  · obtain ⟨h1, h2, h3, h4, h5, -⟩ := stored_retires hc hl hs hk
    rw [if_pos (beq_iff_eq.mpr hf), if_pos hf, if_pos hf, List.append_nil]
    exact ⟨h1, h2, h3, h4, h5⟩
  · obtain ⟨⟨h1, h2, h3, h4⟩, h5, h6, h7⟩ := loaded_retires (hc.trans hs.counts) (hs.ca ▸ hl) hk (oldWrites f.t.toNat (f.sz == .b64) r.2)
    have hb := congrArg (fun x : State => { x with teams := [], subs := [] }) h5
    have hteams := congrArg State.teams h5
    rw [outside_teams, outside_teams] at hteams
    rw [if_neg (by simpa using hf), if_neg hf, if_neg hf]
    exact ⟨⟨h1, h2, h3, h4.trans hs.mem⟩, h7, by rw [h6, hs.ca]; rfl, Eq.trans hb hs.beyond, hteams⟩

end

/-! ### The statement -/

/-- Settles O36: a load reads behind the errors that its lanes meet; stores and atomics are folds over their lanes, of which the last to name a
byte leaves it, and of which those that stand apart do not meet. -/
theorem scratchpadAccessesComplete : Obligations.ScratchpadAccessesComplete := by
  unfold Obligations.ScratchpadAccessesComplete
  intro regs same load store
  have hload : ∀ (mk : MF → Instr) (window : Bool), (∀ f s, exec (mk f) s = s.conclude (s.spLoadEff window f)) → load mk window := by
    intro mk window hmk s f tid off hp ha hw lanes u
    obtain ⟨t, h1, h2, h3, h4, h5⟩ := spLoad_completes hp ha hw
    obtain ⟨h6, h7⟩ := spFound_lane u f (s.active f.g) tid off
    exact ⟨t, spFound u f (s.active f.g) tid off, (hmk f s).trans h1, h2, h3, h4, h5, h6, h7⟩
  have hstore : ∀ (mk : MF → Instr) (window : Bool), (∀ f s, exec (mk f) s = s.conclude (s.spStoreEff window f)) → store mk window := by
    intro mk window hmk s f tid off hp lanes ha hw u data
    obtain ⟨t, h1, h2, h3, h4, h5, h6, h7⟩ := spStore_completes hp ha hw
    have hsp := (spStores_inScratch tid off data lanes u).sp
    refine ⟨t, (hmk f s).trans h1, h2, h3, h4, ?_, h7, fun x => ?_⟩
    · rw [outside_teams, outside_subs]
      exact outside_of_beyondTeams h5
    · rw [team_of_teams h6]
      obtain ⟨h8, h9⟩ := spStores_stored tid off data (fun l => dataOf_length s f.t.toNat l f.sz) lanes u x
      exact ⟨hsp x, h8, h9⟩
  refine ⟨hload _ _ fun _ _ => rfl, hload _ _ fun _ _ => rfl, hstore _ _ fun _ _ => rfl, hstore _ _ fun _ _ => rfl,
    fun s tid off n h => spInject_noInjection h tid off n, ?_⟩
  intro s f tid off hwf n cas act hp lanes ha ht
  have hp' : Passes s f.g (atomsRegs f) (atomsReads f (s.active f.g)) := by simpa only [atomsRegs, atomsReads, beq_iff_eq] using hp
  refine ⟨fun h0 => atomsEff_empty hp' ha ht h0, fun h0 hw => ?_⟩
  intro u get old
  obtain ⟨t, h1, h2, h3, h4, h5, h6⟩ := atoms_completes hp' ha ht h0 hw
  refine ⟨t, h1, h2, ?_, h4, ?_, fun hd hi hm => ?_⟩
  · rw [h3, List.length_append]
    split <;> rfl
  · rw [outside_teams, outside_subs]
    exact outside_of_beyondTeams h5
  · obtain ⟨h7, h8, h9⟩ := spRmws_clean f.aop (f.sz == .b64) tid off (atomsVal s f) (atomsCmp s f) (acc := (u, [])) (atoms_size hwf)
      (spAccesses_apart hwf ha hd) hi hm
    have hsp := (spRmws_inScratch f.aop (f.sz == .b64) tid off (atomsVal s f) (atomsCmp s f) lanes (u, [])).sp
    refine ⟨?_, fun l hl => ?_, fun x => ?_⟩
    · rw [h3, atomsDone, h7]
      rfl
    · rw [team_of_teams h6]
      refine (h8 l hl).trans ?_
      simp only [spNew, atomsVal, atomsCmp, beq_iff_eq]
      rfl
    · rw [team_of_teams h6]
      exact ⟨hsp x, h9 x⟩

end Sys2Proof.Machine
end
